-- ==== Sys2Proof/Word.lean ====
section
/-!
DEFINITION. Sys2Proof/Word.lean: the word types of the Lamgeind DN16 model and the sparse map type that every
sparsely filled storage of the State uses.
-/

namespace Sys2Proof

/-- One byte (R5). -/
abbrev Byte := BitVec 8

/-- A 64-bit scalar register value (R108). -/
abbrev Word := BitVec 64

/-- A 32-bit lane of a vector register or of a queue entry (R175, R176). -/
abbrev Lane := BitVec 32

/-- Sparse contents by key. A memory keeps one canonical form: keys strictly rising, and no entry equal to what an unlisted
key reads as (Sys2Proof/Machine/Map.lean: mwf). A map of records keeps its keys rising, and may list a record at its reset
value. -/
abbrev SMap (α : Type) := List (Nat × α)

end Sys2Proof
end

