-- ==== Sys2Proof/Config.lean ====
section
/-!
DEFINITION. Sys2Proof/Config.lean: the free values of the model. Nothing constrains them, so a statement proved of
the model holds whatever they are (log 3).
-/

namespace Sys2Proof.Config

/-- A value the spec leaves open, taken by a counter of State (State.freeCtr): which of the admissible steps an
abstract machine takes next (R52, R54), how long a base die takes to serve a request (R355), how long the image
loader or a module link takes. -/
opaque freeNat : Nat → Nat

/-- A byte the spec leaves open, taken by a counter: the lantern's signature under a private key that is outside
the module's description (R407). -/
opaque freeByte : Nat → Byte

/-- Whether a signature over the given bytes verifies under the fused key of the given number (R406). The keys are
written in fuses at provisioning, so which signatures verify belongs to the part and not to the spec. -/
opaque signatureValid : Nat → List Byte → Bool

/-- TRAP_STATUS of a block head that names a group its stream does not belong to: R102 gives cause 0x0E, and R144 names
no kind for it. Taken by the group condition register's value. -/
opaque groupHeadStatus : Nat → Nat

/-- The term bundles that Roslor writes for a row at levels 1 to 3 (R280), where the compiler may choose, as words. -/
opaque roslorWords : Nat → Nat → List Nat

end Sys2Proof.Config
end

