-- ==== Sys2Proof/Syntax.lean ====
section
/-!
DEFINITION. Sys2Proof/Syntax.lean: the instruction set as syntax. Instr has one constructor for every row of
spec/opcode_table.json: the words of the six engines and the wick core (R66 to R77), and the machine events, which have
no word.
-/

namespace Sys2Proof

/-- The engines of a core with the numbers of R4, and the wick core. -/
inductive Eng where
  | sq | va | ve | we | me | xe | wick
  deriving DecidableEq, Repr

/-- Rounding modes (R38). -/
inductive Rm where
  | rne | rz | ru | rd
  deriving DecidableEq, Repr

/-- Scopes of release and acquire (R56). -/
inductive Scope where
  | stream | core | die | device | system
  deriving DecidableEq, Repr

/-- Element formats (R30, R188, R236). -/
inductive Fmt where
  | f32 | bf16 | f16 | e4m3 | e5m2 | e2m1 | pw2 | i8 | u8 | i4 | u4 | i16 | u16 | i32 | u32 | i64
  deriving DecidableEq, Repr

/-- Token partner, token bits and guard of a 64-bit word (R66). guard is 0 to 95, or 126 for always. -/
structure Head where
  tp : Nat
  pop : Bool
  push : Bool
  guard : Nat
  gneg : Bool
  deriving DecidableEq, Repr

/-- A 9-bit register operand that may name a scalar register or, in VA, a queue (R69, R211): in a source, q pops and
peek peeks; in a destination, q pushes. -/
inductive Opnd where
  | x (n : Nat)
  | q (n : Nat)
  | peek (n : Nat)
  deriving DecidableEq, Repr

/-- A vector source (R70, R229). -/
inductive VSrc where
  | v (n : Nat)
  | rot (n : Nat)
  | pop (n : Nat)
  | peek (n : Nat)
  deriving DecidableEq, Repr

/-- A vector destination (R70, R229). -/
inductive VDst where
  | v (n : Nat)
  | rot (n : Nat)
  | push (n : Nat)
  deriving DecidableEq, Repr

/-- A stream-register operand that may be rotated (R211). -/
structure StOpnd where
  n : Nat
  rot : Bool
  deriving DecidableEq, Repr

/-- Acquire, release and scope of a synchronising instruction (R56, R57). -/
structure Sync where
  acq : Bool
  rel : Bool
  scope : Scope
  deriving DecidableEq, Repr

/-- Scalar compare conditions (R118). -/
inductive Cond where
  | eq | ne | lt | ge | ltu | geu
  deriving DecidableEq, Repr

/-- Vector compare conditions (R234); un and ord belong to VFCMP alone. -/
inductive VCond where
  | eq | ne | lt | le | gt | ge | un | ord
  deriving DecidableEq, Repr

/-- Destination and kind of a vector compare (R234). -/
inductive CmpDst where
  | mask (d : VDst)
  | any (p : Nat)
  | all (p : Nat)
  deriving DecidableEq, Repr

/-- The format and modifier fields of a V-form word (R68, R71, R72). -/
structure VFmt where
  esz : Nat
  fmt : Nat
  amod : Nat
  bmod : Nat
  sat : Bool
  deriving DecidableEq, Repr

/-- The fields of a block head (R114). -/
structure HeadSpec where
  sem : Nat
  scnt : Nat
  tcnt : Nat
  qin : Nat
  qout : Nat
  qn : Nat
  greg : Nat
  sync : Sync
  deriving DecidableEq, Repr

/-- The control fields of a K-form command (R16, R57, R68): the wait and signal semaphores when M[3] and M[2] enable
them. -/
structure KCtl where
  wait : Option Nat
  sig : Option Nat
  sync : Sync
  deriving DecidableEq, Repr

/-- Token fields of a weight-code bundle (R73). -/
structure WHead where
  tp : Nat
  pop : Bool
  push : Bool
  deriving DecidableEq, Repr

/-- A valid slot of a bundle: its 5-bit offset and its 8-bit code (R73). -/
structure WSlot where
  off : Nat
  code : Nat
  deriving DecidableEq, Repr

/-- The sixteen slots of a bundle; none is a null slot (R73). -/
abbrev WSlots := List (Option WSlot)

/-- Mode of a term bundle (R73). -/
inductive WMode where
  | pw2 | i8
  deriving DecidableEq, Repr

/-- Flush operation of WROW (R262). -/
inductive WFlush where
  | none | add | replace
  deriving DecidableEq, Repr

/-- Every instruction and every machine event of spec/opcode_table.json. -/
inductive Instr where
  -- common group (R110 to R121)
  | nop (h : Head)
  | endS (h : Head)
  | rdzv (h : Head) (n : Nat)
  | br (h : Head) (exit : Bool) (off : Int)
  | brc (h : Head) (z exit : Bool) (p : Nat) (off : Int)
  | call (h : Head) (a : Nat) (off : Int)
  | callg (h : Head) (d a : Nat) (imm : Int)
  | jr (h : Head) (a : Nat)
  | loop (h : Head) (a off : Nat)
  | loopi (h : Head) (n off : Nat)
  | looph (h : Head) (a off w : Nat)
  | trap (h : Head) (code : Nat)
  | csrr (h : Head) (d : Opnd) (num : Nat)
  | csrw (h : Head) (a : Opnd) (num : Nat)
  | add (h : Head) (d a b : Opnd)
  | sub (h : Head) (d a b : Opnd)
  | and (h : Head) (d a b : Opnd)
  | or (h : Head) (d a b : Opnd)
  | xor (h : Head) (d a b : Opnd)
  | andn (h : Head) (d a b : Opnd)
  | shl (h : Head) (d a b : Opnd)
  | shr (h : Head) (d a b : Opnd)
  | sra (h : Head) (d a b : Opnd)
  | mul (h : Head) (d a b : Opnd)
  | mulh (h : Head) (d a b : Opnd)
  | mulhu (h : Head) (d a b : Opnd)
  | min (h : Head) (d a b : Opnd)
  | max (h : Head) (d a b : Opnd)
  | minu (h : Head) (d a b : Opnd)
  | maxu (h : Head) (d a b : Opnd)
  | slt (h : Head) (d a b : Opnd)
  | sltu (h : Head) (d a b : Opnd)
  | clz (h : Head) (d a : Opnd)
  | popc (h : Head) (d a : Opnd)
  | sel (h : Head) (d a b : Opnd) (p : Nat)
  | addi (h : Head) (d a : Opnd) (imm : Int)
  | andi (h : Head) (d a : Opnd) (imm : Int)
  | ori (h : Head) (d a : Opnd) (imm : Int)
  | xori (h : Head) (d a : Opnd) (imm : Int)
  | shli (h : Head) (d a : Opnd) (sh : Nat)
  | shri (h : Head) (d a : Opnd) (sh : Nat)
  | srai (h : Head) (d a : Opnd) (sh : Nat)
  | slti (h : Head) (d a : Opnd) (imm : Int)
  | sltiu (h : Head) (d a : Opnd) (imm : Int)
  | lih (h : Head) (d : Opnd) (imm : Int)
  | cmp (h : Head) (c : Cond) (p : Nat) (a b : Opnd)
  | cmpi (h : Head) (c : Cond) (p : Nat) (a : Opnd) (imm : Int)
  | pand (h : Head) (d a b : Nat)
  | por (h : Head) (d a b : Nat)
  | pxor (h : Head) (d a b : Nat)
  | pandn (h : Head) (d a b : Nat)
  | pmov (h : Head) (d a : Nat)
  | pseti (h : Head) (d : Nat) (v : Bool)
  | ld (h : Head) (d a : Opnd) (imm : Int) (size : Nat) (zext : Bool)
  | st (h : Head) (d : Nat) (a : Opnd) (imm : Int) (size : Nat)
  | ldg (h : Head) (d a : Nat) (imm : Int) (size : Nat) (zext : Bool)
  | stg (h : Head) (d a : Nat) (imm : Int) (size : Nat)
  | blkh (h : Head) (s : HeadSpec)
  -- sequencer (R122 to R130)
  | ssig (h : Head) (sem amount : Nat) (s : Sync)
  | sset (h : Head) (sem a : Nat)
  | sget (h : Head) (d sem : Nat)
  | mark (h : Head) (j mask : Nat)
  | mjoin (h : Head) (j : Nat)
  | mpost (h : Head) (d a ch : Nat)
  | gjoin (h : Head) (ch : Nat)
  | gleave (h : Head) (ch : Nat)
  | garv (h : Head) (d ch : Nat) (s : Sync)
  | gbar (h : Head) (d ch : Nat) (s : Sync)
  | ckpt (h : Head) (a n : Nat)
  | planeQuery (h : Head) (d a : Nat)
  | planeStage (h : Head) (d a : Nat)
  | planeDrop (h : Head) (d a : Nat)
  -- system range (R131 to R136)
  | rft (h : Head) (skip : Bool)
  | resume (h : Head) (a : Nat)
  | ctxsv (h : Head) (a b : Nat)
  | ctxld (h : Head) (d a b : Nat)
  | tlbiDataAll (h : Head) (a : Nat) (die : Bool)
  | tlbiDataPage (h : Head) (a : Nat) (die : Bool)
  | tlbiInstrAll (h : Head) (a : Nat) (die : Bool)
  | tlbiInstrPage (h : Head) (a : Nat) (die : Bool)
  | keyopLoad (h : Head) (d a b : Nat)
  | keyopDestroy (h : Head) (d a b : Nat)
  | keyopQuery (h : Head) (d a b : Nat)
  | capw (h : Head) (ch : Nat) (staged : Bool) (a b : Nat)
  | tnset (h : Head) (staged : Bool) (a b : Nat)
  -- access half (R212)
  | sdef (h : Head) (d a : Nat) (imm : Int)
  | slvl (h : Head) (d a : Nat) (imm : Int)
  | sfib (h : Head) (a : StOpnd) (b lvl : Nat)
  | sint (h : Head) (d a b : Nat)
  | suni (h : Head) (d a b : Nat)
  | sskip (h : Head) (a : StOpnd) (b : Nat)
  | spos (h : Head) (d : Nat) (a : StOpnd) (side : Bool)
  | scrd (h : Head) (d : Nat) (a : StOpnd) (dim : Nat)
  | ldq (h : Head) (q : Nat) (a : StOpnd) (b : Nat) (p : Option Nat) (wid keep side : Bool)
  | ldqc (h : Head) (q : Nat) (a : StOpnd) (b : Nat) (p : Option Nat) (keep : Bool)
  | ldqa (h : Head) (q : Nat) (a : StOpnd) (b : Nat) (p : Option Nat) (keep side : Bool)
  | stq (h : Head) (d : StOpnd) (q : Nat) (peek : Bool) (b : Nat) (nar sat : Bool)
  | lls (h : Head) (a b c : Nat)
  | mrgb (h : Head) (q q2 : Nat) (int : Bool)
  | mrgi (h : Head) (a : StOpnd) (b : Nat)
  | mrge (h : Head) (b : Nat) (p : Option Nat)
  | bfxp (h : Head) (q a b bp : Nat)
  | bfxpSet (h : Head) (a bp : Nat)
  | loopt (h : Head) (a : StOpnd) (off k : Nat)
  | prf (h : Head) (a : StOpnd) (b : Nat)
  | srel (h : Head) (a : StOpnd)
  -- execute half (R231)
  | vfadd (h : Head) (d : VDst) (a b : VSrc) (rm : Option Rm) (f : VFmt)
  | vfsub (h : Head) (d : VDst) (a b : VSrc) (rm : Option Rm) (f : VFmt)
  | vfmul (h : Head) (d : VDst) (a b : VSrc) (rm : Option Rm) (f : VFmt)
  | vfma (h : Head) (d : VDst) (a b c : VSrc) (f : VFmt)
  | vfms (h : Head) (d : VDst) (a b c : VSrc) (f : VFmt)
  | vfnma (h : Head) (d : VDst) (a b c : VSrc) (f : VFmt)
  | vfmin (h : Head) (d : VDst) (a b : VSrc) (f : VFmt)
  | vfmax (h : Head) (d : VDst) (a b : VSrc) (f : VFmt)
  | vfcmp (h : Head) (d : CmpDst) (c : VCond) (a b : VSrc) (f : VFmt)
  | vlog2 (h : Head) (d : VDst) (a : VSrc) (f : VFmt)
  | vexp2 (h : Head) (d : VDst) (a : VSrc) (f : VFmt)
  | vrcp (h : Head) (d : VDst) (a : VSrc) (f : VFmt)
  | vrsq (h : Head) (d : VDst) (a : VSrc) (f : VFmt)
  | vcvt (h : Head) (d : VDst) (a : VSrc) (src : Fmt) (toInt : Bool) (rm : Option Rm) (f : VFmt)
  | vscl (h : Head) (d : VDst) (a b : VSrc) (rm : Option Rm) (f : VFmt)
  | vpks (h : Head) (d : VDst) (a : VSrc) (rm : Option Rm) (f : VFmt)
  | vadd (h : Head) (d : VDst) (a b : VSrc) (f : VFmt)
  | vsub (h : Head) (d : VDst) (a b : VSrc) (f : VFmt)
  | vmul (h : Head) (d : VDst) (a b : VSrc) (f : VFmt)
  | vmulh (h : Head) (d : VDst) (a b : VSrc) (f : VFmt)
  | vmad (h : Head) (d : VDst) (a b c : VSrc) (f : VFmt)
  | vand (h : Head) (d : VDst) (a b : VSrc) (f : VFmt)
  | vor (h : Head) (d : VDst) (a b : VSrc) (f : VFmt)
  | vxor (h : Head) (d : VDst) (a b : VSrc) (f : VFmt)
  | vshl (h : Head) (d : VDst) (a b : VSrc) (f : VFmt)
  | vshr (h : Head) (d : VDst) (a b : VSrc) (f : VFmt)
  | vsra (h : Head) (d : VDst) (a b : VSrc) (f : VFmt)
  | vmin (h : Head) (d : VDst) (a b : VSrc) (f : VFmt)
  | vmax (h : Head) (d : VDst) (a b : VSrc) (f : VFmt)
  | vadds (h : Head) (d : VDst) (a b : VSrc) (f : VFmt)
  | vsubs (h : Head) (d : VDst) (a b : VSrc) (f : VFmt)
  | vcmp (h : Head) (d : CmpDst) (c : VCond) (a b : VSrc) (f : VFmt)
  | vsel (h : Head) (d : VDst) (a b c : VSrc) (f : VFmt)
  | vmov (h : Head) (d : VDst) (a : VSrc) (f : VFmt)
  | vli (h : Head) (d : VDst) (imm esz : Nat)
  | vbcst (h : Head) (d : VDst) (a : VSrc) (k : Nat) (f : VFmt)
  | vbcstX (h : Head) (d : VDst) (a : Nat) (f : VFmt)
  | vperm (h : Head) (d : VDst) (a b : VSrc) (f : VFmt)
  | vrot (h : Head) (d : VDst) (a : VSrc) (k : Nat) (f : VFmt)
  | vlane (h : Head) (d : VDst) (a : Nat) (f : VFmt)
  | vhash (h : Head) (d : VDst) (a b : VSrc) (f : VFmt)
  | vradd (h : Head) (d : VDst) (a : VSrc) (f : VFmt)
  | vrmax (h : Head) (d : VDst) (a : VSrc) (min flt : Bool) (f : VFmt)
  | vrmaxi (h : Head) (d : VDst) (a b : VSrc) (p : Option Nat) (f : VFmt)
  | vrmini (h : Head) (d : VDst) (a b : VSrc) (p : Option Nat) (f : VFmt)
  | vrfadd (h : Head) (d : VDst) (a : VSrc) (rm : Option Rm) (f : VFmt)
  | vext (h : Head) (d : Nat) (a : VSrc) (k e : Nat) (f : VFmt)
  | vacrF32 (h : Head) (d : VDst) (a : Nat) (l : Int)
  | vacrRaw (h : Head) (d : VDst) (a : Nat) (l : Int)
  | vacwF32 (h : Head) (d : Nat) (a : VSrc) (l : Int)
  | vacwAdd (h : Head) (d : Nat) (a : VSrc) (l : Int)
  | vacwRaw (h : Head) (d : Nat) (a : VSrc) (l : Int)
  | loopq (h : Head) (q : Nat) (peek : Bool) (off k : Nat)
  | vqlen (h : Head) (p q n : Nat)
  | vqlenZero (h : Head) (p q : Nat)
  -- weight-code engine (R285)
  | wnop (h : WHead)
  | wt (h : WHead) (mode : WMode) (sh : Nat) (s : WSlots)
  | wg (h : WHead) (mode : WMode) (code sh : Nat) (s : WSlots)
  | wf (h : WHead) (acc : Bool) (k : Nat) (s : WSlots)
  | wtf (h : WHead) (mode : WMode) (sh : Nat) (s : WSlots)
  | wrow (h : WHead) (f : WFlush) (o : Bool) (en : Int)
  | wsegFull (h : WHead) (accbase accrows : Nat) (lacc : Int) (e4m3 : Bool) (frm : Rm)
  | wsegKeep (h : WHead)
  | whook (h : WHead) (n : Nat)
  | wret (h : WHead)
  | wjmp (h : WHead) (off : Int)
  | wjmpLink (h : WHead) (off : Int)
  | wjmpRet (h : WHead)
  | wend (h : WHead)
  | wwait (h : WHead) (sem scnt tcnt : Nat) (s : Option Sync)
  | wlink (h : WHead) (n : Nat)
  | wrdzv (h : WHead) (n : Nat)
  -- matrix engine (R384)
  | mtw (h : Head) (a b : Nat)
  | mtws (h : Head) (k : KCtl) (d b : Nat)
  | mgo (h : Head) (k : KCtl) (halt : Bool)
  | mdrn (h : Head) (k : KCtl) (d b : Nat)
  | mbyp (h : Head) (k : KCtl) (b : Nat)
  | mrqt (h : Head) (k : KCtl) (d b : Nat)
  | mzero (h : Head) (k : KCtl) (b : Nat)
  | midx (h : Head) (k : KCtl) (d b : Nat)
  | mnms (h : Head) (k : KCtl) (d b : Nat)
  | mrpr (h : Head) (k : KCtl) (b : Nat) (fault : Bool)
  | mrst (h : Head) (k : KCtl) (b : Nat) (halt : Bool)
  -- exchange engine (R334)
  | xcp (h : Head) (k : KCtl) (a b : Nat)
  | xcpg (h : Head) (k : KCtl) (a b : Nat)
  | xred (h : Head) (k : KCtl) (a b : Nat)
  | xexp (h : Head) (k : KCtl) (a b : Nat)
  | xarv (h : Head) (k : KCtl) (a b : Nat)
  | xstep (h : Head) (k : KCtl) (a : Nat)
  | xpln (h : Head) (k : KCtl) (a b : Nat)
  | xbrd (h : Head) (k : KCtl) (a b : Nat)
  | xalt (h : Head) (k : KCtl) (a b : Nat)
  | xrep (h : Head) (k : KCtl) (a b : Nat)
  | xdrp (h : Head) (k : KCtl) (a b : Nat)
  | xsigr (h : Head) (k : KCtl) (a b : Nat)
  | xkeyEnc (h : Head) (k : KCtl) (a b : Nat)
  | xkeyDec (h : Head) (k : KCtl) (a b : Nat)
  | xqryRing (h : Head) (k : KCtl) (b : Nat)
  | xqryPeek (h : Head) (k : KCtl) (a b : Nat)
  -- machine events: c a module-wide core, k a stream key 4·engine + slot, j a job slot, d a die, id a packet
  | instructionRetire (c k : Nat)
  | resultLands (c : Nat)
  | blockHeadSatisfied (c k : Nat)
  | rendezvousRelease (c j : Nat)
  | jobRetire (c j : Nat)
  | markerReachesHead (c k : Nat)
  | groupPhaseComplete (g : Nat)
  | blockWatchdogExpiry (c k : Nat)
  | agePromotion (c k : Nat)
  | ckptConditionsMet (c j : Nat)
  | loaderConsider (c : Nat)
  | jobLoadDone (c j : Nat)
  | stagedJobStart (c : Nat)
  | budgetOverrun (c j : Nat)
  | graceExpiry (c j : Nat)
  | programTrapStop (c j : Nat)
  | localFaultFreeze (c : Nat)
  | handlerTimeLimit (c : Nat)
  | pageWalkComplete (d dt page : Nat)
  | missQueueAdmit (c : Nat)
  | codeLineArrive (c line : Nat)
  | commandStart (c k : Nat)
  | commandComplete (c k i : Nat)
  | nestStepCommit (c : Nat)
  | flushGroupWrite (c : Nat)
  | wsegReadsComplete (c k : Nat)
  | llsGroupWrite (c : Nat)
  | llsStart (c : Nat)
  | portAccept (c : Nat)
  | outboundStamp (c : Nat)
  | requestTimeout (c i : Nat)
  | slotWindowSend (c k : Nat)
  | carouselPassage (p : Nat)
  | carouselWeCatch (c : Nat)
  | ilLoad (d : Nat)
  | ilUnload (d : Nat)
  | linkTransmitAccept (k : Nat)
  | linkReceive (k : Nat)
  -- events that a Turn or the host names, which no definition of the model builds
  | applyWrite (id : Nat)
  | applyReadRequest (id : Nat)
  | applyRemoteSignal (id : Nat)
  | applyReduce (id : Nat)
  | applyArrival (id : Nat)
  | applyPlaneRecord (id : Nat)
  | applyDescriptorPost (id : Nat)
  | readReplyArrive (id : Nat)
  | writeAckArrive (id : Nat)
  | signalReplyArrive (id : Nat)
  | planeAnswerArrive (id : Nat)
  | postAnswerArrive (id : Nat)
  | errorReplyArrive (id : Nat)
  | routerPromotion (r : Nat)
  | routerFlitForward (r out : Nat)
  | hostDoorbellWrite (fn c q v : Nat)
  | mboxRemove (c j : Nat)
  | mboxPreempt (c j : Nat)
  | mboxRerun (c j : Nat)
  | eventPop (c : Nat)
  | carouselChangeRequest (v : Nat)
  | hostWindowWrite (fn w reg v : Nat)
  | partitionWrite (fn v mask : Nat)
  | moduleIdWrite (fn v : Nat)
  | linkEnableWrite (fn k v : Nat)
  | linkTrained (k peer lanes : Nat)
  | linkTrainingLoss (k : Nat)
  | hostBar2Access (l a n : Nat) (w : Option (List Byte))
  | registerWrite (fn off v : Nat)
  | sensorUpdate (d v : Nat)
  | carouselChangeEffect
  | lanternAttest
  | safetyTrip
  | reset
  deriving DecidableEq, Repr

end Sys2Proof
end

