-- ==== Sys2Proof/WellFormed.lean ====
section
/-!
DEFINITION. Sys2Proof/WellFormed.lean: which instructions an engine accepts. Instr.accepted holds the conditions of
decode checks 3 and 4 (cause 0x01) and Instr.clean those of check 5 (cause 0x02) that a term can break (R66 to R78).
-/

namespace Sys2Proof

/-- The number of an engine in encodings (R4); the wick core has none and takes 7. -/
def Eng.num : Eng → Nat
  | .sq => 0 | .va => 1 | .ve => 2 | .we => 3 | .me => 4 | .xe => 5 | .wick => 7

/-- Token partner rules (R67): never the engine itself or 6; 7 only without POP and PUSH; the wick core only 7. -/
def tpOk (e : Eng) (tp : Nat) (pop push : Bool) : Bool :=
  if tp = 7 then !(pop || push) else tp < 6 && tp != e.num && e != .wick

/-- Check 3 for a 64-bit word: GUARD 0 to 95 or 126 (R66) and the token fields (R67). -/
def Head.ok (e : Eng) (h : Head) : Bool := (h.guard < 96 || h.guard == 126) && tpOk e h.tp h.pop h.push

/-- Check 3 for a bundle (R73, R284). -/
def WHead.ok (h : WHead) : Bool := tpOk .we h.tp h.pop h.push

/-- Scalar register numbers (R69): x0 to x63 in SQ, x0 to x31 elsewhere. -/
def xOk (e : Eng) (n : Nat) : Bool := n < (if e = .sq then 64 else 32)

/-- Predicate numbers (R69). -/
def pOk (p : Nat) : Bool := p < 96

/-- An optional predicate destination (R211). -/
def poOk (p : Option Nat) : Bool := p.all pOk

/-- A scalar source operand: an x register, or in VA a pop or peek of q8 to q15 (R18, R69). -/
def Opnd.srcOk (e : Eng) : Opnd → Bool
  | .x n => xOk e n
  | .q n => e == .va && 8 ≤ n && n < 16
  | .peek n => e == .va && 8 ≤ n && n < 16

/-- A scalar destination operand: an x register, or in VA a push to q0 to q7 (R18, R69, R211). -/
def Opnd.dstOk (e : Eng) : Opnd → Bool
  | .x n => xOk e n
  | .q n => e == .va && n < 8
  | .peek _ => false

/-- A vector source (R70). -/
def VSrc.ok : VSrc → Bool
  | .v n => n < 64 | .rot n => n < 64 | .pop n => n < 8 | .peek n => n < 8

/-- A vector destination (R70). -/
def VDst.ok : VDst → Bool
  | .v n => n < 64 | .rot n => n < 64 | .push n => 8 ≤ n && n < 16

/-- Signed immediates of n bits. -/
def immOk (n : Nat) (i : Int) : Bool := -(2 ^ (n - 1) : Int) ≤ i && i < (2 ^ (n - 1) : Int)

/-- Acquire, release and scope: a scope other than stream needs one of them (R57). -/
def Sync.ok (s : Sync) : Bool := s.acq || s.rel || s.scope == .stream

/-- Semaphore fields of a K-form command. -/
def KCtl.ok (k : KCtl) : Bool := k.wait.all (· < 256) && k.sig.all (· < 256) && k.sync.ok

/-- The control registers of R79. -/
def csrOk (n : Nat) : Bool :=
  [0x000, 0x001, 0x002, 0x003, 0x004, 0x010, 0x020, 0x021, 0x022, 0x023, 0x024, 0x030, 0x040, 0x041, 0x042, 0x050,
    0x060, 0x070].contains n

/-- Whether a modifier code widens (R72). -/
def widens (m : Nat) : Bool := m == 5 || m == 6

/-- The conditions of R72 on one modifier, for lanes of n elements. -/
def modOk (flt : Bool) (esz n m : Nat) : Bool :=
  match m with
  | 0 => true | 2 => true
  | 1 => 2 ≤ n | 3 => 2 ≤ n | 4 => 2 ≤ n
  | 5 => esz != 3 | 6 => esz != 3
  | 7 => flt
  | _ => false

/-- Elements in a lane (R71). -/
def lanesN (esz : Nat) : Nat := 2 ^ esz

/-- A modifier pair under R72; wide says that a widening modifier may select an FP32 operation on BF16 halves (R71). -/
def VFmt.modsOk (flt : Bool) (f : VFmt) : Bool :=
  modOk flt f.esz (lanesN f.esz) f.amod && modOk flt f.esz (lanesN f.esz) f.bmod

/-- Formats of the floating instructions (R230, R231). -/
def VFmt.fltOk (f : VFmt) (wid : Bool) : Bool :=
  (f.esz == 0 && f.fmt == 0) || (f.esz == 1 && f.fmt < 2) || (f.esz == 0 && f.fmt == 1 && wid)

/-- A floating instruction with modifiers on A and B. -/
def VFmt.flt2 (f : VFmt) : Bool := f.fltOk (widens f.amod || widens f.bmod) && f.modsOk true && !f.sat

/-- A floating instruction with a modifier on A alone. -/
def VFmt.flt1 (f : VFmt) : Bool := f.fltOk (widens f.amod) && f.modsOk true && f.bmod == 0 && !f.sat

/-- An FP32 instruction with a modifier on A alone (R235, R248). -/
def VFmt.f32a (f : VFmt) : Bool := f.esz == 0 && f.flt1

/-- An integer instruction (R71, R231). -/
def VFmt.int2 (f : VFmt) (sat : Bool) : Bool := f.esz < 4 && f.fmt < 2 && f.modsOk false && (sat || !f.sat)

/-- An integer instruction with a modifier on A alone. -/
def VFmt.int1 (f : VFmt) (sat : Bool) : Bool := f.int2 sat && f.bmod == 0

/-- An instruction that requires ESZ 00 and takes no modifier (R231). -/
def VFmt.e32 (f : VFmt) : Bool := f.esz == 0 && f.fmt < 2 && f.amod == 0 && f.bmod == 0 && !f.sat

/-- Width in bits of a format (R30). -/
def Fmt.bits : Fmt → Nat
  | .f32 => 32 | .bf16 => 16 | .f16 => 16 | .e4m3 => 8 | .e5m2 => 8 | .e2m1 => 4 | .pw2 => 8
  | .i8 => 8 | .u8 => 8 | .i4 => 4 | .u4 => 4 | .i16 => 16 | .u16 => 16 | .i32 => 32 | .u32 => 32 | .i64 => 64

/-- Floating formats. -/
def Fmt.isFlt : Fmt → Bool
  | .f32 => true | .bf16 => true | .f16 => true | .e4m3 => true | .e5m2 => true | .e2m1 => true | .pw2 => true
  | .i8 => false | .u8 => false | .i4 => false | .u4 => false | .i16 => false | .u16 => false | .i32 => false
  | .u32 => false | .i64 => false

/-- VCVT (R236): destination, widening source, part and saturate conditions; bmod holds the part. Where R72 refuses a widening
modifier with ESZ 11, the ESZ judged is the destination's (DESIGN CHOICE, log 25). -/
def VFmt.cvtOk (f : VFmt) (src : Fmt) (toInt : Bool) : Bool :=
  let ns := 32 / src.bits
  let nd := lanesN f.esz
  src != .pw2 && src != .i64 && f.esz < 4
    && (if toInt then f.fmt < 2 else f.fltOk false || (f.esz == 2 && f.fmt < 2))
    && modOk src.isFlt f.esz ns f.amod
    && !(widens f.amod && [Fmt.bf16, .e4m3, .e5m2, .e2m1, .i4, .u4].contains src)
    && (if ns ≤ nd then f.bmod == 0 else f.bmod < ns / nd)
    && (!f.sat || (toInt && !src.isFlt && ns < nd))

/-- A vector compare destination. -/
def CmpDst.ok : CmpDst → Bool
  | .mask d => d.ok | .any p => pOk p | .all p => pOk p

/-- The sixteen slots of a bundle (R73). -/
def slotsOk (s : WSlots) : Bool := s.length == 16 && s.all fun o => o.all fun t => t.off < 32 && t.code < 256

/-- Block head conditions with cause 0x01 (R114). -/
def HeadSpec.ok (e : Eng) (tp : Nat) (s : HeadSpec) : Bool :=
  s.sem < 256 && s.scnt < 4 && s.tcnt < 8 && s.qin < 256 && s.qout < 256 && s.qn < 8 && s.greg < 64
    && (s.tcnt == 0 || tp != 7) && ((s.qin == 0 && s.qout == 0) || e == .va || e == .ve)
    && (s.greg < 32 || e == .sq)

/-- Engines that execute 64-bit words. -/
def Eng.scalar (e : Eng) : Bool := e != .we

/-- The conditions an accepted instruction meets in engine e: its opcode is assigned there and every field holds a
value its entry lists (checks 1, 3 and 4 of R78). Machine events have no word and are accepted nowhere. VRMAX in its floating
form takes ESZ 00 and 01 as R231 says, and not the ESZ 10 that R71's table also lists (DESIGN CHOICE, log 89). -/
def Instr.accepted (e : Eng) : Instr → Bool
  | .nop h => h.ok e && e.scalar
  | .endS h => h.ok e && e.scalar
  | .rdzv h n => h.ok e && e.scalar && n < 4096
  | .br h _ off => h.ok e && e.scalar && immOk 24 off
  | .brc h _ _ p off => h.ok e && e.scalar && pOk p && immOk 24 off
  | .call h a off => h.ok e && e.scalar && xOk e a && immOk 24 off
  | .callg h d a imm => h.ok e && e.scalar && xOk e d && xOk e a && immOk 12 imm
  | .jr h a => h.ok e && e.scalar && xOk e a
  | .loop h a off => h.ok e && e.scalar && xOk e a && 0 < off && off < 2 ^ 23
  | .loopi h n off => h.ok e && e.scalar && n < 4096 && 0 < off && off < 8192
  | .looph h a off w => h.ok e && (e == .va || e == .ve) && xOk e a && 0 < off && off < 2 ^ 23 && 0 < w && w ≤ 64
  | .trap h c => h.ok e && e.scalar && c < 2 ^ 20
  | .csrr h d n => h.ok e && e.scalar && d.dstOk e && csrOk n
  | .csrw h a n => h.ok e && e.scalar && a.srcOk e && csrOk n
  | .add h d a b | .sub h d a b | .and h d a b | .or h d a b | .xor h d a b | .andn h d a b | .shl h d a b
  | .shr h d a b | .sra h d a b | .mul h d a b | .mulh h d a b | .mulhu h d a b | .min h d a b | .max h d a b
  | .minu h d a b | .maxu h d a b | .slt h d a b | .sltu h d a b =>
    h.ok e && e.scalar && d.dstOk e && a.srcOk e && b.srcOk e
  | .clz h d a | .popc h d a => h.ok e && e.scalar && d.dstOk e && a.srcOk e
  | .sel h d a b p => h.ok e && e.scalar && d.dstOk e && a.srcOk e && b.srcOk e && pOk p
  | .addi h d a i | .andi h d a i | .ori h d a i | .xori h d a i | .slti h d a i | .sltiu h d a i =>
    h.ok e && e.scalar && d.dstOk e && a.srcOk e && immOk 12 i
  | .shli h d a s | .shri h d a s | .srai h d a s => h.ok e && e.scalar && d.dstOk e && a.srcOk e && s < 64
  | .lih h d i => h.ok e && e.scalar && d.dstOk e && immOk 20 i
  | .cmp h _ p a b => h.ok e && e.scalar && pOk p && a.srcOk e && b.srcOk e
  | .cmpi h _ p a i => h.ok e && e.scalar && pOk p && a.srcOk e && immOk 12 i
  | .pand h d a b | .por h d a b | .pxor h d a b | .pandn h d a b =>
    h.ok e && e.scalar && pOk d && pOk a && pOk b
  | .pmov h d a => h.ok e && e.scalar && pOk d && pOk a
  | .pseti h d _ => h.ok e && e.scalar && pOk d
  | .ld h d a i s _ => h.ok e && (e == .sq || e == .va || e == .wick) && d.dstOk e && a.srcOk e && immOk 12 i && s < 4
  | .st h d a i s => h.ok e && (e == .sq || e == .va || e == .wick) && xOk e d && a.srcOk e && immOk 12 i && s < 4
  | .ldg h d a i s _ => h.ok e && (e == .sq || e == .wick) && xOk e d && xOk e a && immOk 12 i && s < 4
  | .stg h d a i s => h.ok e && (e == .sq || e == .wick) && xOk e d && xOk e a && immOk 12 i && s < 4
  | .blkh h s => h.ok e && e.scalar && s.ok e h.tp
  | .ssig h sem n _ => h.ok e && e == .sq && sem < 256 && 0 < n && n < 4096
  | .sset h sem a => h.ok e && e == .sq && sem < 256 && xOk e a
  | .sget h d sem => h.ok e && e == .sq && sem < 256 && xOk e d
  | .mark h j m => h.ok e && e == .sq && j < 8 && m < 64
  | .mjoin h j => h.ok e && e == .sq && j < 8
  | .mpost h d a ch => h.ok e && e == .sq && xOk e d && xOk e a && ch < 64
  | .gjoin h ch | .gleave h ch => h.ok e && e == .sq && ch < 64
  | .garv h d ch _ | .gbar h d ch _ => h.ok e && e == .sq && xOk e d && ch < 64
  | .ckpt h a n => h.ok e && e == .sq && xOk e a && 0 < n && n < 4096
  | .planeQuery h d a | .planeStage h d a | .planeDrop h d a => h.ok e && e == .sq && xOk e d && xOk e a
  | .rft h _ => h.ok e && e == .wick
  | .resume h a => h.ok e && (e == .sq || e == .wick) && xOk e a
  | .ctxsv h a b => h.ok e && (e == .sq || e == .wick) && xOk e a && xOk e b
  | .ctxld h d a b => h.ok e && (e == .sq || e == .wick) && xOk e d && xOk e a && xOk e b
  | .tlbiDataAll h a _ | .tlbiDataPage h a _ | .tlbiInstrAll h a _ | .tlbiInstrPage h a _ =>
    h.ok e && (e == .sq || e == .wick) && xOk e a
  | .keyopLoad h d a b | .keyopDestroy h d a b | .keyopQuery h d a b =>
    h.ok e && (e == .sq || e == .wick) && xOk e d && xOk e a && xOk e b
  | .capw h ch _ a b => h.ok e && (e == .sq || e == .wick) && ch < 64 && xOk e a && xOk e b
  | .tnset h _ a b => h.ok e && (e == .sq || e == .wick) && xOk e a && xOk e b
  | .sdef h d a i | .slvl h d a i => h.ok e && e == .va && d < 32 && xOk e a && immOk 12 i
  | .sfib h a b l => h.ok e && e == .va && a.n < 32 && xOk e b && l < 4
  | .sint h d a b | .suni h d a b => h.ok e && e == .va && d < 32 && a < 32 && b < 32
  | .sskip h a b => h.ok e && e == .va && a.n < 32 && xOk e b
  | .spos h d a _ => h.ok e && e == .va && xOk e d && a.n < 32
  | .scrd h d a m => h.ok e && e == .va && xOk e d && a.n < 32 && m < 4
  | .ldq h q a b p _ _ _ => h.ok e && e == .va && q < 8 && a.n < 32 && xOk e b && poOk p
  | .ldqc h q a b p _ => h.ok e && e == .va && q < 8 && a.n < 32 && xOk e b && poOk p
  | .ldqa h q a b p _ _ => h.ok e && e == .va && q < 8 && a.n < 32 && xOk e b && poOk p
  | .stq h d q _ b _ _ => h.ok e && e == .va && d.n < 32 && 8 ≤ q && q < 16 && xOk e b
  | .lls h a b c => h.ok e && e == .va && xOk e a && xOk e b && xOk e c
  | .mrgb h q q2 _ => h.ok e && e == .va && q < 8 && q2 < 8
  | .mrgi h a b => h.ok e && e == .va && a.n < 32 && xOk e b
  | .mrge h b p => h.ok e && e == .va && xOk e b && poOk p
  | .bfxp h q a b bp => h.ok e && e == .va && q < 8 && xOk e a && xOk e b && bp < 8
  | .bfxpSet h a bp => h.ok e && e == .va && xOk e a && bp < 8
  | .loopt h a off k => h.ok e && e == .va && a.n < 32 && 0 < off && off < 2 ^ 23 && 0 < k && k ≤ 128
  | .prf h a b => h.ok e && e == .va && a.n < 32 && xOk e b
  | .srel h a => h.ok e && e == .va && a.n < 32
  | .vfadd h d a b _ f | .vfsub h d a b _ f | .vfmul h d a b _ f =>
    h.ok e && e == .ve && d.ok && a.ok && b.ok && f.flt2
  | .vfma h d a b c f | .vfms h d a b c f | .vfnma h d a b c f =>
    h.ok e && e == .ve && d.ok && a.ok && b.ok && c.ok && f.flt2
  | .vfmin h d a b f | .vfmax h d a b f => h.ok e && e == .ve && d.ok && a.ok && b.ok && f.flt2
  | .vfcmp h d _ a b f => h.ok e && e == .ve && d.ok && a.ok && b.ok && f.flt2
  | .vlog2 h d a f | .vexp2 h d a f | .vrcp h d a f | .vrsq h d a f => h.ok e && e == .ve && d.ok && a.ok && f.f32a
  | .vcvt h d a src ti _ f => h.ok e && e == .ve && d.ok && a.ok && f.cvtOk src ti
  | .vscl h d a b _ f =>
    h.ok e && e == .ve && d.ok && a.ok && b.ok && f.fltOk (widens f.amod) && f.modsOk true && f.bmod != 7 && !f.sat
  | .vpks h d a _ f =>
    h.ok e && e == .ve && d.ok && a.ok && ((f.esz == 2 && f.fmt < 2) || (f.esz == 3 && f.fmt == 0))
      && (f.amod == 0 || f.amod == 2 || f.amod == 7) && f.bmod == 0 && !f.sat
  | .vadd h d a b f | .vsub h d a b f | .vmulh h d a b f | .vand h d a b f | .vor h d a b f | .vxor h d a b f
  | .vshl h d a b f | .vshr h d a b f | .vsra h d a b f | .vmin h d a b f | .vmax h d a b f | .vadds h d a b f
  | .vsubs h d a b f => h.ok e && e == .ve && d.ok && a.ok && b.ok && f.int2 false
  | .vmul h d a b f => h.ok e && e == .ve && d.ok && a.ok && b.ok && f.int2 true
  | .vmad h d a b c f => h.ok e && e == .ve && d.ok && a.ok && b.ok && c.ok && f.int2 true
  | .vcmp h d c a b f =>
    h.ok e && e == .ve && d.ok && a.ok && b.ok && f.int2 false && c != .un && c != .ord
  | .vsel h d a b c f => h.ok e && e == .ve && d.ok && a.ok && b.ok && c.ok && f.int2 false
  | .vmov h d a f => h.ok e && e == .ve && d.ok && a.ok && f.int1 false
  | .vli h d i z => h.ok e && e == .ve && d.ok && z < 4 && i < 2 ^ (32 / 2 ^ z)
  | .vbcst h d a k f => h.ok e && e == .ve && d.ok && a.ok && k < 128 && f.e32
  | .vbcstX h d a f => h.ok e && e == .ve && d.ok && a < 32 && f.e32
  | .vperm h d a b f => h.ok e && e == .ve && d.ok && a.ok && b.ok && f.e32
  | .vrot h d a k f => h.ok e && e == .ve && d.ok && a.ok && k < 128 && f.e32
  | .vlane h d a f => h.ok e && e == .ve && d.ok && a < 32 && f.e32
  | .vhash h d a b f => h.ok e && e == .ve && d.ok && a.ok && b.ok && f.int2 false && f.esz == 0
  | .vradd h d a f => h.ok e && e == .ve && d.ok && a.ok && f.int1 true
  | .vrmax h d a _ flt f => h.ok e && e == .ve && d.ok && a.ok && (if flt then f.flt1 else f.int1 false)
  | .vrmaxi h d a b p f | .vrmini h d a b p f => h.ok e && e == .ve && d.ok && a.ok && b.ok && poOk p && f.f32a
  | .vrfadd h d a _ f => h.ok e && e == .ve && d.ok && a.ok && f.flt1
  | .vext h d a k el f =>
    h.ok e && e == .ve && d < 32 && a.ok && k < 128 && el < lanesN f.esz && f.int1 false && f.amod == 0
  | .vacrF32 h d a l | .vacrRaw h d a l => h.ok e && e == .ve && d.ok && a < 32 && immOk 7 l
  | .vacwF32 h d a l | .vacwAdd h d a l | .vacwRaw h d a l => h.ok e && e == .ve && d < 32 && a.ok && immOk 7 l
  | .loopq h q _ off k => h.ok e && e == .ve && q < 8 && 0 < off && off < 65536 && 0 < k && k ≤ 128
  | .vqlen h p q n => h.ok e && e == .ve && pOk p && q < 16 && 0 < n && n ≤ 8
  | .vqlenZero h p q => h.ok e && e == .ve && pOk p && q < 8
  | .wnop h | .wret h | .wend h | .wsegKeep h | .wjmpRet h => h.ok && e == .we
  | .wt h _ d s | .wtf h _ d s => h.ok && e == .we && d < 32 && slotsOk s
  | .wg h _ c d s => h.ok && e == .we && c < 256 && d < 32 && slotsOk s
  | .wf h _ k s => h.ok && e == .we && k < 32 && slotsOk s
  | .wrow h _ _ en => h.ok && e == .we && immOk 7 en
  | .wsegFull h b r l _ _ => h.ok && e == .we && b < 128 && 0 < r && r ≤ 128 && immOk 7 l
  | .whook h n | .wlink h n | .wrdzv h n => h.ok && e == .we && n < 4096
  | .wjmp h o | .wjmpLink h o => h.ok && e == .we && immOk 26 o
  | .wwait h sem sc tc _ => h.ok && e == .we && sem < 256 && sc < 4 && tc < 8 && (tc == 0 || h.tp != 7)
  | .mtw h a b => h.ok e && e == .me && xOk e a && xOk e b
  | .mtws h k d b | .mdrn h k d b | .mrqt h k d b | .midx h k d b | .mnms h k d b =>
    h.ok e && e == .me && k.ok && d < 8 && xOk e b
  | .mgo h k _ => h.ok e && e == .me && k.ok
  | .mbyp h k b | .mzero h k b => h.ok e && e == .me && k.ok && xOk e b
  | .mrpr h k b _ | .mrst h k b _ => h.ok e && e == .me && k.ok && xOk e b
  | .xcp h k a b | .xcpg h k a b | .xred h k a b | .xpln h k a b | .xbrd h k a b | .xalt h k a b | .xrep h k a b =>
    h.ok e && e == .xe && k.ok && a < 32 && b < 31
  | .xexp h k a b | .xarv h k a b | .xdrp h k a b | .xsigr h k a b | .xqryPeek h k a b =>
    h.ok e && e == .xe && k.ok && a < 32 && b < 32
  | .xkeyEnc h k a b | .xkeyDec h k a b => h.ok e && e == .xe && k.ok && a < 32 && b < 30
  | .xstep h k a => h.ok e && e == .xe && k.ok && a < 32
  | .xqryRing h k b => h.ok e && e == .xe && k.ok && b < 32
  | .instructionRetire .. | .resultLands .. | .blockHeadSatisfied .. | .rendezvousRelease .. | .jobRetire ..
  | .markerReachesHead .. | .groupPhaseComplete .. | .blockWatchdogExpiry .. | .agePromotion ..
  | .ckptConditionsMet .. | .hostDoorbellWrite .. | .mboxRemove .. | .mboxPreempt .. | .mboxRerun .. | .eventPop ..
  | .loaderConsider .. | .jobLoadDone .. | .stagedJobStart .. | .budgetOverrun .. | .graceExpiry ..
  | .programTrapStop .. | .localFaultFreeze .. | .handlerTimeLimit .. | .pageWalkComplete .. | .missQueueAdmit ..
  | .codeLineArrive .. | .commandStart .. | .commandComplete .. | .nestStepCommit .. | .flushGroupWrite ..
  | .wsegReadsComplete .. | .llsGroupWrite .. | .llsStart .. | .portAccept .. | .outboundStamp .. | .applyWrite ..
  | .applyReadRequest .. | .applyRemoteSignal .. | .applyReduce .. | .applyArrival .. | .applyPlaneRecord ..
  | .applyDescriptorPost .. | .readReplyArrive .. | .writeAckArrive .. | .signalReplyArrive ..
  | .planeAnswerArrive .. | .postAnswerArrive .. | .errorReplyArrive .. | .requestTimeout .. | .routerPromotion ..
  | .slotWindowSend .. | .carouselPassage .. | .carouselWeCatch .. | .carouselChangeRequest ..
  | .carouselChangeEffect | .ilLoad .. | .ilUnload .. | .lanternAttest | .hostWindowWrite .. | .partitionWrite ..
  | .moduleIdWrite .. | .linkEnableWrite .. | .linkTrained .. | .linkTrainingLoss .. | .linkTransmitAccept ..
  | .linkReceive .. | .hostBar2Access .. | .registerWrite .. | .sensorUpdate .. | .safetyTrip | .reset
  | .routerFlitForward .. => false

/-- The head of a 64-bit word, if the instruction has one. -/
def Instr.head : Instr → Option Head
  | .nop h | .endS h | .rdzv h _ | .br h _ _ | .brc h _ _ _ _ | .call h _ _ | .callg h _ _ _ | .jr h _
  | .loop h _ _ | .loopi h _ _ | .looph h _ _ _ | .trap h _ | .csrr h _ _ | .csrw h _ _ | .add h _ _ _
  | .sub h _ _ _ | .and h _ _ _ | .or h _ _ _ | .xor h _ _ _ | .andn h _ _ _ | .shl h _ _ _ | .shr h _ _ _
  | .sra h _ _ _ | .mul h _ _ _ | .mulh h _ _ _ | .mulhu h _ _ _ | .min h _ _ _ | .max h _ _ _ | .minu h _ _ _
  | .maxu h _ _ _ | .slt h _ _ _ | .sltu h _ _ _ | .clz h _ _ | .popc h _ _ | .sel h _ _ _ _ | .addi h _ _ _
  | .andi h _ _ _ | .ori h _ _ _ | .xori h _ _ _ | .shli h _ _ _ | .shri h _ _ _ | .srai h _ _ _ | .slti h _ _ _
  | .sltiu h _ _ _ | .lih h _ _ | .cmp h _ _ _ _ | .cmpi h _ _ _ _ | .pand h _ _ _ | .por h _ _ _ | .pxor h _ _ _
  | .pandn h _ _ _ | .pmov h _ _ | .pseti h _ _ | .ld h _ _ _ _ _ | .st h _ _ _ _ | .ldg h _ _ _ _ _
  | .stg h _ _ _ _ | .blkh h _ | .ssig h _ _ _ | .sset h _ _ | .sget h _ _ | .mark h _ _ | .mjoin h _
  | .mpost h _ _ _ | .gjoin h _ | .gleave h _ | .garv h _ _ _ | .gbar h _ _ _ | .ckpt h _ _ | .planeQuery h _ _
  | .planeStage h _ _ | .planeDrop h _ _ | .rft h _ | .resume h _ | .ctxsv h _ _ | .ctxld h _ _ _
  | .tlbiDataAll h _ _ | .tlbiDataPage h _ _ | .tlbiInstrAll h _ _ | .tlbiInstrPage h _ _ | .keyopLoad h _ _ _
  | .keyopDestroy h _ _ _ | .keyopQuery h _ _ _ | .capw h _ _ _ _ | .tnset h _ _ _ | .sdef h _ _ _ | .slvl h _ _ _
  | .sfib h _ _ _ | .sint h _ _ _ | .suni h _ _ _ | .sskip h _ _ | .spos h _ _ _ | .scrd h _ _ _
  | .ldq h _ _ _ _ _ _ _ | .ldqc h _ _ _ _ _ | .ldqa h _ _ _ _ _ _ | .stq h _ _ _ _ _ _ | .lls h _ _ _
  | .mrgb h _ _ _ | .mrgi h _ _ | .mrge h _ _ | .bfxp h _ _ _ _ | .bfxpSet h _ _ | .loopt h _ _ _ | .prf h _ _
  | .srel h _ | .vfadd h _ _ _ _ _ | .vfsub h _ _ _ _ _ | .vfmul h _ _ _ _ _ | .vfma h _ _ _ _ _
  | .vfms h _ _ _ _ _ | .vfnma h _ _ _ _ _ | .vfmin h _ _ _ _ | .vfmax h _ _ _ _ | .vfcmp h _ _ _ _ _
  | .vlog2 h _ _ _ | .vexp2 h _ _ _ | .vrcp h _ _ _ | .vrsq h _ _ _ | .vcvt h _ _ _ _ _ _ | .vscl h _ _ _ _ _
  | .vpks h _ _ _ _ | .vadd h _ _ _ _ | .vsub h _ _ _ _ | .vmul h _ _ _ _ | .vmulh h _ _ _ _ | .vmad h _ _ _ _ _
  | .vand h _ _ _ _ | .vor h _ _ _ _ | .vxor h _ _ _ _ | .vshl h _ _ _ _ | .vshr h _ _ _ _ | .vsra h _ _ _ _
  | .vmin h _ _ _ _ | .vmax h _ _ _ _ | .vadds h _ _ _ _ | .vsubs h _ _ _ _ | .vcmp h _ _ _ _ _
  | .vsel h _ _ _ _ _ | .vmov h _ _ _ | .vli h _ _ _ | .vbcst h _ _ _ _ | .vbcstX h _ _ _ | .vperm h _ _ _ _
  | .vrot h _ _ _ _ | .vlane h _ _ _ | .vhash h _ _ _ _ | .vradd h _ _ _ | .vrmax h _ _ _ _ _
  | .vrmaxi h _ _ _ _ _ | .vrmini h _ _ _ _ _ | .vrfadd h _ _ _ _ | .vext h _ _ _ _ _ | .vacrF32 h _ _ _
  | .vacrRaw h _ _ _ | .vacwF32 h _ _ _ | .vacwAdd h _ _ _ | .vacwRaw h _ _ _ | .loopq h _ _ _ _ | .vqlen h _ _ _
  | .vqlenZero h _ _ | .mtw h _ _ | .mtws h _ _ _ | .mgo h _ _ | .mdrn h _ _ _ | .mbyp h _ _ | .mrqt h _ _ _
  | .mzero h _ _ | .midx h _ _ _ | .mnms h _ _ _ | .mrpr h _ _ _ | .mrst h _ _ _ | .xcp h _ _ _ | .xcpg h _ _ _
  | .xred h _ _ _ | .xexp h _ _ _ | .xarv h _ _ _ | .xstep h _ _ | .xpln h _ _ _ | .xbrd h _ _ _ | .xalt h _ _ _
  | .xrep h _ _ _ | .xdrp h _ _ _ | .xsigr h _ _ _ | .xkeyEnc h _ _ _ | .xkeyDec h _ _ _ | .xqryRing h _ _
  | .xqryPeek h _ _ _ => some h
  | _ => none

/-- Check 5 (cause 0x02) as far as a term can break it: GNEG with GUARD 126 (R66), the zero conditions of block heads
(R114, R297), the factor of a WG slot (R290), a scope without acquire or release (R57), and an exponent or engine mask
where none belongs. -/
def Instr.clean (i : Instr) : Bool :=
  i.head.all (fun h => !(h.gneg && h.guard == 126))
    && match i with
      | .blkh h s => !h.pop && (s.sem == 0 || s.scnt != 0) && (s.qn == 0 || s.qin != 0 || s.qout != 0) && s.sync.ok
      | .ssig _ _ _ s => s.ok
      | .garv _ _ _ s => s.ok
      | .gbar _ _ _ s => s.ok
      | .mark _ _ m => m % 2 == 0
      | .wg _ _ _ _ s => s.all fun o => o.all fun t => t.code == 0
      | .wrow _ _ o en => o || en == 0
      | .wwait h sem sc _ s => !h.pop && (sem == 0 || sc != 0) && s.all Sync.ok
      | _ => true

/-- A well-formed instruction of engine e: one whose word e decodes. -/
def Instr.wellFormed (e : Eng) (i : Instr) : Bool := i.accepted e && i.clean

end Sys2Proof
end

