-- ==== Sys2Proof/Decode.lean ====
section
/-!
DEFINITION. Sys2Proof/Decode.lean: instruction words. parse reads the fields of a word by its form (R68, R73), encode
lays an instruction out by the same tables, and decode runs the checks of R78 in their order: a word is taken only
when parse reads an instruction its engine accepts and when the word holds nothing but that instruction, so that every
unused or reserved bit must be zero.
-/

namespace Sys2Proof

/-- n bits of w from bit lo (R5). -/
def fld (w lo n : Nat) : Nat := w / 2 ^ lo % 2 ^ n

/-- The n-bit pattern w read as two's complement. -/
def sextN (n w : Nat) : Int := if w < 2 ^ (n - 1) then (w : Int) else (w : Int) - 2 ^ n

/-- The n-bit pattern of a signed value. -/
def uN (n : Nat) (i : Int) : Nat := (i % (2 ^ n : Int)).toNat

/-- One bit. -/
def bitN (b : Bool) : Nat := if b then 1 else 0

/-- Why a word is refused (R78): cause 0x01, 0x02 or 0x03. -/
inductive DecodeErr where
  | illegal | reserved | privileged
  deriving DecidableEq, Repr

/-! ### Forms (R66, R68, R73) -/

structure RForm where
  d : Nat
  a : Nat
  b : Nat
  c : Nat
  m : Nat
  deriving DecidableEq, Repr

structure IForm where
  d : Nat
  a : Nat
  imm : Nat
  m : Nat
  deriving DecidableEq, Repr

structure UForm where
  d : Nat
  imm : Nat
  m : Nat
  deriving DecidableEq, Repr

structure JForm where
  imm : Nat
  a : Nat
  m : Nat
  deriving DecidableEq, Repr

structure KForm where
  a : Nat
  b : Nat
  wait : Nat
  sig : Nat
  acq : Nat
  rel : Nat
  scope : Nat
  m : Nat
  deriving DecidableEq, Repr

structure VForm where
  d : Nat
  a : Nat
  b : Nat
  c : Nat
  esz : Nat
  amod : Nat
  bmod : Nat
  fmt : Nat
  sat : Nat
  deriving DecidableEq, Repr

/-- The fields of a bundle (R73): slots holds the sixteen 14-bit slots, slot 0 first. -/
structure BForm where
  mode : Nat
  hdr : Nat
  slots : List Nat
  deriving DecidableEq, Repr

def unR (w : Nat) : RForm := ⟨fld w 34 9, fld w 25 9, fld w 16 9, fld w 7 9, fld w 0 7⟩
def unI (w : Nat) : IForm := ⟨fld w 34 9, fld w 25 9, fld w 13 12, fld w 0 13⟩
def unU (w : Nat) : UForm := ⟨fld w 34 9, fld w 14 20, fld w 0 14⟩
def unJ (w : Nat) : JForm := ⟨fld w 19 24, fld w 10 9, fld w 0 10⟩
def unK (w : Nat) : KForm :=
  ⟨fld w 34 9, fld w 25 9, fld w 17 8, fld w 9 8, fld w 8 1, fld w 7 1, fld w 4 3, fld w 0 4⟩
def unV (w : Nat) : VForm :=
  ⟨fld w 35 8, fld w 27 8, fld w 19 8, fld w 11 8, fld w 9 2, fld w 6 3, fld w 3 3, fld w 1 2, fld w 0 1⟩
def unSlots (w : Nat) : List Nat := (List.range 16).map fun j => fld w (14 * j) 14
def unB (w : Nat) : BForm := ⟨fld w 240 3, fld w 224 16, unSlots w⟩

/-- Guard and token fields of a 64-bit word (R66). -/
def unHead (w : Nat) : Head := ⟨fld w 53 3, fld w 52 1 == 1, fld w 51 1 == 1, fld w 44 7, fld w 43 1 == 1⟩

/-- Token fields of a bundle (R73). -/
def unWHead (w : Nat) : WHead := ⟨fld w 245 3, fld w 244 1 == 1, fld w 243 1 == 1⟩

/-- The opcode byte of a 64-bit word. -/
def opcOf (w : Nat) : Nat := fld w 56 8

/-! ### Operands (R69, R70) -/

/-- A class 0 operand. -/
def rdX (v : Nat) : Option Nat := if v < 64 then some v else none

/-- A class 1 operand. -/
def rdSt (v : Nat) : Option Nat := if 64 ≤ v ∧ v < 128 then some (v - 64) else none

/-- A class 5 or 6 operand: p0 to p95. -/
def rdP (v : Nat) : Option Nat := if 320 ≤ v ∧ v < 416 then some (v - 320) else none

/-- An optional predicate: field 0 means none (R211). -/
def rdPo (v : Nat) : Option (Option Nat) := if v = 0 then some none else (rdP v).map some

/-- A scalar register or queue operand: classes 0, 3 and 4. -/
def rdOpnd (v : Nat) : Option Opnd :=
  if v < 64 then some (.x v)
  else if 192 ≤ v ∧ v < 256 then some (.q (v - 192))
  else if 256 ≤ v ∧ v < 320 then some (.peek (v - 256))
  else none

/-- A queue source: class 3 pops and class 4 peeks. -/
def rdQ (v : Nat) : Option (Nat × Bool) :=
  if 192 ≤ v ∧ v < 256 then some (v - 192, false)
  else if 256 ≤ v ∧ v < 320 then some (v - 256, true)
  else none

/-- A queue destination: class 3. -/
def rdQd (v : Nat) : Option Nat := if 192 ≤ v ∧ v < 256 then some (v - 192) else none

/-- A vector source. -/
def rdVS (v : Nat) : VSrc :=
  if v < 64 then .v v else if v < 128 then .rot (v - 64) else if v < 192 then .pop (v - 128) else .peek (v - 192)

/-- A vector destination; class 3 is illegal in D. -/
def rdVD (v : Nat) : Option VDst :=
  if v < 64 then some (.v v) else if v < 128 then some (.rot (v - 64)) else if v < 192 then some (.push (v - 128))
  else none

/-- A scope code (R56). -/
def rdScope (v : Nat) : Option Scope :=
  match v with
  | 0 => some .stream | 1 => some .core | 2 => some .die | 3 => some .device | 4 => some .system | _ => none

/-- Acquire, release and scope; with neither bit set the scope carries nothing (R57). -/
def rdSync (acq rel scope : Nat) : Option Sync :=
  (rdScope scope).map fun s => if acq = 1 ∨ rel = 1 then ⟨acq == 1, rel == 1, s⟩ else ⟨false, false, .stream⟩

/-- A rounding field (R230): C[2] selects the mode in C[1:0]. -/
def rdRm (c : Nat) : Option Rm :=
  if fld c 2 1 = 0 then none
  else match fld c 0 2 with
    | 0 => some .rne | 1 => some .rz | 2 => some .ru | _ => some .rd

/-- A rounding mode code (R38). -/
def rmOf (c : Nat) : Rm :=
  match c % 4 with
  | 0 => .rne | 1 => .rz | 2 => .ru | _ => .rd

/-- Scalar compare conditions (R118). -/
def rdCond (m : Nat) : Option Cond :=
  match m with
  | 0 => some .eq | 1 => some .ne | 2 => some .lt | 3 => some .ge | 4 => some .ltu | 5 => some .geu | _ => none

/-- Vector compare conditions (R234). -/
def vcondOf (c : Nat) : VCond :=
  match c % 8 with
  | 0 => .eq | 1 => .ne | 2 => .lt | 3 => .le | 4 => .gt | 5 => .ge | 6 => .un | _ => .ord

/-- The destination of a vector compare by its kind in C[4:3] (R70, R234). -/
def rdCmpDst (d c : Nat) : Option CmpDst :=
  match fld c 3 2 with
  | 0 => (rdVD d).map .mask
  | 1 => some (.any (d % 128))
  | 2 => some (.all (d % 128))
  | _ => none

/-- Source formats of VCVT (R236). -/
def rdCvt (c : Nat) : Option Fmt :=
  match c with
  | 0 => some .f32 | 1 => some .bf16 | 2 => some .f16 | 3 => some .e4m3 | 4 => some .e5m2 | 5 => some .e2m1
  | 6 => some .i32 | 7 => some .u32 | 8 => some .i16 | 9 => some .u16 | 10 => some .i8 | 11 => some .u8
  | 12 => some .i4 | 13 => some .u4 | _ => none

/-- Format fields of a V-form word, keeping SAT, AMOD and BMOD only where the entry uses them (R231). -/
def vf (v : VForm) (am bm sat : Bool) : VFmt :=
  ⟨v.esz, v.fmt, if am then v.amod else 0, if bm then v.bmod else 0, sat && v.sat == 1⟩

/-- The control fields of a command (R16, R68): WAIT and SIG count only when M[3] and M[2] enable them. -/
def rdK (k : KForm) : Option KCtl :=
  (rdSync k.acq k.rel k.scope).map fun s =>
    ⟨if fld k.m 3 1 = 1 then some k.wait else none, if fld k.m 2 1 = 1 then some k.sig else none, s⟩

/-- A slot of a bundle (R73): VALID, offset, code. -/
def rdSlot (v : Nat) : Option WSlot := if fld v 13 1 = 1 then some ⟨fld v 8 5, fld v 0 8⟩ else none

/-! ### Reading a word: check 4 of R78 as far as function codes and operand classes go -/

/-- ALU functions (R116). -/
def parseAlu (h : Head) (f : RForm) : Option Instr := do
  let d ← rdOpnd f.d
  let a ← rdOpnd f.a
  match f.m with
  | 18 => some (.clz h d a)
  | 19 => some (.popc h d a)
  | m => do
    let b ← rdOpnd f.b
    match m with
    | 0 => some (.add h d a b) | 1 => some (.sub h d a b) | 2 => some (.and h d a b) | 3 => some (.or h d a b)
    | 4 => some (.xor h d a b) | 5 => some (.andn h d a b) | 6 => some (.shl h d a b) | 7 => some (.shr h d a b)
    | 8 => some (.sra h d a b) | 9 => some (.mul h d a b) | 10 => some (.mulh h d a b)
    | 11 => some (.mulhu h d a b) | 12 => some (.min h d a b) | 13 => some (.max h d a b)
    | 14 => some (.minu h d a b) | 15 => some (.maxu h d a b) | 16 => some (.slt h d a b)
    | 17 => some (.sltu h d a b)
    | 20 => (rdP f.c).map fun p => .sel h d a b p
    | _ => none

/-- ALUI functions (R117). -/
def parseAlui (h : Head) (f : IForm) : Option Instr := do
  let d ← rdOpnd f.d
  let a ← rdOpnd f.a
  let i := sextN 12 f.imm
  let s := fld f.imm 0 6
  match f.m with
  | 0 => some (.addi h d a i) | 1 => some (.andi h d a i) | 2 => some (.ori h d a i) | 3 => some (.xori h d a i)
  | 4 => some (.shli h d a s) | 5 => some (.shri h d a s) | 6 => some (.srai h d a s)
  | 7 => some (.slti h d a i) | 8 => some (.sltiu h d a i) | _ => none

/-- Predicate logic (R118). -/
def parsePlog (h : Head) (f : RForm) : Option Instr := do
  let d ← rdP f.d
  match f.m with
  | 5 => some (.pseti h d (f.b % 2 == 1))
  | 4 => (rdP f.a).map fun a => .pmov h d a
  | m => do
    let a ← rdP f.a
    let b ← rdP f.b
    match m with
    | 0 => some (.pand h d a b) | 1 => some (.por h d a b) | 2 => some (.pxor h d a b) | 3 => some (.pandn h d a b)
    | _ => none

/-- The fields of BLKH (R114). -/
def parseBlkh (h : Head) (w : Nat) : Option Instr :=
  (rdSync (fld w 4 1) (fld w 3 1) (fld w 0 3)).map fun s =>
    .blkh h ⟨fld w 35 8, fld w 33 2, fld w 30 3, fld w 22 8, fld w 14 8, fld w 11 3, fld w 5 6, s⟩

/-- The common group (R74). -/
def parseCommon (h : Head) (w : Nat) : Option Instr :=
  let r := unR w
  let i := unI w
  let u := unU w
  let j := unJ w
  match opcOf w with
  | 0x00 => some (.nop h)
  | 0x01 => parseBlkh h w
  | 0x02 => some (.endS h)
  | 0x03 => some (.rdzv h i.imm)
  | 0x04 => some (.br h (fld j.m 1 1 == 1) (sextN 24 j.imm))
  | 0x05 => (rdP j.a).map fun p => .brc h (fld j.m 0 1 == 1) (fld j.m 1 1 == 1) p (sextN 24 j.imm)
  | 0x06 => (rdX j.a).map fun a => .call h a (sextN 24 j.imm)
  | 0x07 => do some (.callg h (← rdX i.d) (← rdX i.a) (sextN 12 i.imm))
  | 0x08 => (rdX r.a).map fun a => .jr h a
  | 0x09 => (rdX j.a).map fun a => .loop h a j.imm
  | 0x0A => some (.loopi h i.imm i.m)
  | 0x0B => (rdX j.a).map fun a => .looph h a j.imm (fld j.m 0 6 + 1)
  | 0x0C => some (.trap h u.imm)
  | 0x0D => (rdOpnd i.d).map fun d => .csrr h d i.imm
  | 0x0E => (rdOpnd i.a).map fun a => .csrw h a i.imm
  | 0x10 => parseAlu h r
  | 0x11 => parseAlui h i
  | 0x12 => (rdOpnd u.d).map fun d => .lih h d (sextN 20 u.imm)
  | 0x13 => do some (.cmp h (← rdCond r.m) (← rdP r.d) (← rdOpnd r.a) (← rdOpnd r.b))
  | 0x14 => do some (.cmpi h (← rdCond i.m) (← rdP i.d) (← rdOpnd i.a) (sextN 12 i.imm))
  | 0x15 => parsePlog h r
  | 0x16 => do some (.ld h (← rdOpnd i.d) (← rdOpnd i.a) (sextN 12 i.imm) (fld i.m 0 2) (fld i.m 2 1 == 1))
  | 0x17 => do some (.st h (← rdX i.d) (← rdOpnd i.a) (sextN 12 i.imm) (fld i.m 0 2))
  | 0x18 => do some (.ldg h (← rdX i.d) (← rdX i.a) (sextN 12 i.imm) (fld i.m 0 2) (fld i.m 2 1 == 1))
  | 0x19 => do some (.stg h (← rdX i.d) (← rdX i.a) (sextN 12 i.imm) (fld i.m 0 2))
  | _ => none

/-- The sequencer's own instructions (R122). -/
def parseSq (h : Head) (w : Nat) : Option Instr :=
  let i := unI w
  let sem := fld i.m 5 8
  let sy := rdSync (fld i.m 4 1) (fld i.m 3 1) (fld i.m 0 3)
  let ch := fld i.imm 0 6
  match opcOf w with
  | 0x40 => sy.map fun s => .ssig h sem i.imm s
  | 0x41 => (rdX i.a).map fun a => .sset h sem a
  | 0x42 => (rdX i.d).map fun d => .sget h d sem
  | 0x43 => some (.mark h (fld i.m 0 3) (fld i.imm 1 5 * 2))
  | 0x44 => some (.mjoin h (fld i.m 0 3))
  | 0x45 => do some (.mpost h (← rdX i.d) (← rdX i.a) ch)
  | 0x46 => some (.gjoin h ch)
  | 0x47 => some (.gleave h ch)
  | 0x48 => do some (.garv h (← rdX i.d) ch (← sy))
  | 0x49 => do some (.gbar h (← rdX i.d) ch (← sy))
  | 0x4A => (rdX i.a).map fun a => .ckpt h a i.imm
  | 0x4B => do
    let d ← rdX i.d
    let a ← rdX i.a
    match fld i.m 0 2 with
    | 0 => some (.planeQuery h d a) | 1 => some (.planeStage h d a) | 2 => some (.planeDrop h d a) | _ => none
  | _ => none

/-- The system range (R131). -/
def parseSys (h : Head) (w : Nat) : Option Instr :=
  let r := unR w
  match opcOf w with
  | 0xF0 => some (.rft h (fld r.m 0 1 == 1))
  | 0xF1 => (rdX r.a).map fun a => .resume h a
  | 0xF2 => do some (.ctxsv h (← rdX r.a) (← rdX r.b))
  | 0xF3 => do some (.ctxld h (← rdX r.d) (← rdX r.a) (← rdX r.b))
  | 0xF4 => (rdX r.a).map fun a =>
    let die := fld r.m 2 1 == 1
    match fld r.m 0 2 with
    | 0 => .tlbiDataAll h a die | 1 => .tlbiDataPage h a die | 2 => .tlbiInstrAll h a die | _ => .tlbiInstrPage h a die
  | 0xF5 => do
    let d ← rdX r.d
    let a ← rdX r.a
    let b ← rdX r.b
    match fld r.m 0 2 with
    | 0 => some (.keyopLoad h d a b) | 1 => some (.keyopDestroy h d a b) | 2 => some (.keyopQuery h d a b)
    | _ => none
  | 0xF6 => do some (.capw h (fld r.m 0 6) (fld r.m 6 1 == 1) (← rdX r.a) (← rdX r.b))
  | 0xF7 => do some (.tnset h (fld r.m 0 1 == 1) (← rdX r.a) (← rdX r.b))
  | _ => none

/-- A rotatable stream operand whose ROT bit is given (R211). -/
def rdStR (v : Nat) (rot : Bool) : Option StOpnd := (rdSt v).map fun n => ⟨n, rot⟩

/-- The access half (R212). -/
def parseVa (h : Head) (w : Nat) : Option Instr :=
  let r := unR w
  let i := unI w
  let j := unJ w
  let m := fun k => fld r.m k 1 == 1
  let sa := rdStR r.a (m 3)
  match opcOf w with
  | 0x40 => do some (.sdef h (← rdSt i.d) (← rdX i.a) (sextN 12 i.imm))
  | 0x41 => do some (.slvl h (← rdSt i.d) (← rdX i.a) (sextN 12 i.imm))
  | 0x42 => do some (.sfib h (← sa) (← rdX r.b) (fld r.m 0 2))
  | 0x43 => do some (.sint h (← rdSt r.d) (← rdSt r.a) (← rdSt r.b))
  | 0x44 => do some (.suni h (← rdSt r.d) (← rdSt r.a) (← rdSt r.b))
  | 0x45 => do some (.sskip h (← sa) (← rdX r.b))
  | 0x46 => do some (.spos h (← rdX r.d) (← sa) (m 2))
  | 0x47 => do some (.scrd h (← rdX r.d) (← sa) (fld r.m 0 2))
  | 0x48 => do some (.ldq h (← rdQd r.d) (← sa) (← rdX r.b) (← rdPo r.c) (m 0) (m 1) (m 2))
  | 0x49 => do some (.ldqc h (← rdQd r.d) (← sa) (← rdX r.b) (← rdPo r.c) (m 1))
  | 0x4A => do
    let q ← rdQ r.a
    some (.stq h (← rdStR r.d (m 3)) q.1 q.2 (← rdX r.b) (m 0) (m 1))
  | 0x4B => do some (.ldqa h (← rdQd r.d) (← sa) (← rdX r.b) (← rdPo r.c) (m 1) (m 2))
  | 0x4C => do some (.lls h (← rdX r.a) (← rdX r.b) (← rdX r.c))
  | 0x4D => (rdQd r.d).map fun q => .mrgb h q (fld r.m 0 3) (m 3)
  | 0x4E => do some (.mrgi h (← sa) (← rdX r.b))
  | 0x4F => do some (.mrge h (← rdX r.b) (← rdPo r.c))
  | 0x50 =>
    if m 3 then (rdX r.a).map fun a => .bfxpSet h a (fld r.m 0 3)
    else do some (.bfxp h (← rdQd r.d) (← rdX r.a) (← rdX r.b) (fld r.m 0 3))
  | 0x51 => (rdSt j.a).map fun a => .loopt h ⟨a, fld j.m 7 1 == 1⟩ j.imm (fld j.m 0 7 + 1)
  | 0x52 => do some (.prf h (← sa) (← rdX r.b))
  | 0x53 => sa.map fun a => .srel h a
  | _ => none

/-- The execute half (R231). -/
def parseVe (h : Head) (w : Nat) : Option Instr :=
  let v := unV w
  let a := rdVS v.a
  let b := rdVS v.b
  let c := rdVS v.c
  let d := rdVD v.d
  let rm := rdRm v.c
  let f2 := vf v true true false
  let f1 := vf v true false false
  let f0 := vf v false false false
  let p := v.d % 128
  let po := if v.c = 126 then none else some v.c
  let l := sextN 8 v.b
  let acc := if v.esz = 0 ∧ v.fmt = 0 then some () else none
  match opcOf w with
  | 0x40 => d.map fun d => .vfadd h d a b rm f2
  | 0x41 => d.map fun d => .vfsub h d a b rm f2
  | 0x42 => d.map fun d => .vfmul h d a b rm f2
  | 0x43 => d.map fun d => .vfma h d a b c f2
  | 0x44 => d.map fun d => .vfms h d a b c f2
  | 0x45 => d.map fun d => .vfnma h d a b c f2
  | 0x46 => d.map fun d => .vfmin h d a b f2
  | 0x47 => d.map fun d => .vfmax h d a b f2
  | 0x48 => (rdCmpDst v.d v.c).map fun d => .vfcmp h d (vcondOf v.c) a b f2
  | 0x49 => d.map fun d => .vlog2 h d a f1
  | 0x4A => d.map fun d => .vexp2 h d a f1
  | 0x4B => d.map fun d => .vrcp h d a f1
  | 0x4C => d.map fun d => .vrsq h d a f1
  | 0x4D => do
    let src ← rdCvt (fld v.c 4 4)
    let ti := fld v.c 3 1 == 1
    let f := vf v true true (ti && !src.isFlt && 32 / src.bits < lanesN v.esz)
    some (.vcvt h (← d) a src ti (rdRm (fld v.c 0 3)) f)
  | 0x4E => d.map fun d => .vscl h d a b rm f2
  | 0x4F => d.map fun d => .vpks h d a rm f1
  | 0x50 => d.map fun d => .vadd h d a b f2
  | 0x51 => d.map fun d => .vsub h d a b f2
  | 0x52 => d.map fun d => .vmul h d a b (vf v true true true)
  | 0x53 => d.map fun d => .vmulh h d a b f2
  | 0x54 => d.map fun d => .vmad h d a b c (vf v true true true)
  | 0x55 => d.map fun d => .vand h d a b f2
  | 0x56 => d.map fun d => .vor h d a b f2
  | 0x57 => d.map fun d => .vxor h d a b f2
  | 0x58 => d.map fun d => .vshl h d a b f2
  | 0x59 => d.map fun d => .vshr h d a b f2
  | 0x5A => d.map fun d => .vsra h d a b f2
  | 0x5B => d.map fun d => .vmin h d a b f2
  | 0x5C => d.map fun d => .vmax h d a b f2
  | 0x5D => d.map fun d => .vadds h d a b f2
  | 0x5E => d.map fun d => .vsubs h d a b f2
  | 0x5F => (rdCmpDst v.d v.c).map fun d => .vcmp h d (vcondOf v.c) a b f2
  | 0x60 => d.map fun d => .vsel h d a b c f2
  | 0x61 => d.map fun d => .vmov h d a f1
  | 0x62 => d.map fun d => .vli h d
      ((v.a * 2 ^ 24 + v.b * 2 ^ 16 + v.c * 2 ^ 8 + v.amod * 2 ^ 5 + v.bmod * 2 ^ 2 + v.fmt) % 2 ^ (32 / 2 ^ v.esz)) v.esz
  | 0x63 =>
    match v.c with
    | 0 => d.map fun d => .vbcst h d a v.b f0
    | 1 => d.map fun d => .vbcstX h d v.a f0
    | _ => none
  | 0x64 => d.map fun d => .vperm h d a b f0
  | 0x65 => d.map fun d => .vrot h d a v.b f0
  | 0x66 => d.map fun d => .vlane h d v.a f0
  | 0x67 => d.map fun d => .vhash h d a b f2
  | 0x68 => d.map fun d => .vradd h d a (vf v true false true)
  | 0x69 => d.map fun d => .vrmax h d a (fld v.c 0 1 == 1) (fld v.c 1 1 == 1) f1
  | 0x6A => d.map fun d => .vrmaxi h d a b po f1
  | 0x6B => d.map fun d => .vrmini h d a b po f1
  | 0x6C => d.map fun d => .vrfadd h d a rm f1
  | 0x6D => some (.vext h v.d a v.b v.c f0)
  | 0x6E => do
    let d ← d
    let _ ← acc
    match fld v.c 0 2 with
    | 0 => some (.vacrF32 h d v.a l) | 2 => some (.vacrRaw h d v.a l) | _ => none
  | 0x6F => do
    let _ ← acc
    match fld v.c 0 2 with
    | 0 => some (.vacwF32 h v.d a l) | 1 => some (.vacwAdd h v.d a l) | 2 => some (.vacwRaw h v.d a l) | _ => none
  | 0x70 =>
    let off := 256 * v.d + v.c
    match a with
    | .pop q => some (.loopq h q false off (v.b + 1))
    | .peek q => some (.loopq h q true off (v.b + 1))
    | _ => none
  | 0x71 =>
    match v.c with
    | 0 => some (.vqlen h p (v.a % 16) v.b)
    | 1 => some (.vqlenZero h p (v.a % 16))
    | _ => none
  | _ => none

/-- The matrix engine (R384). -/
def parseMe (h : Head) (w : Nat) : Option Instr :=
  let f := unK w
  let m0 := fld f.m 0 1 == 1
  match opcOf w with
  | 0x40 => do some (.mtw h (← rdX f.a) (← rdX f.b))
  | 0x41 => do some (.mtws h (← rdK f) (← rdSt f.a) (← rdX f.b))
  | 0x42 => do some (.mgo h (← rdK f) m0)
  | 0x43 => do some (.mdrn h (← rdK f) (← rdSt f.a) (← rdX f.b))
  | 0x44 => do some (.mbyp h (← rdK f) (← rdX f.b))
  | 0x45 => do some (.mrqt h (← rdK f) (← rdSt f.a) (← rdX f.b))
  | 0x46 => do some (.mzero h (← rdK f) (← rdX f.b))
  | 0x47 => do some (.midx h (← rdK f) (← rdSt f.a) (← rdX f.b))
  | 0x48 => do some (.mnms h (← rdK f) (← rdSt f.a) (← rdX f.b))
  | 0x49 => do some (.mrpr h (← rdK f) (← rdX f.b) m0)
  | 0x4A => do some (.mrst h (← rdK f) (← rdX f.b) m0)
  | _ => none

/-- The exchange engine (R334). -/
def parseXe (h : Head) (w : Nat) : Option Instr := do
  let f := unK w
  let k ← rdK f
  let a ← rdX f.a
  if opcOf w = 0x45 then some (.xstep h k a)
  else
  let b ← rdX f.b
  match opcOf w with
  | 0x40 => some (.xcp h k a b) | 0x41 => some (.xcpg h k a b) | 0x42 => some (.xred h k a b)
  | 0x43 => some (.xexp h k a b) | 0x44 => some (.xarv h k a b)
  | 0x46 => some (.xpln h k a b) | 0x47 => some (.xbrd h k a b) | 0x48 => some (.xalt h k a b)
  | 0x49 => some (.xrep h k a b) | 0x4A => some (.xdrp h k a b) | 0x4B => some (.xsigr h k a b)
  | 0x4C => some (if fld f.m 0 1 = 1 then .xkeyDec h k a b else .xkeyEnc h k a b)
  | 0x4D =>
    match fld f.m 0 2 with
    | 0 => if a < 32 then some (.xqryRing h k b) else none
    | 1 => some (.xqryPeek h k a b) | _ => none
  | _ => none

/-- The weight-code engine (R285); the word holds all 256 bits of the bundle. -/
def parseWe (w : Nat) : Option Instr :=
  let h := unWHead w
  let f := unB w
  let s := f.slots.map rdSlot
  let v := fun j => fld (f.slots.getD j 0) 0 13
  let md : Option WMode := match f.mode with
    | 0 => some .pw2 | 1 => some .i8 | _ => none
  let off := sextN 26 (v 1 * 2 ^ 13 + v 0)
  md.bind fun m => match fld w 248 8 with
  | 0x00 => some (.wnop h)
  | 0x01 => some (.wt h m (fld f.hdr 0 5) s)
  | 0x02 => some (.wg h m (fld f.hdr 0 8) (fld f.hdr 8 5) (s.map fun o => o.map fun t => ⟨t.off, 0⟩))
  | 0x03 => some (.wf h (fld f.hdr 5 1 == 1) (fld f.hdr 0 5) s)
  | 0x04 => some (.wtf h m (fld f.hdr 0 5) s)
  | 0x05 =>
    let o := fld f.hdr 13 1 == 1
    let en := if o then sextN 7 (fld f.hdr 0 7) else 0
    match fld f.hdr 14 2 with
    | 0 => some (.wrow h .none o en) | 1 => some (.wrow h .add o en) | 2 => some (.wrow h .replace o en) | _ => none
  | 0x06 =>
    if fld f.hdr 0 1 = 1 then
      some (.wsegFull h (fld (v 0) 0 7) (fld (v 1) 0 7 + 1) (sextN 7 (fld (v 2) 0 7)) (fld (v 2) 7 1 == 1)
        (rmOf (fld (v 2) 8 2)))
    else some (.wsegKeep h)
  | 0x07 => some (.whook h (fld f.hdr 0 12))
  | 0x08 => some (.wret h)
  | 0x09 =>
    match fld f.hdr 0 2 with
    | 0 => some (.wjmp h off) | 1 => some (.wjmpLink h off) | 2 => some (.wjmpRet h) | _ => none
  | 0x0A => some (.wend h)
  | 0x0B =>
    if fld (f.slots.getD 0 0) 13 1 = 1 then
      (rdSync (fld (v 0) 4 1) (fld (v 0) 3 1) (fld (v 0) 0 3)).map fun y =>
        .wwait h (fld f.hdr 8 8) (fld f.hdr 6 2) (fld f.hdr 3 3) (some y)
    else some (.wwait h (fld f.hdr 8 8) (fld f.hdr 6 2) (fld f.hdr 3 3) none)
  | 0x0C => some (.wlink h (fld f.hdr 0 12))
  | 0x0D => some (.wrdzv h (fld f.hdr 0 12))
  | _ => none

/-- Reads a word as an instruction of engine e. -/
def parse (e : Eng) (w : Nat) : Option Instr :=
  if e = .we then parseWe w
  else
    let h := unHead w
    let opc := opcOf w
    if opc < 0x40 then parseCommon h w
    else if 0xF0 ≤ opc then parseSys h w
    else match e with
      | .sq => parseSq h w | .va => parseVa h w | .ve => parseVe h w | .me => parseMe h w | .xe => parseXe h w
      | .we => none | .wick => none

/-! ### Writing a word -/

/-- Guard and token fields, bits 55 to 43. -/
def headBits (h : Head) : Nat :=
  h.tp * 2 ^ 53 + bitN h.pop * 2 ^ 52 + bitN h.push * 2 ^ 51 + h.guard * 2 ^ 44 + bitN h.gneg * 2 ^ 43

def packR (opc : Nat) (h : Head) (f : RForm) : Nat :=
  opc * 2 ^ 56 + headBits h + f.d * 2 ^ 34 + f.a * 2 ^ 25 + f.b * 2 ^ 16 + f.c * 2 ^ 7 + f.m
def packI (opc : Nat) (h : Head) (f : IForm) : Nat :=
  opc * 2 ^ 56 + headBits h + f.d * 2 ^ 34 + f.a * 2 ^ 25 + f.imm * 2 ^ 13 + f.m
def packU (opc : Nat) (h : Head) (f : UForm) : Nat :=
  opc * 2 ^ 56 + headBits h + f.d * 2 ^ 34 + f.imm * 2 ^ 14 + f.m
def packJ (opc : Nat) (h : Head) (f : JForm) : Nat :=
  opc * 2 ^ 56 + headBits h + f.imm * 2 ^ 19 + f.a * 2 ^ 10 + f.m
def packK (opc : Nat) (h : Head) (f : KForm) : Nat :=
  opc * 2 ^ 56 + headBits h + f.a * 2 ^ 34 + f.b * 2 ^ 25 + f.wait * 2 ^ 17 + f.sig * 2 ^ 9 + f.acq * 2 ^ 8
    + f.rel * 2 ^ 7 + f.scope * 2 ^ 4 + f.m
def packV (opc : Nat) (h : Head) (f : VForm) : Nat :=
  opc * 2 ^ 56 + headBits h + f.d * 2 ^ 35 + f.a * 2 ^ 27 + f.b * 2 ^ 19 + f.c * 2 ^ 11 + f.esz * 2 ^ 9
    + f.amod * 2 ^ 6 + f.bmod * 2 ^ 3 + f.fmt * 2 + f.sat
/-- Slots, slot 0 lowest. -/
def packSlots : List Nat → Nat
  | [] => 0
  | v :: r => v + 2 ^ 14 * packSlots r
def packB (opc : Nat) (h : WHead) (f : BForm) : Nat :=
  opc * 2 ^ 248 + h.tp * 2 ^ 245 + bitN h.pop * 2 ^ 244 + bitN h.push * 2 ^ 243 + f.mode * 2 ^ 240 + f.hdr * 2 ^ 224
    + packSlots f.slots

/-- Operand fields. -/
def Opnd.bits : Opnd → Nat
  | .x n => n | .q n => 192 + n | .peek n => 256 + n
def pBits (p : Nat) : Nat := 320 + p
def poBits (p : Option Nat) : Nat := p.elim 0 pBits
def stBits (n : Nat) : Nat := 64 + n
def VSrc.bits : VSrc → Nat
  | .v n => n | .rot n => 64 + n | .pop n => 128 + n | .peek n => 192 + n
def VDst.bits : VDst → Nat
  | .v n => n | .rot n => 64 + n | .push n => 128 + n
def CmpDst.bits : CmpDst → Nat
  | .mask d => d.bits | .any p => p | .all p => p
def CmpDst.kind : CmpDst → Nat
  | .mask _ => 0 | .any _ => 1 | .all _ => 2
def Scope.bits : Scope → Nat
  | .stream => 0 | .core => 1 | .die => 2 | .device => 3 | .system => 4
def Sync.bits (s : Sync) : Nat := bitN s.acq * 16 + bitN s.rel * 8 + s.scope.bits
def Rm.bits : Rm → Nat
  | .rne => 0 | .rz => 1 | .ru => 2 | .rd => 3
def rmBits (r : Option Rm) : Nat := r.elim 0 fun m => 4 + m.bits
def Cond.bits : Cond → Nat
  | .eq => 0 | .ne => 1 | .lt => 2 | .ge => 3 | .ltu => 4 | .geu => 5
def VCond.bits : VCond → Nat
  | .eq => 0 | .ne => 1 | .lt => 2 | .le => 3 | .gt => 4 | .ge => 5 | .un => 6 | .ord => 7
def cvtBits : Fmt → Nat
  | .f32 => 0 | .bf16 => 1 | .f16 => 2 | .e4m3 => 3 | .e5m2 => 4 | .e2m1 => 5 | .i32 => 6 | .u32 => 7 | .i16 => 8
  | .u16 => 9 | .i8 => 10 | .u8 => 11 | .i4 => 12 | .u4 => 13 | .pw2 => 15 | .i64 => 15
def slotBits (o : Option WSlot) : Nat := o.elim 0 fun t => 2 ^ 13 + t.off * 2 ^ 8 + t.code
def WMode.bits : WMode → Nat
  | .pw2 => 0 | .i8 => 1
def WFlush.bits : WFlush → Nat
  | .none => 0 | .add => 1 | .replace => 2

def encR (opc : Nat) (h : Head) (d a b c m : Nat) : Nat := packR opc h ⟨d, a, b, c, m⟩
def encI (opc : Nat) (h : Head) (d a imm m : Nat) : Nat := packI opc h ⟨d, a, imm, m⟩
def encJ (opc : Nat) (h : Head) (imm a m : Nat) : Nat := packJ opc h ⟨imm, a, m⟩
def encK (opc : Nat) (h : Head) (k : KCtl) (a b m : Nat) : Nat :=
  packK opc h ⟨a, b, k.wait.getD 0, k.sig.getD 0, bitN k.sync.acq, bitN k.sync.rel, k.sync.scope.bits,
    bitN k.wait.isSome * 8 + bitN k.sig.isSome * 4 + m⟩
def encV (opc : Nat) (h : Head) (d a b c : Nat) (f : VFmt) : Nat :=
  packV opc h ⟨d, a, b, c, f.esz, f.amod, f.bmod, f.fmt, bitN f.sat⟩
def noSlots : List Nat := List.replicate 16 0
def encB (opc : Nat) (h : WHead) (mode hdr : Nat) (s : List Nat) : Nat := packB opc h ⟨mode, hdr, s⟩
def jmpSlots (off : Int) : List Nat :=
  (2 ^ 13 + fld (uN 26 off) 0 13) :: (2 ^ 13 + fld (uN 26 off) 13 13) :: List.replicate 14 0
/-- Format fields of an instruction whose entry fixes ESZ 00 and FMT 00. -/
def f00 : VFmt := ⟨0, 0, 0, 0, false⟩

/-- The word of an instruction: 64 bits, or 256 for a bundle (R66, R68, R73). Machine events have none and give 0. -/
def encode : Instr → Nat
  | .nop h => encR 0x00 h 0 0 0 0 0
  | .endS h => encR 0x02 h 0 0 0 0 0
  | .rdzv h n => encI 0x03 h 0 0 n 0
  | .br h x o => encJ 0x04 h (uN 24 o) 0 (bitN x * 2)
  | .brc h z x p o => encJ 0x05 h (uN 24 o) (pBits p) (bitN x * 2 + bitN z)
  | .call h a o => encJ 0x06 h (uN 24 o) a 0
  | .callg h d a i => encI 0x07 h d a (uN 12 i) 0
  | .jr h a => encR 0x08 h 0 a 0 0 0
  | .loop h a o => encJ 0x09 h o a 0
  | .loopi h n o => encI 0x0A h 0 0 n o
  | .looph h a o w => encJ 0x0B h o a (w - 1)
  | .trap h c => packU 0x0C h ⟨0, c, 0⟩
  | .csrr h d n => encI 0x0D h d.bits 0 n 0
  | .csrw h a n => encI 0x0E h 0 a.bits n 0
  | .add h d a b => encR 0x10 h d.bits a.bits b.bits 0 0
  | .sub h d a b => encR 0x10 h d.bits a.bits b.bits 0 1
  | .and h d a b => encR 0x10 h d.bits a.bits b.bits 0 2
  | .or h d a b => encR 0x10 h d.bits a.bits b.bits 0 3
  | .xor h d a b => encR 0x10 h d.bits a.bits b.bits 0 4
  | .andn h d a b => encR 0x10 h d.bits a.bits b.bits 0 5
  | .shl h d a b => encR 0x10 h d.bits a.bits b.bits 0 6
  | .shr h d a b => encR 0x10 h d.bits a.bits b.bits 0 7
  | .sra h d a b => encR 0x10 h d.bits a.bits b.bits 0 8
  | .mul h d a b => encR 0x10 h d.bits a.bits b.bits 0 9
  | .mulh h d a b => encR 0x10 h d.bits a.bits b.bits 0 10
  | .mulhu h d a b => encR 0x10 h d.bits a.bits b.bits 0 11
  | .min h d a b => encR 0x10 h d.bits a.bits b.bits 0 12
  | .max h d a b => encR 0x10 h d.bits a.bits b.bits 0 13
  | .minu h d a b => encR 0x10 h d.bits a.bits b.bits 0 14
  | .maxu h d a b => encR 0x10 h d.bits a.bits b.bits 0 15
  | .slt h d a b => encR 0x10 h d.bits a.bits b.bits 0 16
  | .sltu h d a b => encR 0x10 h d.bits a.bits b.bits 0 17
  | .clz h d a => encR 0x10 h d.bits a.bits 0 0 18
  | .popc h d a => encR 0x10 h d.bits a.bits 0 0 19
  | .sel h d a b p => encR 0x10 h d.bits a.bits b.bits (pBits p) 20
  | .addi h d a i => encI 0x11 h d.bits a.bits (uN 12 i) 0
  | .andi h d a i => encI 0x11 h d.bits a.bits (uN 12 i) 1
  | .ori h d a i => encI 0x11 h d.bits a.bits (uN 12 i) 2
  | .xori h d a i => encI 0x11 h d.bits a.bits (uN 12 i) 3
  | .slti h d a i => encI 0x11 h d.bits a.bits (uN 12 i) 7
  | .sltiu h d a i => encI 0x11 h d.bits a.bits (uN 12 i) 8
  | .shli h d a s => encI 0x11 h d.bits a.bits s 4
  | .shri h d a s => encI 0x11 h d.bits a.bits s 5
  | .srai h d a s => encI 0x11 h d.bits a.bits s 6
  | .lih h d i => packU 0x12 h ⟨d.bits, uN 20 i, 0⟩
  | .cmp h c p a b => encR 0x13 h (pBits p) a.bits b.bits 0 c.bits
  | .cmpi h c p a i => encI 0x14 h (pBits p) a.bits (uN 12 i) c.bits
  | .pand h d a b => encR 0x15 h (pBits d) (pBits a) (pBits b) 0 0
  | .por h d a b => encR 0x15 h (pBits d) (pBits a) (pBits b) 0 1
  | .pxor h d a b => encR 0x15 h (pBits d) (pBits a) (pBits b) 0 2
  | .pandn h d a b => encR 0x15 h (pBits d) (pBits a) (pBits b) 0 3
  | .pmov h d a => encR 0x15 h (pBits d) (pBits a) 0 0 4
  | .pseti h d v => encR 0x15 h (pBits d) 0 (bitN v) 0 5
  | .ld h d a i s z => encI 0x16 h d.bits a.bits (uN 12 i) (s + bitN z * 4)
  | .st h d a i s => encI 0x17 h d a.bits (uN 12 i) s
  | .ldg h d a i s z => encI 0x18 h d a (uN 12 i) (s + bitN z * 4)
  | .stg h d a i s => encI 0x19 h d a (uN 12 i) s
  | .blkh h s =>
    0x01 * 2 ^ 56 + headBits h + s.sem * 2 ^ 35 + s.scnt * 2 ^ 33 + s.tcnt * 2 ^ 30 + s.qin * 2 ^ 22 + s.qout * 2 ^ 14
      + s.qn * 2 ^ 11 + s.greg * 2 ^ 5 + s.sync.bits
  | .ssig h sem n s => encI 0x40 h 0 0 n (sem * 32 + s.bits)
  | .sset h sem a => encI 0x41 h 0 a 0 (sem * 32)
  | .sget h d sem => encI 0x42 h d 0 0 (sem * 32)
  | .mark h j m => encI 0x43 h 0 0 m j
  | .mjoin h j => encI 0x44 h 0 0 0 j
  | .mpost h d a ch => encI 0x45 h d a ch 0
  | .gjoin h ch => encI 0x46 h 0 0 ch 0
  | .gleave h ch => encI 0x47 h 0 0 ch 0
  | .garv h d ch s => encI 0x48 h d 0 ch s.bits
  | .gbar h d ch s => encI 0x49 h d 0 ch s.bits
  | .ckpt h a n => encI 0x4A h 0 a n 0
  | .planeQuery h d a => encI 0x4B h d a 0 0
  | .planeStage h d a => encI 0x4B h d a 0 1
  | .planeDrop h d a => encI 0x4B h d a 0 2
  | .rft h k => encR 0xF0 h 0 0 0 0 (bitN k)
  | .resume h a => encR 0xF1 h 0 a 0 0 0
  | .ctxsv h a b => encR 0xF2 h 0 a b 0 0
  | .ctxld h d a b => encR 0xF3 h d a b 0 0
  | .tlbiDataAll h a g => encR 0xF4 h 0 a 0 0 (0 + bitN g * 4)
  | .tlbiDataPage h a g => encR 0xF4 h 0 a 0 0 (1 + bitN g * 4)
  | .tlbiInstrAll h a g => encR 0xF4 h 0 a 0 0 (2 + bitN g * 4)
  | .tlbiInstrPage h a g => encR 0xF4 h 0 a 0 0 (3 + bitN g * 4)
  | .keyopLoad h d a b => encR 0xF5 h d a b 0 0
  | .keyopDestroy h d a b => encR 0xF5 h d a b 0 1
  | .keyopQuery h d a b => encR 0xF5 h d a b 0 2
  | .capw h ch g a b => encR 0xF6 h 0 a b 0 (ch + bitN g * 64)
  | .tnset h g a b => encR 0xF7 h 0 a b 0 (bitN g)
  | .sdef h d a i => encI 0x40 h (stBits d) a (uN 12 i) 0
  | .slvl h d a i => encI 0x41 h (stBits d) a (uN 12 i) 0
  | .sfib h a b l => encR 0x42 h 0 (stBits a.n) b 0 (l + bitN a.rot * 8)
  | .sint h d a b => encR 0x43 h (stBits d) (stBits a) (stBits b) 0 0
  | .suni h d a b => encR 0x44 h (stBits d) (stBits a) (stBits b) 0 0
  | .sskip h a b => encR 0x45 h 0 (stBits a.n) b 0 (bitN a.rot * 8)
  | .spos h d a s => encR 0x46 h d (stBits a.n) 0 0 (bitN s * 4 + bitN a.rot * 8)
  | .scrd h d a m => encR 0x47 h d (stBits a.n) 0 0 (m + bitN a.rot * 8)
  | .ldq h q a b p wd kp s =>
    encR 0x48 h (192 + q) (stBits a.n) b (poBits p) (bitN wd + bitN kp * 2 + bitN s * 4 + bitN a.rot * 8)
  | .ldqc h q a b p kp => encR 0x49 h (192 + q) (stBits a.n) b (poBits p) (bitN kp * 2 + bitN a.rot * 8)
  | .ldqa h q a b p kp s =>
    encR 0x4B h (192 + q) (stBits a.n) b (poBits p) (bitN kp * 2 + bitN s * 4 + bitN a.rot * 8)
  | .stq h d q pk b nar sat =>
    encR 0x4A h (stBits d.n) ((if pk then 256 else 192) + q) b 0 (bitN nar + bitN sat * 2 + bitN d.rot * 8)
  | .lls h a b c => encR 0x4C h 0 a b c 0
  | .mrgb h q q2 i => encR 0x4D h (192 + q) 0 0 0 (q2 + bitN i * 8)
  | .mrgi h a b => encR 0x4E h 0 (stBits a.n) b 0 (bitN a.rot * 8)
  | .mrge h b p => encR 0x4F h 0 0 b (poBits p) 0
  | .bfxp h q a b bp => encR 0x50 h (192 + q) a b 0 bp
  | .bfxpSet h a bp => encR 0x50 h 0 a 0 0 (bp + 8)
  | .loopt h a o k => encJ 0x51 h o (stBits a.n) ((k - 1) + bitN a.rot * 128)
  | .prf h a b => encR 0x52 h 0 (stBits a.n) b 0 (bitN a.rot * 8)
  | .srel h a => encR 0x53 h 0 (stBits a.n) 0 0 (bitN a.rot * 8)
  | .vfadd h d a b r f => encV 0x40 h d.bits a.bits b.bits (rmBits r) f
  | .vfsub h d a b r f => encV 0x41 h d.bits a.bits b.bits (rmBits r) f
  | .vfmul h d a b r f => encV 0x42 h d.bits a.bits b.bits (rmBits r) f
  | .vfma h d a b c f => encV 0x43 h d.bits a.bits b.bits c.bits f
  | .vfms h d a b c f => encV 0x44 h d.bits a.bits b.bits c.bits f
  | .vfnma h d a b c f => encV 0x45 h d.bits a.bits b.bits c.bits f
  | .vfmin h d a b f => encV 0x46 h d.bits a.bits b.bits 0 f
  | .vfmax h d a b f => encV 0x47 h d.bits a.bits b.bits 0 f
  | .vfcmp h d c a b f => encV 0x48 h d.bits a.bits b.bits (c.bits + d.kind * 8) f
  | .vlog2 h d a f => encV 0x49 h d.bits a.bits 0 0 f
  | .vexp2 h d a f => encV 0x4A h d.bits a.bits 0 0 f
  | .vrcp h d a f => encV 0x4B h d.bits a.bits 0 0 f
  | .vrsq h d a f => encV 0x4C h d.bits a.bits 0 0 f
  | .vcvt h d a s t r f => encV 0x4D h d.bits a.bits 0 (cvtBits s * 16 + bitN t * 8 + rmBits r) f
  | .vscl h d a b r f => encV 0x4E h d.bits a.bits b.bits (rmBits r) f
  | .vpks h d a r f => encV 0x4F h d.bits a.bits 0 (rmBits r) f
  | .vadd h d a b f => encV 0x50 h d.bits a.bits b.bits 0 f
  | .vsub h d a b f => encV 0x51 h d.bits a.bits b.bits 0 f
  | .vmul h d a b f => encV 0x52 h d.bits a.bits b.bits 0 f
  | .vmulh h d a b f => encV 0x53 h d.bits a.bits b.bits 0 f
  | .vmad h d a b c f => encV 0x54 h d.bits a.bits b.bits c.bits f
  | .vand h d a b f => encV 0x55 h d.bits a.bits b.bits 0 f
  | .vor h d a b f => encV 0x56 h d.bits a.bits b.bits 0 f
  | .vxor h d a b f => encV 0x57 h d.bits a.bits b.bits 0 f
  | .vshl h d a b f => encV 0x58 h d.bits a.bits b.bits 0 f
  | .vshr h d a b f => encV 0x59 h d.bits a.bits b.bits 0 f
  | .vsra h d a b f => encV 0x5A h d.bits a.bits b.bits 0 f
  | .vmin h d a b f => encV 0x5B h d.bits a.bits b.bits 0 f
  | .vmax h d a b f => encV 0x5C h d.bits a.bits b.bits 0 f
  | .vadds h d a b f => encV 0x5D h d.bits a.bits b.bits 0 f
  | .vsubs h d a b f => encV 0x5E h d.bits a.bits b.bits 0 f
  | .vcmp h d c a b f => encV 0x5F h d.bits a.bits b.bits (c.bits + d.kind * 8) f
  | .vsel h d a b c f => encV 0x60 h d.bits a.bits b.bits c.bits f
  | .vmov h d a f => encV 0x61 h d.bits a.bits 0 0 f
  | .vli h d i z =>
    encV 0x62 h d.bits (fld i 24 8) (fld i 16 8) (fld i 8 8) ⟨z, fld i 0 2, fld i 5 3, fld i 2 3, false⟩
  | .vbcst h d a k f => encV 0x63 h d.bits a.bits k 0 f
  | .vbcstX h d a f => encV 0x63 h d.bits a 0 1 f
  | .vperm h d a b f => encV 0x64 h d.bits a.bits b.bits 0 f
  | .vrot h d a k f => encV 0x65 h d.bits a.bits k 0 f
  | .vlane h d a f => encV 0x66 h d.bits a 0 0 f
  | .vhash h d a b f => encV 0x67 h d.bits a.bits b.bits 0 f
  | .vradd h d a f => encV 0x68 h d.bits a.bits 0 0 f
  | .vrmax h d a mn fl f => encV 0x69 h d.bits a.bits 0 (bitN mn + bitN fl * 2) f
  | .vrmaxi h d a b p f => encV 0x6A h d.bits a.bits b.bits (p.getD 126) f
  | .vrmini h d a b p f => encV 0x6B h d.bits a.bits b.bits (p.getD 126) f
  | .vrfadd h d a r f => encV 0x6C h d.bits a.bits 0 (rmBits r) f
  | .vext h d a k e f => encV 0x6D h d a.bits k e f
  | .vacrF32 h d a l => encV 0x6E h d.bits a (uN 8 l) 0 f00
  | .vacrRaw h d a l => encV 0x6E h d.bits a (uN 8 l) 2 f00
  | .vacwF32 h d a l => encV 0x6F h d a.bits (uN 8 l) 0 f00
  | .vacwAdd h d a l => encV 0x6F h d a.bits (uN 8 l) 1 f00
  | .vacwRaw h d a l => encV 0x6F h d a.bits (uN 8 l) 2 f00
  | .loopq h q pk o k => encV 0x70 h (o / 256) ((if pk then 192 else 128) + q) (k - 1) (o % 256) f00
  | .vqlen h p q n => encV 0x71 h p q n 0 f00
  | .vqlenZero h p q => encV 0x71 h p q 0 1 f00
  | .wnop h => encB 0x00 h 0 0 noSlots
  | .wt h m d s => encB 0x01 h m.bits d (s.map slotBits)
  | .wg h m c d s => encB 0x02 h m.bits (d * 256 + c) (s.map slotBits)
  | .wf h acc k s => encB 0x03 h 0 (bitN acc * 32 + k) (s.map slotBits)
  | .wtf h m d s => encB 0x04 h m.bits d (s.map slotBits)
  | .wrow h f o en => encB 0x05 h 0 (f.bits * 2 ^ 14 + bitN o * 2 ^ 13 + uN 7 en) noSlots
  | .wsegFull h b r l g m =>
    encB 0x06 h 0 1 ((2 ^ 13 + b) :: (2 ^ 13 + (r - 1)) :: (2 ^ 13 + m.bits * 256 + bitN g * 128 + uN 7 l)
      :: List.replicate 13 0)
  | .wsegKeep h => encB 0x06 h 0 0 noSlots
  | .whook h n => encB 0x07 h 0 n noSlots
  | .wret h => encB 0x08 h 0 0 noSlots
  | .wjmp h o => encB 0x09 h 0 0 (jmpSlots o)
  | .wjmpLink h o => encB 0x09 h 0 1 (jmpSlots o)
  | .wjmpRet h => encB 0x09 h 0 2 noSlots
  | .wend h => encB 0x0A h 0 0 noSlots
  | .wwait h sem sc tc s =>
    encB 0x0B h 0 (sem * 256 + sc * 64 + tc * 8) (s.elim 0 (fun y => 2 ^ 13 + y.bits) :: List.replicate 15 0)
  | .wlink h n => encB 0x0C h 0 n noSlots
  | .wrdzv h n => encB 0x0D h 0 n noSlots
  | .mtw h a b => packK 0x40 h ⟨a, b, 0, 0, 0, 0, 0, 0⟩
  | .mtws h k d b => encK 0x41 h k (stBits d) b 0
  | .mgo h k x => encK 0x42 h k 0 0 (bitN x)
  | .mdrn h k d b => encK 0x43 h k (stBits d) b 0
  | .mbyp h k b => encK 0x44 h k 0 b 0
  | .mrqt h k d b => encK 0x45 h k (stBits d) b 0
  | .mzero h k b => encK 0x46 h k 0 b 0
  | .midx h k d b => encK 0x47 h k (stBits d) b 0
  | .mnms h k d b => encK 0x48 h k (stBits d) b 0
  | .mrpr h k b x => encK 0x49 h k 0 b (bitN x)
  | .mrst h k b x => encK 0x4A h k 0 b (bitN x)
  | .xcp h k a b => encK 0x40 h k a b 0
  | .xcpg h k a b => encK 0x41 h k a b 0
  | .xred h k a b => encK 0x42 h k a b 0
  | .xexp h k a b => encK 0x43 h k a b 0
  | .xarv h k a b => encK 0x44 h k a b 0
  | .xstep h k a => encK 0x45 h k a 0 0
  | .xpln h k a b => encK 0x46 h k a b 0
  | .xbrd h k a b => encK 0x47 h k a b 0
  | .xalt h k a b => encK 0x48 h k a b 0
  | .xrep h k a b => encK 0x49 h k a b 0
  | .xdrp h k a b => encK 0x4A h k a b 0
  | .xsigr h k a b => encK 0x4B h k a b 0
  | .xkeyEnc h k a b => encK 0x4C h k a b 0
  | .xkeyDec h k a b => encK 0x4C h k a b 1
  | .xqryRing h k b => encK 0x4D h k 0 b 0
  | .xqryPeek h k a b => encK 0x4D h k a b 1
  | _ => 0

/-! ### Decoding: the checks of R78 in their order -/

/-- Check 1: whether the opcode is assigned in the engine (R74 to R77, R109, R112). -/
def opcAssigned (e : Eng) (opc : Nat) : Bool :=
  match e with
  | .we => opc < 0x0E
  | _ =>
    if opc < 0x40 then
      if opc = 0x0B then e == .va || e == .ve
      else if opc = 0x16 ∨ opc = 0x17 then e == .sq || e == .va || e == .wick
      else if opc = 0x18 ∨ opc = 0x19 then e == .sq || e == .wick
      else opc != 0x0F && opc < 0x16
    else if 0xF0 ≤ opc then (e == .sq || e == .wick) && opc < 0xF8
    else match e with
      | .sq => opc < 0x4C | .va => opc < 0x54 | .ve => opc < 0x72 | .me => opc < 0x4B | .xe => opc < 0x4E
      | .we => false | .wick => false

/-- Check 2: a system opcode needs privilege, which the wick core always holds; RFT is the wick core's alone (R76,
R131). -/
def opcPrivileged (e : Eng) (priv : Bool) (opc : Nat) : Bool :=
  0xF0 ≤ opc && e == .sq && (!priv || opc == 0xF0)

/-- Decodes one word of engine e (R78, checks 1 to 5). priv says whether the stream holds privilege. -/
def decodeWord (e : Eng) (priv : Bool) (w : Nat) : Except DecodeErr Instr :=
  let opc := if e = .we then fld w 248 8 else opcOf w
  if !opcAssigned e opc then .error .illegal
  else if opcPrivileged e priv opc then .error .privileged
  else match parse e w with
    | none => .error .illegal
    | some i =>
      if !i.accepted e then .error .illegal
      else if !(i.clean && encode i == w) then .error .reserved
      else .ok i

/-- The little-endian value of a list of bytes (R5). -/
def leBytes : List Byte → Nat
  | [] => 0
  | b :: r => b.toNat + 256 * leBytes r

/-- The n low bytes of a value, lowest first (R5). -/
def toBytes : Nat → Nat → List Byte
  | 0, _ => []
  | n + 1, w => BitVec.ofNat 8 w :: toBytes n (w / 256)

/-- Bytes an instruction of the engine takes. -/
def instrLen (e : Eng) : Nat := if e = .we then 32 else 8

/-- The word that an engine reads from its instruction bytes: little-endian, and in a bundle the first dword is bits 255
to 192 (R5, R73). -/
def wordOf (e : Eng) (bs : List Byte) : Nat :=
  if e = .we then
    leBytes (bs.take 8) * 2 ^ 192 + leBytes ((bs.drop 8).take 8) * 2 ^ 128 + leBytes ((bs.drop 16).take 8) * 2 ^ 64
      + leBytes ((bs.drop 24).take 8)
  else leBytes (bs.take 8)

/-- The bytes of an instruction of the engine, as they stand in memory. -/
def bytesOf (e : Eng) (w : Nat) : List Byte :=
  if e = .we then
    toBytes 8 (w / 2 ^ 192) ++ toBytes 8 (w / 2 ^ 128) ++ toBytes 8 (w / 2 ^ 64) ++ toBytes 8 w
  else toBytes 8 w

/-- Decodes the bytes of one instruction; fewer bytes than an instruction takes are refused as illegal. -/
def decode (e : Eng) (priv : Bool) (bs : List Byte) : Except DecodeErr Instr :=
  if bs.length < instrLen e then .error .illegal else decodeWord e priv (wordOf e bs)

/-- The bytes of an instruction in memory. -/
def encodeBytes (e : Eng) (i : Instr) : List Byte := bytesOf e (encode i)

/-- The engine whose decoder the table numbering is given to: a 256-bit row is a bundle, and a 64-bit word goes to the
first engine in the order SQ, VA, VE, ME, XE, wick core that takes it (the table does not say which engine a row belongs
to). -/
def tableEng (nbits w : Nat) : Option Eng :=
  if nbits = 256 then some .we
  else [Eng.sq, .va, .ve, .me, .xe, .wick].find? fun e =>
    match decodeWord e true w with
    | .ok _ => true
    | .error _ => false

/-- The instruction word w of a row that the table gives nbits bits. -/
def decodeTableWord (nbits w : Nat) : Option Instr :=
  (tableEng nbits w).bind fun e =>
    match decode e true (if e = .we then toBytes 32 w else toBytes 8 w) with
    | .ok i => some i
    | .error _ => none

end Sys2Proof
end

