-- ==== Sys2Proof/Machine/State.lean ====
section
/-!
DEFINITION. Sys2Proof/Machine/State.lean: the state of the whole module as plain data, its reset, and the reasons a
step can stop. Sparse storage is held as SMap with a default that each field's docstring names; an unlisted core, die,
job slot, stream slot or register is at its reset value.
-/

namespace Sys2Proof.Machine

/-- Nothing on this machine stops a step with a fault: every trap of R138 is a next state in which the job has stopped
or the core is frozen. The one constructor is kept for a host access to a device physical address at or past 2^40,
which does not exist (R27); HOST_BAR2_ACCESS raises it, and stopping there is safe. -/
inductive Fault where
  | noSuchAddress
  deriving DecidableEq, Repr

/-- Reasons the model has no meaning for a step. Safe: no claim can be proved of a step it refuses. -/
inductive Refusal where
  /-- An instruction without a meaning; raised by exec for an arm not yet written. Safe. -/
  | notModelled (mnemonic : String)
  deriving DecidableEq, Repr

/-! ### Streams -/

/-- The stream a step acts for: core, engine, slot, and the slots of that engine that have already yielded this clock.
The model's own (log 4). -/
structure Ctx where
  core : Nat
  eng : Eng
  slot : Nat
  tried : List Nat
  deriving DecidableEq, Repr

/-- One micro-step of a clock (log 4): an event, the issue choice of one engine of one core (R100), the application of a
packet, one clock of a router, or a Roslor job's command. -/
inductive Turn where
  | event (i : Instr)
  | issue (c : Nat) (e : Eng) (tried : List Nat)
  | packet (id : Nat)
  | router (r : Nat)
  | roslor (c j : Nat)
  deriving DecidableEq, Repr

/-- A hardware loop (R113): start and end address, iterations left, and for LOOPH its window w (0: none) and rotation
base (R112). -/
structure LoopEnt where
  start : Nat
  fin : Nat
  rem : Nat
  w : Nat
  base : Nat
  deriving DecidableEq, Repr

/-- A resident slot (R97). live covers ELIGIBLE and WAITING, which Stream.wait tells apart. -/
inductive SlotSt where
  | free | held | live | stopped
  deriving DecidableEq, Repr

/-- The settings of a segment (R261). -/
structure Seg where
  accbase : Nat := 0
  accrows : Nat := 128
  lacc : Int := 0
  e4m3 : Bool := false
  frm : Rm := .rne
  nfl : Nat := 0
  deriving DecidableEq, Repr

/-- What a live stream waits for (R97); none is ELIGIBLE. -/
inductive Wait where
  | none
  /-- an unsatisfied BLKH or WWAIT (R19, R115) -/
  | head (i : Instr)
  /-- RDZV or WRDZV n (R10) -/
  | rdzv (n : Nat)
  /-- CKPT n with its table address (R104) -/
  | ckpt (n addr : Nat)
  /-- GBAR until the phase completes: destination, the channel's group, the phase arrived at, acquire scope (R128) -/
  | gbar (d g ph : Nat) (acq : Bool) (sc : Scope)
  /-- MPOST until its answer: destination (R126) -/
  | post (d : Nat)
  /-- WSEG until its reads complete (R293): the partner a token was popped from, 8 higher where it was taken from the block's
  credit, the settings before it, and the map and tenant records it has read -/
  | wseg (pop : Option Nat) (old : Seg) (map tslots : SMap Nat)
  /-- LDG until the reply to its read: destination, size, extension, physical address, request (R15, R119) -/
  | load (d size : Nat) (zext : Bool) (pa rid : Nat)
  deriving DecidableEq, Repr

/-- The current fibre of a level (R191, R215): its parent position; the next place to read, a position for compressed and
singleton levels and a coordinate for dense and bitmap ones, and where it ends; for a bitmap POS[p], the count POS[p+1] −
POS[p] and the elements passed; the coordinate read last before it; and whether the end has been passed (R195). -/
structure Fib where
  p : Nat
  cur : Nat
  fin : Nat
  base : Nat
  cnt : Nat
  rank : Nat
  last : Option Nat
  ended : Bool
  deriving DecidableEq, Repr

/-- A stream register (R208): the raw descriptor and level records, the fibre of each level, the current level, the dense
index, the operands of a co-iterator, and the co-iterator that binds it. -/
structure StReg where
  valid : Bool := false
  desc : Nat := 0
  levels : List Nat := []
  mode : Nat := 0
  done : Bool := false
  lvl : Nat := 0
  fibs : SMap (Option Fib) := []
  idx : Nat := 0
  opA : Nat := 0
  opB : Nat := 0
  bound : Option Nat := none
  deriving DecidableEq, Repr

/-- A leaf of the merge tree (R197): a copy of the descriptor, the level and the fibre, and its scale. -/
structure Leaf where
  desc : Nat
  lrec : Nat
  fib : Fib
  scale : Nat
  deriving DecidableEq, Repr

/-- The merge state of a VA stream (R197, R225). -/
structure Merge where
  int : Bool
  q1 : Nat
  q2 : Nat
  leaves : List Leaf
  /-- VA clocks before the tree accepts the next MRGE (R227) -/
  busy : Nat
  deriving DecidableEq, Repr

/-- Hook state of a WE stream (R256, R294): the WHOOK in progress. -/
structure Hook where
  act : Bool := false
  pc : Nat := 0
  n : Nat := 0
  tenant : Nat := 0
  entry : Bool := false
  next : Nat := 0
  running : Bool := false
  deriving DecidableEq, Repr

/-- The weight-code part of a stream (R256, R261). Lane l of factor n stands under 1,024·n + l as a 24-bit pattern, and
lane l of the row register under l, laid out as an accumulator-store slot. -/
structure We where
  f : SMap Nat := []
  row : SMap Nat := []
  opn : Bool := false
  e : Int := 0
  nv : Bool := false
  seg : Seg := {}
  lr : Nat := 0
  map : SMap Nat := []
  present : List Nat := []
  tslots : SMap Nat := []
  ovroots : SMap Nat := []
  hook : Hook := {}
  deriving DecidableEq, Repr

/-- The bypass buffer (R380, R392): codes by 256·row + column and scales by 8·row + block. -/
structure Bypass where
  rows : Nat
  ext : Nat
  dfmt : Nat
  code : SMap Nat
  scale : SMap Nat
  deriving DecidableEq, Repr

/-- The matrix-engine part of a stream (R368): bindings as raw descriptors (0 empty), nest tables by dword. -/
structure Me where
  bind : SMap Nat := []
  shadow : SMap Nat := []
  active : SMap Nat := []
  prog : Nat := 0
  faultaddr : Nat := 0
  halt : Bool := false
  /-- clock before which no step of the running nest commits (R375), and before which no command starts (R383) -/
  ready : Nat := 0
  bypass : Option Bypass := none
  deriving DecidableEq, Repr

/-- A queued or started ME or XE command (R306, R381): its instruction, the register values read at issue, the pc of its
word, its number (R143), whether it has started and when, and its progress. -/
structure Cmd where
  instr : Instr
  vals : List Nat
  pc : Nat
  idx : Nat
  clk : Nat
  started : Bool := false
  at_ : Nat := 0
  pos : Nat := 0
  stage : Nat := 0
  need : Option (Nat × Nat) := none
  needVa : Nat := 0
  data : SMap Byte := []
  aux : List Nat := []
  finished : Bool := false
  deriving DecidableEq, Repr

/-- One resident stream slot of an engine, and, under key 24, the wick core's registers (R84, R146, R174, R175, R256,
R368). Registers default to 0. v holds the 128 lanes of a vector register packed, lane 0 lowest. -/
structure Stream where
  st : SlotSt := .free
  job : Nat := 0
  pc : Nat := 0
  x : SMap Word := []
  p : SMap Bool := []
  rm : Rm := .rne
  f8ns : Bool := false
  flags : Nat := 0
  /-- flags that have landed in this clock (R41), and the clock of the last landing plus one (R110) -/
  landFlags : Nat := 0
  landClk : Nat := 0
  loops : List LoopEnt := []
  wait : Wait := .none
  waited : Nat := 0
  age : Nat := 0
  promoted : Bool := false
  stalled : Bool := false
  /-- the next word or bundle is absent from the code buffer (R266) -/
  absent : Bool := false
  issued : Bool := false
  /-- whether the stream was ELIGIBLE when its engine's first turn of this clock came (R97, R101) -/
  ready : Bool := false
  /-- clocks until the stream's last issued instruction retires, which no later one precedes (R14) -/
  retLeft : Nat := 0
  noIssue : Nat := 0
  rootT : Nat := 0
  need : Option (Nat × Nat) := none
  needVa : Nat := 0
  credit : Nat := 0
  creditFrom : Nat := 0
  owe : Option Nat := none
  /-- the partner of a token that an instruction has taken which is made again until it completes (R67) -/
  popd : Option Nat := none
  groups : List Nat := []
  ncmd : Nat := 0
  cmds : List Cmd := []
  /-- a trap of this ME or XE stream lets the commands queued before it start and complete (R140) -/
  drains : Bool := false
  stregs : SMap StReg := []
  bps : SMap Word := []
  merge : Option Merge := none
  v : SMap Nat := []
  we : We := {}
  me : Me := {}
  deriving DecidableEq, Repr

/-! ### Exposed results and queues -/

/-- An entry of a queue register (R176). -/
inductive QEnt where
  | vec (lanes : Nat) (n : Nat)
  | sca (v : Word)
  deriving DecidableEq, Repr

/-- A place of a queue (R177): reserved by a push under its number, landed in this clock, or present. -/
inductive QPlace where
  | reserved (id : Nat)
  | landed (e : QEnt)
  | present (e : QEnt)
  deriving DecidableEq, Repr

/-- A queue register: its places from the head on, and the places freed in this clock, which count as occupied until the
next (R177). -/
structure Queue where
  places : List QPlace := []
  freed : Nat := 0
  deriving DecidableEq, Repr

/-- Where an exposed result lands (R181). -/
inductive Land where
  | x (n : Nat) (v : Word)
  | p (n : Nat) (v : Bool)
  | v (n : Nat) (lanes : Nat)
  | q (n id : Nat) (e : QEnt)
  | acc (slot : Nat) (mode : Nat) (v : Int) (sat : Bool)
  | f (n : Nat) (lanes : List Nat)
  | sem (n amount pc : Nat)
  /-- the signal of an ME or XE command: semaphore, the command's word and number, and the semaphore as the job names it -/
  | sig (n pc idx num : Nat)
  /-- nothing lands: register n is under the interlock of R108 until then -/
  | hold (n : Nat)
  | none
  deriving DecidableEq, Repr

/-- An exposed result in flight: its stream, the clocks left, where it lands, the flags that land with it (R41, R181) and
its whole latency, which replay needs (R151). -/
structure Pending where
  key : Nat
  rem : Nat
  dst : Land
  flags : Nat
  lat : Nat := rem
  deriving DecidableEq, Repr

/-- An instruction that has issued and not retired, with the token push it carries (R13, R15). -/
structure Retire where
  key : Nat
  job : Nat
  partner : Nat
  rem : Nat
  deriving DecidableEq, Repr

/-- A pushed token that its partner cannot pop yet (R13). -/
structure Maturing where
  job : Nat
  fifo : Nat
  rem : Nat
  deriving DecidableEq, Repr

/-- What the landings of VA or WE at the engine's turn have changed, to be undone where the engine turns out to be held (R182,
R263). -/
structure Undo where
  pending : List Pending
  retires : List Retire
  maturing : List Maturing
  queues : SMap Queue
  streams : SMap Stream
  deriving DecidableEq, Repr

/-- A flush in progress (R263): row, whether it adds, the 1,024 values with their SAT bits, the clock it issued in and
the next lane group. -/
structure Flush where
  key : Nat
  row : Nat
  add : Bool
  vals : List (Int × Bool)
  clk : Nat
  group : Nat
  flags : Nat
  partner : Option Nat
  deriving DecidableEq, Repr

/-- A lane-store fill (R224): source, geometry, line stride, the next group and whether it has started. -/
structure Fill where
  key : Nat
  src : Nat
  geo : Nat
  stride : Nat
  group : Nat
  started : Bool
  partner : Option Nat
  deriving DecidableEq, Repr

/-- What had issued and not landed when a job was switched out (R150): results, retirements, flushes and fills. -/
structure Replay where
  pend : List Pending := []
  ret : List Retire := []
  flush : List Flush := []
  fill : List Fill := []
  deriving DecidableEq, Repr

/-! ### Jobs -/

/-- Job states (R98). QUEUED is an entry of the mailbox and STAGED the core's staged job. held is a job loaded by CTXLD
before RESUME (R133). -/
inductive JobSt where
  | free | loading | running | yielding | stopping | stopped | held | retired | saved
  deriving DecidableEq, Repr

/-- The trap record of a job slot (R143). -/
structure TrapRec where
  cause : Nat := 0
  pc : Nat := 0
  cmd : Nat := 0
  status : Nat := 0
  eng : Nat := 0
  deriving DecidableEq, Repr

/-- An event record of the mailbox (R90). -/
structure Event where
  tag : Nat
  kind : Nat
  code : Nat
  slot : Nat
  count : Nat
  cycles : Nat
  deriving DecidableEq, Repr

/-- A marker placed by MARK (R20, R125): the SQ stream and join slot that own it, the engine and its stream of the job,
and what is ahead of it: for ME and XE the commands numbered below upto, for VA, VE and WE the clocks until everything in
flight has landed, the flushes and fills, and whether a WHOOK or a WSEG is under way. -/
structure Marker where
  key : Nat
  join : Nat
  eng : Nat
  tgt : Nat
  upto : Nat
  work : Nat
  hook : Bool
  deriving DecidableEq, Repr

/-! ### Roslor (R274 to R283) -/

/-- What a command publishes: code by virtual address, and the fields of its record: ENTRY, ROWS, BUNDLES, OVFL, HOOKVEC and
NHOOK, and the row locators that it writes. -/
structure RosOut where
  code : List (Nat × List Byte)
  entry : Nat
  rows : Nat
  bundles : Nat
  ovfl : Nat
  hookvec : Nat
  nhook : Nat
  locs : List (Nat × Nat)
  deriving DecidableEq, Repr

/-- A Roslor command that has read what it works on and has not published yet (R282): the level-1 table it read, STATUS and INDEX
of a failure, what it will publish, and the clocks left. -/
structure RosRun where
  l1 : Nat
  err : Nat × Nat
  out : RosOut
  left : Nat
  deriving DecidableEq, Repr

/-- A job slot of a core (R9, R85, R98). desc is the 64-byte descriptor (R89) and sec the job section of its plane by
dword (R316). tokens counts the FIFO from engine a to engine b under 8·a + b. -/
structure Job where
  st : JobSt := .free
  desc : Nat := 0
  engmask : Nat := 0
  qmask : Nat := 0
  semBase : Nat := 0
  semSize : Nat := 0
  priv : Bool := false
  unlim : Bool := false
  grace : Bool := false
  /-- a pre-emption request that reached a frozen core, which takes effect at the thaw (R152) -/
  asked : Bool := false
  remain : Nat := 0
  overrun : Bool := false
  byLoader : Bool := false
  tmap : Nat := 0
  itBase : Nat := 0
  dtBase : Nat := 0
  sec : SMap Word := []
  tokens : SMap Nat := []
  markers : List Marker := []
  trap : TrapRec := {}
  trapClk : Option Nat := none
  /-- the program-class record of a stopping job while the record describes a local fault of it (R145, R149) -/
  keptTrap : Option TrapRec := none
  startClk : Nat := 0
  heldEvent : Option Event := none
  replay : Replay := {}
  /-- the nest may commit one more step before a forced switch (R150) -/
  nestRun : Bool := false
  /-- a forced switch that has not yet written its image: the code of its event (R90, R150) -/
  switchCode : Nat := 0
  /-- ROW_PROGRESS as the job's ME stream left it when it ended (R374) -/
  rowProg : Nat := 0
  /-- what a job that is loading restores (R107): 0 nothing, 1 a checkpoint, 2 a forced switch, 3 an image still to be read
  (R96) -/
  resKind : Nat := 0
  /-- a job that RERUN loads, which has started before (R96, R99) -/
  again : Bool := false
  /-- code lines that the loader's prefetch awaits (R94) -/
  lines : List Nat := []
  /-- the command of a Roslor job at work (R282) -/
  ros : Option RosRun := none
  deriving DecidableEq, Repr

/-- A byte barrier (R311). -/
structure Barrier where
  balance : Int := 0
  exp : Bool := false
  phase : Bool := false
  bound : Bool := false
  group : Nat := 0
  sigen : Bool := false
  sem : Nat := 0
  owner : Option (Nat × Nat) := none
  deriving DecidableEq, Repr

/-! ### Translation, packets -/

/-- A data translation entry (R203): table root, page number at 64 KiB, whether it maps 2 MiB, the leaf. -/
structure Dtlb where
  dt : Nat
  page : Nat
  large : Bool
  leaf : Nat
  deriving DecidableEq, Repr

/-- An instruction translation entry (R266). -/
structure Itlb where
  root : Nat
  page : Nat
  leaf : Nat
  deriving DecidableEq, Repr

/-- An entry of the miss queue (R204): the table and page key, the walk it has joined, and the cause that walk ended in.
Code pages carry keys from 2^32 upward. -/
structure Miss where
  dt : Nat
  page : Nat
  walk : Option Nat := none
  res : Option Nat := none
  deriving DecidableEq, Repr

/-- A request that waits for room in the miss queue (R204): its key, its engine, its line, and whether it came in this
clock. -/
structure MissWait where
  dt : Nat
  page : Nat
  eng : Nat
  line : Nat
  fresh : Bool
  deriving DecidableEq, Repr

/-- What a walk ends in: a leaf (large for 2 MiB), a cause, or an uncorrectable error at an address (R265, R412). -/
inductive Walk where
  | leaf (v : Nat) (large : Bool)
  | cause (n : Nat)
  | bad (a : Nat)
  deriving DecidableEq, Repr

/-- A page walker at work (R204): its number, its key, the table level and the dword it reads, whether later misses may join
it (R134), and what it has ended in. -/
structure Walker where
  id : Nat
  dt : Nat
  page : Nat
  level : Nat
  addr : Nat
  joins : Bool
  res : Option Walk
  deriving DecidableEq, Repr

/-- What a request of a core was sent for (R361): code names a quarter of a code line (R266); stale is the read of a line
that is no longer wanted, late a request that has timed out. -/
inductive Purpose where
  | line (pa : Nat)
  | code (part : Nat)
  | cmd (key idx pos : Nat)
  | write (key : Nat)
  | signal (key idx : Nat)
  | plane (key idx : Nat)
  | post (key : Nat)
  | host
  | stale
  | late
  deriving DecidableEq, Repr

/-- A request without its answer (R354, R361): what for, destination die, base-die port tag, the clock it entered P(c),
and the instruction that sent it. -/
structure Req where
  rid : Nat
  purpose : Purpose
  dest : Nat
  link : Option Nat
  slice : Option Nat
  tag : Nat
  clk : Nat
  key : Nat
  job : Nat
  pc : Nat
  cmd : Nat
  deriving DecidableEq, Repr

/-- Packet kinds (R349). -/
inductive PKind where
  | read | write | readReply | writeAck | reduce | signal | arrival | signalReply | plane | planeAnswer | post
  | postAnswer | errorReply | reserved
  deriving DecidableEq, Repr

/-- A packet (R349): header fields, data, whether the link's code found a data flit that it could not correct, and the
model's own numbers: id, the request it belongs to, whether the wick core or a page walker sent it or awaits it, the die that
stamped it with its sequence number and vector clock (R53), and whether it has reached its apply queue. space tells the far
end: 0 a die of this module, 1 host memory, 2 this module from a peer, 3 a peer module; linkIn is the link a packet from a
peer came in by. -/
structure Packet where
  id : Nat
  rid : Nat
  kind : PKind
  dest : Nat
  src : Nat
  sjslot : Nat
  djslot : Nat
  vc : Nat
  tag : Nat
  op : Nat
  issue : Nat
  addr : Nat
  mask : Nat
  slice : Bool
  space : Nat
  data : List Byte
  args : List Nat
  xmod : Nat
  linkIn : Nat
  crc : Nat
  flitBad : Bool
  wick : Bool
  walk : Bool
  arrInput : Nat
  die : Nat
  seq : Nat
  vec : SMap Nat
  arrived : Bool
  deriving DecidableEq, Repr

/-- What stands for the sender in a request: core, stream key, job slot, the word's pc, the command's number, the present
clock and the clock in which the instruction or command was issued. -/
structure Sender where
  core : Nat
  key : Nat
  job : Nat
  pc : Nat
  cmd : Nat
  clk : Nat
  issue : Nat
  deriving DecidableEq, Repr

/-- A line to be read ahead (R205, R223): stream key, data address, the pc of the word that asked for it, and whether it has been
looked up (R203). -/
structure Pref where
  key : Nat
  va : Nat
  pc : Nat
  asked : Bool := false
  deriving DecidableEq, Repr

/-- A packet in a drain buffer (R49), of a VA, ME or XE stream or of a context image: its sender, what its answer is awaited
for, its destination die and whether it goes to a slice or a module link. -/
structure DbEnt where
  who : Sender
  pkt : Packet
  purpose : Purpose
  dest : Nat
  slice : Option Nat
  link : Option Nat
  deriving DecidableEq, Repr

/-- A flit in a router buffer: its packet, its number, whether it is the packet's last (R349), and the
clock from which it can be forwarded (R351). -/
structure Flit where
  pid : Nat
  i : Nat
  last : Bool
  at_ : Nat
  deriving DecidableEq, Repr

/-- A router (R351 to R353): buffers by 4·input + channel, owners by 4·output + channel, the round of each output as
(channel, flits used), the input served last, clocks waited and promotions by input and channel, the promoted packet that
keeps an output as 4·input + channel, and packets waiting to enter. Inputs and outputs are numbered as R362 numbers inputs. -/
structure Router where
  buf : SMap (List Flit) := []
  owner : SMap (Option Nat) := []
  rndVc : SMap Nat := []
  rndUsed : SMap Nat := []
  last : SMap Nat := []
  waited : SMap Nat := []
  promoted : SMap Bool := []
  hold : SMap (Option Nat) := []
  inject : SMap (List Flit) := []
  deriving DecidableEq, Repr

/-! ### Cores, dies, the module -/

/-- The mailbox of a core (R87, R88, R90, R98). entry is keyed by 8·queue + index. -/
structure Mbox where
  entry : SMap Nat := []
  head : SMap Nat := []
  tail : SMap Nat := []
  resume : SMap (List Nat) := []
  fifo : List Event := []
  held : List (Event ⊕ Nat) := []
  consider : Bool := false
  /-- keys of the entries that virtual functions posted (R405) -/
  vf : List Nat := []
  deriving DecidableEq, Repr

/-- A core (R3, R9). Streams are keyed 4·engine + slot, and 24 holds the wick core's registers. -/
structure Core where
  spad : SMap Byte := []
  /-- scratchpad bytes written in this clock, each with its contents before it, which reads of this clock return, and the
  rank of its writer, to which a write of lower rank gives way (R24) -/
  prev : List (Nat × Byte × Nat) := []
  acc : SMap Nat := []
  /-- the same of accumulator slots, and what VE itself sees of those it has written (R249) -/
  prevAcc : List (Nat × Nat × Nat) := []
  accVe : List (Nat × Nat) := []
  lane : SMap Byte := []
  /-- the same of lane-store bytes (R202) -/
  prevLane : List (Nat × Byte × Nat) := []
  sems : SMap Nat := []
  semStart : SMap Nat := []
  barriers : SMap Barrier := []
  jobs : SMap Job := []
  streams : SMap Stream := []
  queues : SMap Queue := []
  last : SMap Nat := []
  /-- clock before which an engine issues nothing: the bubble of R19 -/
  bubble : SMap Nat := []
  /-- engine and clock of replayed issues, which take the engine's issue (R151) -/
  reissue : List (Nat × Nat) := []
  frozen : Bool := false
  thaw : Bool := false
  wickStart : Nat := 0
  wickMem : SMap Byte := []
  trapJob : Nat := 0
  trapKey : Nat := 0
  /-- the local cause of the freeze, and whether a started command raised it (R132, R149) -/
  trapCause : Nat := 0
  trapCmd : Bool := false
  mbox : Mbox := {}
  active : SMap Word := []
  staged : SMap Word := []
  planeSt : Nat := 0
  /-- the parts that have come of a plane record of more than one packet, by its sender and command (R319, R349) -/
  planeParts : List (Nat × List Byte) := []
  rbCount : Nat := 0
  rbLast : Bool := false
  stagedJob : Option Nat := none
  /-- descriptors of the jobs that are SAVED and left to the host (R98), which UNLOAD counts (R170) -/
  left : List Nat := []
  dtlb : List Dtlb := []
  itlb : List Itlb := []
  misses : List Miss := []
  missWait : List MissWait := []
  dtLookups : Nat := 0
  dtMisses : Nat := 0
  dtJoins : Nat := 0
  dtFull : Nat := 0
  code : List (Nat × Nat) := []
  codeWant : List Nat := []
  /-- quarters of awaited code lines that have come, by 4·line + quarter, and lines that could not be read (R156, R266) -/
  codeParts : SMap (List Byte) := []
  codeErr : List Nat := []
  rb : SMap (List Byte) := []
  /-- lines that a running nest asked for and that could not be read (R357, R376) -/
  rbErr : List Nat := []
  vaHeld : Bool := false
  /-- a WROW waits for the flush path, and WE issues nothing (R263) -/
  weHeld : Bool := false
  undo : Option Undo := none
  pending : List Pending := []
  retires : List Retire := []
  maturing : List Maturing := []
  flushes : List Flush := []
  fills : List Fill := []
  db : List DbEnt := []
  pref : List Pref := []
  /-- lines that a command of ME has had looked up and has not asked for yet: stream key and data address over 64 (R203) -/
  looked : List (Nat × Nat) := []
  port : List Packet := []
  reqs : List Req := []
  tags : SMap Nat := []
  /-- tags by 16·tag + slice that answers of this clock have freed: they can be taken from the next clock (R354) -/
  tagsDue : List Nat := []
  drops : SMap Nat := []
  lastSrc : SMap Nat := []
  nextQ : Nat := 0
  deriving DecidableEq, Repr

/-- An entry of a die's image table (R92, R406): the 512 bits and the hash kept with it. -/
structure Image where
  bits : Nat := 0
  hash : Nat := 0
  deriving DecidableEq, Repr

/-- A die: image table, image loader registers (R166), key slots (R135), plane table (R317), vector clock (R53), arbiter
weights (R352), counters and sensor. -/
structure Die where
  images : SMap Image := []
  ilSrc : Nat := 0
  ilLen : Nat := 0
  ilDt : Nat := 0
  ilIt : Nat := 0
  ilCode : Nat := 0
  ilData : Nat := 0
  ilCmd : Nat := 0
  ilStatus : Nat := 0
  ilGp : Nat := 0
  keys : SMap (Option Nat) := []
  planeBase : Nat := 0
  planeCount : Nat := 0
  clock : SMap Nat := []
  weights : SMap Nat := []
  /-- the page walkers at work, 16 at most (R204) -/
  walks : List Walker := []
  dtWalks : Nat := 0
  corr : SMap Nat := []
  uncorr : SMap Nat := []
  errlog : List (Nat × Nat) := []
  temp : Int := 0
  deriving DecidableEq, Repr

/-- A device-wide group (R21, R22): members as core and stream key, phase number, the members that the open phase waits
for, those that have arrived, the vector clocks that the arrivals of the open phase brought with a release, and those of the
last complete phase (R60). -/
structure Group where
  members : List (Nat × Nat) := []
  phase : Nat := 0
  expect : List (Nat × Nat) := []
  arrived : List (Nat × Nat) := []
  vec : SMap Nat := []
  done : SMap Nat := []
  deriving DecidableEq, Repr

/-- A tile on the ring (R322, R324): its name, version, 4 KiB of contents (byte 0 lowest), and for a pending tile the
boarding command (core, stream key, command) and whether another boarding of its name spoilt it; and the vector clock of the
passage in which its contents were last replaced (R64). -/
structure Tile where
  name : Nat
  ver : Nat
  data : Nat
  pend : Option (Nat × Nat × Nat)
  spoilt : Bool
  boardedAt : Nat
  vec : SMap Nat := []
  deriving DecidableEq, Repr

/-- A WE code tile awaited at a station (R268): the core, the first physical line of the tile's copy, the lines asked for,
the tile's name and the clocks left before the lines are read from that copy. -/
structure Catch where
  core : Nat
  line : Nat
  lines : List Nat
  name : Nat
  left : Nat
  deriving DecidableEq, Repr

/-- The carousel (R321, R322): CAROUSEL_SLOTS, the ring clock, and the tiles by ring slot. -/
structure Ring where
  cur : Nat := 3
  pend : Nat := 0
  pvalid : Bool := false
  rc : Nat := 0
  tiles : SMap (Option Tile) := []
  catches : List Catch := []
  deriving DecidableEq, Repr

/-- A module link (R363 to R367): LCTL and LSTAT fields, whether training has begun, counters, the transmit queue with the
flits of its first packet that have gone, the bytes the link can still carry in this clock, the peer's buffers in use by
channel, and the packets that have gone to the peer and that arrive from it. -/
structure MLink where
  enable : Bool := false
  training : Bool := false
  up : Bool := false
  peer : Nat := 0
  lanes : Nat := 0
  drops : Nat := 0
  tx : Nat := 0
  rx : Nat := 0
  lt : List Packet := []
  sent : Nat := 0
  room : Nat := 0
  used : SMap Nat := []
  out : List Packet := []
  inq : List Packet := []
  deriving DecidableEq, Repr

/-- A host window (R404). -/
structure Window where
  addr : Nat := 0
  size : Nat := 0
  ctl : Nat := 0
  deriving DecidableEq, Repr

/-- What bring-up finds when it runs (R402, R409): the strap, which checks pass, the wick image, and what the management
firmware sets. Inputs of the machine (log 6). -/
structure Bring where
  strap : Nat := 0
  bootOk : Bool := true
  trainOk : Bool := true
  wickOk : Bool := true
  wickImage : SMap Byte := []
  planeBase : SMap Nat := []
  planeCount : SMap Nat := []
  weights : SMap Nat := []
  /-- the hash of the Roslor image (R274), 0 for none -/
  roslor : Nat := 0
  deriving DecidableEq, Repr

/-- A soft error that comes to light where an SRAM is read (R156): in clock clk, on core `core`, read by the stream of key
`key`, in the structure of R144's code `struct`; fatal for one that its code cannot correct. Inputs of the machine (log 81). -/
structure Soft where
  clk : Nat
  core : Nat
  key : Nat
  struct : Nat
  fatal : Bool
  deriving DecidableEq, Repr

/-- Device memory and host memory: address and byte, addresses strictly rising, no entry equal to what an unlisted
address reads as (Machine/Ops.lean: Memory.blank). -/
abbrev Memory := List Host.Cell

/-- The whole module. -/
structure State where
  cycles : Nat
  mem : Memory
  hostMem : Memory
  /-- ECC words of device memory, by address over 32, that hold an uncorrectable error (R357): an input, which no step adds
  to (log 81) -/
  bad : List Nat
  /-- soft errors that the SRAMs will meet: an input (log 81) -/
  soft : List Soft
  cores : SMap Core
  dies : SMap Die
  groups : SMap Group
  ring : Ring
  routers : SMap Router
  net : List Packet
  links : SMap MLink
  moduleId : Nat
  windows : SMap Window
  partitions : SMap Nat
  lanternIdx : Nat
  lcmd : Nat
  lstat : Nat
  ready : Bool
  trip : Bool
  tripDie : Nat
  bifur : Nat
  bootStep : Nat
  bootFail : Nat
  power : Nat
  bring : Bring
  agenda : List Instr
  todo : List Turn
  cur : Ctx
  nextId : Nat
  freeCtr : Nat
  /-- LEVEL of the compilations that stand in device memory, by the address of their output records: what Roslor knows of them
  when a PATCH names one (R281) -/
  levels : SMap Nat
  deriving DecidableEq, Repr

/-- The module right after reset (R409): READY and every other BOOTSTAT field 0, every SRAM and register at its reset
value, no packet, no tile (CAROUSEL_SLOTS.CUR 011), and the bring-up sequence as the next thing to happen. The values
the spec does not give are in log 1, log 2, log 5 and log 6. -/
def State.reset : State where
  cycles := 0
  mem := []
  hostMem := []
  bad := []
  soft := []
  cores := []
  dies := []
  groups := []
  ring := {}
  routers := []
  net := []
  links := []
  moduleId := 0
  windows := []
  partitions := []
  lanternIdx := 0
  lcmd := 0
  lstat := 0
  ready := false
  trip := false
  tripDie := 0
  bifur := 0
  bootStep := 0
  bootFail := 0
  power := 0
  bring := {}
  agenda := []
  todo := [.event .reset]
  cur := ⟨0, .sq, 0, []⟩
  nextId := 0
  freeCtr := 0
  levels := []

end Sys2Proof.Machine
end

