-- ==== Sys2Proof/Machine/Map.lean ====
section
/-!
DEFINITION. Sys2Proof/Machine/Map.lean: reading and writing the sparse maps of the State, in their one canonical form
(keys strictly rising, no entry equal to the default), and the bit, byte and lane helpers.
-/

namespace Sys2Proof.Machine

/-- What a map holds at a key, if the key is listed. -/
def mlook {α : Type} (k : Nat) : SMap α → Option α
  | [] => none
  | (a, v) :: r => if a = k then some v else mlook k r

/-- What a map reads as at a key: d where the key is not listed. -/
def mget {α : Type} (d : α) (m : SMap α) (k : Nat) : α := (mlook k m).getD d

/-- A map with the entry of key k removed. -/
def mdel {α : Type} (k : Nat) (m : SMap α) : SMap α := m.filter fun e => e.1 != k

/-- A map with an entry for key k, in place of any it has. -/
def mset {α : Type} (k : Nat) (v : α) : SMap α → SMap α
  | [] => [(k, v)]
  | (a, w) :: r => if k < a then (k, v) :: (a, w) :: r else if k = a then (k, v) :: r else (a, w) :: mset k v r

/-- A map with the value v at key k; writing the default removes the entry. -/
def mput {α : Type} [DecidableEq α] (d : α) (k : Nat) (v : α) (m : SMap α) : SMap α :=
  if v = d then mdel k m else mset k v m

/-- Whether every key of a map is above b. -/
def mabove {α : Type} (b : Nat) : SMap α → Bool
  | [] => true
  | (a, _) :: r => b < a && mabove b r

/-- The canonical form of a map. -/
def mwf {α : Type} [DecidableEq α] (d : α) : SMap α → Bool
  | [] => true
  | (a, v) :: r => decide (v ≠ d) && mabove a r && mwf d r

/-- The entries whose keys p takes, for clearing part of a storage. -/
def mkeep {α : Type} (p : Nat → Bool) (m : SMap α) : SMap α := m.filter fun e => p e.1

/-- n consecutive entries from key k. -/
def mrange {α : Type} (d : α) (m : SMap α) (k n : Nat) : List α := (List.range n).map fun i => mget d m (k + i)

/-- Consecutive values from key k written into a map. -/
def mputs {α : Type} [DecidableEq α] (d : α) (k : Nat) : List α → SMap α → SMap α
  | [], m => m
  | v :: vs, m => mputs d (k + 1) vs (mput d k v m)

/-- The entries of a map from key k on, and those before it. -/
def mspan {α : Type} (k : Nat) : SMap α → SMap α × SMap α
  | [] => ([], [])
  | (a, v) :: r =>
    if a < k then
      let (lo, hi) := mspan k r
      ((a, v) :: lo, hi)
    else ([], (a, v) :: r)

/-- What a map holds at rising keys, in one pass. -/
def mreads {α : Type} (d : α) : List Nat → SMap α → List α
  | [], _ => []
  | k :: ks, m =>
    let r := m.dropWhile fun e => e.1 < k
    (match r with
      | (a, v) :: _ => if a = k then v else d
      | [] => d) :: mreads d ks r

/-- A map without its first entry, if that is key k's. -/
def mskip {α : Type} (k : Nat) : SMap α → SMap α
  | [] => []
  | (a, w) :: r => if a = k then r else (a, w) :: r

/-- A map with values written at rising keys, in one pass. -/
def mwrites {α : Type} [DecidableEq α] (d : α) : List (Nat × α) → SMap α → SMap α
  | [], m => m
  | (k, v) :: us, m =>
    let (lo, hi) := mspan k m
    let rest := mwrites d us (mskip k hi)
    lo ++ (if v = d then rest else (k, v) :: rest)

/-- Whether keys rise. -/
def rising {α : Type} : List (Nat × α) → Bool
  | a :: b :: r => a.1 < b.1 && rising (b :: r)
  | _ => true

/-- Values written into a map one after another; in one pass where their keys rise. -/
def mbulk {α : Type} [DecidableEq α] (d : α) (us : List (Nat × α)) (m : SMap α) : SMap α :=
  if rising us then mwrites d us m else us.foldl (fun m u => mput d u.1 u.2 m) m

/-! ### Bits and bytes -/

/-- w with its n bits from bit lo replaced by v (R5). -/
def setFld (w lo n v : Nat) : Nat := w % 2 ^ lo + v % 2 ^ n * 2 ^ lo + w / 2 ^ (lo + n) * 2 ^ (lo + n)

/-- A bit of a Nat. -/
def bit (w i : Nat) : Bool := w / 2 ^ i % 2 == 1

/-- n with a multiple of k no larger than it (k positive). -/
def alignDown (n k : Nat) : Nat := n / k * k

/-- Lane i of packed 32-bit lanes. -/
def laneOf (v i : Nat) : Nat := fld v (32 * i) 32

/-- Lanes packed into one number, lane 0 lowest. -/
def packLanes (w : Nat) : List Nat → Nat
  | [] => 0
  | x :: xs => x % 2 ^ w + 2 ^ w * packLanes w xs

/-- The first n w-bit fields of a number. -/
def unpackLanes (w n v : Nat) : List Nat := (List.range n).map fun i => fld v (w * i) w

/-- Signed reading of an n-bit pattern held in a Word. -/
def word (n : Nat) : Word := BitVec.ofNat 64 n

/-- Little-endian bytes of a number (R5). -/
def nbytes (n v : Nat) : List Byte := toBytes n v

/-- Sum of the elements of a list. -/
def lsum (l : List Nat) : Nat := l.foldl (· + ·) 0

/-- Positions of a mask of n bits. -/
def maskBits (n m : Nat) : List Nat := (List.range n).filter (bit m)

/-- Whether [a, a+n) and [b, b+m) share an address. -/
def overlaps (a n b m : Nat) : Bool := n != 0 && m != 0 && a < b + m && b < a + n

/-- Replace element i of a list. -/
def lset {α : Type} (i : Nat) (v : α) (l : List α) : List α := l.set i v

/-- Update the first element p holds of. -/
def lupd {α : Type} (p : α → Bool) (f : α → α) : List α → List α
  | [] => []
  | x :: xs => if p x then f x :: xs else x :: lupd p f xs

/-- Remove the first element p holds of. -/
def ldel {α : Type} (p : α → Bool) : List α → List α
  | [] => []
  | x :: xs => if p x then xs else x :: ldel p xs

end Sys2Proof.Machine
end

