-- ==== Sys2Proof/Machine/Ops.lean ====
section
/-!
DEFINITION. Sys2Proof/Machine/Ops.lean: the named operations over memory, registers, predicates, semaphores, tokens and
queues; taking a trap and returning from one; and the one frame in which every instruction with a word runs (runI).
-/

namespace Sys2Proof.Machine

/-! ### Memory (R5, R27) -/

/-- What a byte that nothing has written reads as (log 2). -/
def Memory.blank : Byte := 0

/-- The canonical form of a memory: addresses strictly rising, no entry equal to Memory.blank. -/
abbrev Memory.wf (m : Memory) : Bool := mwf Memory.blank m

/-- One byte of a memory. -/
def rdByte (m : SMap Byte) (a : Nat) : Byte := mget Memory.blank m a

/-- n bytes of a memory from address a. -/
def rdBytes (m : SMap Byte) (a n : Nat) : List Byte := (List.range n).map fun i => rdByte m (a + i)

/-- Bytes written to a memory from address a. -/
def wrBytes (m : SMap Byte) (a : Nat) (bs : List Byte) : SMap Byte := mputs Memory.blank a bs m

/-- Which of some writes of one rank stand among those of the same clock, and the record of the clock after them: a write
gives way to one of higher rank, and the record keeps what stood before the first (R24, R202). olds are the contents now. -/
def rankWrites {α : Type} (rank : Nat) (prev : List (Nat × α × Nat)) (us : List (Nat × α)) (olds : List α) :
    List (Nat × α) × List (Nat × α × Nat) :=
  let all := us.zip olds
  let ok := if prev.isEmpty then all else all.filter fun u => (mlook u.1.1 prev).elim true fun q => q.2 ≤ rank
  (ok.map Prod.fst, ok.map (fun u => (u.1.1, (mlook u.1.1 prev).elim u.2 Prod.fst, rank)) ++ prev)

/-- A little-endian value of n bytes (R5). -/
def rdLe (m : SMap Byte) (a n : Nat) : Nat := leBytes (rdBytes m a n)

/-- A little-endian value stored in n bytes (R5). -/
def wrLe (m : SMap Byte) (a n v : Nat) : SMap Byte := wrBytes m a (toBytes n v)

/-! ### Cores, streams, jobs -/

def State.core (s : State) (c : Nat) : Core := mget {} s.cores c
def State.setCore (s : State) (c : Nat) (v : Core) : State := { s with cores := mput {} c v s.cores }
def State.updCore (s : State) (c : Nat) (f : Core → Core) : State := s.setCore c (f (s.core c))
def State.die (s : State) (d : Nat) : Die := mget {} s.dies d
def State.setDie (s : State) (d : Nat) (v : Die) : State := { s with dies := mput {} d v s.dies }
def State.updDie (s : State) (d : Nat) (f : Die → Die) : State := s.setDie d (f (s.die d))
def State.group (s : State) (g : Nat) : Group := mget {} s.groups g
def State.setGroup (s : State) (g : Nat) (v : Group) : State := { s with groups := mput {} g v s.groups }

/-- The stream key of a slot of an engine (R4); the wick core's registers stand under 24. -/
def skey (e : Eng) (slot : Nat) : Nat := if e = .wick then 24 else 4 * e.num + slot

/-- The engine of a stream key. -/
def engOf (k : Nat) : Eng :=
  match k / 4 with
  | 0 => .sq | 1 => .va | 2 => .ve | 3 => .we | 4 => .me | 5 => .xe | _ => .wick

/-- Resident stream slots of an engine (R4). -/
def slotsOf : Eng → Nat
  | .sq => 2 | .va => 4 | .ve => 4 | .we => 2 | .me => 1 | .xe => 4 | .wick => 1

/-- The keys of all stream slots of a core. -/
def allKeys : List Nat := [0, 1, 4, 5, 6, 7, 8, 9, 10, 11, 12, 13, 16, 20, 21, 22, 23]

/-- Engines whose latencies are exposed (R13, R14). -/
def exposed : Eng → Bool
  | .va => true | .ve => true | .we => true
  | .sq => false | .me => false | .xe => false | .wick => false

def Core.stream (c : Core) (k : Nat) : Stream := mget {} c.streams k
def Core.setStream (c : Core) (k : Nat) (v : Stream) : Core := { c with streams := mput {} k v c.streams }
def Core.updStream (c : Core) (k : Nat) (f : Stream → Stream) : Core := c.setStream k (f (c.stream k))
def Core.job (c : Core) (j : Nat) : Job := mget {} c.jobs j
def Core.setJob (c : Core) (j : Nat) (v : Job) : Core := { c with jobs := mput {} j v c.jobs }
def Core.updJob (c : Core) (j : Nat) (f : Job → Job) : Core := c.setJob j (f (c.job j))
def Core.queue (c : Core) (q : Nat) : Queue := mget {} c.queues q
def Core.setQueue (c : Core) (q : Nat) (v : Queue) : Core := { c with queues := mput {} q v c.queues }

/-- The die of a module-wide core (R7). -/
def dieOf (c : Nat) : Nat := c / 16

/-- The key of the stream a step acts for. -/
def Ctx.key (x : Ctx) : Nat := skey x.eng x.slot

/-- The job slot a stream belongs to; the wick core acts for the job whose trap it handles (R146). -/
def Core.jobOf (c : Core) (k : Nat) : Nat := if k = 24 then c.trapJob else (c.stream k).job

/-- The keys of the live streams of a job. -/
def Core.jobKeys (c : Core) (j : Nat) : List Nat :=
  allKeys.filter fun k => (c.stream k).st != .free && (c.stream k).job == j

/-! ### Registers and predicates (R69) -/

/-- x0 reads as zero. -/
def Stream.getX (t : Stream) (n : Nat) : Word := if n = 0 then 0 else mget 0 t.x n

/-- A write to x0 is discarded. -/
def Stream.setX (t : Stream) (n : Nat) (v : Word) : Stream := if n = 0 then t else { t with x := mput 0 n v t.x }

def Stream.getP (t : Stream) (n : Nat) : Bool := mget false t.p n
def Stream.setP (t : Stream) (n : Nat) (v : Bool) : Stream := { t with p := mput false n v t.p }
def Stream.getV (t : Stream) (n : Nat) : Nat := mget 0 t.v n
def Stream.setV (t : Stream) (n : Nat) (v : Nat) : Stream := { t with v := mput 0 n v t.v }

/-- Flag bits of FPSTAT (R40) ORed into a stream's flags. -/
def Stream.orFlags (t : Stream) (f : Nat) : Stream := { t with flags := t.flags ||| f }

/-- The guard of a 64-bit word (R66, R67). -/
def Stream.guardTrue (t : Stream) (h : Head) : Bool :=
  if h.guard = 126 then true else (t.getP h.guard) != h.gneg

/-! ### Semaphores (R16, R17) -/

/-- The core semaphore that a job names n, if n is within its window. -/
def Job.sem (j : Job) (n : Nat) : Option Nat := if n < j.semSize then some (j.semBase + n) else none

def Core.semCount (c : Core) (n : Nat) : Nat := mget 0 c.sems n
def Core.setSem (c : Core) (n v : Nat) : Core := { c with sems := mput 0 n v c.sems }

/-- TRAP_STATUS of cause 0x0E and 0x0F (R144): kind 0 channel, 1 semaphore, 2 queue register, 3 region. -/
def kindStatus (kind n : Nat) : Nat := kind * 2 ^ 8 + n % 2 ^ 8

/-- TRAP_STATUS of an address (R144). -/
def addrStatus (a : Nat) : Nat := a / 2 ^ 16 % 2 ^ 32 * 2 ^ 32 + a % 2 ^ 16

/-- TRAP_STATUS of a fault met at an address (R144): cause 0x12 names the structure, device memory. -/
def faultStatus (n a : Nat) : Nat := if n = 0x12 then 4 else addrStatus a

/-! ### Regions (R184, R185) -/

/-- Dword i of a job section (R316). -/
def Job.secW (j : Job) (i : Nat) : Nat := (mget 0 j.sec i).toNat

/-- Whether region descriptor r contains scratchpad offset a. -/
def regionHas (r a : Nat) : Bool := bit r 63 && fld r 0 20 ≤ a && a < fld r 0 20 + fld r 22 20

/-- Whether every byte of [a, a+n) lies in a region of the job. Regions begin and end at multiples of 1 KiB (R184), so
one byte of every 1 KiB stands for the rest. -/
def Job.inRegions (j : Job) (a n : Nat) : Bool :=
  (List.range ((a + n - 1) / 1024 + 1 - a / 1024)).all fun i =>
    let b := max a ((a / 1024 + i) * 1024)
    (List.range 8).any fun r => regionHas (j.secW r) b

/-! ### Traps (R137 to R144) -/

/-- TRAP_ENGINE with its JSLOT, ENGINE and SLOT fields (R143). -/
def trapEng (j k : Nat) : Nat := j % 8 * 2 ^ 8 + k / 4 * 2 ^ 5 + k % 4

/-- MULTI of TRAP_ENGINE. -/
def multiBit : Nat := 2 ^ 14

/-- Records a program-class trap of job slot j in clock clk (R140 to R143). A trap of another stream in the same clock sets
MULTI, and the record names the lower engine and slot (R141). A job that is not running records nothing. -/
def Core.recordTrap (c : Core) (clk j : Nat) (r : TrapRec) : Core :=
  let b := c.job j
  match b.st with
  | .running | .yielding => c.setJob j { b with st := .stopping, trap := r, trapClk := some clk }
  | .stopping =>
    if b.trapClk = some clk then
      let lo := if r.eng % 2 ^ 8 < b.trap.eng % 2 ^ 8 then r else b.trap
      let multi := if r.eng % 2 ^ 8 = b.trap.eng % 2 ^ 8 then b.trap.eng &&& multiBit else multiBit
      c.setJob j { b with trap := { lo with eng := lo.eng ||| multi } }
    else c
  | .free | .loading | .stopped | .held | .retired | .saved => c

/-- A trap against a job whose local fault has been handled (R148, R149): it stops the job, and it is the record also of a
job that was stopping already. -/
def Core.recordFault (c : Core) (clk j : Nat) (r : TrapRec) : Core :=
  match (c.job j).st with
  | .stopping => c.updJob j fun b => { b with trap := r, keptTrap := none }
  | .running | .yielding | .free | .loading | .stopped | .held | .retired | .saved => c.recordTrap clk j r

/-- A residue that a REMOVE or a switch leaves (R142): its job is no longer running, and its record tells of it. -/
def Core.recordResidue (c : Core) (clk j : Nat) (r : TrapRec) : Core :=
  match (c.job j).st with
  | .stopped | .saved => c.updJob j fun b => { b with trap := r }
  | .running | .yielding | .stopping | .free | .loading | .held | .retired => c.recordTrap clk j r

/-- A local fault that is handled leaves the record of a job that was stopping already as it was (R145). -/
def Core.restoreTrap (c : Core) (j : Nat) : Core :=
  c.updJob j fun b => match b.keptTrap with
    | none => b
    | some r => { b with trap := r, keptTrap := none }

/-- The record of a stream's own trap: TRAP_CMD counts the commands queued before it in ME and XE (R143). -/
def Core.trapRecOf (c : Core) (k cause status : Nat) : TrapRec :=
  let t := c.stream k
  { cause := cause, pc := t.pc, cmd := if k = 16 || 20 ≤ k then t.ncmd else 0, status := status,
    eng := trapEng t.job k }

/-- HFAIL of TRAP_ENGINE. -/
def hfailBit : Nat := 2 ^ 15

/-- What raised the local fault goes no further when its job stops: the trapped stream, or the started command that met the
page (R140, R149). -/
def Core.dropFault (c : Core) : Core :=
  let k := c.trapKey
  let bad := fun (m : Cmd) => c.misses.any fun x => m.need == some (x.dt, x.page) && x.res.isSome
  c.updStream k fun t =>
    if c.trapCmd then { t with st := .stopped, drains := false, cmds := t.cmds.filter fun m => m.started && !bad m }
    else { t with st := .stopped, need := none, drains := k = 16 || 20 ≤ k }

/-- The wick core abandons its handler (R148): the trapped job stops with its original cause, whatever the handler has
written to TRAP_CAUSE, HFAIL set and NEST holding the wick core's own cause, and the core thaws. -/
def Core.handlerFail (c : Core) (clk cause : Nat) : Core :=
  let b := c.job c.trapJob
  let r := { b.trap with cause := c.trapCause, eng := (b.trap.eng % 2 ^ 24 ||| hfailBit) + cause % 2 ^ 8 * 2 ^ 24 }
  { (c.dropFault.recordFault clk c.trapJob r) with thaw := true }

/-- Taking a program-class trap (R140): the trapping stream stops at its instruction, which has no effect; in the wick
core the handler fails (R148). -/
def Core.takeTrap (c : Core) (clk k cause status : Nat) : Core :=
  if k = 24 then (c.handlerFail clk cause).updStream 24 fun t => { t with st := .stopped }
  else (c.recordTrap clk (c.stream k).job (c.trapRecOf k cause status)).updStream k fun t =>
    { t with st := .stopped, need := none, drains := k = 16 || 20 ≤ k }

/-- A local-class fault freezes the core (R145): the record describes it and the wick core's handler starts at offset
8·cause one clock later (R146). k is the faulting stream, r the record, cmd says that a started command faulted. -/
def Core.freeze (c : Core) (clk k : Nat) (r : TrapRec) (cmd : Bool) : Core :=
  let j := (c.stream k).job
  let c1 := c.updJob j fun b => { b with trap := r, keptTrap := if b.st = .stopping then some b.trap else none }
  let c2 := { c1 with
    frozen := true, thaw := false, wickStart := clk + 1, trapJob := j, trapKey := k, trapCause := r.cause, trapCmd := cmd }
  c2.updStream 24 fun t => { t with st := .live, pc := 8 * r.cause, loops := [], wait := .none, noIssue := clk + 1 }

/-- The core goes on in the clock after RFT (R132). -/
def Core.thawNext (c : Core) : Core :=
  { c with thaw := true }.updStream 24 fun t => { t with st := .stopped }

/-! ### Tokens (R13, R14) -/

/-- The number of the FIFO from engine a to engine b. -/
def fifoNo (a b : Nat) : Nat := 8 * a + b

def Job.tok (j : Job) (f : Nat) : Nat := mget 0 j.tokens f
def Job.setTok (j : Job) (f n : Nat) : Job := { j with tokens := mput 0 f n j.tokens }

/-- Tokens of a FIFO that are counted, maturing or owed by an issued instruction. -/
def Core.fifoLoad (c : Core) (j f : Nat) : Nat :=
  (c.job j).tok f + (c.maturing.filter fun m => m.job == j && m.fifo == f).length
    + (c.retires.filter fun r => r.job == j && fifoNo (r.key / 4) r.partner == f).length
    + (c.fills.filter fun r => (c.stream r.key).job == j && (r.partner.map (fifoNo (r.key / 4)) == some f)).length
    + (c.flushes.filter fun r => (c.stream r.key).job == j && (r.partner.map (fifoNo (r.key / 4)) == some f)).length
    + ((c.jobKeys j).filter fun k => (c.stream k).owe.map (fifoNo (k / 4)) == some f).length

/-- Outcome of the token checks of an instruction. -/
inductive Tok where
  | ok (c : Core)
  | trap (cause status : Nat)
  | stall
  deriving DecidableEq, Repr

/-- Takes one token of the FIFO from partner tp (R13, R180): the block's credit first, then the FIFO. -/
def Core.popTok (c : Core) (k tp : Nat) : Option Core :=
  let t := c.stream k
  if t.credit != 0 && t.creditFrom == tp then some (c.setStream k { t with credit := t.credit - 1 })
  else
    let f := fifoNo tp (k / 4)
    let n := (c.job t.job).tok f
    if n = 0 then none else some (c.updJob t.job fun b => b.setTok f (n - 1))

/-- Token pop and the checks of a push at issue (R14). A push of an exposed engine to a full FIFO traps at issue, where
a full FIFO is one whose counted and owed tokens are 16 (log 9). -/
def Core.tokens (c : Core) (k tp : Nat) (pop push : Bool) : Tok :=
  if !(pop || push) then .ok c
  else
    let t := c.stream k
    let b := c.job t.job
    if !bit b.engmask tp then (if pop then .trap 0x06 (tp * 2 ^ 5) else .trap 0x05 (2 ^ 8 + tp * 2 ^ 5))
    else
      let full := push && exposed (engOf k) && 16 ≤ c.fifoLoad t.job (fifoNo (k / 4) tp)
      if pop then
        match c.popTok k tp with
        | none => if exposed (engOf k) then .trap 0x06 (tp * 2 ^ 5) else .stall
        | some c' => if full then .trap 0x05 (2 ^ 8 + tp * 2 ^ 5) else .ok c'
      else if full then .trap 0x05 (2 ^ 8 + tp * 2 ^ 5) else .ok c

/-- Credit left unused when a block ends returns to its FIFO (R180). Pushes that came meanwhile can leave the count above
16 (DESIGN CHOICE, log 86). -/
def Core.returnCredit (c : Core) (k : Nat) : Core :=
  let t := c.stream k
  if t.credit = 0 then c
  else
    let f := fifoNo t.creditFrom (k / 4)
    (c.updJob t.job fun b => b.setTok f (b.tok f + t.credit)).updStream k fun t => { t with credit := 0 }

/-! ### Queue registers (R176 to R179) -/

/-- Entries present at the head of a queue. -/
def Queue.count : List QPlace → Nat
  | .present _ :: r => Queue.count r + 1
  | _ => 0

def Queue.presentN (q : Queue) : Nat := Queue.count q.places

/-- Places neither occupied nor reserved; a place freed in this clock still counts as occupied (R177). -/
def Queue.freeN (q : Queue) : Nat := 8 - q.places.length - q.freed

def Queue.head (q : Queue) : Option QEnt :=
  match q.places with
  | .present e :: _ => some e
  | _ => none

def Queue.pop (q : Queue) : Queue := { q with places := q.places.tail, freed := q.freed + 1 }
def Queue.reserve (q : Queue) (id : Nat) : Queue := { q with places := q.places ++ [.reserved id] }
def Queue.land (q : Queue) (id : Nat) (e : QEnt) : Queue :=
  { q with places := q.places.map fun p => if p = .reserved id then .landed e else p }

/-- A landed entry becomes present from the next clock, and freed places become free (R177). -/
def Queue.tick (q : Queue) : Queue :=
  { places := q.places.map fun p => match p with
      | .landed e => .present e
      | .reserved i => .reserved i
      | .present e => .present e,
    freed := 0 }

/-- Reserves a place in queue q and gives the landing of an entry there. -/
def Core.reserveQ (c : Core) (q : Nat) (e : QEnt) : Core × Land :=
  ({ (c.setQueue q ((c.queue q).reserve c.nextQ)) with nextQ := c.nextQ + 1 }, .q q c.nextQ e)

/-! ### Flag bits of FPSTAT (R40) -/

def fNV : Nat := 1
def fDZ : Nat := 2
def fOF : Nat := 4
def fUF : Nat := 8
def fIX : Nat := 16
def fBNAN : Nat := 64
def fSAT : Nat := 128

/-- A value clamped into a range. -/
def clampI (lo hi v : Int) : Int := if v < lo then lo else if hi < v then hi else v

/-- Two's-complement pattern of width w. -/
def uI (w : Nat) (i : Int) : Nat := (i % (2 ^ w : Int)).toNat

/-! ### FX56 (R36, R37) -/

def accMax : Int := 2 ^ 55 - 1
def accMin : Int := -(2 ^ 55)

/-- ACC of a slot. -/
def slotAcc (v : Nat) : Int := sextN 56 (fld v 0 56)

/-- SAT of a slot. -/
def slotSat (v : Nat) : Bool := bit v 56

/-- A slot from ACC and SAT. -/
def mkSlot (acc : Int) (sat : Bool) : Nat := uI 56 acc + (if sat then 2 ^ 56 else 0)

/-- A 64-bit pattern written raw to a slot: bits 63 to 57 are discarded (R36). -/
def rawSlot (v : Nat) : Nat := v % 2 ^ 57

/-- Whether an exact value lies outside ACC. -/
def accClamps (v : Int) : Bool := v < accMin || accMax < v

/-- An exact addition into a slot (R37): ACC clamps to the nearer bound and SAT is sticky. -/
def slotAdd (slot : Nat) (v : Int) : Nat :=
  let x := slotAcc slot + v
  mkSlot (clampI accMin accMax x) (slotSat slot || accClamps x)

/-- A replacing write of an exact value (R37): SAT says whether it clamped. -/
def slotOf (v : Int) : Nat := mkSlot (clampI accMin accMax v) (accClamps v)

/-! ### Exposed results (R108, R181) -/

/-- What a landing VACW makes of a slot (R249): mode 0 replaces it, mode 1 adds, mode 2 writes it raw; and whether an
addition clamped (R37). sat says that the conversion clamped. -/
def accLanding (old mode : Nat) (v : Int) (sat : Bool) : Nat × Bool :=
  match mode with
  | 0 => (mkSlot (clampI accMin accMax v) sat, false)
  | 1 =>
    let x := slotAcc old + clampI accMin accMax v
    (mkSlot (clampI accMin accMax x) (slotSat old || sat || accClamps x), accClamps x)
  | _ => (rawSlot v.toNat, false)

/-- A slot as a read of this clock sees it (R24); VE sees its own landings of the clock (R249). -/
def Core.accRead (c : Core) (e : Eng) (n : Nat) : Nat :=
  let old := ((mlook n c.prevAcc).map Prod.fst).getD (mget 0 c.acc n)
  if e = .ve then (mlook n c.accVe).getD old else old

/-- Several slots at rising numbers as a read of this clock sees them (R24). -/
def Core.accReadAll (c : Core) (ks : List Nat) : List Nat :=
  let vs := mreads 0 ks c.acc
  if c.prevAcc.isEmpty then vs else (ks.zip vs).map fun e => ((mlook e.1 c.prevAcc).map Prod.fst).getD e.2

/-- Writes of slots at rising numbers by the engine of a rank (R24). -/
def Core.accWriteAll (c : Core) (rank : Nat) (us : List (Nat × Nat)) : Core :=
  let (ok, prev) := rankWrites rank c.prevAcc us (mreads 0 (us.map Prod.fst) c.acc)
  { c with acc := mbulk 0 ok c.acc, prevAcc := prev }

/-- A write of one slot. -/
def Core.accWrite (c : Core) (rank n v : Nat) : Core := c.accWriteAll rank [(n, v)]

/-- What landing does (R181, R263): a register, predicate, queue entry, accumulator slot or factor takes its value. -/
def Core.landOne (c : Core) (p : Pending) : Core :=
  let c1 := if p.flags = 0 then c else c.updStream p.key fun t =>
    { t.orFlags p.flags with landFlags := t.landFlags ||| p.flags }
  match p.dst with
  | .x n v => c1.updStream p.key fun t => t.setX n v
  | .p n v => c1.updStream p.key fun t => t.setP n v
  | .v n l => c1.updStream p.key fun t => t.setV n l
  | .q n id e => c1.setQueue n ((c1.queue n).land id e)
  | .f n l => c1.updStream p.key fun t =>
    let us := ((List.range l.length).zip l).filter fun u => u.2 < 2 ^ 24
    { t with we := { t.we with f := mbulk 0 (us.map fun u => (1024 * n + u.1, u.2)) t.we.f } }
  | .acc n m v s =>
    let (w, cl) := accLanding (c1.accRead .ve n) m v s
    let c3 := { (c1.accWrite 2 n w) with accVe := (n, w) :: c1.accVe }
    if cl then c3.updStream p.key fun t => { t.orFlags fSAT with landFlags := t.landFlags ||| fSAT } else c3
  | .sem n a _ => if 2 ^ 32 ≤ c1.semCount n + a then c1 else c1.setSem n (c1.semCount n + a)
  | .sig n _ _ _ => if 2 ^ 32 ≤ c1.semCount n + 1 then c1 else c1.setSem n (c1.semCount n + 1)
  | .hold _ => c1
  | .none => c1

/-- The interlock of R108 on a register written by a result of more than one clock. -/
def Land.held (d : Land) (k lat : Nat) : List Pending :=
  match d with
  | .x n _ => if lat ≤ 1 then [] else [⟨k, lat, .hold n, 0, lat⟩]
  | .p _ _ | .v _ _ | .q _ _ _ | .acc _ _ _ _ | .f _ _ | .sem _ _ _ | .sig .. | .hold _ | .none => []

/-- A result of a stream: in VA and VE it lands lat clocks after issue; elsewhere it is written at once, and the interlock of
R108 keeps its own stream from it until then. -/
def Core.result (c : Core) (k lat : Nat) (d : Land) (flags : Nat) : Core :=
  if exposed (engOf k) then { c with pending := c.pending ++ [⟨k, lat, d, flags, lat⟩] }
  else
    let c1 := c.landOne (Pending.mk k lat d flags lat)
    { c1 with pending := c1.pending ++ d.held k lat }

/-- Latency of the common group's results by engine (R108): interlocked latency n, VA latency v, VE 2. -/
def comLat (e : Eng) (n v : Nat) : Nat :=
  match e with
  | .va => v
  | .ve => 2
  | .we => 1
  | .sq => n | .me => n | .xe => n | .wick => n

/-! ### Running one instruction -/

/-- Where a stream goes on: the next word, a branch target (one clock without issue, R111), the word after a loop whose
count is 0 (R113), a wait, or wherever the body has left it. late is seq for an instruction whose push a later event makes
(LLS and WROW, R15); kept is gone for an instruction whose push the body has noted as owed (WHOOK). -/
inductive Flow where
  | seq
  | late
  | jump (pc : Nat)
  | skip (pc : Nat)
  | wait (w : Wait)
  | gone
  | kept
  deriving DecidableEq, Repr

/-- What a body answers: the state after the instruction, how it goes on and the clocks until it retires; a
program-class trap; an unsatisfied block head; a stall, made again in a later clock; or a hold of the whole engine
(R182, R263). -/
inductive Res where
  | done (s : State) (f : Flow) (lat : Nat)
  | trap (cause status : Nat)
  | unsat (i : Instr)
  | stall (s : State)
  | hold (s : State)
  deriving DecidableEq, Repr

/-- A body that touches one core only. -/
inductive CRes where
  | done (c : Core) (f : Flow) (lat : Nat)
  | trap (cause status : Nat)
  | unsat (i : Instr)
  | stall (c : Core)
  | hold (c : Core)
  deriving DecidableEq, Repr

def CRes.lift (s : State) (c : Nat) : CRes → Res
  | .done x f l => .done (s.setCore c x) f l
  | .trap a b => .trap a b
  | .unsat i => .unsat i
  | .stall x => .stall (s.setCore c x)
  | .hold x => .hold (s.setCore c x)

/-- Loop stack and next address when the word at pc retires without transferring control (R113). -/
def loopStep (pc next : Nat) : List LoopEnt → List LoopEnt × Nat
  | [] => ([], next)
  | t :: r =>
    if t.fin = pc then
      if 1 < t.rem then
        ({ t with rem := t.rem - 1, base := if t.w = 0 then 0 else (t.base + 1) % t.w } :: r, t.start)
      else loopStep pc next r
    else (t :: r, next)

/-- The stream after an instruction of it has issued (R101, R111, R113). len is the instruction's length in bytes. -/
def Stream.after (t : Stream) (clk len : Nat) (f : Flow) : Stream :=
  let t0 := t
  let t := { t with age := 0, promoted := false, issued := true, absent := false, need := none }
  match f with
  | .seq =>
    let (l, pc) := loopStep t.pc ((t.pc + len) % 2 ^ 48) t.loops
    { t with loops := l, pc := pc, wait := .none }
  | .late =>
    let (l, pc) := loopStep t.pc ((t.pc + len) % 2 ^ 48) t.loops
    { t with loops := l, pc := pc, wait := .none }
  | .jump pc => { t with pc := pc, wait := .none, noIssue := clk + 2 }
  | .skip pc => { t with pc := pc, wait := .none }
  | .wait w => { t with wait := w, waited := 0 }
  | .gone => t0
  | .kept => t0

/-- Whether FIFO f of job j has room for one more token (R14). -/
def Core.fifoRoom (c : Core) (j f : Nat) : Bool :=
  (c.job j).tok f + (c.maturing.filter fun m => m.job == j && m.fifo == f).length < 16

/-- One retirement with a push: its token starts to mature, unless an interlocked engine's FIFO is full (R14). -/
def Core.retireOne (c : Core) (r : Retire) : Core :=
  let f := fifoNo (r.key / 4) r.partner
  if exposed (engOf r.key) || c.fifoRoom r.job f then
    { c with retires := ldel (· == r) c.retires, maturing := c.maturing ++ [⟨r.job, f, 2⟩] }
  else c

/-- An instruction of stream k retires lat clocks from now, but in SQ, ME and XE no earlier than those before it (R14), and
then makes its push, if it has one; with no clock left it does so at once. -/
def Core.retireIn (c : Core) (k job tp : Nat) (push : Bool) (lat : Nat) : Core :=
  let inOrder := !exposed (engOf k) && k != 24 && (c.stream k).st != .free
  let n := if inOrder then max lat (c.stream k).retLeft else lat
  let c1 := if inOrder && n != (c.stream k).retLeft then c.updStream k fun t => { t with retLeft := n } else c
  if !push then c1
  else
    let r : Retire := ⟨k, job, tp, n⟩
    let c2 := { c1 with retires := c1.retires ++ [r] }
    if n = 0 then c2.retireOne r else c2

/-- The push that an instruction owes until a later event makes it. -/
def Core.oweIf (c : Core) (k tp : Nat) (push : Bool) : Core :=
  if push then c.updStream k fun t => { t with owe := some tp } else c

/-- The end of an issued instruction, given the job its stream belongs to: where its stream goes on, the engine's last slot
(R100) and the token push it carries, performed when it retires (R13, R15). An instruction that waits pushes when its wait
ends, but for a rendezvous of VA, VE and WE, which waits for nothing of its own (R15, R286). -/
def Core.finish (c : Core) (clk job : Nat) (x : Ctx) (len tp : Nat) (push : Bool) (f : Flow) (lat : Nat) : Core :=
  let k := x.key
  let c1 := c.updStream k fun t => t.after clk len f
  let c2 := { c1 with last := mput 0 x.eng.num (x.slot + 1) c1.last }
  match f with
  | .wait w => match w with
    | .rdzv _ => if exposed x.eng then c2.retireIn k job tp push lat else c2.oweIf k tp push
    | .none | .head _ | .ckpt .. | .gbar .. | .post _ | .wseg .. | .load .. => c2.oweIf k tp push
  | .late => c2
  | .kept => c2
  | .seq | .jump _ | .skip _ | .gone => c2.retireIn k job tp push lat

/-- The end of a wait: the stream goes on behind the instruction it waited at, which retires lat clocks later and then
makes the push it owes (R15). -/
def Core.endWait (c : Core) (k lat : Nat) : Core :=
  let t := c.stream k
  let (l, pc) := loopStep t.pc ((t.pc + instrLen (engOf k)) % 2 ^ 48) t.loops
  let c1 := c.setStream k { t with wait := .none, waited := 0, loops := l, pc := pc, owe := none }
  c1.retireIn k t.job (t.owe.getD 0) t.owe.isSome lat

/-- A stalled stream yields its engine to another resident stream in the same clock (R19, R100). -/
def State.yieldEng (s : State) : State :=
  { s with todo := .issue s.cur.core s.cur.eng (s.cur.slot :: s.cur.tried) :: s.todo }

/-- A head that is not satisfied (R19, R97, R180): its stream waits, the unused credit of the block before it returns, and
the engine turns to another stream, after a bubble of two clocks when the stream is the one that issued last in VA, VE or WE. -/
def State.unsatisfied (s : State) (i : Instr) : State :=
  let x := s.cur
  let c := s.core x.core
  let t := c.stream x.key
  let fresh := t.wait != .head i
  let c1 := (c.returnCredit x.key).updStream x.key fun t =>
    { t with wait := .head i, waited := if fresh then 0 else t.waited }
  if fresh && exposed x.eng && mget 0 c.last x.eng.num == x.slot + 1 then
    s.setCore x.core { c1 with bubble := mput 0 x.eng.num (s.cycles + 2) c1.bubble }
  else (s.setCore x.core c1).yieldEng

/-- Puts back the token that the instruction of stream k took when it was tried before. -/
def Core.unpop (c : Core) (k : Nat) : Core :=
  let t := c.stream k
  match t.popd with
  | none => c
  | some tp =>
    let f := fifoNo tp (k / 4)
    (c.updJob t.job fun b => b.setTok f (b.tok f + 1)).updStream k fun t => { t with popd := none }

/-- The token of an instruction that is made again: SQ, ME and XE have issued it and keep the token, VA, VE and WE have not
and leave it where it was. c0 is the core before the pop. -/
def Core.keepTok (c c0 : Core) (k tp : Nat) (pop : Bool) : Core :=
  if !pop then c
  else if exposed (engOf k) then
    let t0 := c0.stream k
    (c.updJob t0.job fun b => { b with tokens := (c0.job t0.job).tokens }).updStream k fun t => { t with credit := t0.credit }
  else c.updStream k fun t => { t with popd := some tp }

/-- A stream of a held engine as it stood before its results landed in this clock. -/
def Stream.unland (t old : Stream) : Stream :=
  { t with
    x := old.x, p := old.p, v := old.v, flags := old.flags, landFlags := old.landFlags, landClk := old.landClk
    we := { t.we with f := old.we.f } }

/-- The landings of a held engine in this clock are undone: nothing lands in a clock in which it is held (R182, R263). -/
def Core.unland (c : Core) (e : Eng) : Core :=
  match c.undo with
  | none => c
  | some u => { c with
      pending := u.pending, retires := u.retires, maturing := u.maturing, queues := u.queues, undo := none
      streams := c.streams.map fun s => (s.1, if engOf s.1 = e then s.2.unland (mget {} u.streams s.1) else s.2) }

/-- A hold of the whole engine (R182, R263). -/
def Core.holdEng (c : Core) (e : Eng) : Core :=
  match e with
  | .va => { c with vaHeld := true }
  | .we => { c with weHeld := true }
  | .sq => c | .ve => c | .me => c | .xe => c | .wick => c

/-- Whether an engine is held in this clock. -/
def Core.held (c : Core) (e : Eng) : Bool := (e == .va && c.vaHeld) || (e == .we && c.weHeld)

/-- The end of an engine's turn: where the turn has shown that the engine is held, what had landed before it has not. -/
def State.settleHold (s : State) (cid : Nat) (e : Eng) : State :=
  if (s.core cid).held e then s.updCore cid fun c => c.unland e else s

/-- Runs one instruction of the stream s.cur names: token checks (R14), the guard (R67), the body, and what follows an
issued instruction. body gets the state with the popped token taken; a trap undoes that (R78, R140). -/
def runWord (s : State) (len tp : Nat) (pop push guard : Bool) (body : State → Res) : State :=
  let x := s.cur
  let k := x.key
  let c := (s.core x.core).unpop k
  let trap := fun cause status => s.setCore x.core (c.takeTrap s.cycles k cause status)
  let stalled := fun (s' : State) =>
    (s'.updCore x.core fun c => c.updStream k fun t => { t with stalled := true }).yieldEng
  let kept := fun (s' : State) => s'.updCore x.core fun c1 => c1.keepTok c k tp pop
  match c.tokens k tp pop push with
  | .trap cause status => trap cause status
  | .stall => stalled (s.setCore x.core c)
  | .ok c1 =>
    let s1 := s.setCore x.core c1
    match (if guard then body s1 else .done s1 .seq 1) with
    | .trap cause status => trap cause status
    | .unsat i => s.unsatisfied i
    | .stall s2 => stalled (kept s2)
    | .hold s2 => (kept s2).updCore x.core fun c2 => c2.holdEng x.eng
    | .done s2 f lat => s2.updCore x.core fun c2 => c2.finish s.cycles (c.stream k).job x len tp push f lat

/-- Runs a 64-bit word. -/
def runI (s : State) (h : Head) (body : State → Res) : Host.Outcome State Fault Refusal :=
  .next (runWord s 8 h.tp h.pop h.push (((s.core s.cur.core).stream s.cur.key).guardTrue h) body)

/-- Runs a 64-bit word whose body touches its own core only. -/
def runC (s : State) (h : Head) (body : Core → CRes) : Host.Outcome State Fault Refusal :=
  runI s h fun s1 => (body (s1.core s.cur.core)).lift s1 s.cur.core

/-- Runs a weight-code bundle, which has no guard (R73). -/
def runB (s : State) (h : WHead) (body : State → Res) : Host.Outcome State Fault Refusal :=
  .next (runWord s 32 h.tp h.pop h.push true body)

/-- A free value of the model (log 3). -/
def State.free (s : State) : Nat × State := (Config.freeNat s.freeCtr, { s with freeCtr := s.freeCtr + 1 })

/-- Lifts a core update of the stream's own core. -/
def State.updCur (s : State) (f : Core → Core) : State := s.updCore s.cur.core f

end Sys2Proof.Machine
end

