-- ==== Sys2Proof/Machine/Crypto.lean ====
section
/-!
DEFINITION. Sys2Proof/Machine/Crypto.lean: CRC-32C (R153, R317, R349), AES-256 in XTS mode (R135, R329) and SHA-256
(R406), written on bytes held as Nat.
-/

namespace Sys2Proof.Machine

/-! ### CRC-32C -/

/-- One byte's eight shifts of the reflected CRC-32C register. -/
def crcBits : Nat → Nat → Nat
  | 0, r => r
  | n + 1, r => crcBits n (if r % 2 = 1 then r / 2 ^^^ 0x82F63B78 else r / 2)

def crcStep (r : Nat) (b : Byte) : Nat := crcBits 8 (r ^^^ b.toNat)

/-- CRC-32C of a byte string. -/
def crc32c (bs : List Byte) : Nat := bs.foldl crcStep 0xFFFFFFFF ^^^ 0xFFFFFFFF

/-! ### AES-256 -/

/-- Multiplication by x in the field of AES. -/
def xtime (a : Nat) : Nat := if a < 128 then 2 * a else (2 * a ^^^ 0x11B) % 256

/-- Multiplication in the field of AES; n bits of b are left. -/
def gmul (a : Nat) : Nat → Nat → Nat
  | 0, _ => 0
  | n + 1, b => (if b % 2 = 1 then a else 0) ^^^ gmul (xtime a) n (b / 2)

/-- The inverse in the field: a to the power 254. -/
def ginv (a : Nat) : Nat :=
  let m := fun x y => gmul x 8 y
  let a2 := m a a
  let a3 := m a2 a
  let a6 := m a3 a3
  let a7 := m a6 a
  let a14 := m a7 a7
  let a15 := m a14 a
  let a30 := m a15 a15
  let a31 := m a30 a
  let a62 := m a31 a31
  let a63 := m a62 a
  let a126 := m a63 a63
  let a127 := m a126 a
  m a127 a127

def rotl8 (a n : Nat) : Nat := (a * 2 ^ n + a / 2 ^ (8 - n)) % 256

/-- The S-box of AES. -/
def sboxOf (a : Nat) : Nat :=
  let b := ginv a
  b ^^^ rotl8 b 1 ^^^ rotl8 b 2 ^^^ rotl8 b 3 ^^^ rotl8 b 4 ^^^ 0x63

def sboxTab : List Nat := (List.range 256).map sboxOf
def sboxInvTab : List Nat := (List.range 256).map fun v => sboxTab.findIdx (· == v)

/-- The key schedule of AES-256: words of four bytes, newest first; n more words, i the next index. -/
def aesExpand (sb : List Nat) : Nat → Nat → Nat → List (List Nat) → List (List Nat)
  | 0, _, _, ws => ws
  | n + 1, i, rcon, ws =>
    let t := ws.headD []
    let p := ws.getD 7 []
    let sub := fun (w : List Nat) => w.map fun b => sb.getD b 0
    let t1 :=
      if i % 8 = 0 then
        let r := sub (t.drop 1 ++ t.take 1)
        (r.headD 0 ^^^ rcon) :: r.drop 1
      else if i % 8 = 4 then sub t
      else t
    aesExpand sb n (i + 1) (if i % 8 = 0 then xtime rcon else rcon) (List.zipWith (· ^^^ ·) p t1 :: ws)

def chunks4 : List Nat → List (List Nat)
  | a :: b :: c :: d :: r => [a, b, c, d] :: chunks4 r
  | _ => []

/-- The fifteen round keys of a 32-byte key, first round first. -/
def aesKeys (key : List Nat) : List (List Nat) :=
  let ws := (aesExpand sboxTab 52 8 1 (chunks4 key).reverse).reverse
  (List.range 15).map fun r => ((ws.drop (4 * r)).take 4).flatten

def xorL (a b : List Nat) : List Nat := List.zipWith (· ^^^ ·) a b

/-- Bytes of a block by column; row r, column c at 4·c + r. -/
def shiftRows (inv : Bool) (b : List Nat) : List Nat :=
  (List.range 16).map fun i =>
    let r := i % 4
    let c := i / 4
    b.getD (4 * ((if inv then c + 4 - r else c + r) % 4) + r) 0

def mixCol (m : List Nat) (col : List Nat) : List Nat :=
  (List.range 4).map fun r =>
    (List.range 4).foldl (fun acc k => acc ^^^ gmul (col.getD k 0) 8 (m.getD ((k + 4 - r) % 4) 0)) 0

def mixCols (m : List Nat) (b : List Nat) : List Nat :=
  (List.range 4).flatMap fun c => mixCol m ((b.drop (4 * c)).take 4)

/-- One block encrypted under a key schedule. -/
def aesEnc (ks : List (List Nat)) (sb : List Nat) (blk : List Nat) : List Nat :=
  let b0 := xorL blk (ks.getD 0 [])
  let b1 := (List.range 13).foldl (fun b r =>
    xorL (mixCols [2, 3, 1, 1] (shiftRows false (b.map fun x => sb.getD x 0))) (ks.getD (r + 1) [])) b0
  xorL (shiftRows false (b1.map fun x => sb.getD x 0)) (ks.getD 14 [])

/-- One block decrypted under a key schedule. -/
def aesDec (ks : List (List Nat)) (si : List Nat) (blk : List Nat) : List Nat :=
  let b0 := (shiftRows true (xorL blk (ks.getD 14 []))).map fun x => si.getD x 0
  let b1 := (List.range 13).foldl (fun b r =>
    (shiftRows true (mixCols [14, 11, 13, 9] (xorL b (ks.getD (13 - r) [])))).map fun x => si.getD x 0) b0
  xorL b1 (ks.getD 0 [])

/-- A 16-byte block from a number and back, little-endian. -/
def blkOf (n : Nat) : List Nat := (toBytes 16 n).map BitVec.toNat
def natOf (b : List Nat) : Nat := leBytes (b.map (BitVec.ofNat 8))

/-- The XTS tweak times α. -/
def xtsNext (t : Nat) : Nat := if t < 2 ^ 127 then 2 * t else (2 * t) % 2 ^ 128 ^^^ 0x87

/-- A data unit of whole blocks under XTS: enc says the direction; t is the encrypted tweak. -/
def xtsBlocks (enc : Bool) (ks : List (List Nat)) (tab : List Nat) : Nat → Nat → List Byte → List Byte
  | 0, _, _ => []
  | n + 1, t, bs =>
    let x := xorL ((bs.take 16).map BitVec.toNat) (blkOf t)
    let y := if enc then aesEnc ks tab x else aesDec ks tab x
    (xorL y (blkOf t)).map (BitVec.ofNat 8) ++ xtsBlocks enc ks tab n (xtsNext t) (bs.drop 16)

/-- One 512-byte data unit (R329): key holds the data key and the tweak key, unit its tweak. -/
def xtsUnit (enc : Bool) (key : Nat) (unit : Nat) (bs : List Byte) : List Byte :=
  let k := (toBytes 64 key).map BitVec.toNat
  let t := natOf (aesEnc (aesKeys (k.drop 32)) sboxTab (blkOf (unit % 2 ^ 128)))
  xtsBlocks enc (aesKeys (k.take 32)) (if enc then sboxTab else sboxInvTab) (bs.length / 16) t bs

/-- Consecutive units from tweak t. -/
def xtsUnits (enc : Bool) (key t : Nat) (bs : List Byte) : List Byte :=
  (List.range (bs.length / 512)).flatMap fun i => xtsUnit enc key (t + i) ((bs.drop (512 * i)).take 512)

/-! ### SHA-256 -/

/-- The largest r below 2^n, above the bits of r0 already set, whose k-th power is at most x. -/
def rootBits (k x : Nat) : Nat → Nat → Nat
  | 0, r0 => r0
  | n + 1, r0 => rootBits k x n (if (r0 + 2 ^ n) ^ k ≤ x then r0 + 2 ^ n else r0)

/-- The first 32 bits behind the point of the k-th root of p. -/
def rootFrac (k p : Nat) : Nat := rootBits k (p * 2 ^ (32 * k)) 40 0 % 2 ^ 32

/-- The primes below 312, of which SHA-256 takes the first 64 and the first 8. -/
def shaPrimes : List Nat := (List.range 312).filter fun p => 2 ≤ p && (List.range 18).all fun d => d < 2 || p ≤ d || p % d != 0

/-- The round constants: cube roots of the first 64 primes. -/
def shaK : List Nat := shaPrimes.map (rootFrac 3)

/-- The words that a digest begins with: square roots of the first 8 primes. -/
def shaStart : List Nat := (shaPrimes.take 8).map (rootFrac 2)

def rotr32 (x n : Nat) : Nat := x / 2 ^ n + x % 2 ^ n * 2 ^ (32 - n)

/-- The message schedule, newest first; n more words. -/
def shaSched : Nat → List Nat → List Nat
  | 0, w => w
  | n + 1, w =>
    let a := w.getD 14 0
    let b := w.getD 1 0
    let s0 := rotr32 a 7 ^^^ rotr32 a 18 ^^^ a / 2 ^ 3
    let s1 := rotr32 b 17 ^^^ rotr32 b 19 ^^^ b / 2 ^ 10
    shaSched n ((w.getD 15 0 + s0 + w.getD 6 0 + s1) % 2 ^ 32 :: w)

/-- One round on the eight working words. -/
def shaRound (v : List Nat) (kw : Nat) : List Nat :=
  match v with
  | [a, b, c, d, e, f, g, h] =>
    let s1 := rotr32 e 6 ^^^ rotr32 e 11 ^^^ rotr32 e 25
    let ch := (e &&& f) ^^^ ((2 ^ 32 - 1 - e) &&& g)
    let t1 := (h + s1 + ch + kw) % 2 ^ 32
    let s0 := rotr32 a 2 ^^^ rotr32 a 13 ^^^ rotr32 a 22
    let mj := (a &&& b) ^^^ (a &&& c) ^^^ (b &&& c)
    [(t1 + s0 + mj) % 2 ^ 32, a, b, c, (d + t1) % 2 ^ 32, e, f, g]
  | w => w

/-- A big-endian word of four bytes. -/
def beWord (bs : List Byte) : Nat := bs.foldl (fun a b => a * 256 + b.toNat) 0

def shaBlock (hs : List Nat) (bs : List Byte) : List Nat :=
  let w0 := (List.range 16).map fun i => beWord ((bs.drop (4 * i)).take 4)
  let ws := (shaSched 48 w0.reverse).reverse
  let v := (List.zipWith (· + ·) shaK ws).foldl shaRound hs
  List.zipWith (fun a b => (a + b) % 2 ^ 32) hs v

def shaBlocks : Nat → List Nat → List Byte → List Nat
  | 0, hs, _ => hs
  | n + 1, hs, bs => shaBlocks n (shaBlock hs (bs.take 64)) (bs.drop 64)

/-- SHA-256 of a byte string, 32 bytes. -/
def sha256 (bs : List Byte) : List Byte :=
  let len := bs.length
  let pad := (119 - len % 64) % 64
  let m := bs ++ [0x80] ++ List.replicate pad 0 ++ (toBytes 8 (8 * len)).reverse
  (shaBlocks (m.length / 64) shaStart m).flatMap fun w => (toBytes 4 w).reverse

end Sys2Proof.Machine
end

