-- ==== Sys2Proof/Machine/Flags.lean ====
section
/-!
DEFINITION. Sys2Proof/Machine/Flags.lean: the flags of FPSTAT and every place a value is rounded, saturated or clamped
(R30 to R42): formats, exact values, rounding into a format with its flags, conversion to integers and to FX56.
-/

namespace Sys2Proof.Machine

/-! ### FPSTAT (R40) -/

def rmCode : Rm → Nat
  | .rne => 0 | .rz => 1 | .ru => 2 | .rd => 3

/-- FPSTAT as CSRR reads it. -/
def Stream.fpstat (t : Stream) : Nat := t.flags + (if t.f8ns then 32 else 0) + rmCode t.rm * 2 ^ 8

/-- FPSTAT as CSRW writes it; the caller has refused reserved bits. -/
def Stream.setFpstat (t : Stream) (v : Nat) : Stream :=
  { t with rm := rmOf (fld v 8 2), f8ns := bit v 5, flags := v % 2 ^ 8 - (if bit v 5 then 32 else 0) }

/-! ### Values and formats -/

/-- A floating value: NaN (signalling or not), an infinity, or a finite mant·2^exp with its sign; zeros keep theirs. -/
inductive FV where
  | nan (sig : Bool)
  | inf (neg : Bool)
  | fin (neg : Bool) (mant : Nat) (exp : Int)
  deriving DecidableEq, Repr

/-- A floating format (R30): exponent and fraction widths and bias. inf says that it has infinities, top is the largest
finite code, canon the NaN the device writes (R31, R32). -/
structure FFmt where
  eb : Nat
  fb : Nat
  bias : Int
  inf : Bool
  top : Nat
  canon : Nat
  deriving DecidableEq, Repr

def ffF32 : FFmt := ⟨8, 23, 127, true, 0x7F7FFFFF, 0x7FC00000⟩
def ffBf16 : FFmt := ⟨8, 7, 127, true, 0x7F7F, 0x7FC0⟩
def ffF16 : FFmt := ⟨5, 10, 15, true, 0x7BFF, 0x7E00⟩
def ffE4m3 : FFmt := ⟨4, 3, 7, false, 0x7E, 0x7F⟩
def ffE5m2 : FFmt := ⟨5, 2, 15, true, 0x7B, 0x7E⟩
def ffE2m1 : FFmt := ⟨2, 1, 1, false, 0x7, 0⟩

/-- The floating format of a Fmt; integer formats and PW2 have none and give FP32. -/
def ffOf : Fmt → FFmt
  | .f32 => ffF32 | .bf16 => ffBf16 | .f16 => ffF16 | .e4m3 => ffE4m3 | .e5m2 => ffE5m2 | .e2m1 => ffE2m1
  | .pw2 => ffF32 | .i8 => ffF32 | .u8 => ffF32 | .i4 => ffF32 | .u4 => ffF32 | .i16 => ffF32 | .u16 => ffF32
  | .i32 => ffF32 | .u32 => ffF32 | .i64 => ffF32

def FFmt.width (f : FFmt) : Nat := 1 + f.eb + f.fb
def FFmt.sign (f : FFmt) : Nat := 2 ^ (f.eb + f.fb)

/-- Smallest normal exponent. -/
def FFmt.emin (f : FFmt) : Int := 1 - f.bias

/-- The value of a code (R31 to R33). -/
def FFmt.dec (f : FFmt) (c : Nat) : FV :=
  let neg := bit c (f.eb + f.fb)
  let e := fld c f.fb f.eb
  let m := fld c 0 f.fb
  let body := c % f.sign
  if f.top < body then
    if f.inf && m == 0 then .inf neg else .nan (f.inf && !bit m (f.fb - 1))
  else if e = 0 then .fin neg m (f.emin - f.fb)
  else .fin neg (m + 2 ^ f.fb) ((e : Int) - f.bias - f.fb)

/-- mant·2^-sh (sh any integer) rounded to an integer, and whether it was inexact (R38). -/
def roundShift (rm : Rm) (neg : Bool) (mant : Nat) (sh : Int) : Nat × Bool :=
  if sh ≤ 0 then (mant * 2 ^ (-sh).toNat, false)
  else
    let s := sh.toNat
    let q := mant / 2 ^ s
    let r := mant % 2 ^ s
    let up := match rm with
      | .rne => 2 ^ s < 2 * r || (2 * r == 2 ^ s && q % 2 == 1)
      | .rz => false
      | .ru => r != 0 && !neg
      | .rd => r != 0 && neg
    (if up then q + 1 else q, r != 0)

/-- Position of the highest set bit plus one. -/
def bitLen (n : Nat) : Nat := if n = 0 then 0 else Nat.log2 n + 1

/-- What stands for an overflow (R39, R42): sat8 saturates an FP8 target; FP4 always saturates. -/
def FFmt.overflow (f : FFmt) (rm : Rm) (sat8 neg : Bool) : Nat × Nat :=
  let s := if neg then f.sign else 0
  if f = ffE2m1 || ((f = ffE4m3 || f = ffE5m2) && sat8) then (s + f.top, fSAT ||| fIX)
  else
    let big := match rm with
      | .rne => true | .rz => false | .ru => !neg | .rd => neg
    let code := if big then (if f.inf then s + f.top + 1 else f.canon) else s + f.top
    (code, fOF ||| fIX)

/-- A value rounded once into a format, with its flags (R31, R39, R42). Tininess is detected after rounding. -/
def FFmt.enc (f : FFmt) (rm : Rm) (sat8 : Bool) (v : FV) : Nat × Nat :=
  match v with
  | .nan sig => (f.canon, if sig then fNV else 0)
  | .inf neg =>
    if f = ffE4m3 then (if sat8 then ((if neg then f.sign else 0) + f.top, fSAT ||| fIX) else (f.canon, fOF))
    else if f = ffE2m1 then f.overflow rm sat8 neg
    else ((if neg then f.sign else 0) + f.top + 1, 0)
  | .fin neg mant exp =>
    let s := if neg then f.sign else 0
    if mant = 0 then (s, 0)
    else
      let e := exp + bitLen mant - 1
      let q := max e f.emin - f.fb
      let (r, ix) := roundShift rm neg mant (q - exp)
      let be := (q - (f.emin - f.fb)).toNat
      let code := if r < 2 ^ f.fb then r else r + be * 2 ^ f.fb
      if f.top < code then f.overflow rm sat8 neg
      else
        let u := roundShift rm neg mant (e - f.fb - exp)
        let tiny := e < f.emin && !(e + 1 == f.emin && u.1 == 2 ^ (f.fb + 1))
        (s + code, (if ix then fIX else 0) ||| (if ix && tiny then fUF else 0))

/-- Bounds of an integer of the given width. -/
def intLo (sgn : Bool) (w : Nat) : Int := if sgn then -(2 ^ (w - 1) : Int) else 0
def intHi (sgn : Bool) (w : Nat) : Int := if sgn then 2 ^ (w - 1) - 1 else 2 ^ w - 1

/-- A floating value rounded to an integer (R42): out of range gives the nearer bound and NaN gives 0, either with NV
alone. -/
def FV.toInt (sgn : Bool) (w : Nat) (rm : Rm) : FV → Int × Nat
  | .nan _ => (0, fNV)
  | .inf neg => (if neg then intLo sgn w else intHi sgn w, fNV)
  | .fin neg mant exp =>
    let (r, ix) := roundShift rm neg mant (-exp)
    let v : Int := if neg then -(r : Int) else r
    if v < intLo sgn w then (intLo sgn w, fNV)
    else if intHi sgn w < v then (intHi sgn w, fNV)
    else (v, if ix then fIX else 0)

/-- An exact integer as a value. -/
def FV.ofInt (i : Int) : FV := .fin (i < 0) i.natAbs 0

/-- An exact i·2^e as a value. -/
def FV.ofScaled (i e : Int) : FV := .fin (i < 0) i.natAbs e

/-- A floating value rounded to a multiple of 2^l (R42): ACC before clamping, and the flags NV and IX. An infinity
clamps to the bound of its sign with no NV, and NaN gives 0 with NV. -/
def FV.toFx (rm : Rm) (l : Int) : FV → Int × Nat
  | .nan _ => (0, fNV)
  | .inf neg => (if neg then accMin - 1 else accMax + 1, 0)
  | .fin neg mant exp =>
    let (r, ix) := roundShift rm neg mant (l - exp)
    (if neg then -(r : Int) else r, if ix then fIX else 0)

end Sys2Proof.Machine
end

