-- ==== Sys2Proof/Machine/Float.lean ====
section
/-!
DEFINITION. Sys2Proof/Machine/Float.lean: floating-point operations on exact values with one rounding (R44), the four
correctly rounded functions, PW2 (R35) and packing into block-scaled formats (R43).
-/

namespace Sys2Proof.Machine

def FV.isNan : FV → Bool
  | .nan _ => true
  | .inf _ => false
  | .fin _ _ _ => false

def FV.isSnan : FV → Bool
  | .nan s => s
  | .inf _ => false
  | .fin _ _ _ => false

def FV.isFin : FV → Bool
  | .nan _ => false
  | .inf _ => false
  | .fin _ _ _ => true

def FV.isZero : FV → Bool
  | .nan _ => false
  | .inf _ => false
  | .fin _ m _ => m == 0

def FV.isNeg : FV → Bool
  | .nan _ => false
  | .inf n => n
  | .fin n _ _ => n

/-- The value with its sign flipped. -/
def FV.neg : FV → FV
  | .nan s => .nan s
  | .inf n => .inf !n
  | .fin n m e => .fin (!n) m e

/-- The value times 2^k. -/
def FV.scale (k : Int) : FV → FV
  | .nan s => .nan s
  | .inf n => .inf n
  | .fin n m e => .fin n m (e + k)

/-- Signed mantissa of a finite value on the exponent e, which is not above the value's own. -/
def onExp (n : Bool) (m : Nat) (x e : Int) : Int :=
  let v : Int := m * 2 ^ (x - e).toNat
  if n then -v else v

/-- The exact sum (R39, R44): opposite infinities are invalid; an exact zero sum of opposite signs is +0, or -0 in mode
down. The flag says that the operation is invalid. -/
def FV.add (rm : Rm) (a b : FV) : FV × Bool :=
  match a, b with
  | .nan s, .nan t => (.nan false, s || t)
  | .nan s, .inf _ => (.nan false, s)
  | .nan s, .fin _ _ _ => (.nan false, s)
  | .inf _, .nan s => (.nan false, s)
  | .fin _ _ _, .nan s => (.nan false, s)
  | .inf n, .inf m => if n = m then (.inf n, false) else (.nan false, true)
  | .inf n, .fin _ _ _ => (.inf n, false)
  | .fin _ _ _, .inf n => (.inf n, false)
  | .fin n p x, .fin m q y =>
    let e := min x y
    let v := onExp n p x e + onExp m q y e
    if v = 0 then (.fin (if n = m then n else rm = .rd) 0 0, false) else (.ofScaled v e, false)

/-- The exact product (R44): 0·∞ is invalid. -/
def FV.mul (a b : FV) : FV × Bool :=
  match a, b with
  | .nan s, .nan t => (.nan false, s || t)
  | .nan s, .inf _ => (.nan false, s)
  | .nan s, .fin _ _ _ => (.nan false, s)
  | .inf _, .nan s => (.nan false, s)
  | .fin _ _ _, .nan s => (.nan false, s)
  | .inf n, .inf m => (.inf (n != m), false)
  | .inf n, .fin m q _ => if q = 0 then (.nan false, true) else (.inf (n != m), false)
  | .fin m q _, .inf n => if q = 0 then (.nan false, true) else (.inf (n != m), false)
  | .fin n p x, .fin m q y => (.fin (n != m) (p * q) (x + y), false)

/-- Rounds the exact result of an operation; an invalid one sets NV. -/
def FFmt.fin (f : FFmt) (rm : Rm) (r : FV × Bool) : Nat × Nat :=
  let (c, fl) := f.enc rm true r.1
  (c, fl ||| (if r.2 then fNV else 0))

def fAdd (f : FFmt) (rm : Rm) (a b : Nat) : Nat × Nat := f.fin rm ((f.dec a).add rm (f.dec b))
def fSub (f : FFmt) (rm : Rm) (a b : Nat) : Nat × Nat := f.fin rm ((f.dec a).add rm (f.dec b).neg)
def fMul (f : FFmt) (rm : Rm) (a b : Nat) : Nat × Nat := f.fin rm ((f.dec a).mul (f.dec b))

/-- a·b + c formed exactly and rounded once, with the product or the addend negated (R44). 0·∞ is invalid whatever the
addend is. -/
def fFma (f : FFmt) (rm : Rm) (negP negC : Bool) (a b c : Nat) : Nat × Nat :=
  let p := (f.dec a).mul (f.dec b)
  let p1 := if negP then p.1.neg else p.1
  let z := if negC then (f.dec c).neg else f.dec c
  let r := p1.add rm z
  f.fin rm (r.1, r.2 || p.2)

/-- Order of two values that are not NaN: negative, zero or positive. -/
def FV.cmp (a b : FV) : Int :=
  match a, b with
  | .inf n, .inf m => if n = m then 0 else if n then -1 else 1
  | .inf n, .fin _ _ _ => if n then -1 else 1
  | .inf n, .nan _ => if n then -1 else 1
  | .fin _ _ _, .inf n => if n then 1 else -1
  | .nan _, .inf n => if n then 1 else -1
  | .fin n p x, .fin m q y => let e := min x y; onExp n p x e - onExp m q y e
  | .nan _, .nan _ => 0
  | .nan _, .fin _ _ _ => 0
  | .fin _ _ _, .nan _ => 0

/-- Minimum and maximum (R44): -0 lies below +0, one NaN gives the other operand, two give the canonical NaN. -/
def fMinMax (f : FFmt) (mx : Bool) (a b : Nat) : Nat × Nat :=
  let x := f.dec a
  let y := f.dec b
  let fl := if x.isSnan || y.isSnan then fNV else 0
  if x.isNan && y.isNan then (f.canon, fl)
  else if x.isNan then (b, fl)
  else if y.isNan then (a, fl)
  else
    let c := x.cmp y
    let d : Int := if c = 0 then (if x.isNeg then -1 else 0) - (if y.isNeg then -1 else 0) else c
    if mx then (if 0 ≤ d then a else b, fl) else (if d ≤ 0 then a else b, fl)

/-- A vector float comparison (R234): the ordered conditions set NV on any NaN, the others on a signalling one. -/
def fCmp (f : FFmt) (c : VCond) (a b : Nat) : Bool × Nat :=
  let x := f.dec a
  let y := f.dec b
  let un := x.isNan || y.isNan
  let sn := x.isSnan || y.isSnan
  let o := x.cmp y
  match c with
  | .eq => (!un && o == 0, if sn then fNV else 0)
  | .ne => (un || o != 0, if sn then fNV else 0)
  | .lt => (!un && o < 0, if un then fNV else 0)
  | .le => (!un && o ≤ 0, if un then fNV else 0)
  | .gt => (!un && 0 < o, if un then fNV else 0)
  | .ge => (!un && 0 ≤ o, if un then fNV else 0)
  | .un => (un, if sn then fNV else 0)
  | .ord => (!un, if sn then fNV else 0)

/-! ### Correctly rounded functions (R44, R235)

Each forms the result to far more bits than the format keeps and marks an inexact one with a sticky bit below them, so
that the single rounding is the correct one. -/

/-- n bits of the fraction of log2 of x·2^-p, for x·2^-p in [1, 2), by repeated squaring. -/
def log2Bits (p : Nat) : Nat → Nat → Nat → Nat
  | 0, _, acc => acc
  | n + 1, x, acc =>
    let y := x * x / 2 ^ p
    if 2 ^ (p + 1) ≤ y then log2Bits p n (y / 2) (2 * acc + 1) else log2Bits p n y (2 * acc)

/-- log2 of mant·2^exp (mant positive): exact at a power of two. -/
def fvLog2 (mant : Nat) (exp : Int) : FV :=
  let b := bitLen mant
  let i : Int := exp + b - 1
  if mant = 2 ^ (b - 1) then .ofInt i
  else
    let fr := log2Bits 256 110 (mant * 2 ^ (257 - b)) 0
    let v : Int := i * 2 ^ 110 + fr
    -- the true value lies between v and v + 1 in units of 2^-110
    .ofScaled (2 * v + 1) (-111)

/-- ln 2 in units of 2^-256. -/
def ln2Fix : Nat := 80260960185991308862233904206310070533990667611589946606122867505419956976171

/-- e^(y·2^-256) in units of 2^-256 by its series: n more terms, t the present term. -/
def expSeries (y : Nat) : Nat → Nat → Nat → Nat → Nat
  | 0, _, _, acc => acc
  | n + 1, k, t, acc =>
    let t1 := t * y / 2 ^ 256 / k
    expSeries y n (k + 1) t1 (acc + t1)

/-- 2^a for a finite value (R235): exact for an integer a. Far out of range a value that rounds alike stands for it. -/
def fvExp2 (neg : Bool) (mant : Nat) (exp : Int) : FV :=
  let e := min exp 0
  let v := onExp neg mant exp e
  let den : Int := 2 ^ (-e).toNat
  let fl := v / den
  let fr := (v % den).toNat
  if 200 < fl then .fin false 1 200
  else if fl < -300 then .fin false 1 (-300)
  else if fr = 0 then .fin false 1 fl
  else
    let y := fr * 2 ^ 256 / den.toNat * ln2Fix / 2 ^ 256
    let r := expSeries y 60 1 (2 ^ 256) (2 ^ 256)
    .fin false (2 * r + 1) (fl - 257)

/-- VLOG2 of an FP32 code (R44, R235). -/
def fLog2 (a : Nat) : Nat × Nat :=
  match ffF32.dec a with
  | .nan s => (ffF32.canon, if s then fNV else 0)
  | .inf n => if n then (ffF32.canon, fNV) else (a, 0)
  | .fin n m e =>
    if m = 0 then (0xFF800000, fDZ)
    else if n then (ffF32.canon, fNV)
    else ffF32.enc .rne true (fvLog2 m e)

/-- VEXP2 of an FP32 code. -/
def fExp2 (a : Nat) : Nat × Nat :=
  match ffF32.dec a with
  | .nan s => (ffF32.canon, if s then fNV else 0)
  | .inf n => if n then (0, 0) else (a, 0)
  | .fin n m e => ffF32.enc .rne true (fvExp2 n m e)

/-- 1/a of an FP32 code: a zero gives its signed infinity with DZ. -/
def fRcp (a : Nat) : Nat × Nat :=
  match ffF32.dec a with
  | .nan s => (ffF32.canon, if s then fNV else 0)
  | .inf n => (if n then ffF32.sign else 0, 0)
  | .fin n m e =>
    if m = 0 then ((if n then ffF32.sign else 0) + 0x7F800000, fDZ)
    else
      let q := 2 ^ 128 / m
      ffF32.enc .rne true (.fin n (2 * q + (if 2 ^ 128 % m = 0 then 0 else 1)) (-e - 129))

/-- 1/√a of an FP32 code. -/
def fRsq (a : Nat) : Nat × Nat :=
  match ffF32.dec a with
  | .nan s => (ffF32.canon, if s then fNV else 0)
  | .inf n => if n then (ffF32.canon, fNV) else (0, 0)
  | .fin n m e =>
    if m = 0 then ((if n then ffF32.sign else 0) + 0x7F800000, fDZ)
    else if n then (ffF32.canon, fNV)
    else
      let odd := e % 2 = 1
      let m1 := if odd then 2 * m else m
      let e1 := if odd then e - 1 else e
      let t := 2 ^ 200 / m1
      let q := Nat.sqrt t
      let exact := 2 ^ 200 % m1 = 0 && q * q = t
      ffF32.enc .rne true (.fin false (2 * q + (if exact then 0 else 1)) (-e1 / 2 - 101))

/-! ### PW2 (R35) -/

/-- A PW2 code in units of 2^(E-7). -/
def pw2Units (c : Nat) : Int :=
  let a : Int := 2 ^ (7 - fld c 4 3)
  let b : Int := 2 ^ (7 - fld c 0 3)
  (if bit c 7 then -a else a) + (if bit c 3 then -b else b)

/-- Codes with k1 ≤ k2. -/
def pw2Ordered (c : Nat) : Bool := fld c 4 3 ≤ fld c 0 3

/-- The canonical code of a number of units, for a value of the grid. -/
def pw2Canon (u : Int) : Option Nat :=
  if u = 0 then some 0x08
  else
    let cs := (List.range 256).filter fun c => pw2Ordered c && pw2Units c == u
    match cs.find? fun c => bit c 7 == bit c 3 with
    | some c => some c
    | none => cs.head?

/-- The PW2 grid at E = 0 in units of 2^-7, rising, with canonical codes. -/
def pw2Grid : List (Int × Nat) :=
  (List.range 513).filterMap fun (i : Nat) => (pw2Canon ((i : Int) - 256)).map fun c => ((i : Int) - 256, c)

/-- The last grid point at or below a value n/d (d positive), and the first at or above it. -/
def pw2Below (n d : Int) : List (Int × Nat) → Int × Nat → Int × Nat
  | [], b => b
  | g :: r, b => if g.1 * d ≤ n then pw2Below n d r g else b
def pw2Above (n d : Int) : List (Int × Nat) → Int × Nat → Int × Nat
  | [], b => b
  | g :: r, b => if n ≤ g.1 * d then g else pw2Above n d r b

/-- A finite value rounded to the PW2 grid at E = 0 (R43). -/
def pw2Round (rm : Rm) (neg : Bool) (mant : Nat) (exp : Int) : Nat × Nat :=
  let e := min (exp + 7) 0
  let n := onExp neg mant (exp + 7) e
  let d : Int := 2 ^ (-e).toNat
  if 256 * d < n then ((pw2Canon 256).getD 0, fSAT ||| fIX)
  else if n < -256 * d then ((pw2Canon (-256)).getD 0, fSAT ||| fIX)
  else
    let lo := pw2Below n d pw2Grid (-256, 0)
    let hi := pw2Above n d pw2Grid (256, 0)
    if lo.1 * d = n then (lo.2, 0)
    else
      let dl := n - lo.1 * d
      let dh := hi.1 * d - n
      let evLo := fld lo.2 0 3 % 2 == 0
      let evHi := fld hi.2 0 3 % 2 == 0
      let pick := match rm with
        | .rz => if 0 < n then lo else hi
        | .ru => hi
        | .rd => lo
        | .rne =>
          if dl < dh then lo else if dh < dl then hi
          else if evLo != evHi then (if evLo then lo else hi)
          else if lo.1.natAbs < hi.1.natAbs then lo else hi
      (pick.2, fIX)

/-! ### Block-scaled elements (R33, R34) and packing (R43) -/

/-- An element under an E8M0 scale; scale 0xFF reads as NaN. -/
def blockElem (fmt : Fmt) (code scale : Nat) : FV :=
  if scale = 0xFF then .nan false
  else
    let k : Int := (scale : Int) - 127
    if fmt = .pw2 then .ofScaled (pw2Units code) (k - 7) else ((ffOf fmt).dec code).scale k

/-- Largest finite magnitude of a block-scaled format as mantissa and exponent (R43). -/
def blockMax (fmt : Fmt) : Nat × Int :=
  match fmt with
  | .e2m1 => (3, 1) | .e4m3 => (7, 6) | .e5m2 => (7, 13) | .pw2 => (1, 1)
  | .f32 | .bf16 | .f16 | .i8 | .u8 | .i4 | .u4 | .i16 | .u16 | .i32 | .u32 | .i64 => (1, 0)

/-- The smallest s with mant·2^exp ≤ M·2^s. -/
def blockShift (fmt : Fmt) (mant : Nat) (exp : Int) : Int :=
  let (mm, me) := blockMax fmt
  -- s0 is within one of the answer: compare mant·2^exp with mm·2^(me+s)
  let s0 : Int := exp + bitLen mant - bitLen mm - me
  let le := fun (s : Int) =>
    let d := exp - (me + s)
    if 0 ≤ d then mant * 2 ^ d.toNat ≤ mm else mant ≤ mm * 2 ^ (-d).toNat
  if le (s0 - 1) then s0 - 1 else if le s0 then s0 else s0 + 1

/-- Packs a block (R43): scale code, element codes and flags. A signalling NaN among the values also sets NV (R31, R32). -/
def packBlock (fmt : Fmt) (rm : Rm) (vals : List FV) : Nat × List Nat × Nat :=
  if vals.any fun v => !v.isFin then
    (0xFF, vals.map fun _ => 0, fBNAN ||| (if vals.any FV.isSnan then fNV else 0))
  else
    let z0 := if fmt = .pw2 then 0x08 else 0
    let shifts := vals.filterMap fun v => match v with
      | .fin _ m e => if m = 0 then none else some (blockShift fmt m e)
      | .inf _ => none
      | .nan _ => none
    match shifts with
    | [] => (0x7F, vals.map fun _ => z0, 0)
    | s0 :: rest =>
      let s := max (-127) (min 127 (rest.foldl max s0))
      let one := fun v => match v with
        | .fin n m e =>
          if fmt = .pw2 then pw2Round rm n m (e - s) else (ffOf fmt).enc rm true (.fin n m (e - s))
        | .inf _ => (0, 0)
        | .nan _ => (0, 0)
      let rs := vals.map one
      ((s + 127).toNat, rs.map Prod.fst, (rs.map Prod.snd).foldl (· ||| ·) 0)

end Sys2Proof.Machine
end

