-- ==== Sys2Proof/Machine/Translate.lean ====
section
/-!
DEFINITION. Sys2Proof/Machine/Translate.lean: data and instruction translation (R203 to R205, R264 to R267, R358, R359,
R412), the code buffer and instruction fetch.
-/

namespace Sys2Proof.Machine

/-- A dword of device memory. -/
def State.dword (s : State) (a : Nat) : Nat := rdLe s.mem a 8

/-- Whether the ECC word of an address holds an uncorrectable error (R357). -/
def State.badWord (s : State) (a : Nat) : Bool := s.bad.contains (a / 32)

/-- Counts an uncorrectable error met at an address (R410). -/
def State.countUncorr (s : State) (a : Nat) : State :=
  s.updDie (a / 2 ^ 36) fun d => { d with uncorr := mput 0 4 (min (2 ^ 32 - 1) (mget 0 d.uncorr 4 + 1)) d.uncorr }

/-! ### Data tables (R412) -/

/-- What a walk does once it has read the dword of a level (R264, R412): it goes on with a dword of the next level, or ends. -/
inductive WStep where
  | next (level addr : Nat)
  | done (w : Walk)
  deriving DecidableEq, Repr

/-- The cause of an entry with V = 0 (R139): local class where the software bit is set. -/
def notMapped (e : Nat) (loc prog : Nat) : WStep := .done (.cause (if bit e 60 then loc else prog))

/-- An entry at data levels 1 to 3 that points to a next table with 512 entries (full) or 32, of which dword i is read. -/
def dataNext (e level i : Nat) (full : Bool) : WStep :=
  if !bit e 63 then notMapped e 0x08 0x09
  else if fld e 60 3 != 0 || fld e 40 20 != 0 || fld e 0 8 != 0 || (full && fld e 8 4 != 0) then .done (.cause 0x09)
  else .next (level + 1) (fld e 8 32 * 2 ^ 8 + 8 * i)

/-- A leaf entry as the walk meets it. -/
def dataLeaf (e : Nat) (large : Bool) : WStep := if !bit e 63 then notMapped e 0x08 0x09 else .done (.leaf e large)

/-- The four-level walk of a 48-bit data virtual address (R412); level 0 is the root record. -/
def dataStep (va level e : Nat) : WStep :=
  match level with
  | 0 => if fld e 0 12 != 0 || 2 ^ 40 ≤ e then .done (.cause 0x09) else .next 1 (e + 8 * fld va 39 9)
  | 1 => dataNext e 1 (fld va 30 9) true
  | 2 => dataNext e 2 (fld va 21 9) true
  | 3 => if bit e 63 && bit e 61 then dataLeaf e true else dataNext e 3 (fld va 16 5) false
  | _ => dataLeaf e false

/-- Where a data walk begins: the root record, which has to lie in device memory. -/
def dataStart (dt : Nat) : WStep := if dt % 8 != 0 || 2 ^ 40 ≤ dt then .done (.cause 0x09) else .next 0 dt

/-- Physical address of a data address under a leaf (R358, R359), or cause 0x09. -/
def leafAddr (e : Nat) (large : Bool) (va : Nat) (write : Bool) : Except Nat Nat :=
  let striped := bit e 59
  let bad := bit e 61 != large || bit e 60 || (write && !bit e 62)
    || (!large && (striped || fld e 0 24 % 16 != 0))
    || (!striped && (fld e 51 4 != 0 || fld e 42 9 != 0))
  let o := if large then va % 2 ^ 21 else va % 2 ^ 16
  let g := o / 4096
  if bad then .error 0x09
  else if striped && fld e 42 9 < g then .error 0x09
  else
    let i := 512 * fld e 24 18 + g
    let n := fld e 51 4 + 1
    let slice := if striped then (fld e 55 4 + i % n) % 16 else fld e 55 4
    let loc := if striped then 4096 * (fld e 0 24 + i / n) + o % 4096 else 4096 * fld e 0 24 + o
    if 2 ^ 36 ≤ loc then .error 0x09 else .ok (slice * 2 ^ 36 + loc)

/-! ### Instruction tables (R264) -/

/-- Whether an instruction root record can be read at an address. -/
def codeRootAt (it : Nat) : Bool := it % 8 == 0 && it < 2 ^ 40

/-- The level-1 table that an instruction root record names, if it is well formed. -/
def codeRootOf (r : Nat) : Option Nat := if fld r 0 13 != 0 || 2 ^ 40 ≤ r then none else some r

/-- The level-1 table that an instruction root record names in memory; none where it cannot be read (R357). -/
def codeRoot (s : State) (it : Nat) : Option Nat :=
  if codeRootAt it && !s.badWord it then codeRootOf (s.dword it) else none

/-- ROOTT as a stream holds it: the level-1 table plus one, or 0 for a record that is malformed, through which every
fetch raises cause 0x0B (R265). A record with an uncorrectable error is held as 2^40 + 1, past every table, and every fetch
through it raises cause 0x12 (R265, R357). -/
def rootTOf (s : State) (it : Nat) : Nat :=
  if codeRootAt it && s.badWord it then 2 ^ 40 + 1 else (codeRoot s it).elim 0 (· + 1)

/-- An entry at instruction levels 1 and 2, of whose next table dword i is read (R264). -/
def codeNext (e level i : Nat) : WStep :=
  if !bit e 63 then notMapped e 0x0A 0x0B
  else if fld e 27 36 != 0 then .done (.cause 0x0B)
  else .next (level + 1) (fld e 0 27 * 2 ^ 13 + 8 * i)

/-- The walk of a 48-bit instruction virtual address (R264, R265). -/
def codeStep (va level e : Nat) : WStep :=
  match level with
  | 1 => codeNext e 1 (fld va 28 10)
  | 2 => codeNext e 2 (fld va 18 10)
  | _ =>
    if !bit e 63 then notMapped e 0x0A 0x0B
    else if bit e 60 || fld e 54 6 != 0 || (!bit e 61 && fld e 22 32 != 0) || !bit e 62 then .done (.cause 0x0B)
    else .done (.leaf e false)

/-- Where an instruction walk begins: the level-1 table that ROOTT names. -/
def codeStart (rootT va : Nat) : WStep :=
  if rootT = 0 then .done (.cause 0x0B)
  else if 2 ^ 40 < rootT then .done (.bad 0)
  else .next 1 (rootT - 1 + 8 * fld va 38 10)

/-- A walk made by a hardware unit in one step (log 10), of at most n dwords; a dword with an uncorrectable error ends it. -/
def State.walkFrom (s : State) (f : Nat → Nat → WStep) : Nat → WStep → Walk
  | _, .done w => w
  | 0, .next _ _ => .cause 0x09
  | n + 1, .next l a => if s.badWord a then .bad a else s.walkFrom f n (f l (s.dword a))

def walkData (s : State) (dt va : Nat) : Walk := s.walkFrom (dataStep va) 5 (dataStart dt)
def walkCode (s : State) (rootT va : Nat) : Walk := s.walkFrom (codeStep va) 3 (codeStart rootT va)

/-- A whole translation made by a hardware unit in one step (log 10): walk and leaf. -/
def State.xlatNow (s : State) (dt va : Nat) (write : Bool) : Except Nat Nat :=
  if 2 ^ 48 ≤ va then .error 0x0C
  else
    match walkData s dt va with
    | .cause n => .error n
    | .bad _ => .error 0x12
    | .leaf e large => leafAddr e large va write

/-! ### Translation buffers and the miss queue (R203, R204, R266) -/

/-- Page part of the key of a data address, 64 KiB pages. -/
def dataKey (va : Nat) : Nat := va / 2 ^ 16

/-- Page part of the key of an instruction address, 256 KiB pages, apart from the data keys. -/
def codeKey (va : Nat) : Nat := 2 ^ 32 + va / 2 ^ 18

def Core.dtFind (c : Core) (dt va : Nat) : Option Dtlb :=
  c.dtlb.find? fun e => e.dt == dt && (if e.large then e.page / 32 == va / 2 ^ 21 else e.page == va / 2 ^ 16)

def Core.itFind (c : Core) (root va : Nat) : Option Itlb :=
  c.itlb.find? fun e => e.root == root && e.page == va / 2 ^ 18

/-- Entries a data translation buffer and an instruction translation buffer hold; the oldest makes room (log 7). -/
def Core.dtFill (c : Core) (e : Dtlb) : Core := { c with dtlb := (e :: c.dtlb).take 512 }
def Core.itFill (c : Core) (e : Itlb) : Core := { c with itlb := (e :: c.itlb).take 64 }

/-- Outcome of asking for a translation. -/
inductive XRes where
  | ok (c : Core) (pa : Nat)
  | fault (cause : Nat)
  | wait (c : Core)
  deriving DecidableEq, Repr

/-- One more where b holds, modulo 2^64: the counters of R206, which count data translations. -/
def tally (b : Bool) (n : Nat) : Nat := if b then (n + 1) % 2 ^ 64 else n

/-- Waiting requests with one more: behind those that came earlier, and among those of this clock by engine number (R204). -/
def queueMiss (w : MissWait) : List MissWait → List MissWait
  | [] => [w]
  | x :: r => if x.fresh && w.eng < x.eng then w :: x :: r else x :: queueMiss w r

/-- Joins, queues or waits for a walk of a key (R204), for an address that an engine asks for. first says that it has not
been asked for yet. -/
def Core.askWalk (c : Core) (e : Eng) (dt page va : Nat) (first : Bool) : XRes :=
  match c.misses.find? fun m => m.dt == dt && m.page == page with
  | some m =>
    match m.res with
    | some n => if n = 0x08 || n = 0x0A then .wait c else .fault n
    | none => .wait { c with dtJoins := tally (first && page < 2 ^ 32) c.dtJoins }
  | none =>
    let mine := fun (w : MissWait) => w.dt == dt && w.page == page && w.eng == e.num && w.line == va / 64
    if c.misses.length < 32 && c.missWait.isEmpty then
      .wait { c with misses := c.misses ++ [{ dt := dt, page := page }], dtMisses := tally (page < 2 ^ 32) c.dtMisses }
    else if c.missWait.any mine then .wait c
    else .wait { c with missWait := queueMiss ⟨dt, page, e.num, va / 64, true⟩ c.missWait }

/-- Counts a lookup of a requester that has not asked before (R206). -/
def Core.countLookup (c : Core) (first : Bool) : Core :=
  { c with dtLookups := tally first c.dtLookups }

/-- Translates a 48-bit data address in the space dt (R203, R204), counting the lookup of a line not asked for before. -/
def Core.xlat (c : Core) (e : Eng) (dt va : Nat) (write first : Bool) : XRes :=
  let c1 := c.countLookup first
  match c1.dtFind dt va with
  | some l =>
    match leafAddr l.leaf l.large va write with
    | .ok pa => .ok c1 pa
    | .error n => .fault n
  | none => c1.askWalk e dt (dataKey va) va first

/-- The data space a stream translates in (R109, R203). -/
def Core.dtOf (c : Core) (k : Nat) : Nat := (c.job (c.jobOf k)).dtBase

/-- What stream k waits for: the page of an address. -/
def Core.setNeed (c : Core) (k va : Nat) : Core :=
  c.updStream k fun t => { t with need := some (c.dtOf k, dataKey va), needVa := va }

/-- Translates for stream k, which waits for the walk under need (R204). -/
def Core.xlatFor (c : Core) (k va : Nat) (write : Bool) : XRes :=
  let t := c.stream k
  let first := t.need != some (c.dtOf k, dataKey va) || t.needVa / 64 != va / 64
  match c.xlat (engOf k) (c.dtOf k) va write first with
  | .wait c1 => .wait (c1.setNeed k va)
  | .ok c1 pa => .ok c1 pa
  | .fault n => .fault n

/-! ### Read buffer (R52, R59) -/

/-- The 64-byte line of a physical address. -/
def lineOf (pa : Nat) : Nat := pa / 64

/-- Drops the lines p takes from RB(c), and keeps answers under way for them from filling it. -/
def Core.dropLines (c : Core) (p : Nat → Bool) : Core :=
  { c with
    rb := c.rb.filter fun e => !p e.1
    reqs := c.reqs.map fun r => match r.purpose with
      | .line l => if p l then { r with purpose := .stale } else r
      | .code _ | .cmd .. | .write _ | .signal .. | .plane .. | .post _ | .host | .stale | .late => r }

/-- The acquire of a scope (R59). -/
def Core.acquire (c : Core) (cid : Nat) (sc : Scope) : Core :=
  match sc with
  | .die => c.dropLines fun l => l / 2 ^ 30 == dieOf cid
  | .device => c.dropLines fun _ => true
  | .system => c.dropLines fun _ => true
  | .stream => c
  | .core => c

/-! ### Instruction fetch (R266 to R268) -/

/-- What a fetch gives. -/
inductive Fetch where
  | ok (bs : List Byte)
  | wait (s : State)
  | trap (cause : Nat)
  deriving DecidableEq, Repr

/-- The bytes of a code buffer line, if it is held. -/
def Core.codeLine (c : Core) (line : Nat) : Option Nat := (c.code.find? fun e => e.1 == line).map Prod.snd

/-- A code buffer with one more line; 512 lines fit, and the oldest makes room (log 7). -/
def Core.codeFill (c : Core) (line v : Nat) : Core :=
  { c with
    code := ((line, v) :: c.code.filter fun e => e.1 != line).take 512
    codeWant := c.codeWant.filter (· != line), codeErr := c.codeErr.filter (· != line)
    codeParts := c.codeParts.filter fun e => e.1 / 4 != line }

/-- S, the slots per station (R321). -/
def Ring.slots (r : Ring) : Nat := 8 * 2 ^ r.cur

/-- Whether carousel domain d is 0 or enabled in the core's active plane (R268, R323). -/
def Core.domainOn (c : Core) (d : Nat) : Bool :=
  d == 0 || bit (mget 0 c.active (328 + d / 64)).toNat (d % 64)

/-- Whether an address of a page with CAR would need a tile identifier past 2^24 − 1 (R268). -/
def tilePast (leaf va : Nat) : Bool := bit leaf 61 && 2 ^ 24 ≤ fld leaf 22 24 + va % 2 ^ 18 / 4096

/-- Asks for a line that the code buffer lacks: from the carousel for a page with CAR (R268), else from memory. -/
def State.wantLine (s : State) (cid leaf va line : Nat) : State :=
  let c := s.core cid
  let name := fld leaf 22 32 + va % 2 ^ 18 / 4096
  if tilePast leaf va then s
  else if bit leaf 61 && c.domainOn (name / 2 ^ 24) then
    let base := line / 16 * 16
    let mine := fun (k : Catch) => k.core == cid && k.line == base
    if s.ring.catches.any mine then
      let more := fun (k : Catch) =>
        if mine k && !k.lines.contains line then { k with lines := k.lines ++ [line] } else k
      { s with ring := { s.ring with catches := s.ring.catches.map more } }
    else if c.codeWant.contains line then s
    else
      let k : Catch := ⟨cid, base, [line], name, 64 * s.ring.slots + 24⟩
      { s with ring := { s.ring with catches := s.ring.catches ++ [k] } }
  else if c.codeWant.contains line then s
  else s.setCore cid { c with codeWant := c.codeWant ++ [line] }

/-- Fetches n bytes of stream k at address va through the level-1 table rootT (R264 to R266). -/
def State.fetchVa (s : State) (cid k rootT va n : Nat) : Fetch :=
  let c := s.core cid
  match c.itFind rootT va with
  | none =>
    let first := (c.stream k).need != some (rootT, codeKey va)
    match c.askWalk (engOf k) rootT (codeKey va) va first with
    | .fault m => .trap m
    | .ok _ _ => .wait s
    | .wait c1 => .wait (s.setCore cid (c1.updStream k fun t => { t with need := some (rootT, codeKey va), needVa := va }))
  | some e =>
    if tilePast e.leaf va then .trap 0x0B
    else
      let pa := fld e.leaf 0 22 * 2 ^ 18 + va % 2 ^ 18
      match c.codeLine (pa / 256) with
      | some v => .ok ((toBytes n (v / 2 ^ (8 * (pa % 256)))))
      | none => if c.codeErr.contains (pa / 256) then .trap 0x12 else .wait (s.wantLine cid e.leaf va (pa / 256))

/-- Fetches the instruction of stream k: the wick core from its own memory (R146), the others by translation. -/
def State.fetch (s : State) (cid k : Nat) : Fetch :=
  let c := s.core cid
  let t := c.stream k
  if k = 24 then
    if 2 ^ 16 < t.pc + 8 then .trap 0x0B else .ok (rdBytes c.wickMem t.pc 8)
  else
    let root := if t.we.hook.act then mget 0 t.we.ovroots t.we.hook.tenant else t.rootT
    s.fetchVa cid k root t.pc (instrLen (engOf k))

end Sys2Proof.Machine
end

