-- ==== Sys2Proof/Machine/Fabric.lean ====
section
/-!
DEFINITION. Sys2Proof/Machine/Fabric.lean: packets and their way from a core port to an apply queue: tags (R354),
stamping with the die's vector clock (R53), routers (R351 to R353), the causal condition of R54, and the line accesses
that LDG, STG, VA and the matrix and exchange engines share (R52, R355).
-/

namespace Sys2Proof.Machine

/-! ### Building and sending requests -/

/-- A packet with every field at zero. -/
def blankPacket : Packet where
  id := 0
  rid := 0
  kind := .reserved
  dest := 0
  src := 0
  sjslot := 0
  djslot := 0
  vc := 0
  tag := 0
  op := 0
  issue := 0
  addr := 0
  mask := 2 ^ 64 - 1
  slice := false
  space := 0
  data := []
  args := []
  xmod := 0
  linkIn := 0
  crc := 0
  flitBad := false
  wick := false
  walk := false
  arrInput := 5
  die := 0
  seq := 0
  vec := []
  arrived := false

/-- Data flits of a packet (R349). -/
def Packet.len (p : Packet) : Nat := (p.data.length + 63) / 64

/-- KIND of a packet (R349). -/
def PKind.num : PKind → Nat
  | .read => 0 | .write => 1 | .readReply => 2 | .writeAck => 3 | .reduce => 4 | .signal => 5 | .arrival => 6
  | .signalReply => 7 | .plane => 8 | .planeAnswer => 9 | .post => 10 | .postAnswer => 11 | .errorReply => 12
  | .reserved => 13

/-- Bits 223 to 0 of a packet's header (R349). -/
def Packet.header (p : Packet) : Nat :=
  p.mask % 2 ^ 64 + p.xmod % 2 ^ 32 * 2 ^ 64 + p.addr % 2 ^ 48 * 2 ^ 96 + p.issue % 2 ^ 32 * 2 ^ 144 + p.op % 2 ^ 4 * 2 ^ 182
    + p.len % 2 ^ 7 * 2 ^ 186 + p.tag % 2 ^ 3 * 2 ^ 193 + p.kind.num * 2 ^ 196 + p.vc % 2 ^ 2 * 2 ^ 200
    + p.djslot % 2 ^ 3 * 2 ^ 202 + p.sjslot % 2 ^ 3 * 2 ^ 205 + p.src % 2 ^ 8 * 2 ^ 208 + p.dest % 2 ^ 8 * 2 ^ 216

/-- The CRC that belongs to a packet's header. -/
def Packet.headerCrc (p : Packet) : Nat := crc32c (toBytes 28 p.header)

/-- Whether a packet's header and data flits are intact (R349, R360). -/
def Packet.crcOk (p : Packet) : Bool := p.crc == p.headerCrc && !p.flitBad

/-- The core whose router leads to the base-die port of a physical address (R355). -/
def portCore (pa : Nat) : Nat := 16 * (pa / 2 ^ 36) + (fld pa 6 4 ^^^ fld pa 12 4)

/-- Tags of the port to a slice that are taken, as a bit mask. -/
def Core.tagMask (c : Core) (slice : Nat) : Nat := mget 0 c.tags slice

/-- The lowest free tag of a port (R354). -/
def Core.freeTag (c : Core) (slice : Nat) : Option Nat := (List.range 8).find? fun i => !bit (c.tagMask slice) i

def Core.setTag (c : Core) (slice tag : Nat) (on : Bool) : Core :=
  { c with tags := mput 0 slice (setFld (c.tagMask slice) tag 1 (bitN on)) c.tags }

/-- The sender of an instruction of stream k. -/
def Core.sender (c : Core) (cid k clk : Nat) : Sender := ⟨cid, k, c.jobOf k, (c.stream k).pc, 0, clk, clk⟩

/-- Puts a packet into P(c) with the record that waits for its answer (R361). -/
def Core.post (c : Core) (w : Sender) (p : Packet) (purpose : Purpose) (dest : Nat) (slice link : Option Nat) : Core :=
  let rid := c.nextQ
  let q := { p with rid := rid, src := w.core, sjslot := w.job, issue := w.issue % 2 ^ 32, wick := w.key == 24 }
  let r : Req := ⟨rid, purpose, dest, link, slice, p.tag, w.clk, w.key, w.job, w.pc, w.cmd⟩
  { c with nextQ := rid + 1, port := c.port ++ [q], reqs := c.reqs ++ [r] }

/-- A read or write of one 64-byte line as a packet to its slice (R355). -/
def linePacket (kind : PKind) (vc pa mask : Nat) (data : List Byte) : Packet :=
  { blankPacket with
    kind := kind, dest := portCore pa, vc := vc, addr := pa % 2 ^ 36, mask := mask, slice := true, data := data }

/-- Whether a drain buffer holds a write of stream k to the line of a physical address: a later access of the stream to the
line waits for it (R51). -/
def Core.dbHolds (c : Core) (k pa : Nat) : Bool :=
  c.db.any fun d => d.who.key == k && d.slice == some (pa / 2 ^ 36) && d.pkt.addr / 64 == pa % 2 ^ 36 / 64

/-- Sends a read or write of one 64-byte line to its slice through the base-die port; none where no tag is free, or where an
earlier write of the stream to that line is still in its drain buffer. The wick core's accesses take no tag of the frozen
core (DESIGN CHOICE, log 87). -/
def Core.sendLine (c : Core) (w : Sender) (kind : PKind) (vc pa mask : Nat) (data : List Byte) (purpose : Purpose) :
    Option Core :=
  let slice := pa / 2 ^ 36
  let p := linePacket kind vc pa mask data
  if c.dbHolds w.key pa then none
  else if w.key = 24 then some (c.post w p purpose slice none none)
  else
    match c.freeTag slice with
    | none => none
    | some t => some ((c.setTag slice t true).post w { p with tag := t } purpose slice (some slice) none)

/-- The virtual channels of scalar accesses and of the bulk reads and writes of VA, ME and XE (R350). -/
def vcScalar : Nat := 0
def vcBulk : Nat := 1

/-- Outcome of a line read. -/
inductive LRes where
  | ok (bs : List Byte)
  | wait (c : Core)
  deriving DecidableEq, Repr

/-- Whether a read of a line is under way that a reader on stream k can wait for: the wick core does not wait for those of
its frozen core. -/
def Core.lineAsked (c : Core) (k line : Nat) : Bool := c.reqs.any fun r => r.purpose == .line line && (k != 24 || r.key == 24)

/-- Reads a line through RB(c) on a virtual channel (R52): a held line is served at once, else a request is sent, unless one is
under way, no tag is free (R354), or an earlier write of the stream to it has not left (R51). -/
def Core.readLine (c : Core) (w : Sender) (vc line : Nat) : LRes :=
  match (if c.dbHolds w.key (64 * line) then none else mlook line c.rb) with
  | some bs => .ok bs
  | none =>
    if c.lineAsked w.key line then .wait c
    else
      match c.sendLine w .read vc (line * 64) (2 ^ 64 - 1) [] (.line line) with
      | none => .wait c
      | some c1 => .wait c1

/-- Byte mask of n bytes at offset o of a line (R349). -/
def maskAt (o n : Nat) : Nat := (2 ^ n - 1) * 2 ^ o

/-- A line with bytes placed at offset o. -/
def lineData (o : Nat) (bs : List Byte) : List Byte := List.replicate o 0 ++ bs ++ List.replicate (64 - o - bs.length) 0

/-- Writes bytes within one line (R355, R356): accepted by P(c) at once, or none where no tag is free. The line leaves
RB(c) (R52). -/
def Core.writeLine (c : Core) (w : Sender) (pa : Nat) (bs : List Byte) : Option Core :=
  let o := pa % 64
  (c.sendLine w .write vcScalar (pa - o) (maskAt o bs.length) (lineData o bs) (.write w.key)).map fun c1 =>
    c1.dropLines fun l => l == pa / 64

/-- A write of the line of a physical address, under a mask, enters the stream's drain buffer (R49, R50). The line leaves
RB(c) (R52). -/
def Core.drainLine (c : Core) (w : Sender) (pa mask : Nat) (data : List Byte) : Core :=
  let p := linePacket .write vcBulk (pa - pa % 64) mask data
  { (c.dropLines fun l => l == pa / 64) with
    db := c.db ++ [⟨w, p, .write w.key, pa / 2 ^ 36, some (pa / 2 ^ 36), none⟩] }

/-- A packet to a core, or to a module link, enters the stream's drain buffer (R49, R50). -/
def Core.drainPacket (c : Core) (w : Sender) (p : Packet) (purpose : Purpose) (dest : Nat) (link : Option Nat) : Core :=
  { c with db := c.db ++ [⟨w, p, purpose, dest, none, link⟩] }

/-- Whether the drain buffer of stream k is empty. -/
def Core.drained (c : Core) (k : Nat) : Bool := !(c.db.any fun d => d.who.key == k)

/-! ### Vector clocks and stamping (R53) -/

def clockOf (v : SMap Nat) (d : Nat) : Nat := mget 0 v d

def clockMax (a b : SMap Nat) : SMap Nat :=
  (List.range 16).foldl (fun v d => mput 0 d (max (clockOf a d) (clockOf b d)) v) a

/-- The flits of a packet. -/
def Packet.flits (p : Packet) (clk : Nat) : List Flit :=
  (List.range (p.len + 1)).map fun i => ⟨p.id, i, i == p.len, clk⟩

def State.router (s : State) (r : Nat) : Router := mget {} s.routers r
def State.setRouter (s : State) (r : Nat) (v : Router) : State := { s with routers := mput {} r v s.routers }

/-- Stamps a packet in OB(d) and gives it to the router of the given core at the given input (R53, R351). -/
def State.stamp (s : State) (d router input : Nat) (p : Packet) : State :=
  let die := s.die d
  let n := clockOf die.clock d
  let q := { p with id := s.nextId, crc := p.headerCrc, die := d, seq := n + 1, vec := die.clock, arrived := false }
  let s1 := s.setDie d { die with clock := mput 0 d (n + 1) die.clock }
  let rt := s1.router router
  let key := 4 * input + q.vc
  let s2 := s1.setRouter router { rt with inject := mput [] key (mget [] rt.inject key ++ q.flits s.cycles) rt.inject }
  { s2 with net := s2.net ++ [q], nextId := s.nextId + 1 }

/-- The die a packet is applied at. -/
def Packet.destDie (p : Packet) : Nat := dieOf p.dest

/-- Where a packet is bound: a die of this module, or, past the dies, a module link (R365). -/
def Packet.bound (p : Packet) : Nat := if p.space = 3 then 16 + fld p.xmod 13 3 else p.destDie

/-- Whether packet p precedes packet q causally and is bound for the same place (R53, R54, R365). -/
def precedes (p q : Packet) : Bool := p.id != q.id && p.bound == q.bound && p.seq ≤ clockOf q.vec p.die

/-- Whether a packet waits in the holding buffer of a frozen core (R65). -/
def State.heldPkt (s : State) (p : Packet) : Bool :=
  p.arrived && !p.slice && !p.wick && !p.walk && p.space != 1 && p.space != 3 && (s.core p.dest).frozen

/-- Whether AQ may apply q: it has arrived and everything for its die that precedes it has been applied (R54). What a frozen
core holds back is not applied (R65); an answer for the wick core or a page walker does not wait for it, or no handler could
end (log 12). -/
def State.admissible (s : State) (q : Packet) : Bool :=
  q.arrived && !s.heldPkt q && !(s.net.any fun p => precedes p q && !((q.wick || q.walk) && s.heldPkt p))

/-- Whether every slice write that die d knows of has been applied: what a unit of the die that reads memory in one step
waits for (log 10). -/
def State.settled (s : State) (d : Nat) : Bool :=
  !(s.net.any fun p => p.kind == .write && p.slice && p.seq ≤ clockOf (s.die d).clock p.die)

def State.packet (s : State) (id : Nat) : Option Packet := s.net.find? fun p => p.id == id

/-- Takes an applied packet out of the network and carries its causal past into the die's clock (R53). -/
def State.applied (s : State) (q : Packet) : State :=
  let d := q.destDie
  let k := clockMax (s.die d).clock q.vec
  let k1 := mput 0 q.die (max (clockOf k q.die) q.seq) k
  { (s.updDie d fun x => { x with clock := k1 }) with net := s.net.filter fun p => p.id != q.id }

/-- The die at which a module link terminates (R363). -/
def linkDie (k : Nat) : Nat := if k < 2 then 0 else if k < 4 then 3 else if k < 6 then 15 else 12

/-- XMOD of a packet bound for another module. -/
def xmodOf (own peer link : Nat) : Nat := own % 256 * 2 ^ 24 + peer % 256 * 2 ^ 16 + link * 2 ^ 13

/-- Sends the answer to packet q from the die it was applied at: the slice answers through its port (input 4), a core
through its own (input 5). The answer to another module goes by the link that the request came in by (R365). A host access is
answered outside the module. -/
def State.answer (s : State) (q : Packet) (kind : PKind) (data : List Byte) (args : List Nat) : State :=
  if 256 ≤ q.src then s
  else
    let p := { blankPacket with
      kind := kind, rid := q.rid, dest := q.src, src := q.dest % 256, djslot := q.sjslot, vc := 2, tag := q.tag, data := data
      args := args, wick := q.wick, walk := q.walk, issue := s.cycles % 2 ^ 32 }
    s.stamp q.destDie q.dest (if q.slice then 4 else 5)
      (if q.space = 2 then
        let l := q.linkIn
        { p with dest := 16 * linkDie l, space := 3, args := q.src :: args
                 xmod := xmodOf (fld q.xmod 16 8) (fld q.xmod 24 8) l }
      else p)

/-- Bytes written under a 64-byte mask (R355, R356). -/
def wrMasked (m : SMap Byte) (a mask : Nat) : Nat → List Byte → SMap Byte
  | _, [] => m
  | i, b :: bs => wrMasked (if bit mask i then mput Memory.blank (a + i) b m else m) a mask (i + 1) bs

/-! ### Routers (R26, R351 to R353) -/

def meshX (c : Nat) : Nat := 4 * (c / 16 % 4) + c % 16 % 4
def meshY (c : Nat) : Nat := 4 * (c / 16 / 4) + c % 16 / 4

/-- The core at mesh coordinates (R7). -/
def coreAt (x y : Nat) : Nat := 16 * (x / 4 + 4 * (y / 4)) + (x % 4 + 4 * (y % 4))

/-- Output of router r toward router d: X first, then Y (R26); 4 and 5 leave the mesh at the base-die port and at the
core. Outputs carry the numbers R362 gives the inputs of the same neighbour. -/
def routeOut (r d : Nat) (slice : Bool) : Nat :=
  if meshX r < meshX d then 0 else if meshX d < meshX r then 1
  else if meshY r < meshY d then 2 else if meshY d < meshY r then 3
  else if slice then 4 else 5

/-- The neighbour behind an output. -/
def neighbour (r out : Nat) : Nat :=
  match out with
  | 0 => coreAt (meshX r + 1) (meshY r)
  | 1 => coreAt (meshX r - 1) (meshY r)
  | 2 => coreAt (meshX r) (meshY r + 1)
  | 3 => coreAt (meshX r) (meshY r - 1)
  | _ => r

/-- The input at which a flit sent through an output arrives (R362). -/
def arriveIn (out : Nat) : Nat :=
  match out with
  | 0 => 1 | 1 => 0 | 2 => 3 | 3 => 2 | n => n

def Router.head (rt : Router) (input vc : Nat) : Option Flit := (mget [] rt.buf (4 * input + vc)).head?

/-- The output that a flit waiting in router r takes. -/
def State.flitOut (s : State) (r : Nat) (f : Flit) : Nat :=
  match s.packet f.pid with
  | some p => routeOut r p.dest p.slice
  | none => 5

/-- Weight of a virtual channel at a die's arbiters (R350, R352). -/
def Die.weight (d : Die) (vc : Nat) : Nat :=
  match mget 0 d.weights vc with
  | 0 => match vc with
    | 0 => 4 | 1 => 1 | 2 => 4 | _ => 2
  | n => n

/-- Free buffers of the next hop (R351); a flit that leaves the mesh always finds room. -/
def State.credit (s : State) (r out vc : Nat) : Nat :=
  if 4 ≤ out then 8 else 8 - (mget [] (s.router (neighbour r out)).buf (4 * arriveIn out + vc)).length

/-- Whether the flit at an input of router r may go through output out on channel vc now. -/
def State.flitReady (s : State) (r out input vc : Nat) : Bool :=
  let rt := s.router r
  s.credit r out vc != 0 && match rt.head input vc with
    | none => false
    | some f =>
      f.at_ ≤ s.cycles && s.flitOut r f == out
        && (match mget none rt.owner (4 * out + vc) with
            | some p => f.pid == p
            | none => f.i == 0)

/-- The input whose flit output out of router r may forward on channel vc (R351, R352): the owner's next flit, or a head
flit, scanning upward from the input served last. -/
def State.flitCand (s : State) (r out vc : Nat) : Option Nat :=
  (List.range 6).map (fun i => (mget 0 (s.router r).last (4 * out + vc) + i) % 6) |>.find? fun input =>
    s.flitReady r out input vc

/-- Forwards one flit of input on channel vc through output out of router r. A promoted packet keeps the output until its last
flit has passed (R353). -/
def State.forward (s : State) (r out input vc : Nat) : State :=
  let rt := s.router r
  match rt.head input vc with
  | none => s
  | some f =>
    let rt1 := { rt with
      buf := mput [] (4 * input + vc) (mget [] rt.buf (4 * input + vc)).tail rt.buf
      owner := mput none (4 * out + vc) (if f.last then none else some f.pid) rt.owner
      last := if f.i = 0 then mput 0 (4 * out + vc) ((input + 1) % 6) rt.last else rt.last
      waited := if f.i = 0 then mput 0 (4 * input + vc) 0 rt.waited else rt.waited
      promoted := if f.i = 0 then mput false (4 * input + vc) false rt.promoted else rt.promoted
      hold :=
        if f.last then mput none out none rt.hold
        else if f.i = 0 && mget false rt.promoted (4 * input + vc) then mput none out (some (4 * input + vc)) rt.hold
        else rt.hold }
    let s1 := s.setRouter r rt1
    if 4 ≤ out then
      if f.last then
        { s1 with net := s1.net.map fun p => if p.id = f.pid then { p with arrived := true, arrInput := input } else p }
      else s1
    else
      let n := neighbour r out
      let nr := s1.router n
      let key := 4 * arriveIn out + vc
      s1.setRouter n { nr with buf := mput [] key (mget [] nr.buf key ++ [{ f with at_ := s.cycles + 2 }]) nr.buf }

/-- A promoted head that may go through output out before the round (R353). -/
def State.promotedCand (s : State) (r out : Nat) : Option (Nat × Nat) :=
  let rt := s.router r
  ((List.range 24).find? fun k => mget false rt.promoted k && s.flitReady r out (k / 4) (k % 4)).map fun k => (k / 4, k % 4)

/-- One arbitration of an output (R352): the channel the round stands at, or the next one that may forward. -/
def State.arbitrate (s : State) (r out : Nat) : Nat → Option (State × Nat × Nat)
  | 0 => none
  | n + 1 =>
    let rt := s.router r
    let vc := mget 0 rt.rndVc out
    let used := mget 0 rt.rndUsed out
    match (if used < (s.die (dieOf r)).weight vc then s.flitCand r out vc else none) with
    | some input => some (s.setRouter r { rt with rndUsed := mput 0 out (used + 1) rt.rndUsed }, input, vc)
    | none =>
      (s.setRouter r { rt with rndVc := mput 0 out ((vc + 1) % 4) rt.rndVc, rndUsed := mput 0 out 0 rt.rndUsed }).arbitrate
        r out n

/-- Up to n flits through one output in a clock (R352). -/
def State.forwardN (s : State) (r out : Nat) : Nat → State
  | 0 => s
  | n + 1 =>
    match mget none (s.router r).hold out with
    | some k => if s.flitReady r out (k / 4) (k % 4) then (s.forward r out (k / 4) (k % 4)).forwardN r out n else s
    | none =>
      match s.promotedCand r out with
      | some (input, vc) => (s.forward r out input vc).forwardN r out n
      | none =>
        match s.arbitrate r out 5 with
        | some (s1, input, vc) => (s1.forward r out input vc).forwardN r out n
        | none => s

/-- Moves waiting flits of a router's own inputs into free buffers (R351). -/
def Router.refill (rt : Router) : Router :=
  (List.range 8).foldl (fun t i =>
    let k := 16 + i
    let w := mget [] t.inject k
    let b := mget [] t.buf k
    let n := 8 - b.length
    { t with buf := mput [] k (b ++ w.take n) t.buf, inject := mput [] k (w.drop n) t.inject }) rt

/-! ### Page walkers (R204, R265, R412) -/

/-- The page address of a walk's key. -/
def walkVa (page : Nat) : Nat := if page < 2 ^ 32 then page * 2 ^ 16 else (page - 2 ^ 32) * 2 ^ 18

/-- Where the walk of a key begins, and how it goes on from one table to the next. -/
def walkStart (dt page : Nat) : WStep := if page < 2 ^ 32 then dataStart dt else codeStart dt (walkVa page)
def walkNext (page level e : Nat) : WStep :=
  if page < 2 ^ 32 then dataStep (walkVa page) level e else codeStep (walkVa page) level e

/-- A walker's read of a dword: a packet on virtual channel 0, which enters OB(d) at the router of the die's first core
(DESIGN CHOICE, log 87). -/
def State.walkRead (s : State) (d id addr : Nat) : State :=
  s.stamp d (16 * d) 5 { linePacket .read vcScalar (addr - addr % 64) (2 ^ 64 - 1) [] with
    src := 16 * d, rid := id, walk := true, issue := s.cycles % 2 ^ 32 }

/-- A walker goes on: it reads the next dword, or keeps what it has ended in until PAGE_WALK_COMPLETE. -/
def State.walkGo (s : State) (d : Nat) (w : Walker) (st : WStep) : State :=
  let put := fun (s : State) (w : Walker) => s.updDie d fun x => { x with walks := w :: x.walks.filter fun y => y.id != w.id }
  match st with
  | .done r => put s { w with res := some r }
  | .next l a => (put s { w with level := l, addr := a }).walkRead d w.id a

/-- The answer to a walker's read: data, or none for an uncorrectable error (R265). -/
def State.walkAnswer (s : State) (d id : Nat) (data : Option (List Byte)) : State :=
  match (s.die d).walks.find? fun w => w.id == id && w.res.isNone with
  | none => s
  | some w =>
    match data with
    | none => s.walkGo d w (.done (.bad w.addr))
    | some bs => s.walkGo d w (walkNext w.page w.level (leBytes ((bs.drop (w.addr % 64)).take 8)))

/-- A key queued by a core of die d joins a walk of the same key, or takes a free walker (R204). -/
def State.takeWalk (s : State) (d cid dt page : Nat) : State :=
  let join := fun (s : State) (id : Nat) => s.updCore cid fun c => { c with misses := c.misses.map fun m =>
    if m.dt == dt && m.page == page && m.walk.isNone then { m with walk := some id } else m }
  match (s.die d).walks.find? fun w => w.joins && w.dt == dt && w.page == page with
  | some w => join s w.id
  | none =>
    if 16 ≤ (s.die d).walks.length then s
    else
      let w : Walker := ⟨s.nextId, dt, page, 0, 0, true, none⟩
      join (({ s with nextId := s.nextId + 1 } : State).walkGo d w (walkStart dt page)) w.id

/-- The keys that wait for a walker take one, core by core. -/
def State.takeWalks (s : State) : State :=
  (s.cores.flatMap fun e => (e.2.misses.filter fun m => m.walk.isNone && m.res.isNone).map fun m => (e.1, m.dt, m.page)).foldl
    (fun s k => s.takeWalk (dieOf k.1) k.1 k.2.1 k.2.2) s

end Sys2Proof.Machine
end

