-- ==== Sys2Proof/Machine/Operands.lean ====
section
/-!
DEFINITION. Sys2Proof/Machine/Operands.lean: every operand form: scalar operands with VA's queue classes (R69, R211),
vector sources and destinations with rotation and queues (R70, R176 to R179, R183, R229), element modifiers (R71, R72),
and the scratchpad as the engines read and write it (R24, R185).
-/

namespace Sys2Proof.Machine

/-- A cause and its TRAP_STATUS. -/
abbrev Trap := Nat × Nat

/-! ### Scratchpad (R24, R185) -/

/-- A scratchpad byte as a read of this clock sees it (R24). -/
def Core.spadByte (c : Core) (a : Nat) : Byte := ((mlook a c.prev).map Prod.fst).getD (rdByte c.spad a)

def Core.spadRead (c : Core) (a n : Nat) : List Byte := (List.range n).map fun i => c.spadByte (a + i)

/-- Bytes under consecutive addresses. -/
def atAddr (a : Nat) (bs : List Byte) : List (Nat × Byte) := ((List.range bs.length).map (a + ·)).zip bs

/-- A scratchpad write by the engine of a rank: reads of the same clock still see the old bytes, and bytes that a
higher-numbered engine has written in this clock stand (R24). -/
def Core.spadWrite (c : Core) (rank a : Nat) (bs : List Byte) : Core :=
  let us := atAddr a bs
  let (ok, prev) := rankWrites rank c.prev us (mreads Memory.blank (us.map Prod.fst) c.spad)
  { c with spad := mbulk Memory.blank ok c.spad, prev := prev }

/-- Lane-store places as a read of this clock sees them (R202). -/
def Core.laneReadAll (c : Core) (ks : List Nat) : List Byte :=
  let vs := mreads Memory.blank ks c.lane
  if c.prevLane.isEmpty then vs else (ks.zip vs).map fun e => ((mlook e.1 c.prevLane).map Prod.fst).getD e.2

/-- Lane-store writes by the engine of a rank: WE reads of the clock come first, and XE ranks after LLS (R202). -/
def Core.laneWrite (c : Core) (rank : Nat) (us : List (Nat × Byte)) : Core :=
  let (ok, prev) := rankWrites rank c.prevLane us (us.map fun u => rdByte c.lane u.1)
  { c with lane := mbulk Memory.blank ok c.lane, prevLane := prev }

/-- The checks of a scratchpad access of n bytes at a 64-bit address (R119, R185), in the order the rule gives them
(log 11): 0x07 misaligned, 0x0C subcode 5 past the space, 0x0E outside the regions. -/
def spadCheck (j : Job) (a n align : Nat) : Option Trap :=
  if a % align != 0 then some (0x07, addrStatus a)
  else if 2 ^ 19 ≤ a then some (0x0C, 5)
  else if !j.inRegions a n then some (0x0E, kindStatus 3 0xFF)
  else none

/-! ### Queue operands (R177 to R179) -/

/-- A use of a queue as a source: its number and whether it pops. -/
abbrev QUse := Nat × Bool

/-- The checks of the queues an instruction names: inside the job's mask (R18), an entry present for every source, a free
place for a push (R177). -/
def Core.queueCheck (c : Core) (j : Job) (uses : List QUse) (push : Option Nat) : Option Trap :=
  match (uses.map Prod.fst ++ push.toList).find? fun q => !bit j.qmask q with
  | some q => some (0x0E, kindStatus 2 q)
  | none =>
    match uses.find? fun u => (c.queue u.1).presentN == 0 with
    | some u => some (0x04, u.1)
    | none =>
      match push with
      | some q => if (c.queue q).freeN = 0 then some (0x05, q) else none
      | none => none

/-- Removes the head of each queue that some position pops, once (R178). -/
def Core.popQueues (c : Core) (uses : List QUse) : Core :=
  (List.range 16).foldl (fun c q =>
    if uses.any fun u => u.1 == q && u.2 then c.setQueue q (c.queue q).pop else c) c

/-- A queue entry as a scalar operand (R179). -/
def QEnt.scalar : QEnt → Word
  | .vec lanes _ => word (laneOf lanes 0)
  | .sca v => v

/-- A queue entry as a vector operand: its lanes and its lane count (R179). -/
def QEnt.vector : QEnt → List Nat × Nat
  | .vec lanes n => (unpackLanes 32 128 lanes, n)
  | .sca v => (List.replicate 128 (v.toNat % 2 ^ 32), 128)

/-- A vector entry: lanes at or past n are zero. -/
def mkVec (lanes : List Nat) (n : Nat) : QEnt := .vec (packLanes 32 (lanes.take n)) n

/-! ### Scalar operands -/

def Opnd.uses : Opnd → List QUse
  | .x _ => []
  | .q n => [(n, true)]
  | .peek n => [(n, false)]

/-- The queue a scalar destination pushes. -/
def Opnd.push : Opnd → Option Nat
  | .x _ => none
  | .q n => some n
  | .peek _ => none

/-- The value of a scalar source, once its queue has been checked. -/
def Core.opndVal (c : Core) (k : Nat) : Opnd → Word
  | .x n => (c.stream k).getX n
  | .q n => ((c.queue n).head.map QEnt.scalar).getD 0
  | .peek n => ((c.queue n).head.map QEnt.scalar).getD 0

/-- Checks the queues of scalar operands (R18, R177). -/
def Core.opndCheck (c : Core) (k : Nat) (srcs : List Opnd) (dst : Option Opnd) : Option Trap :=
  let uses := srcs.flatMap Opnd.uses
  let push := dst.bind Opnd.push
  if uses.isEmpty && push.isNone then none else c.queueCheck (c.job (c.stream k).job) uses push

/-- Takes the popped entries of scalar operands. -/
def Core.opndPop (c : Core) (srcs : List Opnd) : Core :=
  let uses := srcs.flatMap Opnd.uses
  if uses.isEmpty then c else c.popQueues uses

/-- Writes a scalar result: a register, or a scalar entry pushed to a queue. -/
def Core.opndWrite (c : Core) (k lat : Nat) (d : Opnd) (v : Word) (flags : Nat) : Core :=
  match d with
  | .x n => c.result k lat (.x n v) flags
  | .q n => let (c1, l) := c.reserveQ n (.sca v); c1.result k lat l flags
  | .peek _ => c

/-! ### Rotation (R183) -/

/-- Window and base of the innermost LOOPH entry; window 0 outside any. -/
def rotOf : List LoopEnt → Nat × Nat
  | [] => (0, 0)
  | t :: r => if t.w = 0 then rotOf r else (t.w, t.base)

/-- The register a rotated operand i names. -/
def rotIdx (loops : List LoopEnt) (i : Nat) : Nat :=
  let (w, b) := rotOf loops
  if i < w then (i + w - b) % w else i

/-- The stream register a VA operand names (R183); a mapped index above 31 is out of range. -/
def StOpnd.idx (o : StOpnd) (t : Stream) : Except Trap Nat :=
  let i := if o.rot then rotIdx t.loops o.n else o.n
  if 31 < i then .error (0x0C, 3) else .ok i

/-! ### Vector operands (R70, R229) -/

def VSrc.uses : VSrc → List QUse
  | .v _ => []
  | .rot _ => []
  | .pop n => [(n, true)]
  | .peek n => [(n, false)]

def VDst.push? : VDst → Option Nat
  | .v _ => none
  | .rot _ => none
  | .push n => some n

/-- Lanes and, for a queue, the lane count of a vector source. -/
def Core.vsrc (c : Core) (k : Nat) : VSrc → List Nat × Option Nat
  | .v n => (unpackLanes 32 128 ((c.stream k).getV n), none)
  | .rot n => (unpackLanes 32 128 ((c.stream k).getV (rotIdx (c.stream k).loops n)), none)
  | .pop n => match (c.queue n).head with
    | some e => ((QEnt.vector e).1, some (QEnt.vector e).2)
    | none => (List.replicate 128 0, some 0)
  | .peek n => match (c.queue n).head with
    | some e => ((QEnt.vector e).1, some (QEnt.vector e).2)
    | none => (List.replicate 128 0, some 0)

/-- Vector sources read together (R229): N, and the lanes of each with those at or past N reading as zero. -/
structure VIn where
  n : Nat
  args : List (List Nat)
  deriving DecidableEq, Repr

def Core.vread (c : Core) (k : Nat) (srcs : List VSrc) : VIn :=
  let rs := srcs.map (c.vsrc k)
  let n := (rs.filterMap Prod.snd).foldl min 128
  ⟨n, rs.map fun r => r.1.take n ++ List.replicate (128 - n) 0⟩

def VIn.arg (v : VIn) (i : Nat) : List Nat := v.args.getD i (List.replicate 128 0)

/-- Checks the queues a vector instruction names. -/
def Core.vcheck (c : Core) (k : Nat) (srcs : List VSrc) (push : Option Nat) : Option Trap :=
  let uses := srcs.flatMap VSrc.uses
  if uses.isEmpty && push.isNone then none else c.queueCheck (c.job (c.stream k).job) uses push

/-- Takes the entries that vector sources pop. -/
def Core.vpop (c : Core) (srcs : List VSrc) : Core :=
  let uses := srcs.flatMap VSrc.uses
  if uses.isEmpty then c else c.popQueues uses

/-- Writes a vector result that lands lat clocks after issue; a pushed entry carries VCNT n (R229). -/
def Core.vwrite (c : Core) (k lat : Nat) (d : VDst) (lanes : List Nat) (n flags : Nat) : Core :=
  match d with
  | .v i => c.result k lat (.v i (packLanes 32 lanes)) flags
  | .rot i => c.result k lat (.v (rotIdx (c.stream k).loops i) (packLanes 32 lanes)) flags
  | .push q => let (c1, l) := c.reserveQ q (mkVec lanes n); c1.result k lat l flags

/-! ### Elements and modifiers (R71, R72) -/

/-- Width of an element. -/
def elemW (esz : Nat) : Nat := 32 / 2 ^ esz

/-- Half-width source format of a widening modifier on a floating instruction (R230). -/
def halfFmt (esz fmt : Nat) : FFmt :=
  if esz = 0 then (if fmt = 0 then ffF16 else ffBf16) else (if fmt = 0 then ffE4m3 else ffE5m2)

/-- The format a floating instruction runs in (R71, R230). -/
def opFmt (f : VFmt) : FFmt :=
  if f.esz = 0 then ffF32
  else if widens f.amod || widens f.bmod then ffF16
  else if f.esz = 1 then (if f.fmt = 0 then ffF16 else ffBf16)
  else if f.esz = 2 then (if f.fmt = 0 then ffE4m3 else ffE5m2)
  else ffE2m1

/-- An element widened exactly from one floating format to another (R72): NaNs become the canonical quiet NaN, and a
signalling one sets NV. -/
def widenF (src dst : FFmt) (c : Nat) : Nat × Nat := dst.enc .rne true (src.dec c)

/-- An integer element of width w widened to width 2·w. -/
def widenI (sgn : Bool) (w c : Nat) : Nat := if sgn then uI (2 * w) (sextN w c) else c

/-- A lane's elements under a modifier, with flags. flt is the half and whole format of a floating instruction. -/
def modLane (flt : Option (FFmt × FFmt)) (sgn : Bool) (esz m lane : Nat) : List Nat × Nat :=
  let n := 2 ^ esz
  let w := elemW esz
  let es := unpackLanes w n lane
  let half := fun o =>
    let hs := (List.range n).map fun i => fld lane ((i + o) * (w / 2)) (w / 2)
    match flt with
    | some (src, dst) => (hs.map fun h => (widenF src dst h).1, (hs.map fun h => (widenF src dst h).2).foldl (· ||| ·) 0)
    | none => (hs.map (widenI sgn (w / 2)), 0)
  match m with
  | 1 => ((List.range n).map fun i => es.getD (i ^^^ 1) 0, 0)
  | 2 => (List.replicate n (es.getD 0 0), 0)
  | 3 => (List.replicate n (es.getD 1 0), 0)
  | 4 => (es.reverse, 0)
  | 5 => half n
  | 6 => half 0
  | 7 => (es.map fun e => e ^^^ 2 ^ (w - 1), 0)
  | _ => (es, 0)

/-- All elements of a source under a modifier, lane 0 first. -/
def modAll (flt : Option (FFmt × FFmt)) (sgn : Bool) (esz m : Nat) (lanes : List Nat) : List Nat × Nat :=
  let rs := lanes.map (modLane flt sgn esz m)
  (rs.flatMap Prod.fst, (rs.map Prod.snd).foldl (· ||| ·) 0)

/-- Elements packed back into 32-bit lanes. -/
def toLanes (w n : Nat) (es : List Nat) : List Nat :=
  (List.range (es.length / n)).map fun i => packLanes w ((es.drop (i * n)).take n)

end Sys2Proof.Machine
end

