-- ==== Sys2Proof/Machine/Heads.lean ====
section
/-!
DEFINITION. Sys2Proof/Machine/Heads.lean: when a stream's earlier work has finished (R58, R110), block heads (R114,
R115, R297) and scalar accesses to device memory (R119).
-/

namespace Sys2Proof.Machine

/-! ### Finished work -/

/-- Whether a result is the signal of a command. -/
def Land.isSig : Land → Bool
  | .sig .. => true
  | .x _ _ | .p _ _ | .v _ _ | .q _ _ _ | .acc _ _ _ _ | .f _ _ | .sem _ _ _ | .hold _ | .none => false

/-- Whether every exposed result of a stream has landed, in an earlier clock (R110): results, flushes and fills. -/
def Core.landed (c : Core) (k clk : Nat) : Bool :=
  !(c.pending.any fun p => p.key == k) && !(c.flushes.any fun f => f.key == k) && !(c.fills.any fun f => f.key == k)
    && (c.stream k).landClk ≤ clk

/-- Whether a stream's commands have all completed, with their signals and releases (R110). -/
def Core.cmdsDone (c : Core) (k : Nat) : Bool := (c.stream k).cmds.isEmpty && !(c.pending.any fun p => p.key == k && p.dst.isSig)

/-- Whether END and RDZV of a stream take effect (R110). -/
def Core.workDone (c : Core) (k clk : Nat) : Bool :=
  match engOf k with
  | .va => c.landed k clk
  | .ve => c.landed k clk
  | .we => c.landed k clk
  | .me => c.cmdsDone k
  | .xe => c.cmdsDone k
  | .sq => true
  | .wick => true

/-- Whether a release of a stream at a scope is complete (R58). Writes of SQ enter P(c) as they issue; those of VA, and those
of ME and XE commands, wait in a drain buffer until P(c) accepts them. -/
def Core.released (c : Core) (k clk : Nat) (sc : Scope) : Bool :=
  let loc := c.workDone k clk
  let port := c.drained k
  match sc with
  | .stream => true
  | .core => loc
  | .die => loc && port
  | .device => loc && port
  | .system => loc && port && !(c.reqs.any fun r => r.purpose == .host && r.key == k)

/-! ### Groups (R21, R22, R102) -/

/-- Whether phase number ph has advanced past p (R114). -/
def phasePast (ph p : Nat) : Bool :=
  let d := (ph + 2 ^ 16 - p % 2 ^ 16) % 2 ^ 16
  1 ≤ d && d ≤ 2 ^ 15

/-- Whether a scope reaches beyond the core, so that its releases and acquires order packets (R60). -/
def Scope.wide : Scope → Bool
  | .die => true | .device => true | .system => true
  | .stream => false | .core => false

/-- What core cid's die sends from now on follows what the arrivals of group g's complete phase released (R53, R60). -/
def State.joinDone (s : State) (cid g : Nat) : State :=
  s.updDie (dieOf cid) fun d => { d with clock := clockMax d.clock (s.group g).done }

/-! ### Block heads -/

/-- A head's test: all conditions hold and the core after the counts and tokens are taken, some does not, or a trap. -/
inductive HRes where
  | ok (c : Core)
  | unsat
  | trap (cause status : Nat)
  deriving DecidableEq, Repr

/-- The group condition of a head (R114): content breaks give cause 0x0C, a group the stream is not in 0x0E. -/
def groupCond (s : State) (t : Stream) (greg : Nat) : Except Trap Bool :=
  if greg = 0 then .ok true
  else
    let v := (t.getX greg).toNat
    let g := fld v 0 12
    if fld v 12 4 != 0 || fld v 32 32 != 0 then .error (0x0C, 3)
    else if !t.groups.contains g then .error (0x0E, Config.groupHeadStatus v % 2 ^ 10)
    else .ok (phasePast (s.group g).phase (fld v 16 16))

/-- The queue conditions of a head (R114): VE takes q0 to q7 and pushes q8 to q15, VA the other way. -/
def headQueues (c : Core) (e : Eng) (h : HeadSpec) : Bool :=
  let bin := if e = .va then 8 else 0
  let bout := if e = .va then 0 else 8
  (maskBits 8 h.qin).all (fun i => h.qn + 1 ≤ (c.queue (bin + i)).presentN)
    && (maskBits 8 h.qout).all fun i => h.qn + 1 ≤ (c.queue (bout + i)).freeN

/-- The queues a head names. -/
def headMask (e : Eng) (h : HeadSpec) : Nat := if e = .va then h.qin * 2 ^ 8 + h.qout else h.qin + h.qout * 2 ^ 8

/-- Takes a head's counts and tokens and passes its acquire (R115, R180). The block before it ends, and its unused credit
returns first. -/
def Core.takeHead (c : Core) (cid k tp sem scnt tcnt : Nat) (acq : Option Scope) : Core :=
  let j := (c.stream k).job
  let c1 := if scnt = 0 then c else c.setSem sem (c.semCount sem - scnt)
  let f := fifoNo tp (k / 4)
  let c2 := if tcnt = 0 then c1 else c1.updJob j fun b => b.setTok f (b.tok f - tcnt)
  let c3 := if exposed (engOf k) && tcnt != 0 then c2.updStream k fun t => { t with credit := tcnt, creditFrom := tp } else c2
  match acq with
  | none => c3
  | some sc => c3.acquire cid sc

/-- Tests a head (R114, R115, R297). An exposed engine's tokens become the block's credit. A head with REL takes its counts and
tokens in the clock in which its release is complete too (DESIGN CHOICE, log 88). -/
def headTest (s : State) (cid k tp : Nat) (h : HeadSpec) : HRes :=
  let c0 := (s.core cid).returnCredit k
  let t := c0.stream k
  let b := c0.job (c0.jobOf k)
  let e := engOf k
  let sem := b.sem h.sem
  if h.scnt != 0 && sem.isNone then .trap 0x0E (kindStatus 1 h.sem)
  else
    match (List.range 16).find? fun q => bit (headMask e h) q && !bit b.qmask q with
    | some q => .trap 0x0E (kindStatus 2 q)
    | none =>
      match groupCond s t h.greg with
      | .error (a, st) => .trap a st
      | .ok g =>
        let n := sem.getD 0
        if h.tcnt != 0 && !bit b.engmask tp then .trap 0x06 (tp * 2 ^ 5)
        else if g && (h.scnt == 0 || h.scnt ≤ c0.semCount n)
            && (h.tcnt == 0 || h.tcnt ≤ b.tok (fifoNo tp (k / 4)))
            && headQueues c0 e h && (!h.sync.rel || c0.released k s.cycles h.sync.scope) then
          .ok (c0.takeHead cid k tp n h.scnt h.tcnt (if h.sync.acq then some h.sync.scope else none))
        else .unsat

/-- The head fields of a WWAIT (R297). -/
def wwaitHead (sem scnt tcnt : Nat) (s : Option Sync) : HeadSpec :=
  ⟨sem, scnt, tcnt, 0, 0, 0, 0, s.getD ⟨false, false, .stream⟩⟩

/-- The state in which a satisfied head of the present stream leaves: its core, and what its acquire orders (R60). t is the stream
before. -/
def State.passHead (s : State) (cid : Nat) (t : Stream) (h : HeadSpec) (c : Core) : State :=
  let s1 := s.setCore cid c
  if h.greg != 0 && h.sync.acq && Scope.wide h.sync.scope then s1.joinDone cid (fld (t.getX h.greg).toNat 0 12) else s1

/-- Whether the head a stream waits at would now go on: satisfied, or trapping. -/
def State.headReady (s : State) (cid k : Nat) : Bool :=
  let go := fun tp h => match headTest s cid k tp h with
    | .ok _ => true | .trap _ _ => true | .unsat => false
  match ((s.core cid).stream k).wait with
  | .head i => match i with
    | .blkh h sp => go h.tp sp
    | .wwait h sem sc tc sy => go h.tp (wwaitHead sem sc tc sy)
    | _ => false
  | _ => false

/-! ### Accesses of queued commands (R51) -/

/-- Whether n bytes at address b may touch the line of address a, as far as the offset in a 4 KiB page tells: two names of one
physical line agree in it (R358). -/
def nearLine (b n a : Nat) : Bool := n != 0 && (a / 64 + 64 - b / 64 % 64) % 64 ≤ (b % 64 + n - 1) / 64

/-- Whether a transfer has yet to read or write a line of memory beyond the core that may be that of an address. -/
def Cmd.pends (m : Cmd) (a : Nat) : Bool :=
  let hits := fun (w from_ : Nat) =>
    (fld w 61 3 == 0 || fld w 61 3 == 4) && nearLine (fld w 0 48 + from_) (m.vals.getD 2 0 - from_) a
  hits (m.vals.getD 1 0) m.stage || (match m.instr with
    | .xcpg .. => false
    | _ => hits (m.vals.getD 0 0) m.pos)

/-- Whether a queued command of ME or XE may touch the line of an address. A nest only reads, and holds back writes alone. -/
def Cmd.touches (m : Cmd) (a : Nat) (write : Bool) : Bool :=
  !m.finished && (match m.instr with
    | .mdrn .. => true
    | .mrqt .. => true
    | .mgo .. => write
    | .mrst .. => write
    | .xcp .. => m.pends a
    | .xcpg .. => m.pends a
    | .xkeyEnc .. => m.pends a
    | .xkeyDec .. => m.pends a
    | _ => false)

/-- Whether an access of stream k has to wait for one of its commands numbered below i: two accesses of one stream to the same
byte reach its slice in issue order (R51). -/
def Core.cmdsHold (c : Core) (k i a : Nat) (write : Bool) : Bool :=
  (c.stream k).cmds.any fun m => m.idx < i && m.touches a write

/-! ### Scalar accesses to device memory (R119) -/

/-- What a scalar access of device memory gives: the datum, a trap, a reason to be made again later, or a request just sent
for the line of a physical address. -/
inductive DRes where
  | ok (v : Nat) (c : Core)
  | trap (cause status : Nat)
  | wait (c : Core)
  | sent (c : Core) (pa : Nat)
  deriving DecidableEq, Repr

/-- The checks of a data address: bits 63 to 48, and alignment. -/
def dataCheck (a n : Nat) : Option Trap :=
  if a % n != 0 then some (0x07, addrStatus a) else if 2 ^ 48 ≤ a then some (0x0C, 5) else none

/-- Reads n bytes at a data address for stream k (R119, R204). -/
def Core.readData (c : Core) (w : Sender) (a n : Nat) : DRes :=
  match dataCheck a n with
  | some (x, st) => .trap x st
  | none =>
    match c.xlatFor w.key a false with
    | .fault x => .trap x (faultStatus x a)
    | .wait c1 => .wait c1
    | .ok c1 pa =>
      if c1.cmdsHold w.key (c1.stream w.key).ncmd a false then .wait (c1.setNeed w.key a)
      else match c1.readLine w vcScalar (lineOf pa) with
      | .wait c2 => if c1.reqs.length < c2.reqs.length then .sent (c2.setNeed w.key a) pa else .wait (c2.setNeed w.key a)
      | .ok bs => .ok (leBytes ((bs.drop (pa % 64)).take n)) c1

/-- Writes n bytes at a data address for stream k: translated and accepted by P(c) (R119). -/
def Core.writeData (c : Core) (w : Sender) (a n v : Nat) : DRes :=
  match dataCheck a n with
  | some (x, st) => .trap x st
  | none =>
    match c.xlatFor w.key a true with
    | .fault x => .trap x (faultStatus x a)
    | .wait c1 => .wait c1
    | .ok c1 pa =>
      match (if c1.cmdsHold w.key (c1.stream w.key).ncmd a true then none else c1.writeLine w pa (toBytes n v)) with
      | none => .wait (c1.setNeed w.key a)
      | some c2 => .ok 0 c2

end Sys2Proof.Machine
end

