-- ==== Sys2Proof/Machine/Common.lean ====
section
/-!
DEFINITION. Sys2Proof/Machine/Common.lean: the meanings of the common group (R110 to R121), one definition per
instruction over the shared operations of this file.
-/

namespace Sys2Proof.Machine

/-! ### Control flow (R110, R111) -/

/-- An instruction that does nothing. -/
def nopBody (c : Core) : CRes := .done c .seq 1

def execNop (h : Head) (s : State) : Host.Outcome State Fault Refusal := runC s h nopBody

/-- Barriers bound to group g that hold a residue (R312). -/
def residues (g : Nat) (m : SMap Barrier) : List Nat :=
  (List.range 32).filter fun i =>
    let b := mget {} m i
    b.bound && b.group == g && b.balance != 0

/-- The barriers of a core after group g has ceased to exist (R312). -/
def unbind (g : Nat) (m : SMap Barrier) : SMap Barrier :=
  (List.range 32).foldl (fun m i =>
    let b := mget {} m i
    if b.bound && b.group == g then mput {} i (if b.balance = 0 then { b with bound := false } else {}) m else m) m

/-- TRAP_STATUS of a residue (R142): group, barrier, the owner's core and job slot. -/
def residueStatus (g owner i : Nat) : Nat := g + i % 4 * 2 ^ 12 + owner * 2 ^ 16 + i / 4 * 2 ^ 24

/-- A member leaves group g (R21, R22): the phase goes on without it, and a group whose last member leaves ceases to
exist, which tests the barriers bound to it (R312); a residue charges the leaver's job with cause 0x10, pc naming the
instruction or 0 (R142). -/
def State.leaveGroup (s : State) (cid k g pc : Nat) : State :=
  let gr := s.group g
  let m := (cid, k)
  if !gr.members.contains m then s
  else
    let ms := gr.members.filter (· != m)
    let s1 := s.updCore cid fun c => c.updStream k fun t => { t with groups := t.groups.filter (· != g) }
    if ms.isEmpty then
      let job := ((s.core cid).stream k).job
      let s2 := s1.setGroup g {}
      -- every core's barriers bound to g are tested; a residue charges the job of the stream that left last
      (s2.cores.map Prod.fst).foldl (fun s o =>
        let c := s.core o
        let s3 := s.setCore o { c with barriers := unbind g c.barriers }
        (residues g c.barriers).foldl (fun s i => s.updCore cid fun c =>
          c.recordResidue s.cycles job ⟨0x10, pc, 0, residueStatus g o i, trapEng job k⟩) s3) s2
    else
      s1.setGroup g { gr with
        members := ms, expect := gr.expect.filter (· != m), arrived := gr.arrived.filter (· != m) }

/-- A stream leaves every group. -/
def State.leaveAll (s : State) (cid k pc : Nat) : State :=
  ((s.core cid).stream k).groups.foldl (fun s g => s.leaveGroup cid k g pc) s

/-- Whether a result is a register's. -/
def Land.isReg : Land → Bool
  | .x _ _ | .p _ _ | .v _ _ | .hold _ => true
  | .q _ _ _ | .acc _ _ _ _ | .f _ _ | .sem _ _ _ | .sig .. | .none => false

/-- A core without the register results of a stream that ends. -/
def Core.dropRegs (c : Core) (k : Nat) : Core := { c with pending := c.pending.filter fun p => p.key != k || !p.dst.isReg }

/-- A stream ends (R11, R110): it leaves its groups at the END's address and releases its slot. -/
def State.endStream (s : State) (cid k : Nat) : State :=
  let s1 := s.leaveAll cid k ((s.core cid).stream k).pc
  s1.updCore cid fun c =>
    let t := c.stream k
    let c1 := if k = 16 then c.updJob t.job fun b => { b with rowProg := t.me.prog } else c
    ((c1.returnCredit k).dropRegs k).setStream k {}

/-- END (R110): the stream ends once its work has finished. -/
def execEndS (h : Head) (s : State) : Host.Outcome State Fault Refusal :=
  runI s h fun s1 =>
    let cid := s.cur.core
    let k := s.cur.key
    if (s1.core cid).workDone k s.cycles then .done (s1.endStream cid k) .gone 1 else .stall s1

/-- RDZV n (R10, R110): the block before it ends (R180), and the stream waits once its work has finished. -/
def execRdzv (h : Head) (n : Nat) (s : State) : Host.Outcome State Fault Refusal :=
  runC s h fun c =>
    let c1 := c.returnCredit s.cur.key
    if c1.workDone s.cur.key s.cycles then .done c1 (.wait (.rdzv n)) 1 else .stall c1

/-- Checks of a transfer target (R111). A target that breaks both gets cause 0x0B (DESIGN CHOICE, log 88). -/
def targetCheck (a : Int) : Option Trap :=
  let u := uI 64 a
  if 2 ^ 48 ≤ u then some (0x0B, addrStatus u) else if u % 8 != 0 then some (0x07, addrStatus u) else none

/-- A transfer of control to an address, after an update of the core (R111). -/
def jumpTo (c : Core) (a : Int) (lat : Nat) : CRes :=
  match targetCheck a with
  | some (x, st) => .trap x st
  | none => .done c (.jump (uI 64 a)) lat

/-- The target of a branch offset in words. -/
def relTarget (pc : Nat) (off : Int) : Int := (pc : Int) + 8 * off

/-- A taken branch with EXIT pops the innermost active loop (R111). -/
def Core.exitLoop (c : Core) (k : Nat) (exit : Bool) : Core :=
  if exit then c.updStream k fun t => { t with loops := t.loops.tail } else c

/-- A branch that is taken or not. -/
def branchBody (s : State) (taken exit : Bool) (off : Int) (c : Core) : CRes :=
  if taken then jumpTo (c.exitLoop s.cur.key exit) (relTarget (c.stream s.cur.key).pc off) 1 else .done c .seq 1

def execBr (h : Head) (exit : Bool) (off : Int) (s : State) : Host.Outcome State Fault Refusal :=
  runC s h (branchBody s true exit off)

def execBrc (h : Head) (z exit : Bool) (p : Nat) (off : Int) (s : State) : Host.Outcome State Fault Refusal :=
  runC s h fun c => branchBody s ((c.stream s.cur.key).getP p != z) exit off c

/-- The return address of a call (R111). -/
def linkWord (c : Core) (k : Nat) : Word := word ((c.stream k).pc + 8)

/-- CALL (R111): the link register lands under R108. -/
def execCall (h : Head) (a : Nat) (off : Int) (s : State) : Host.Outcome State Fault Refusal :=
  runC s h fun c =>
    let k := s.cur.key
    let l := comLat s.cur.eng 1 1
    jumpTo (c.result k l (.x a (linkWord c k)) 0) (relTarget (c.stream k).pc off) l

/-- A data address: a register plus a signed offset, modulo 2^64 (R119). -/
def addrOf (c : Core) (k a : Nat) (imm : Int) : Nat := ((c.stream k).getX a + BitVec.ofInt 64 imm).toNat

/-- CALLG (R111): the slot is read through the data translation, the stream waiting for it; the block ends. -/
def execCallg (h : Head) (d a : Nat) (imm : Int) (s : State) : Host.Outcome State Fault Refusal :=
  runC s h fun c =>
    let k := s.cur.key
    let l := comLat s.cur.eng 1 1
    match c.readData (c.sender s.cur.core k s.cycles) (addrOf c k a imm) 8 with
    | .trap x st => .trap x st
    | .wait c1 => .stall c1
    | .sent c1 _ => .stall c1
    | .ok v c1 => jumpTo ((c1.returnCredit k).result k l (.x d (linkWord c k)) 0) v l

def execJr (h : Head) (a : Nat) (s : State) : Host.Outcome State Fault Refusal :=
  runC s h fun c => jumpTo c ((c.stream s.cur.key).getX a).toNat 1

/-! ### Hardware loops (R112, R113) -/

/-- Entering a loop of n iterations whose end word lies off words on; w is the rotation window, 0 for none. -/
def loopBody (s : State) (n off w : Nat) (c : Core) : CRes :=
  let t := c.stream s.cur.key
  let fin := (t.pc + 8 * off) % 2 ^ 48
  if n = 0 then .done c (.skip ((fin + 8) % 2 ^ 48)) 1
  else if 4 ≤ t.loops.length then .trap 0x0C 4
  else
    .done (c.setStream s.cur.key { t with loops := ⟨(t.pc + 8) % 2 ^ 48, fin, n, w, 0⟩ :: t.loops }) .seq 1

def execLoop (h : Head) (a off : Nat) (s : State) : Host.Outcome State Fault Refusal :=
  runC s h fun c => loopBody s ((c.stream s.cur.key).getX a).toNat off 0 c

def execLoopi (h : Head) (n off : Nat) (s : State) : Host.Outcome State Fault Refusal := runC s h (loopBody s n off 0)

def execLooph (h : Head) (a off w : Nat) (s : State) : Host.Outcome State Fault Refusal :=
  runC s h fun c => loopBody s ((c.stream s.cur.key).getX a).toNat off w c

/-- TRAP (R121): cause 0x01 with bit 31 and the code. In the wick core the handler ends and the trapped job stops with
that record, without HFAIL (R148). -/
def execTrap (h : Head) (code : Nat) (s : State) : Host.Outcome State Fault Refusal :=
  let st := 2 ^ 31 + code
  if s.cur.eng = .wick then
    runC s h fun c =>
      let b := c.job c.trapJob
      .done ((c.dropFault.recordFault s.cycles c.trapJob { b.trap with cause := 0x01, status := st }).thawNext) .gone 1
  else runC s h fun _ => .trap 0x01 st

/-! ### Scalar arithmetic (R116 to R118) -/

/-- Three-register ALU form with a result of f. lat is the interlocked latency (R108). -/
def aluBody (s : State) (lat : Nat) (d : Opnd) (srcs : List Opnd) (f : List Word → Word) (c : Core) : CRes :=
  let k := s.cur.key
  match c.opndCheck k srcs (some d) with
  | some (x, st) => .trap x st
  | none =>
    let l := comLat s.cur.eng lat 1
    .done ((c.opndPop srcs).opndWrite k l d (f (srcs.map (c.opndVal k))) 0) .seq l

/-- A two-source ALU instruction. -/
def runAlu (s : State) (h : Head) (lat : Nat) (d a b : Opnd) (f : Word → Word → Word) :
    Host.Outcome State Fault Refusal :=
  runC s h (aluBody s lat d [a, b] fun v => f (v.getD 0 0) (v.getD 1 0))

/-- A one-source ALU instruction. -/
def runAlu1 (s : State) (h : Head) (d a : Opnd) (f : Word → Word) : Host.Outcome State Fault Refusal :=
  runC s h (aluBody s 1 d [a] fun v => f (v.getD 0 0))

/-- Leading zeros of a 64-bit value (R116). -/
def clz64 (w : Word) : Word := word (64 - bitLen w.toNat)

/-- Number of 1 bits (R116). -/
def popc64 (w : Word) : Word := word ((List.range 64).filter fun i => bit w.toNat i).length

/-- The low 6 bits of a shift count. -/
def shAmt (b : Word) : Nat := b.toNat % 64

def execAdd (h : Head) (d a b : Opnd) (s : State) : Host.Outcome State Fault Refusal := runAlu s h 1 d a b (· + ·)
def execSub (h : Head) (d a b : Opnd) (s : State) : Host.Outcome State Fault Refusal := runAlu s h 1 d a b (· - ·)
def execAnd (h : Head) (d a b : Opnd) (s : State) : Host.Outcome State Fault Refusal := runAlu s h 1 d a b (· &&& ·)
def execOr (h : Head) (d a b : Opnd) (s : State) : Host.Outcome State Fault Refusal := runAlu s h 1 d a b (· ||| ·)
def execXor (h : Head) (d a b : Opnd) (s : State) : Host.Outcome State Fault Refusal := runAlu s h 1 d a b (· ^^^ ·)
def execAndn (h : Head) (d a b : Opnd) (s : State) : Host.Outcome State Fault Refusal :=
  runAlu s h 1 d a b fun x y => x &&& ~~~y
def execShl (h : Head) (d a b : Opnd) (s : State) : Host.Outcome State Fault Refusal :=
  runAlu s h 1 d a b fun x y => x <<< shAmt y
def execShr (h : Head) (d a b : Opnd) (s : State) : Host.Outcome State Fault Refusal :=
  runAlu s h 1 d a b fun x y => x >>> shAmt y
def execSra (h : Head) (d a b : Opnd) (s : State) : Host.Outcome State Fault Refusal :=
  runAlu s h 1 d a b fun x y => x.sshiftRight (shAmt y)
def execMul (h : Head) (d a b : Opnd) (s : State) : Host.Outcome State Fault Refusal := runAlu s h 3 d a b (· * ·)
def execMulh (h : Head) (d a b : Opnd) (s : State) : Host.Outcome State Fault Refusal :=
  runAlu s h 3 d a b fun x y => BitVec.ofInt 64 (x.toInt * y.toInt / 2 ^ 64)
def execMulhu (h : Head) (d a b : Opnd) (s : State) : Host.Outcome State Fault Refusal :=
  runAlu s h 3 d a b fun x y => word (x.toNat * y.toNat / 2 ^ 64)
def execMin (h : Head) (d a b : Opnd) (s : State) : Host.Outcome State Fault Refusal :=
  runAlu s h 1 d a b fun x y => if x.slt y then x else y
def execMax (h : Head) (d a b : Opnd) (s : State) : Host.Outcome State Fault Refusal :=
  runAlu s h 1 d a b fun x y => if x.slt y then y else x
def execMinu (h : Head) (d a b : Opnd) (s : State) : Host.Outcome State Fault Refusal :=
  runAlu s h 1 d a b fun x y => if x.ult y then x else y
def execMaxu (h : Head) (d a b : Opnd) (s : State) : Host.Outcome State Fault Refusal :=
  runAlu s h 1 d a b fun x y => if x.ult y then y else x
def execSlt (h : Head) (d a b : Opnd) (s : State) : Host.Outcome State Fault Refusal :=
  runAlu s h 1 d a b fun x y => if x.slt y then 1 else 0
def execSltu (h : Head) (d a b : Opnd) (s : State) : Host.Outcome State Fault Refusal :=
  runAlu s h 1 d a b fun x y => if x.ult y then 1 else 0
def execClz (h : Head) (d a : Opnd) (s : State) : Host.Outcome State Fault Refusal := runAlu1 s h d a clz64
def execPopc (h : Head) (d a : Opnd) (s : State) : Host.Outcome State Fault Refusal := runAlu1 s h d a popc64

/-- SEL (R116): xA if pC is 1, else xB. -/
def execSel (h : Head) (d a b : Opnd) (p : Nat) (s : State) : Host.Outcome State Fault Refusal :=
  runC s h fun c =>
    let q := (c.stream s.cur.key).getP p
    aluBody s 1 d [a, b] (fun v => if q then v.getD 0 0 else v.getD 1 0) c

/-- A signed immediate as a 64-bit value. -/
def immW (i : Int) : Word := BitVec.ofInt 64 i

def execAddi (h : Head) (d a : Opnd) (imm : Int) (s : State) : Host.Outcome State Fault Refusal :=
  runAlu1 s h d a (· + immW imm)
def execAndi (h : Head) (d a : Opnd) (imm : Int) (s : State) : Host.Outcome State Fault Refusal :=
  runAlu1 s h d a (· &&& immW imm)
def execOri (h : Head) (d a : Opnd) (imm : Int) (s : State) : Host.Outcome State Fault Refusal :=
  runAlu1 s h d a (· ||| immW imm)
def execXori (h : Head) (d a : Opnd) (imm : Int) (s : State) : Host.Outcome State Fault Refusal :=
  runAlu1 s h d a (· ^^^ immW imm)
def execShli (h : Head) (d a : Opnd) (sh : Nat) (s : State) : Host.Outcome State Fault Refusal :=
  runAlu1 s h d a (· <<< sh)
def execShri (h : Head) (d a : Opnd) (sh : Nat) (s : State) : Host.Outcome State Fault Refusal :=
  runAlu1 s h d a (· >>> sh)
def execSrai (h : Head) (d a : Opnd) (sh : Nat) (s : State) : Host.Outcome State Fault Refusal :=
  runAlu1 s h d a fun x => x.sshiftRight sh
def execSlti (h : Head) (d a : Opnd) (imm : Int) (s : State) : Host.Outcome State Fault Refusal :=
  runAlu1 s h d a fun x => if x.slt (immW imm) then 1 else 0
def execSltiu (h : Head) (d a : Opnd) (imm : Int) (s : State) : Host.Outcome State Fault Refusal :=
  runAlu1 s h d a fun x => if x.ult (immW imm) then 1 else 0

/-- LIH (R117): the immediate times 2^12. -/
def execLih (h : Head) (d : Opnd) (imm : Int) (s : State) : Host.Outcome State Fault Refusal :=
  runC s h (aluBody s 1 d [] fun _ => immW (imm * 2 ^ 12))

/-- A scalar comparison (R118). -/
def condHolds (c : Cond) (x y : Word) : Bool :=
  match c with
  | .eq => x == y | .ne => x != y | .lt => x.slt y | .ge => !x.slt y | .ltu => x.ult y | .geu => !x.ult y

/-- A predicate result of scalar sources. -/
def predBody (s : State) (p : Nat) (srcs : List Opnd) (f : List Word → Bool) (c : Core) : CRes :=
  let k := s.cur.key
  match c.opndCheck k srcs none with
  | some (x, st) => .trap x st
  | none =>
    let l := comLat s.cur.eng 1 1
    .done ((c.opndPop srcs).result k l (.p p (f (srcs.map (c.opndVal k)))) 0) .seq l

def execCmp (h : Head) (cd : Cond) (p : Nat) (a b : Opnd) (s : State) : Host.Outcome State Fault Refusal :=
  runC s h (predBody s p [a, b] fun v => condHolds cd (v.getD 0 0) (v.getD 1 0))

def execCmpi (h : Head) (cd : Cond) (p : Nat) (a : Opnd) (imm : Int) (s : State) : Host.Outcome State Fault Refusal :=
  runC s h (predBody s p [a] fun v => condHolds cd (v.getD 0 0) (immW imm))

/-- Predicate logic (R118). -/
def runPlog (s : State) (h : Head) (d a b : Nat) (f : Bool → Bool → Bool) : Host.Outcome State Fault Refusal :=
  runC s h fun c =>
    let t := c.stream s.cur.key
    predBody s d [] (fun _ => f (t.getP a) (t.getP b)) c

def execPand (h : Head) (d a b : Nat) (s : State) : Host.Outcome State Fault Refusal := runPlog s h d a b (· && ·)
def execPor (h : Head) (d a b : Nat) (s : State) : Host.Outcome State Fault Refusal := runPlog s h d a b (· || ·)
def execPxor (h : Head) (d a b : Nat) (s : State) : Host.Outcome State Fault Refusal := runPlog s h d a b (· != ·)
def execPandn (h : Head) (d a b : Nat) (s : State) : Host.Outcome State Fault Refusal :=
  runPlog s h d a b fun x y => x && !y
def execPmov (h : Head) (d a : Nat) (s : State) : Host.Outcome State Fault Refusal := runPlog s h d a a fun x _ => x
def execPseti (h : Head) (d : Nat) (v : Bool) (s : State) : Host.Outcome State Fault Refusal :=
  runPlog s h d d d fun _ _ => v

/-! ### Scalar memory (R119) -/

/-- A loaded value extended to 64 bits: zext zero-extends, else the sign is extended. -/
def extend (n : Nat) (zext : Bool) (v : Nat) : Word :=
  if zext then word v else BitVec.ofInt 64 (sextN (8 * n) (v % 2 ^ (8 * n)))

/-- The check of an LD or ST: the wick core's own memory (R146) or the scratchpad. -/
def memCheck (s : State) (c : Core) (a n : Nat) : Option Trap :=
  if s.cur.eng = .wick then
    if a % n != 0 then some (0x07, addrStatus a) else if 2 ^ 16 < a + n then some (0x0C, 5) else none
  else spadCheck (c.job (c.stream s.cur.key).job) a n n

/-- LD (R119): latency 6. -/
def execLd (h : Head) (d a : Opnd) (imm : Int) (size : Nat) (zext : Bool) (s : State) :
    Host.Outcome State Fault Refusal :=
  runC s h fun c =>
    let k := s.cur.key
    let n := 2 ^ size
    match c.opndCheck k [a] (some d) with
    | some (x, st) => .trap x st
    | none =>
      let ad := (c.opndVal k a + immW imm).toNat
      match memCheck s c ad n with
      | some (x, st) => .trap x st
      | none =>
        let bs := if s.cur.eng = .wick then rdBytes c.wickMem ad n else c.spadRead ad n
        let l := comLat s.cur.eng 6 6
        .done ((c.opndPop [a]).opndWrite k l d (extend n zext (leBytes bs)) 0) .seq l

/-- ST (R119): the low bytes of xD. -/
def execSt (h : Head) (d : Nat) (a : Opnd) (imm : Int) (size : Nat) (s : State) : Host.Outcome State Fault Refusal :=
  runC s h fun c =>
    let k := s.cur.key
    let n := 2 ^ size
    match c.opndCheck k [a] none with
    | some (x, st) => .trap x st
    | none =>
      let ad := (c.opndVal k a + immW imm).toNat
      match memCheck s c ad n with
      | some (x, st) => .trap x st
      | none =>
        let bs := toBytes n ((c.stream k).getX d).toNat
        let c1 := c.opndPop [a]
        .done (if s.cur.eng = .wick then { c1 with wickMem := wrBytes c1.wickMem ad bs } else c1.spadWrite s.cur.eng.num ad bs) .seq 1

/-- LDG (R119): the stream issues nothing further until the datum has been read. It retires in the clock in which the reply to
its read comes, or at once where RB(c) holds the line (R15). -/
def execLdg (h : Head) (d a : Nat) (imm : Int) (size : Nat) (zext : Bool) (s : State) :
    Host.Outcome State Fault Refusal :=
  runC s h fun c =>
    let k := s.cur.key
    let n := 2 ^ size
    match c.readData (c.sender s.cur.core k s.cycles) (addrOf c k a imm) n with
    | .trap x st => .trap x st
    | .wait c1 => .stall c1
    | .sent c1 pa =>
      .done (c1.updStream k fun t => { t with popd := if h.pop then some h.tp else none })
        (.wait (.load d size zext pa (c1.nextQ - 1))) 0
    | .ok v c1 => .done (c1.result k 1 (.x d (extend n zext v)) 0) .seq 0

/-- STG (R119): translated and accepted by P(c). -/
def execStg (h : Head) (d a : Nat) (imm : Int) (size : Nat) (s : State) : Host.Outcome State Fault Refusal :=
  runC s h fun c =>
    let k := s.cur.key
    let n := 2 ^ size
    match c.writeData (c.sender s.cur.core k s.cycles) (addrOf c k a imm) n ((c.stream k).getX d).toNat with
    | .trap x st => .trap x st
    | .wait c1 => .stall c1
    | .sent c1 _ => .stall c1
    | .ok _ c1 => .done c1 .seq 1

/-! ### Block heads (R114, R115) -/

/-- A head with its test. -/
def headBody (s : State) (tp : Nat) (sp : HeadSpec) (i : Instr) (s1 : State) : Res :=
  let cid := s.cur.core
  match headTest s1 cid s.cur.key tp sp with
  | .ok c => .done (s1.passHead cid ((s1.core cid).stream s.cur.key) sp c) .seq 1
  | .unsat => .unsat i
  | .trap x st => .trap x st

def execBlkh (h : Head) (sp : HeadSpec) (s : State) : Host.Outcome State Fault Refusal :=
  runI s h (headBody s h.tp sp (.blkh h sp))

/-! ### Control registers (R79, R120) -/

/-- Whether a stream is privileged (R79): the wick core, or the SQ stream of a job with PRIV. -/
def Core.privileged (c : Core) (k : Nat) : Bool := k == 24 || (k < 2 && (c.job (c.stream k).job).priv)

/-- Ring position of a die (R28). -/
def ringPos (d : Nat) : Nat := [0, 1, 2, 3, 15, 6, 5, 4, 14, 7, 8, 9, 13, 12, 11, 10].getD d 0

/-- JOB_ID (R85). -/
def Job.idWord (b : Job) (j : Nat) : Nat :=
  fld b.desc 32 32 * 2 ^ 32 + fld b.desc 0 8 * 2 ^ 16 + fld b.desc 8 2 * 2 ^ 8 + fld b.desc 10 1 * 2 ^ 7
    + bitN b.priv * 2 ^ 6 + j

/-- CORE_ID, STREAM_ID and DIE_ID (R8). -/
def coreIdWord (cid : Nat) : Nat := meshY cid * 2 ^ 20 + meshX cid * 2 ^ 16 + cid / 16 * 2 ^ 4 + cid % 16
def streamIdWord (cid k : Nat) : Nat := cid * 2 ^ 8 + k / 4 * 2 ^ 5 + k % 4
def dieIdWord (d : Nat) : Nat := ringPos d * 2 ^ 12 + d / 4 * 2 ^ 10 + d % 4 * 2 ^ 8 + d

/-- BUDGET (R86). -/
def Job.budgetWord (b : Job) : Nat := bitN b.unlim * 2 ^ 63 + bitN b.grace * 2 ^ 62 + b.remain % 2 ^ 48

/-- The bytes of a plane image held by dword (R316). -/
def planeBytes (m : SMap Word) : List Byte := (List.range 332).flatMap fun i => toBytes 8 (mget 0 m i).toNat

/-- PLANE_STATE (R320). -/
def Core.planeWord (c : Core) : Nat :=
  crc32c (planeBytes c.staged) * 2 ^ 32 + c.rbCount % 2 ^ 16 * 2 ^ 16 + bitN c.rbLast * 2 ^ 9 + c.planeSt % 4

/-- CAROUSEL_SLOTS (R321). -/
def Ring.slotsWord (r : Ring) : Nat := bitN r.pvalid * 2 ^ 11 + r.pend * 2 ^ 8 + r.cur

/-- The value of a control register, for a stream that may read it. -/
def csrValue (s : State) (cid k num : Nat) : Nat :=
  let c := s.core cid
  let j := c.jobOf k
  let b := c.job j
  match num with
  | 0x000 => b.idWord j
  | 0x001 => streamIdWord cid (if k = 24 then c.trapKey else k)
  | 0x002 => coreIdWord cid
  | 0x003 => dieIdWord (dieOf cid)
  | 0x004 => s.cycles
  | 0x010 => (c.stream k).fpstat
  | 0x020 => b.trap.cause
  | 0x021 => b.trap.pc
  | 0x022 => b.trap.cmd
  | 0x023 => b.trap.status
  | 0x024 => b.trap.eng
  | 0x030 => b.budgetWord
  | 0x040 => b.itBase
  | 0x041 => b.dtBase
  | 0x042 => b.tmap
  | 0x050 => c.planeWord
  | 0x060 => s.ring.slotsWord
  | _ => if k = 16 || (c.stream 16).st != .free && (c.stream 16).job == j then (c.stream 16).me.prog else b.rowProg

/-- Whether a stream may read a register (R79). -/
def csrReadOk (c : Core) (k num : Nat) : Bool :=
  if 0x020 ≤ num && num ≤ 0x024 || num == 0x040 || num == 0x041 then c.privileged k
  else if num = 0x070 then k == 16 || k < 2
  else true

/-- Whether a stream may write a register (R79). -/
def csrWriteOk (c : Core) (k num : Nat) : Bool :=
  if num = 0x010 then true
  else if 0x020 ≤ num && num ≤ 0x024 || [0x030, 0x040, 0x041, 0x042, 0x060].contains num then c.privileged k
  else false

/-- The opcode byte that TRAP_STATUS holds for causes 0x01 to 0x03 (R144). -/
def opcCsrr : Nat := 0x0D
def opcCsrw : Nat := 0x0E

def execCsrr (h : Head) (d : Opnd) (num : Nat) (s : State) : Host.Outcome State Fault Refusal :=
  runC s h fun c =>
    let k := s.cur.key
    if !csrReadOk c k num then .trap 0x03 opcCsrr
    else aluBody s 1 d [] (fun _ => word (csrValue s s.cur.core k num)) c

/-- A request to change CAROUSEL_SLOTS, or its cancellation (R321). -/
def Ring.request (r : Ring) (v : Nat) : Ring := { r with pvalid := bit v 11, pend := fld v 8 3 }

/-- A CSRW to a register of the job or stream; none where a reserved bit is nonzero (cause 0x02). -/
def Core.csrWrite (c : Core) (k num v : Nat) : Option Core :=
  let j := c.jobOf k
  let upd := fun f => some (c.updJob j f)
  match num with
  | 0x010 => if 2 ^ 10 ≤ v then none else some (c.updStream k fun t => (t.setFpstat v).orFlags t.landFlags)
  | 0x020 => if 2 ^ 8 ≤ v then none else upd fun b => { b with trap := { b.trap with cause := v } }
  | 0x021 => if 2 ^ 48 ≤ v then none else upd fun b => { b with trap := { b.trap with pc := v } }
  | 0x022 => if 2 ^ 48 ≤ v then none else upd fun b => { b with trap := { b.trap with cmd := v } }
  | 0x023 => upd fun b => { b with trap := { b.trap with status := v } }
  | 0x024 =>
    if 2 ^ 32 ≤ v || fld v 11 3 != 0 || fld v 2 3 != 0 then none else upd fun b => { b with trap := { b.trap with eng := v } }
  | 0x030 =>
    if fld v 48 14 != 0 then none
    else upd fun b => { b with unlim := bit v 63, grace := bit v 62, remain := fld v 0 48 }
  | 0x040 => upd fun b => { b with itBase := v }
  | 0x041 => upd fun b => { b with dtBase := v }
  | _ => upd fun b => { b with tmap := v }

/-- CSRW (R120). -/
def execCsrw (h : Head) (a : Opnd) (num : Nat) (s : State) : Host.Outcome State Fault Refusal :=
  runI s h fun s1 =>
    let k := s.cur.key
    let cid := s.cur.core
    let c := s1.core cid
    if !csrWriteOk c k num then .trap 0x03 opcCsrw
    else
      match c.opndCheck k [a] none with
      | some (x, st) => .trap x st
      | none =>
        let v := (c.opndVal k a).toNat
        let c1 := c.opndPop [a]
        if num = 0x060 then
          if 2 ^ 12 ≤ v || fld v 3 5 != 0 || 6 ≤ fld v 8 3 then .trap 0x02 opcCsrw
          else .done { (s1.setCore cid c1) with ring := s1.ring.request v } .seq 1
        else
          match c1.csrWrite k num v with
          | none => .trap 0x02 opcCsrw
          | some c2 => .done (s1.setCore cid c2) .seq 1

end Sys2Proof.Machine
end

