-- ==== Sys2Proof/Machine/Plane.lean ====
section
/-!
DEFINITION. Sys2Proof/Machine/Plane.lean: capabilities and channels (R308, R309), configuration planes, their records
and difference records (R316 to R320), and tenant records (R269). A plane image is held by dword, 332 of them.
-/

namespace Sys2Proof.Machine

/-! ### Capabilities (R308, R309) -/

/-- A capability entry: its upper and lower dwords. -/
structure Cap where
  hi : Nat
  lo : Nat
  deriving DecidableEq, Repr

def Cap.valid (c : Cap) : Bool := bit c.hi 63
def Cap.kind (c : Cap) : Nat := fld c.hi 60 3
def Cap.send (c : Cap) : Bool := bit c.hi 59
def Cap.red (c : Cap) : Bool := bit c.hi 58
def Cap.sig (c : Cap) : Bool := bit c.hi 57
def Cap.repl (c : Cap) : Bool := bit c.hi 56
def Cap.allow (c : Cap) : Nat := fld c.hi 0 48

/-- Fields of a core-scratchpad or module-link TARGET. -/
def Cap.coreNo (c : Cap) : Nat := fld c.lo 56 8
def Cap.moduleNo (c : Cap) : Nat := fld c.lo 48 8
def Cap.linkNo (c : Cap) : Nat := fld c.lo 45 3
def Cap.jslot (c : Cap) : Nat := fld c.lo 40 3
def Cap.size (c : Cap) : Nat := fld c.lo 20 20
def Cap.base (c : Cap) : Nat := fld c.lo 0 20

/-- Whether an entry keeps the table of R308. -/
def Cap.ok (c : Cap) : Bool :=
  fld c.hi 48 8 == 0
    && (!c.valid
        || (match c.kind with
            | 0 => fld c.lo 43 13 == 0 && 1 ≤ c.size && c.size ≤ 2 ^ 19
            | 1 => c.lo < 2 ^ 12
            | 2 => c.lo < 2 ^ 8
            | 3 => c.lo < 2 ^ 6
            | 4 => 1 ≤ fld c.lo 48 16 && fld c.lo 0 16 == 0
            | 5 => c.lo < 2 ^ 12 && !c.red && !c.sig
            | 6 => fld c.lo 43 2 == 0 && 1 ≤ c.size && c.size ≤ 2 ^ 19
            | _ => false))

/-- Entry ch of a job's capability table. -/
def Job.cap (b : Job) (ch : Nat) : Cap := ⟨b.secW (9 + 2 * ch), b.secW (8 + 2 * ch)⟩

/-- The check of a channel: valid, one of the kinds, and its permission (R309). -/
def Job.chan (b : Job) (ch : Nat) (kinds : List Nat) (perm : Cap → Bool) : Except Trap Cap :=
  let c := b.cap ch
  if c.valid && kinds.contains c.kind && perm c then .ok c else .error (0x0E, kindStatus 0 ch)

/-- ALLOW that is never decremented. -/
def allowAll : Nat := 2 ^ 48 - 1

/-- Whether the allowance of a channel covers n bytes; what is left does not (R309). -/
def Cap.covers (c : Cap) (n : Nat) : Bool := c.allow == allowAll || n ≤ c.allow

/-- The job after n bytes have been charged to channel ch. -/
def Job.charge (b : Job) (ch n : Nat) : Job :=
  let c := b.cap ch
  if c.allow = allowAll || n = 0 then b
  else { b with sec := mput 0 (9 + 2 * ch) (word (setFld c.hi 0 48 (c.allow - n))) b.sec }

/-! ### Plane rules (R184, R269, R314, R316) -/

/-- Whether a region descriptor keeps R184 and ends inside the scratchpad. -/
def regionOk (r : Nat) : Bool :=
  let span := fld r 42 3
  let unit := if span = 6 then 1024 else 64 * (16 * 2 ^ span)
  fld r 45 18 == 0 && fld r 20 2 == 0 && span != 7
    && (!bit r 63 || (fld r 0 20 % unit == 0 && fld r 22 20 % unit == 0 && fld r 0 20 + fld r 22 20 ≤ 2 ^ 19))

/-- Whether two valid descriptors share a byte. -/
def regionMeets (a b : Nat) : Bool :=
  bit a 63 && bit b 63 && overlaps (fld a 0 20) (fld a 22 20) (fld b 0 20) (fld b 22 20)

/-- Dword i of an image held by dword. -/
def imgW (m : SMap Word) (i : Nat) : Nat := (mget 0 m i).toNat

/-- The valid regions of an image are pairwise disjoint. -/
def regionsDisjoint (m : SMap Word) : Bool :=
  (List.range 8).all fun i => (List.range i).all fun j => !regionMeets (imgW m i) (imgW m j)

/-- Whether any region of one section meets one of another (R93, R96). -/
def sectionsMeet (a b : SMap Word) : Bool :=
  (List.range 8).any fun i => (List.range 8).any fun j => regionMeets (imgW a i) (imgW b j)

/-- A tenant record of 256 bits (R269). -/
def tenantOk (r : Nat) : Bool :=
  fld r 192 3 == 0 && fld r 232 24 == 0 && fld r 144 5 == 0 && fld r 141 3 == 0 && fld r 128 13 ≤ 4096 && fld r 1 63 == 0

/-- A slot entry of 128 bits (R314). -/
def slotOk (v : Nat) : Bool := fld v 70 31 == 0 && fld v 40 24 == 0 && fld v 20 6 == 0 && fld v 0 6 == 0

/-- n dwords from dword i as one number. -/
def imgN (m : SMap Word) (i n : Nat) : Nat := packLanes 64 ((List.range n).map fun k => imgW m (i + k))

/-- Whether an image passes the plane rules (R316). -/
def planeOk (m : SMap Word) : Bool :=
  (List.range 8).all (fun i => regionOk (imgW m i)) && regionsDisjoint m
    && (List.range 64).all (fun i => (Cap.mk (imgW m (9 + 2 * i)) (imgW m (8 + 2 * i))).ok)
    && (List.range 16).all (fun i => tenantOk (imgN m (136 + 4 * i) 4))
    && (List.range 64).all fun i => slotOk (imgN m (200 + 2 * i) 2)

/-- Dwords of a byte list placed from dword i. -/
def dwordsAt (i : Nat) : List Byte → List (Nat × Word)
  | a :: b :: c :: d :: e :: f :: g :: h :: r => (i, word (leBytes [a, b, c, d, e, f, g, h])) :: dwordsAt (i + 1) r
  | _ => []

/-- A map with some of its dwords replaced. -/
def putAll (ws : List (Nat × Word)) (m : SMap Word) : SMap Word := ws.foldl (fun m w => mput 0 w.1 w.2 m) m

/-- The dwords of a map in [a, b). -/
def part (a b : Nat) (m : SMap Word) : SMap Word := mkeep (fun k => a ≤ k && k < b) m

/-- One map's dwords in [a, b) over another map. -/
def overlay (a b : Nat) (src dst : SMap Word) : SMap Word :=
  putAll (part a b src) (mkeep (fun k => !(a ≤ k && k < b)) dst)

/-! ### Plane records (R317) -/

def planeMagic : Nat := 0x4E414C50

/-- Whether any ECC word of n bytes of device memory holds an uncorrectable error (R357). -/
def State.badRange (s : State) (a n : Nat) : Bool := s.bad.any fun w => a / 32 ≤ w && w < (a + n + 31) / 32

/-- Whether record n of a die's plane table cannot be read. -/
def State.planeBad (s : State) (d n : Nat) : Bool :=
  n < (s.die d).planeCount && s.badRange ((s.die d).planeBase + 4096 * n) 2688

/-- Record n of a die's plane table: CORESEC and the image, or none where it is invalid or cannot be read. -/
def State.planeRecord (s : State) (d n : Nat) : Option (Nat × SMap Word) :=
  let t := s.die d
  if t.planeCount ≤ n || s.planeBad d n then none
  else
    let a := t.planeBase + 4096 * n
    let img := rdBytes s.mem (a + 32) 2656
    let m := putAll (dwordsAt 0 img) []
    let core := rdLe s.mem (a + 8) 1
    if rdLe s.mem a 4 == planeMagic && rdLe s.mem (a + 4) 4 == crc32c img && core < 8
        && rdLe s.mem (a + 9) 23 == 0 && planeOk m then some (core, m)
    else none

/-- A record applied to an image: the job section whole, and the core-section parts that CORESEC names. -/
def applyRecord (coresec : Nat) (rec m : SMap Word) : SMap Word :=
  let m1 := overlay 0 136 rec m
  let m2 := if bit coresec 0 then overlay 136 200 rec m1 else m1
  let m3 := if bit coresec 1 then overlay 200 328 rec m2 else m2
  if bit coresec 2 then overlay 328 332 rec m3 else m3

/-- A record staged on a core (R320). -/
def Core.stage (c : Core) (r : Nat × SMap Word) : Core :=
  { c with staged := applyRecord r.1 r.2 c.staged, planeSt := 1, rbLast := false }

/-- The staged plane restored to the active plane (R130, R320). -/
def Core.dropStaged (c : Core) : Core := { c with staged := c.active, planeSt := 0 }

/-- Activation at a job start (R318): core section and template take the staged image. -/
def Core.activate (c : Core) : Core := { c with active := c.staged, planeSt := 0 }

/-! ### Difference records (R319) -/

/-- The entries of a difference record, or none where one is malformed. -/
def diffEntries : Nat → List Byte → Option (List (Nat × Word))
  | 0, _ => some []
  | n + 1, bs =>
    let e := leBytes (bs.take 8)
    let off := fld e 0 12
    let ndw := fld e 16 9
    if bs.length < 8 + 8 * ndw || fld e 12 4 != 0 || fld e 25 39 != 0 || off % 8 != 0 || ndw = 0 || 332 < ndw
        || 2656 < off + 8 * ndw then none
    else
      match diffEntries n (bs.drop (8 + 8 * ndw)) with
      | none => none
      | some r => some (dwordsAt (off / 8) ((bs.drop 8).take (8 * ndw)) ++ r)

/-- The image a difference record makes of m, or none: malformed, another CRC, or an image that breaks the rules. -/
def applyDiff (bs : List Byte) (m : SMap Word) : Option (SMap Word) :=
  let n := leBytes ((bs.drop 4).take 2)
  if n = 0 || 332 < n || leBytes ((bs.drop 6).take 10) != 0 then none
  else
    match diffEntries n (bs.drop 16) with
    | none => none
    | some es =>
      let m1 := putAll es m
      if crc32c (planeBytes m1) == leBytes (bs.take 4) && planeOk m1 then some m1 else none

/-- A core's answer to a plane record: 0 applied, 1 held, 2 rolled back. -/
def Core.planeDiff (c : Core) (bs : List Byte) : Core × Nat :=
  if c.planeSt = 2 then (c, 1)
  else
    match applyDiff bs c.staged with
    | some m => ({ c with staged := m, planeSt := 1, rbLast := false }, 0)
    | none => ({ c with rbLast := true, rbCount := (c.rbCount + 1) % 2 ^ 16 }, 2)

end Sys2Proof.Machine
end

