-- ==== Sys2Proof/Machine/Sequencer.lean ====
section
/-!
DEFINITION. Sys2Proof/Machine/Sequencer.lean: the meanings of the sequencer's own instructions (R122 to R130).
-/

namespace Sys2Proof.Machine

/-- The current core's job and stream key. -/
def State.curJob (s : State) (c : Core) : Job := c.job (c.jobOf s.cur.key)

/-! ### Semaphores (R123, R124) -/

/-- A status or value written to xD of an interlocked stream. -/
def Core.setReg (c : Core) (k d : Nat) (v : Nat) : Core := c.result k 1 (.x d (word v)) 0

/-- SSIG (R123): the addition applies in the clock after issue. -/
def execSsig (h : Head) (sem amount : Nat) (sy : Sync) (s : State) : Host.Outcome State Fault Refusal :=
  runC s h fun c =>
    let k := s.cur.key
    match (s.curJob c).sem sem with
    | none => .trap 0x0E (kindStatus 1 sem)
    | some n =>
      if sy.rel && !c.released k s.cycles sy.scope then .stall c
      else
        let c1 := if sy.acq then c.acquire s.cur.core sy.scope else c
        .done { c1 with pending := c1.pending ++ [⟨k, 1, .sem n amount (c.stream k).pc, 0, 1⟩] } .seq 1

/-- SSET (R124). -/
def execSset (h : Head) (sem a : Nat) (s : State) : Host.Outcome State Fault Refusal :=
  runC s h fun c =>
    match (s.curJob c).sem sem with
    | none => .trap 0x0E (kindStatus 1 sem)
    | some n =>
      let v := ((c.stream s.cur.key).getX a).toNat
      if 2 ^ 32 ≤ v then .trap 0x11 0 else .done (c.setSem n v) .seq 1

/-- SGET (R124): the count at the start of the clock. -/
def execSget (h : Head) (d sem : Nat) (s : State) : Host.Outcome State Fault Refusal :=
  runC s h fun c =>
    match (s.curJob c).sem sem with
    | none => .trap 0x0E (kindStatus 1 sem)
    | some n => .done (c.setReg s.cur.key d (mget 0 c.semStart n)) .seq 1

/-! ### Markers (R20, R125) -/

/-- The key of a job's stream on an engine. -/
def Core.jobStream (c : Core) (j : Nat) (e : Nat) : Option Nat := (c.jobKeys j).find? fun k => k / 4 == e

/-- Clocks until all that a stream of an exposed engine has in flight has landed and retired. -/
def Core.inFlight (c : Core) (k : Nat) : Nat :=
  ((c.pending.filter fun p => p.key == k).map Pending.rem ++ (c.retires.filter fun r => r.key == k).map Retire.rem).foldl max 0

/-- Whether a WHOOK of a stream still runs its adapters, or a WSEG awaits its reads (R20, R286). -/
def Stream.longWork (t : Stream) : Bool :=
  t.we.hook.running || match t.wait with
    | .wseg .. => true
    | .none | .head _ | .rdzv _ | .ckpt .. | .gbar .. | .post _ | .load .. => false

/-- That work of stream k is over: its markers wait for it no longer. -/
def Core.hookEnds (c : Core) (k : Nat) : Core :=
  c.updJob (c.stream k).job fun b => { b with markers := b.markers.map fun m => if m.tgt = k then { m with hook := false } else m }

/-- The marker that MARK places on engine e, if the job has a stream there. It reaches its head behind the clock in which the last
of what is in flight lands (R20). -/
def Core.marker (c : Core) (k j e : Nat) : Option Marker :=
  match c.jobStream (c.stream k).job e with
  | none => none
  | some t =>
    if e = 4 || e = 5 then some ⟨k, j, e, t, (c.stream t).ncmd, 0, false⟩
    else
      let work := (c.flushes.filter fun f => f.key == t).length + (c.fills.filter fun f => f.key == t).length
      some ⟨k, j, e, t, c.inFlight t + 1, work, (c.stream t).longWork⟩

/-- MARK (R125): at most 8 markers of a job stand at one engine. -/
def execMark (h : Head) (j mask : Nat) (s : State) : Host.Outcome State Fault Refusal :=
  runC s h fun c =>
    let k := s.cur.key
    let b := s.curJob c
    let ms := (maskBits 6 mask).filterMap (c.marker k j)
    if ms.any fun m => 8 ≤ (b.markers.filter fun x => x.eng == m.eng).length then .stall c
    else .done (c.updJob (c.jobOf k) fun b => { b with markers := b.markers ++ ms }) .seq 1

/-- MJOIN (R125): a join slot is empty once its markers have reached their heads. -/
def execMjoin (h : Head) (j : Nat) (s : State) : Host.Outcome State Fault Refusal :=
  runC s h fun c =>
    let k := s.cur.key
    if (s.curJob c).markers.any fun m => m.key == k && m.join == j then .stall c else .done c .seq 1

/-! ### Posting jobs (R126) -/

/-- Opcode bytes for TRAP_STATUS of cause 0x03 (R144). -/
def opcMpost : Nat := 0x45
def opcPlane : Nat := 0x4B

/-- A packet to a core that is not a line access: reduce and system class (R350). -/
def sysPacket (kind : PKind) (dest djslot num : Nat) (data : List Byte) (args : List Nat) : Packet :=
  { blankPacket with kind := kind, dest := dest, djslot := djslot, vc := 3, tag := num % 8, data := data, args := args }

/-- The operand checks of MPOST in the order of R126. -/
def mpostCheck (c : Core) (b : Job) (a ch : Nat) : Except Trap Cap :=
  if a % 64 != 0 then .error (0x07, addrStatus a)
  else if !b.inRegions a 64 then .error (0x0E, kindStatus 3 0xFF)
  else
    match b.chan ch [0] Cap.sig with
    | .error t => .error t
    | .ok cp =>
      if !cp.covers 64 then .error (0x0F, kindStatus 0 ch)
      else if bit (leBytes (c.spadRead a 8)) 11 && !b.priv then .error (0x03, opcMpost)
      else .ok cp

/-- MPOST (R126): the descriptor leaves after a release at device scope, and the stream waits for the answer. -/
def execMpost (h : Head) (d a ch : Nat) (s : State) : Host.Outcome State Fault Refusal :=
  runC s h fun c =>
    let k := s.cur.key
    let b := s.curJob c
    let off := ((c.stream k).getX a).toNat
    match mpostCheck c b off ch with
    | .error t => .trap t.1 t.2
    | .ok cp =>
      if !c.released k s.cycles .device then .stall c
      else
        let c1 := c.updJob (c.jobOf k) fun b => b.charge ch 64
        let p := sysPacket .post cp.coreNo cp.jslot c.nextQ (c.spadRead off 64) []
        .done (c1.post (c.sender s.cur.core k s.cycles) p (.post k) (dieOf cp.coreNo) none none) (.wait (.post d)) 1

/-! ### Groups (R21, R22, R127, R128) -/

/-- The group that a channel names. -/
def groupChan (b : Job) (ch : Nat) : Except Trap Nat :=
  match b.chan ch [1] fun _ => true with
  | .error t => .error t
  | .ok c => .ok (fld c.lo 0 12)

/-- A stream joins a group (R21): a new group opens its first phase with it, else it takes part from the next phase. -/
def State.joinGroup (s : State) (cid k g : Nat) : State :=
  let gr := s.group g
  let s1 := if gr.members.isEmpty then s.setGroup g { members := [(cid, k)], expect := [(cid, k)] }
    else s.setGroup g { gr with members := if gr.members.contains (cid, k) then gr.members else gr.members ++ [(cid, k)] }
  s1.updCore cid fun c => c.updStream k fun t => { t with groups := t.groups ++ [g] }

def execGjoin (h : Head) (ch : Nat) (s : State) : Host.Outcome State Fault Refusal :=
  runI s h fun s1 =>
    let cid := s.cur.core
    let k := s.cur.key
    let c := s1.core cid
    match groupChan (s.curJob c) ch with
    | .error t => .trap t.1 t.2
    | .ok g =>
      let t := c.stream k
      if t.groups.contains g then .done s1 .seq 1
      else if 8 ≤ t.groups.length then .trap 0x0E (kindStatus 0 ch)
      else .done (s1.joinGroup cid k g) .seq 1

def execGleave (h : Head) (ch : Nat) (s : State) : Host.Outcome State Fault Refusal :=
  runI s h fun s1 =>
    let cid := s.cur.core
    let k := s.cur.key
    let c := s1.core cid
    match groupChan (s.curJob c) ch with
    | .error t => .trap t.1 t.2
    | .ok g => .done (s1.leaveGroup cid k g (c.stream k).pc) .seq 1

/-- An arrival at the open phase of a group (R22). A release carries what its die's packets follow (R53, R60). -/
def State.arriveGroup (s : State) (cid k g : Nat) (rel : Bool) : State :=
  let gr := s.group g
  s.setGroup g { gr with
    arrived := gr.arrived ++ [(cid, k)]
    vec := if rel then clockMax gr.vec (s.die (dieOf cid)).clock else gr.vec }

/-- An acquire at a group's complete phase (R59, R60). -/
def State.acquireGroup (s : State) (cid g : Nat) (sc : Scope) : State :=
  let s1 := s.updCore cid fun c => c.acquire cid sc
  if Scope.wide sc then s1.joinDone cid g else s1

/-- GARV and GBAR (R128): checks, release, and the hold of a second arrival in one phase; then goes on with the group and
its phase number. -/
def arriveBody (s : State) (ch : Nat) (sy : Sync) (go : State → Nat → Nat → Res) (s1 : State) : Res :=
  let cid := s.cur.core
  let k := s.cur.key
  let c := s1.core cid
  match groupChan (s.curJob c) ch with
  | .error t => .trap t.1 t.2
  | .ok g =>
    if !(c.stream k).groups.contains g then .trap 0x0E (kindStatus 0 ch)
    else if sy.rel && !c.released k s.cycles sy.scope then .stall s1
    else if (s1.group g).arrived.contains (cid, k) then .stall s1
    else go (s1.arriveGroup cid k g (sy.rel && Scope.wide sy.scope)) g (s1.group g).phase

def execGarv (h : Head) (d ch : Nat) (sy : Sync) (s : State) : Host.Outcome State Fault Refusal :=
  runI s h (arriveBody s ch sy fun s2 _ ph =>
    let s3 := s2.updCore s.cur.core fun c => if sy.acq then c.acquire s.cur.core sy.scope else c
    .done (s3.updCore s.cur.core fun c => c.setReg s.cur.key d ph) .seq 1)

def execGbar (h : Head) (d ch : Nat) (sy : Sync) (s : State) : Host.Outcome State Fault Refusal :=
  runI s h (arriveBody s ch sy fun s2 g ph => .done s2 (.wait (.gbar d g ph sy.acq sy.scope)) 1)

/-! ### Checkpoints and planes (R129, R130) -/

/-- CKPT (R104, R129): the stream arrives at RDZV n and waits for CKPT_CONDITIONS_MET. -/
def execCkpt (h : Head) (a n : Nat) (s : State) : Host.Outcome State Fault Refusal :=
  runC s h fun c => .done c (.wait (.ckpt n ((c.stream s.cur.key).getX a).toNat)) 1

/-- PLANE (R130): the check of xA, after that of privilege. -/
def planeOp (s : State) (h : Head) (a : Nat) (priv : Bool) (go : Core → Nat → CRes) : Host.Outcome State Fault Refusal :=
  runC s h fun c =>
    let k := s.cur.key
    let v := ((c.stream k).getX a).toNat
    if priv && !c.privileged k then .trap 0x03 opcPlane
    else if 2 ^ 16 ≤ v then .trap 0x0C 3
    else go c v

def execPlaneQuery (h : Head) (d a : Nat) (s : State) : Host.Outcome State Fault Refusal :=
  planeOp s h a false fun c _ => .done (c.setReg s.cur.key d c.planeWord) .seq 1

/-- PLANE.stage: a staged plane that a staged job holds is answered before the record is looked at (DESIGN CHOICE, log 88), and
an uncorrectable error in the record stops the stream (R156). -/
def execPlaneStage (h : Head) (d a : Nat) (s : State) : Host.Outcome State Fault Refusal :=
  planeOp s h a true fun c v =>
    let k := s.cur.key
    if c.planeSt = 2 then .done (c.setReg k d 1) .seq 1
    else if s.planeBad (dieOf s.cur.core) v then .trap 0x12 4
    else
      match s.planeRecord (dieOf s.cur.core) v with
      | none => .done (c.setReg k d 2) .seq 1
      | some r => .done ((c.stage r).setReg k d 0) .seq 1

def execPlaneDrop (h : Head) (d a : Nat) (s : State) : Host.Outcome State Fault Refusal :=
  planeOp s h a true fun c _ =>
    let k := s.cur.key
    if c.planeSt = 2 then .done (c.setReg k d 1) .seq 1 else .done (c.dropStaged.setReg k d 0) .seq 1

end Sys2Proof.Machine
end

