-- ==== Sys2Proof/Machine/Jobs.lean ====
section
/-!
DEFINITION. Sys2Proof/Machine/Jobs.lean: what the loader, the host and the traps do to a job: its events (R90), its end,
the fit test (R93), taking its place and starting its streams (R94), pre-emption requests (R103) and stops (R142).
-/

namespace Sys2Proof.Machine

/-! ### Descriptors and image entries (R89, R92) -/

def descImage (d : Nat) : Nat := fld d 0 8
def descPrio (d : Nat) : Nat := fld d 8 2
def descPre (d : Nat) : Bool := bit d 10
def descMpriv (d : Nat) : Bool := bit d 11
def descRes (d : Nat) : Bool := bit d 12
def descTag (d : Nat) : Nat := fld d 32 32
def descArg (d : Nat) : Nat := fld d 64 64
def descIt (d : Nat) : Nat := fld d 128 64
def descDt (d : Nat) : Nat := fld d 192 64
def descBudget (d : Nat) : Nat := fld d 256 48
def descPlane (d : Nat) : Nat := fld d 320 16
def descTmap (d : Nat) : Nat := fld d 384 19
def descSave (d : Nat) : Nat := fld d 448 64

/-- RES of a descriptor set (R98). -/
def descWithRes (d : Nat) : Nat := setFld d 12 1 1

def imgValid (b : Nat) : Bool := bit b 0 && fld b 32 6 != 0
def imgPrivok (b : Nat) : Bool := bit b 2
def imgMask (b : Nat) : Nat := fld b 32 6
def imgSems (b : Nat) : Nat := fld b 40 8
def imgQmask (b : Nat) : Nat := fld b 48 16
def imgEntry (b e : Nat) : Nat := if e = 5 then fld b 64 64 else fld b (128 + 64 * e) 64
def imgGp (b : Nat) : Nat := fld b 448 64

/-- An entry of a die's image table. -/
def Die.image (d : Die) (h : Nat) : Image := mget {} d.images h

/-- Whether Roslor's image stands at an entry: one that may be privileged, with the hash that bring-up names. -/
def State.isRoslor (s : State) (d h : Nat) : Bool :=
  let e := (s.die d).image h
  s.bring.roslor != 0 && imgValid e.bits && imgPrivok e.bits && e.hash == s.bring.roslor

/-! ### Events (R90) -/

/-- The record of an event of job slot j. -/
def Core.jobEvent (c : Core) (clk j kind code : Nat) : Event := ⟨descTag (c.job j).desc, kind, code, j, 0, clk⟩

/-- A free job slot keeps nothing; its queue entries, barriers and tokens go with it (R11), and its stream slots become free. -/
def Core.freeJob (c : Core) (j : Nat) : Core :=
  let qs := maskBits 16 (c.job j).qmask
  { c with
    streams := (c.jobKeys j).foldl (fun m k => mput {} k {} m) c.streams
    queues := qs.foldl (fun m q => mput {} q {} m) c.queues
    barriers := (List.range 4).foldl (fun m i => mput {} (4 * j + i) {} m) c.barriers
    retires := c.retires.filter fun r => r.job != j
    maturing := c.maturing.filter fun m => m.job != j
    jobs := mput {} j {} c.jobs }

/-- Whether a job gives up its slot once its event stands in the FIFO. -/
def JobSt.leaves : JobSt → Bool
  | .retired => true
  | .saved => true
  | .free => false | .loading => false | .running => false | .yielding => false | .stopping => false
  | .stopped => false | .held => false

/-- An event of job slot j enters the FIFO, after which a job that is over leaves its slot, or waits in the job slot. -/
def Core.event (c : Core) (j : Nat) (ev : Event) : Core :=
  let m := c.mbox
  if m.fifo.length < 16 && m.held.isEmpty then
    let c1 := { c with mbox := { m with fifo := m.fifo ++ [ev] } }
    if (c.job j).st.leaves then c1.freeJob j else c1
  else if !(c.job j).st.leaves then { c with mbox := { m with held := m.held ++ [.inl ev] } }
  else
    { (c.updJob j fun b => { b with heldEvent := some ev }) with mbox := { m with held := m.held ++ [.inr j] } }

/-- Whether a refusal merges into a pending record: those of one queue do, whatever their codes, and those of MBOX_CMD. -/
def Event.merges (a b : Event) : Bool := a.kind == b.kind && a.slot == b.slot

/-- A refusal record enters the FIFO or is held, merging with a pending one of its kind. slot is the queue or 0xFF. -/
def Core.refuse (c : Core) (clk tag code slot : Nat) : Core :=
  let m := c.mbox
  let ev : Event := ⟨tag, 3, code, slot, 1, clk⟩
  let same : Event ⊕ Nat → Bool := fun x => match x with
    | .inl e => e.merges ev
    | .inr _ => false
  let bump : Event ⊕ Nat → Event ⊕ Nat := fun x => match x with
    | .inl e => .inl { e with count := min 255 (e.count + 1) }
    | .inr j => .inr j
  if m.fifo.length < 16 && m.held.isEmpty then { c with mbox := { m with fifo := m.fifo ++ [ev] } }
  else if m.held.any same then { c with mbox := { m with held := lupd same bump m.held } }
  else { c with mbox := { m with held := m.held ++ [.inl ev] } }

/-- Held events enter free places in the order in which they arose. -/
def Core.admitEvents (c : Core) : Nat → Core
  | 0 => c
  | n + 1 =>
    let m := c.mbox
    if 16 ≤ m.fifo.length then c
    else
      match m.held with
      | [] => c
      | .inl e :: r => ({ c with mbox := { m with fifo := m.fifo ++ [e], held := r } }).admitEvents n
      | .inr j :: r =>
        let c1 := { c with mbox := { m with held := r } }
        match (c.job j).heldEvent with
        | none => c1.admitEvents n
        | some e =>
          let c2 := { (c1.updJob j fun b => { b with heldEvent := none }) with
            mbox := { m with fifo := m.fifo ++ [e], held := r } }
          (if (c.job j).st.leaves then c2.freeJob j else c2).admitEvents n

/-! ### Stops and requests (R103, R140, R142) -/

/-- The mailbox has something to consider (R93). -/
def Core.reconsider (c : Core) : Core := { c with mbox := { c.mbox with consider := true } }

/-- A pre-emption request (R103): YIELDING with a grace of 65,536 clocks. On a frozen core it takes effect at the thaw (R152). -/
def Core.request (c : Core) (j : Nat) (overrun byLoader : Bool) : Core :=
  c.updJob j fun b =>
    if b.st = .running && c.frozen then { b with asked := true }
    else if b.st = .running then
      { b with st := .yielding, grace := true, remain := 65536, overrun := overrun, byLoader := byLoader }
    else b

/-- Whether stream k waits for an answer that may still come: that of an LDG or an MPOST. -/
def Core.awaits (c : Core) (k : Nat) : Bool :=
  match (c.stream k).wait with
  | .load _ _ _ _ rid => c.reqs.any fun r => r.rid == rid && r.purpose != .late
  | .post _ => c.reqs.any fun r => r.purpose == .post k
  | .none | .head _ | .rdzv _ | .ckpt .. | .gbar .. | .wseg .. => false

/-- Whether nothing that a job had issued or started is still under way (R140). -/
def Core.jobQuiet (c : Core) (j clk : Nat) : Bool :=
  (c.jobKeys j).all fun k =>
    !c.awaits k && (c.stream k).cmds.all (fun m => !m.started && !(c.stream k).drains) && !(c.retires.any fun r => r.key == k)
      && (!exposed (engOf k) || c.landed k clk) && !(c.pending.any fun p => p.key == k)

/-- Streams of a job stop where they stand. -/
def Core.stopStreams (c : Core) (j : Nat) : Core :=
  (c.jobKeys j).foldl (fun c k => c.updStream k fun t => { t with st := .stopped }) c

/-! ### The fit test (R93) -/

/-- A free stream slot on an engine. -/
def Core.freeSlot (c : Core) (e : Eng) : Option Nat :=
  (List.range (slotsOf e)).find? fun i => (c.stream (skey e i)).st == .free

/-- Engine e of an ENGMASK. -/
def engNo (e : Nat) : Eng := engOf (4 * e)

/-- Stream keys that a job with the given ENGMASK would take. -/
def Core.takeSlots (c : Core) (mask : Nat) : Option (List Nat) :=
  (maskBits 6 mask).mapM fun e => (c.freeSlot (engNo e)).map fun i => skey (engNo e) i

/-- The lowest run of n semaphores that no resident job holds. -/
def Core.freeSems (c : Core) (n : Nat) : Option Nat :=
  let taken := (List.range 8).filterMap fun j =>
    let b := c.job j
    if b.st = .free then none else some (b.semBase, b.semSize)
  if n = 0 then some 0
  else (List.range (257 - n)).find? fun a => taken.all fun w => !overlaps a n w.1 w.2

/-- The lowest free job slot. -/
def Core.freeJobSlot (c : Core) : Option Nat := (List.range 8).find? fun j => (c.job j).st == .free

/-- Whether a section's regions are free of the resident jobs' regions and of the staged job's. -/
def Core.regionsFree (c : Core) (sec : SMap Word) : Bool :=
  ((List.range 8).all fun j => (c.job j).st == .free || !sectionsMeet sec (c.job j).sec)
    && (c.stagedJob.isNone || !sectionsMeet sec (part 0 136 c.staged))

def Core.queuesFree (c : Core) (qmask : Nat) : Bool :=
  (List.range 8).all fun j => (c.job j).st == .free || (c.job j).qmask &&& qmask == 0

/-- Where a job that fits would stand. -/
structure Place where
  slot : Nat
  keys : List Nat
  semBase : Nat
  deriving DecidableEq, Repr

/-- The fit test of R93 for an ENGMASK, a window size and a QMASK, apart from regions. -/
def Core.place (c : Core) (mask sems qmask : Nat) : Option Place :=
  match c.freeJobSlot, c.takeSlots mask, c.freeSems sems with
  | some j, some ks, some b => if c.queuesFree qmask then some ⟨j, ks, b⟩ else none
  | _, _, _ => none

/-- The section a job would take (R318), none for an invalid record. staged is the case of a staged job that holds the
staged plane. -/
def State.sectionFor (s : State) (cid plane : Nat) : Option (SMap Word) :=
  let c := s.core cid
  if c.stagedJob.isSome then
    if plane = 0xFFFF then some (part 0 136 c.active) else (s.planeRecord (dieOf cid) plane).map fun r => part 0 136 r.2
  else if plane = 0xFFFF then some (part 0 136 c.staged)
  else (s.planeRecord (dieOf cid) plane).map fun r => part 0 136 r.2

/-! ### Taking a place and starting (R94) -/

/-- startClk of a job that has not started: no packet was issued for it (R360). -/
def notStarted : Nat := 2 ^ 64

/-- The record of a job that starts from its descriptor. -/
def newJob (desc img semBase : Nat) (sec : SMap Word) : Job :=
  { st := .loading, desc := desc, engmask := imgMask img, qmask := imgQmask img, semBase := semBase, semSize := imgSems img,
    priv := descMpriv desc, unlim := descBudget desc == 0, remain := descBudget desc, tmap := descTmap desc,
    itBase := descIt desc, dtBase := descDt desc, sec := sec, startClk := notStarted }

/-- Stream slots held and semaphores cleared for a job (R94 step 1, R97). -/
def Core.claim (c : Core) (p : Place) (b : Job) : Core :=
  let c1 := { c with
    sems := (List.range b.semSize).foldl (fun m i => mput 0 (p.semBase + i) 0 m) c.sems
    barriers := (List.range 4).foldl (fun m i => mput {} (4 * p.slot + i) {} m) c.barriers
    streams := p.keys.foldl (fun m k => mput {} k { st := .held, job := p.slot } m) c.streams }
  c1.setJob p.slot b

/-- The leaf that the loader's prefetch finds for an address (R94): the translation buffer's, else a walk's; none where the walk
gives no translation. -/
def State.prefetchLeaf (s : State) (cid root va : Nat) : Option Nat :=
  match (s.core cid).itFind root va with
  | some e => some e.leaf
  | none => match walkCode s root va with
    | .leaf e _ => some e
    | .cause _ => none
    | .bad _ => none

/-- The lines of 8 KiB from an entry address, or up to the end of its page, each with an address in it. -/
def entryLines (leaf va : Nat) : List (Nat × Nat) :=
  let n := min 8192 (2 ^ 18 - va % 2 ^ 18)
  let pa := fld leaf 0 22 * 2 ^ 18 + va % 2 ^ 18
  (List.range ((pa + n + 255) / 256 - pa / 256)).map fun i => (pa / 256 + i, va - va % 256 + 256 * i)

/-- Prefetch of one entry: the page enters the translation buffer, and each line that is not held is asked for. The lines
asked for are the answer's second part. -/
def State.prefetch (s : State) (cid it va : Nat) : State × List Nat :=
  let root := rootTOf s it
  match s.prefetchLeaf cid root va with
  | none => (s, [])
  | some e =>
    let s1 := s.updCore cid fun c => if (c.itFind root va).isSome then c else c.itFill ⟨root, va / 2 ^ 18, e⟩
    let ls := (entryLines e va).filter fun l => ((s.core cid).codeLine l.1).isNone
    (ls.foldl (fun s l => s.wantLine cid e l.2 l.1) s1, ls.map Prod.fst)

/-- Prefetch for every engine of an image, with the lines awaited. -/
def State.prefetchAll (s : State) (cid it img : Nat) : State × List Nat :=
  (maskBits 6 (imgMask img)).foldl (fun (s, ls) e =>
    let (s1, l) := s.prefetch cid it (imgEntry img e)
    (s1, ls ++ l)) (s, [])

/-- Whether every line of a prefetch has landed or been dropped. -/
def State.prefetched (s : State) (cid : Nat) (lines : List Nat) : Bool :=
  lines.all fun l => !(s.core cid).codeWant.contains l && !(s.ring.catches.any fun k => k.core == cid && k.lines.contains l)

/-- x2 at job start (R94): the end of region 0. -/
def startX2 (sec : SMap Word) : Nat := let r := imgW sec 0; if bit r 63 then fld r 0 20 + fld r 22 20 else 0

/-- The lane-to-tenant map at TENANT_MAP_BASE by lane (R270). -/
def Core.laneMap (c : Core) (tmap : Nat) : SMap Nat :=
  let bs := c.spadRead tmap 512
  mputs 0 0 (bs.flatMap fun b => [b.toNat % 16, b.toNat / 16]) []

/-- A tenant record of the active plane. -/
def Core.tenant (c : Core) (i : Nat) : Nat := imgN c.active (136 + 4 * i) 4

/-- The snapshots of R270: map, records, overlay roots, and the tenants present. -/
def State.snapshot (s : State) (cid : Nat) (w : We) (m : SMap Nat) : We :=
  let c := s.core cid
  let slots := (List.range 16).map c.tenant
  let lanes := (List.range 1024).map (mget 0 m)
  { w with
    map := m
    tslots := mputs 0 0 slots []
    ovroots := mputs 0 0 (slots.map fun r => if bit r 0 then rootTOf s (fld r 192 40) else 0) []
    present := (List.range 16).filter fun i => bit (slots.getD i 0) 0 && lanes.contains i }

/-- The WE part of a stream at job start: a map outside the job's regions is not read (R270). -/
def State.startWe (s : State) (cid : Nat) (b : Job) : We :=
  let c := s.core cid
  if b.inRegions b.tmap 512 then s.snapshot cid {} (c.laneMap b.tmap)
  else { s.snapshot cid {} [] with present := [] }

/-- A stream of a job at its start (R94); one that RERUN starts again is still a member of its groups (R96). -/
def State.startStream (s : State) (cid j k : Nat) (b : Job) (img : Nat) : Stream :=
  let t : Stream := { st := .live, job := j, groups := ((s.core cid).stream k).groups,
                      pc := fld (imgEntry img (k / 4)) 0 48, rootT := rootTOf s b.itBase,
                      we := if k / 4 = 3 then s.startWe cid b else {} }
  ((t.setX 2 (word (startX2 b.sec))).setX 3 (word (imgGp img))).setX 4 (word (descArg b.desc))

/-- A job's streams start in one clock; lines leave RB(c) (R52, R94). -/
def State.startJob (s : State) (cid j : Nat) : State :=
  let b := (s.core cid).job j
  let img := ((s.die (dieOf cid)).image (descImage b.desc)).bits
  let ks := ((s.core cid).jobKeys j)
  let ts := ks.map fun k => (k, s.startStream cid j k b img)
  s.updCore cid fun c =>
    let c1 := ts.foldl (fun c p => c.setStream p.1 p.2) { c with rb := [] }
    (c1.updJob j fun b => { b with st := .running, startClk := s.cycles, lines := [] }).reconsider.dropLines fun _ => true

end Sys2Proof.Machine
end

