-- ==== Sys2Proof/Machine/Streams.lean ====
section
/-!
DEFINITION. Sys2Proof/Machine/Streams.lean: stream descriptors and levels (R187 to R192), fibres, delivery, skips and
co-iteration with their checks (R191 to R196, R215 to R219), and the reads that VA makes for them (R182, R205, R210).
-/

namespace Sys2Proof.Machine

/-! ### Reads of VA -/

/-- Why a read stops: a trap, or data that is not there yet, for which VA holds (R182). -/
inductive VStop where
  | trap (cause status : Nat)
  | need (va : Nat) (write : Bool)
  deriving DecidableEq, Repr

/-- The result of reading. -/
abbrev Rd (α : Type) := Except VStop α

/-- The reader: the core, the stream and whether it only looks ahead, which raises nothing (R205). -/
structure Rdr where
  c : Core
  k : Nat
  ahead : Bool
  deriving DecidableEq, Repr

/-- The physical address of a data address, if its page is in the translation buffer. -/
def Rdr.pa (r : Rdr) (va : Nat) (write : Bool) : Rd Nat :=
  let dt := r.c.dtOf r.k
  match r.c.dtFind dt va with
  | some e => match leafAddr e.leaf e.large va write with
    | .ok pa => .ok pa
    | .error n => .error (.trap n (faultStatus n va))
  | none =>
    match (r.c.misses.find? fun m => m.dt == dt && m.page == dataKey va).bind Miss.res with
    | some n => if n = 0x08 && !r.ahead then .error (.need va write) else .error (.trap n (faultStatus n va))
    | none => .error (.need va write)

/-- One byte of device memory through RB(c). -/
def Rdr.devByte (r : Rdr) (va : Nat) : Rd Byte := do
  let pa ← r.pa va false
  match mlook (lineOf pa) r.c.rb with
  | some bs => .ok (bs.getD (pa % 64) 0)
  | none => .error (.need va false)

/-- n bytes of device memory. -/
def Rdr.devBytes (r : Rdr) (a : Int) (n : Nat) : Rd (List Byte) :=
  if a < 0 || (2 ^ 48 : Int) < a + n then .error (.trap 0x0C 5)
  else (List.range n).mapM fun i => r.devByte (a.toNat + i)

/-- n bytes of the scratchpad inside the job's regions (R185). -/
def Rdr.spadBytes (r : Rdr) (a : Int) (n : Nat) : Rd (List Byte) :=
  if a < 0 || !(r.c.job (r.c.stream r.k).job).inRegions a.toNat n then .error (.trap 0x0E (kindStatus 3 0xFF))
  else .ok (r.c.spadRead a.toNat n)

/-- A little-endian value of n bytes in SPACE 00 or 01. -/
def Rdr.val (r : Rdr) (space : Nat) (a : Int) (n : Nat) : Rd Nat := do
  let bs ← if space = 0 then r.devBytes a n else r.spadBytes a n
  .ok (leBytes bs)

/-! ### Descriptors (R187 to R189) -/

def dSize (d i : Nat) : Nat := fld d (168 + 64 * i) 24
def dStride (d i : Nat) : Int := sextN 40 (fld d (128 + 64 * i) 40)
/-- Scale strides of dims 1 to 3; dim 0 has none. -/
def dScaleStride (d i : Nat) : Int := if i = 0 then 0 else sextN 20 (fld d (428 + 20 * i) 20)
def dScaleBase (d : Nat) : Nat := fld d 384 48
def dSpace (d : Nat) : Nat := fld d 122 2
/-- Number of dims. -/
def dDims (d : Nat) : Nat := fld d 120 2 + 1
def dFmt (d : Nat) : Nat := fld d 116 4
def dScl (d : Nat) : Bool := fld d 114 2 == 1
def dGeom0 (d : Nat) : Nat := fld d 104 8
def dGeom1 (d : Nat) : Nat := fld d 96 8
def dAddr (d : Nat) : Nat := fld d 0 48

/-- Element width in bits of a FMT code (R188). -/
def fmtBits (f : Nat) : Nat := [32, 16, 16, 8, 8, 4, 8, 8, 8, 4, 16, 16, 32, 32, 64].getD f 8

/-- The format of a FMT code. -/
def fmtOfCode (f : Nat) : Fmt :=
  match f with
  | 0 => .f32 | 1 => .bf16 | 2 => .f16 | 3 => .e4m3 | 4 => .e5m2 | 5 => .e2m1 | 6 => .pw2 | 7 => .i8 | 8 => .u8
  | 9 => .i4 | 10 => .i16 | 11 => .u16 | 12 => .i32 | 13 => .u32 | _ => .i64

def fmtSigned (f : Nat) : Bool := f == 7 || f == 9 || f == 10 || f == 12 || f == 14

/-- The conditions of R189. -/
def descOk (d : Nat) : Bool :=
  let space := dSpace d
  let fmt := dFmt d
  let scl := fld d 114 2
  let nb := max 1 (fmtBits fmt / 8)
  fld d 508 4 == 0 && fld d 432 16 == 0 && fld d 124 4 == 0 && fld d 112 2 == 0 && fld d 64 32 == 0 && fld d 48 16 == 0
    && space != 3 && fmt != 15 && scl < 2
    && (List.range 4).all (fun i =>
        if i < dDims d then dSize d i != 0 else dSize d i == 0 && fld d (128 + 64 * i) 40 == 0)
    && !(scl == 0 && (fmt == 5 || fmt == 6)) && !(scl == 1 && !(3 ≤ fmt && fmt ≤ 6))
    && (space == 2 || dAddr d % nb == 0) && !(space == 1 && 2 ^ 19 ≤ dAddr d)
    && !(space == 2 && (131072 ≤ dAddr d || fmt != 14))

/-- Elements that a dense descriptor describes. -/
def dTotal (d : Nat) : Nat := (List.range (dDims d)).foldl (fun n i => n * dSize d i) 1

/-- Coordinates of a dense index, dim 0 fastest. -/
def dCoords (d : Nat) : Nat → Nat → Nat → List Nat
  | 0, _, _ => []
  | n + 1, i, idx => if i < dDims d then idx % dSize d i :: dCoords d n (i + 1) (idx / dSize d i) else 0 :: dCoords d n (i + 1) idx

def denseCoords (d idx : Nat) : List Nat := dCoords d 4 0 idx

/-- Element index Σ ci·STRIDEi. -/
def elemIndex (d : Nat) (cs : List Nat) : Int :=
  (List.range 4).foldl (fun e i => e + (cs.getD i 0 : Int) * dStride d i) 0

/-- Address of an element's scale. -/
def scaleAddr (d : Nat) (cs : List Nat) : Int :=
  (List.range 4).foldl (fun e i => e + (cs.getD i 0 : Int) * dScaleStride d i) ((dScaleBase d : Int) + (cs.getD 0 0 / 32 : Nat))

/-- Byte address of an element, or its slot in SPACE 10; 4-bit elements stand two to a byte. -/
def elemAddr (d : Nat) (e : Int) : Int :=
  if dSpace d = 2 then (dAddr d : Int) + e
  else if fmtBits (dFmt d) = 4 then (dAddr d : Int) + e / 2
  else (dAddr d : Int) + e * (fmtBits (dFmt d) / 8 : Nat)

/-- The coordinates by which an element's address is formed: a levelled stream's value index is c0 (R191). -/
def elemCoords (d : Nat) (levelled : Bool) (i : Nat) : List Nat := if levelled then [i, 0, 0, 0] else denseCoords d i

/-- The code of the element of index e (R188). -/
def Rdr.codeAt (r : Rdr) (d : Nat) (e : Int) : Rd Nat := do
  let a := elemAddr d e
  if dSpace d = 2 then
    if a < 0 || 131072 ≤ a then .error (.trap 0x0C 5) else .ok (r.c.accRead .va a.toNat)
  else
    let v ← r.val (dSpace d) a (max 1 (fmtBits (dFmt d) / 8))
    .ok (if fmtBits (dFmt d) = 4 then fld v (if e % 2 = 0 then 0 else 4) 4 else v)

/-- The code of an element. -/
def Rdr.code (r : Rdr) (d : Nat) (cs : List Nat) : Rd Nat := r.codeAt d (elemIndex d cs)

/-- An element's code and its scale, 0 where there is none. -/
def Rdr.elem (r : Rdr) (d : Nat) (cs : List Nat) : Rd (Nat × Nat) := do
  let c ← r.code d cs
  let s ← if dScl d then r.val (dSpace d) (scaleAddr d cs) 1 else .ok 0
  .ok (c, s)

/-- The value of an element's code under its format and scale (R33, R35). -/
def codeValue (f code scale : Nat) : FV :=
  if f = 5 || f = 6 then blockElem (fmtOfCode f) code scale
  else if f < 5 then (ffOf (fmtOfCode f)).dec code
  else FV.ofInt (if fmtSigned f then sextN (fmtBits f) code else code)

/-- An element as FP32 (R197, R220): codes under a NaN scale set BNAN. -/
def codeF32 (rm : Rm) (f code scale : Nat) : Nat × Nat :=
  let (c, fl) := ffF32.enc rm true (codeValue f code scale)
  (c, fl ||| (if (f = 5 || f = 6) && scale = 0xFF then fBNAN else 0))

/-! ### Levels (R190, R192) -/

def lvKind (l : Nat) : Nat := fld l 62 2
def lvW (l : Nat) : Nat := 16 * 2 ^ fld l 60 2
def lvSent (l : Nat) : Bool := bit l 59
def lvSize (l : Nat) : Nat := fld l 0 32
def lvCap (l : Nat) : Nat := fld l 192 48
def lvCrd (l : Nat) : Nat := fld l 128 48
def lvPos (l : Nat) : Nat := fld l 64 48

/-- The conditions of R190 and R192 on a level record. -/
def levelOk (l : Nat) : Bool :=
  let k := lvKind l
  fld l 240 16 == 0 && fld l 176 16 == 0 && fld l 112 16 == 0 && fld l 32 27 == 0 && fld l 60 2 != 3 && lvSize l != 0
    && (k != 0 || (lvCrd l == 0 && lvCap l == 0)) && (k == 1 || k == 2 || lvPos l == 0)
    && (!lvSent l || ((k == 1 || k == 3) && lvSize l ≤ 2 ^ lvW l - 1))

/-- P(L), the positions at a level; n counts the levels up to and including it (R215). -/
def positions (levels : List Nat) (n : Nat) : Nat :=
  (levels.take n).foldl (fun p l => if lvKind l = 0 then p * lvSize l else lvCap l) 1

/-- Entry i of an array of a level. -/
def Rdr.entry (r : Rdr) (space base l i : Nat) : Rd Nat := r.val space ((base + i * (lvW l / 8) : Nat) : Int) (lvW l / 8)

/-- Bit b of a bitmap. -/
def Rdr.bitmap (r : Rdr) (space l b : Nat) : Rd Bool := do
  let v ← r.val space ((lvCrd l + b / 8 : Nat) : Int) 1
  .ok (bit v (b % 8))

/-- The sentinel coordinate of a level. -/
def sentinel (l : Nat) : Option Nat := if lvSent l then some (2 ^ lvW l - 1) else none

/-! ### Fibres -/

/-- The fibre of a level under parent position p with the checks made at its start (R191, R195). -/
def Rdr.fibre (r : Rdr) (space l p : Nat) : Rd Fib := do
  let f : Fib := ⟨p, 0, lvSize l, 0, 0, 0, none, false⟩
  match lvKind l with
  | 0 => .ok f
  | 3 => if lvCap l ≤ p then .error (.trap 0x0C 5) else .ok { f with cur := p, fin := p + 1 }
  | k =>
    let a ← r.entry space (lvPos l) l p
    let b ← r.entry space (lvPos l) l (p + 1)
    if b < a then .error (.trap 0x0C 2)
    else if lvCap l < b then .error (.trap 0x0C 5)
    else if k = 1 then .ok { f with cur := a, fin := b }
    else .ok { f with base := a, cnt := b - a }

/-- A coordinate that has been read for an element: checked under R195, and from then on the previous one of its fibre. -/
def emit (check : Bool) (l : Nat) (f : Fib) (c q : Nat) : Rd (Option (Nat × Nat) × Fib) :=
  if check && lvSize l ≤ c then .error (.trap 0x0C 1)
  else if check && (f.last.any fun x => decide (c ≤ x)) then .error (.trap 0x0C 2)
  else .ok (some (c, q), { f with last := some c })

/-- The next element of a fibre, coordinate and child position, and the fibre behind it (R191, R192, R195). check is off
for a look ahead. -/
def Rdr.next (r : Rdr) (space l : Nat) (check : Bool) : Nat → Fib → Rd (Option (Nat × Nat) × Fib)
  | 0, f => .ok (none, f)
  | n + 1, f =>
    if f.fin ≤ f.cur then
      if lvKind l = 2 && check && !f.ended then
        if f.rank = f.cnt then .ok (none, { f with ended := true }) else .error (.trap 0x0C 2)
      else .ok (none, f)
    else
      let g := { f with cur := f.cur + 1 }
      match lvKind l with
      | 0 => emit check l g f.cur (f.p * lvSize l + f.cur)
      | 2 => do
        if ← r.bitmap space l (f.p * lvSize l + f.cur) then
          if check && lvCap l ≤ f.base + f.rank then .error (.trap 0x0C 5)
          else emit check l { g with rank := f.rank + 1 } f.cur (f.base + f.rank)
        else r.next space l check n g
      | _ => do
        let c ← r.entry space (lvCrd l) l f.cur
        if sentinel l = some c then r.next space l check n g else emit check l g c f.cur

/-- Clocks of search that a fibre can need. -/
def Fib.fuel (f : Fib) : Nat := f.fin - f.cur + 1

/-- The next element, with checks. -/
def Rdr.step (r : Rdr) (space l : Nat) (f : Fib) : Rd (Option (Nat × Nat) × Fib) := r.next space l true f.fuel f

/-- The next element as a reader that does not deliver it sees it: without the count check of a bitmap. -/
def Rdr.peekF (r : Rdr) (space l : Nat) (f : Fib) : Rd (Option (Nat × Nat)) := do
  let (e, _) ← r.next space l true f.fuel { f with ended := true }
  .ok e

/-- The child position of the next element, read without its coordinate where nothing marks absent elements; a coordinate that
has to be looked at is not checked. -/
def Rdr.place (r : Rdr) (space l : Nat) (f : Fib) : Rd (Option Nat) :=
  if f.fin ≤ f.cur then .ok none
  else if lvKind l = 0 then .ok (some (f.p * lvSize l + f.cur))
  else if lvKind l = 2 || lvSent l then do
    let (e, _) ← r.next space l false f.fuel f
    .ok (e.map Prod.snd)
  else .ok (some f.cur)

/-- Whether nothing is left in a fibre, looked up without checks; a place that cannot be read counts as an element. -/
def Rdr.empty (r : Rdr) (space l : Nat) (f : Fib) : Rd Bool :=
  if f.fin ≤ f.cur then .ok true
  else if lvKind l = 2 || lvSent l then
    match ({ r with ahead := true } : Rdr).next space l false f.fuel f with
    | .ok (e, _) => .ok e.isNone
    | .error (.need va w) => .error (.need va w)
    | .error (.trap _ _) => .ok false
  else .ok false

/-- The first element at or after position i, below hi, that is not a sentinel, with its coordinate, which has to lie above
the one read last below it (R194, R195). -/
def Rdr.probe (r : Rdr) (space l : Nat) (last : Option Nat) : Nat → Nat → Nat → Rd (Option (Nat × Nat))
  | 0, _, _ => .ok none
  | n + 1, i, hi =>
    if hi ≤ i then .ok none
    else do
      let c ← r.entry space (lvCrd l) l i
      if sentinel l = some c then r.probe space l last n (i + 1) hi
      else if lvSize l ≤ c then .error (.trap 0x0C 1)
      else if (last.any fun x => decide (c ≤ x)) then .error (.trap 0x0C 2)
      else .ok (some (i, c))

/-- Binary search of a compressed fibre for the first element whose coordinate is at least t (R194), with the coordinate read
last below it. -/
def Rdr.search (r : Rdr) (space l t : Nat) : Nat → Option Nat → Nat → Nat → Rd (Nat × Option Nat)
  | 0, last, lo, _ => .ok (lo, last)
  | n + 1, last, lo, hi =>
    if hi ≤ lo then .ok (lo, last)
    else do
      let mid := (lo + hi) / 2
      match ← r.probe space l last (hi - mid + 1) mid hi with
      | none => r.search space l t n last lo mid
      | some (i, c) => if t ≤ c then r.search space l t n last lo mid else r.search space l t n (some c) (i + 1) hi

/-- Set bits of a fibre from coordinate a on, n of them looked at. -/
def Rdr.popBits (r : Rdr) (space l p : Nat) : Nat → Nat → Rd Nat
  | 0, _ => .ok 0
  | n + 1, a => do
    let b ← r.bitmap space l (p * lvSize l + a)
    let m ← r.popBits space l p n (a + 1)
    .ok (m + bitN b)

/-- A fibre that a skip has moved to its end, where no count check is made any more (R195, R196). -/
def Fib.atEnd (f : Fib) : Fib := { f with cur := f.fin, ended := true }

/-- A skip of a fibre to target t (R194): where it stands if its element is at t or past it. -/
def Rdr.skip (r : Rdr) (space l t : Nat) (f : Fib) : Rd Fib := do
  match ← r.peekF space l f with
  | none => .ok (if f.fin ≤ f.cur || t ≤ f.cur then f else f.atEnd)
  | some (c, q) =>
    if t ≤ c then .ok f
    else if lvSize l ≤ t then .ok { f.atEnd with last := some c }
    else
      match lvKind l with
      | 0 => .ok { f with cur := t }
      | 2 => do
        let n ← r.popBits space l f.p (t - f.cur) f.cur
        let g : Fib := { f with cur := t, rank := f.rank + n, last := some c }
        match ← r.next space l false g.fuel g with
        | (none, _) => .ok g.atEnd
        | (some (d, _), _) => .ok { g with cur := d }
      | 3 => .ok { f.atEnd with last := some c }
      | _ => do
        let (lo, last) ← r.search space l t (f.fin - q + 1) (some c) (q + 1) f.fin
        match ← r.probe space l last (f.fin - lo + 1) lo f.fin with
        | none => .ok { f.atEnd with last := last }
        | some (i, _) => .ok { f with cur := i, last := last }

/-! ### Stream registers -/

/-- The level record of a register's current level. -/
def StReg.lrec (g : StReg) : Nat := g.levels.getD g.lvl 0

/-- The current fibre of a levelled register, if one has been started. -/
def StReg.fib (g : StReg) : Option Fib := (mget none g.fibs g.lvl)

def StReg.setFib (g : StReg) (f : Fib) : StReg := { g with fibs := mput none g.lvl (some f) g.fibs }

/-- The current level is the innermost. -/
def StReg.innermost (g : StReg) : Bool := g.lvl + 1 == g.levels.length

def Stream.sreg (t : Stream) (n : Nat) : StReg := mget {} t.stregs n
def Stream.setSreg (t : Stream) (n : Nat) (g : StReg) : Stream := { t with stregs := mput {} n g t.stregs }

/-- An element delivered: coordinate and child position on side a and side b; a plain stream has side a only. -/
structure Elt where
  c : Nat
  a : Option Nat
  b : Option Nat
  deriving DecidableEq, Repr

/-- What a walk needs of a co-iterator: whether it is a union, and for each operand its space, level and fibre. -/
structure Pair where
  uni : Bool
  sa : Nat
  la : Nat
  fa : Fib
  sb : Nat
  lb : Nat
  fb : Fib
  deriving DecidableEq, Repr

/-- The operands of a co-iterator. -/
def Stream.pair (t : Stream) (g : StReg) : Option Pair :=
  let a := t.sreg g.opA
  let b := t.sreg g.opB
  match a.fib, b.fib with
  | some fa, some fb => some ⟨g.mode == 3, dSpace a.desc, a.lrec, fa, dSpace b.desc, b.lrec, fb⟩
  | _, _ => none

/-- The next common element (R193): the lagging side skips to the other's coordinate. Where a side has none left, the delivery
passes that side's end (R195). -/
def Rdr.meet (r : Rdr) : Nat → Pair → Rd (Option Elt × Pair)
  | 0, p => .ok (none, p)
  | n + 1, p => do
    match ← r.peekF p.sa p.la p.fa, ← r.peekF p.sb p.lb p.fb with
    | some (ca, qa), some (cb, qb) =>
      if ca = cb then
        let (_, fa) ← r.step p.sa p.la p.fa
        let (_, fb) ← r.step p.sb p.lb p.fb
        .ok (some ⟨ca, some qa, some qb⟩, { p with fa := fa, fb := fb })
      else if ca < cb then
        let fa ← r.skip p.sa p.la cb p.fa
        r.meet n { p with fa := fa }
      else
        let fb ← r.skip p.sb p.lb ca p.fb
        r.meet n { p with fb := fb }
    | a, b => do
      let fa ← if a.isNone then (do let (_, f) ← r.step p.sa p.la p.fa; .ok f) else .ok p.fa
      let fb ← if b.isNone then (do let (_, f) ← r.step p.sb p.lb p.fb; .ok f) else .ok p.fb
      .ok (none, { p with fa := fa, fb := fb })

/-- The next element of a union (R193). -/
def Rdr.join (r : Rdr) (p : Pair) : Rd (Option Elt × Pair) := do
  let (ea, fa) ← r.step p.sa p.la p.fa
  let (eb, fb) ← r.step p.sb p.lb p.fb
  match ea, eb with
  | none, none => .ok (none, { p with fa := fa, fb := fb })
  | some (c, q), none => .ok (some ⟨c, some q, none⟩, { p with fa := fa, fb := fb })
  | none, some (c, q) => .ok (some ⟨c, none, some q⟩, { p with fa := fa, fb := fb })
  | some (ca, qa), some (cb, qb) =>
    if ca = cb then .ok (some ⟨ca, some qa, some qb⟩, { p with fa := fa, fb := fb })
    else if ca < cb then .ok (some ⟨ca, some qa, none⟩, { p with fa := fa })
    else .ok (some ⟨cb, none, some qb⟩, { p with fb := fb })

def Rdr.stepP (r : Rdr) (p : Pair) : Rd (Option Elt × Pair) :=
  if p.uni then r.join p else r.meet (p.fa.fuel + p.fb.fuel) p

/-- A co-iterator as a reader that does not deliver sees it: without the count checks of bitmaps. -/
def Pair.looked (p : Pair) : Pair := { p with fa := { p.fa with ended := true }, fb := { p.fb with ended := true } }

/-- Whether a co-iterator has nothing to yield. -/
def Rdr.emptyP (r : Rdr) (p : Pair) : Rd Bool :=
  match ({ r with ahead := true } : Rdr).stepP p.looked with
  | .ok (e, _) => .ok e.isNone
  | .error (.need va w) => .error (.need va w)
  | .error (.trap _ _) => .ok false

/-- A walk over the elements of a register (R219): where it stands, as a dense index, a fibre or a pair. -/
inductive SWalk where
  | dense (d idx : Nat)
  | level (space l : Nat) (f : Fib)
  | pair (p : Pair)
  deriving DecidableEq, Repr

/-- The walk of a register; 0x0D for an empty or bound register and for a levelled one without a started fibre. -/
def Stream.walker (t : Stream) (n : Nat) : Except Trap SWalk :=
  let g := t.sreg n
  if !g.valid || g.bound.isSome then .error (0x0D, 0)
  else if g.mode = 0 then .ok (.dense g.desc g.idx)
  else if g.mode = 1 then
    match g.fib with
    | some f => .ok (.level (dSpace g.desc) g.lrec f)
    | none => .error (0x0D, 0)
  else
    match t.pair g with
    | some p => .ok (.pair p)
    | none => .error (0x0D, 0)

/-- The next element of a walk and the walk behind it. -/
def Rdr.walk (r : Rdr) : SWalk → Rd (Option Elt × SWalk)
  | .dense d i => .ok (if i < dTotal d then (some ⟨0, some i, none⟩, .dense d (i + 1)) else (none, .dense d i))
  | .level s l f => do
    let (e, g) ← r.step s l f
    .ok (e.map fun x => ⟨x.1, some x.2, none⟩, .level s l g)
  | .pair p => do
    let (e, q) ← r.stepP p
    .ok (e, .pair q)

/-- Up to n elements. -/
def Rdr.take (r : Rdr) : Nat → SWalk → Rd (List Elt × SWalk)
  | 0, w => .ok ([], w)
  | n + 1, w => do
    match ← r.walk w with
    | (none, v) => .ok ([], v)
    | (some e, v) =>
      let (es, u) ← r.take n v
      .ok (e :: es, u)

/-- Whether a walk has nothing left, without checks. -/
def Rdr.finished (r : Rdr) : SWalk → Rd Bool
  | .dense d i => .ok (dTotal d ≤ i)
  | .level s l f => r.empty s l f
  | .pair p => r.emptyP p

/-- The next element without advancing; the count check of a bitmap belongs to delivery. -/
def Rdr.peek (r : Rdr) : SWalk → Rd (Option Elt)
  | .dense d i => .ok (if i < dTotal d then some ⟨0, some i, none⟩ else none)
  | .level s l f => do
    let e ← r.peekF s l f
    .ok (e.map fun x => ⟨x.1, some x.2, none⟩)
  | .pair p => do
    let (e, _) ← r.stepP p.looked
    .ok e

/-- The child positions of the next element of a walk as SPOS reads them: a levelled stream's coordinate is not looked at. -/
def Rdr.spot (r : Rdr) : SWalk → Rd (Option Nat × Option Nat)
  | .dense _ i => .ok (some i, none)
  | .level s l f => do
    let q ← r.place s l f
    .ok (q, none)
  | .pair p => do
    let (e, _) ← r.stepP p.looked
    .ok (e.bind Elt.a, e.bind Elt.b)

/-- An operand that co-iteration has moved: DONE once nothing is left of its fibre. -/
def StReg.settle (g : StReg) : StReg := { g with done := g.done || g.fib.any fun f => f.fin ≤ f.cur }

/-- A register moved to a walk's place, with DONE; a co-iterator moves its operands. -/
def Stream.moveTo (t : Stream) (n : Nat) (w : SWalk) (done : Bool) : Stream :=
  let g := t.sreg n
  match w with
  | .dense _ i => t.setSreg n { g with idx := i, done := done }
  | .level _ _ f => t.setSreg n { (g.setFib f) with done := done }
  | .pair p =>
    let t1 := t.setSreg g.opA ((t.sreg g.opA).setFib p.fa).settle
    let t2 := t1.setSreg g.opB ((t1.sreg g.opB).setFib p.fb).settle
    t2.setSreg n { g with done := done }

/-- A skip of a walk (R217). -/
def Rdr.skipTo (r : Rdr) (t : Nat) : SWalk → Rd SWalk
  | .dense d i => .ok (.dense d (if t ≤ i then i else min t (dTotal d)))
  | .level s l f => do
    let g ← r.skip s l t f
    .ok (.level s l g)
  | .pair p => do
    let fa ← r.skip p.sa p.la t p.fa
    let fb ← r.skip p.sb p.lb t p.fb
    .ok (.pair { p with fa := fa, fb := fb })

/-- The address check of an element that a skip has landed on (R188). -/
def Rdr.onto (r : Rdr) (d : Nat) (cs : List Nat) : Rd Unit :=
  let a := elemAddr d (elemIndex d cs)
  let n := max 1 (fmtBits (dFmt d) / 8)
  let bad := a < 0 || (2 ^ 48 : Int) < a + n || (dScl d && (scaleAddr d cs < 0 || (2 ^ 48 : Int) ≤ scaleAddr d cs))
  if dSpace d = 0 && bad && !r.ahead then .error (.trap 0x0C 5) else .ok ()

/-- The same for the fibre of a levelled register, whose elements have values at the innermost level only. -/
def Rdr.ontoFib (r : Rdr) (g : StReg) (f : Fib) : Rd Unit := do
  if g.innermost then
    match ← r.place (dSpace g.desc) g.lrec f with
    | none => .ok ()
    | some i => r.onto g.desc [i, 0, 0, 0]
  else .ok ()

/-- The same for the walk of register n. -/
def Rdr.ontoWalk (r : Rdr) (t : Stream) (n : Nat) : SWalk → Rd Unit
  | .dense d i => if i < dTotal d then r.onto d (denseCoords d i) else .ok ()
  | .level _ _ f => r.ontoFib (t.sreg n) f
  | .pair p => do
    r.ontoFib (t.sreg (t.sreg n).opA) p.fa
    r.ontoFib (t.sreg (t.sreg n).opB) p.fb

/-- Elements that remain, as LOOPT counts them (R222). -/
def Rdr.remaining (r : Rdr) (done : Bool) : SWalk → Rd Nat
  | .dense d i => .ok (dTotal d - i)
  | .level s l f =>
    match lvKind l with
    | 2 => r.popBits s l f.p (f.fin - f.cur) f.cur
    | 3 => .ok (if done || f.fin ≤ f.cur then 0 else 1)
    | _ => .ok (f.fin - f.cur)
  | .pair _ => .error (.trap 0x0D 0)

/-! ### Asking for what a read lacks (R182, R204) -/

/-- Asks for the translation or the line that stream k's read needs, or for the translation that a write needs, whose lookups
are counted when the write issues. -/
def Core.vaAsk (c : Core) (cid k clk va : Nat) (write : Bool) : CRes :=
  match c.xlatFor k va write with
  | .fault n => .trap n (faultStatus n va)
  | .wait c1 => .hold (if write then { c1 with dtLookups := c.dtLookups } else c1)
  | .ok c1 pa =>
    if write then .hold c
    else
      match c1.readLine (c.sender cid k clk) vcBulk (lineOf pa) with
      | .ok _ => .hold c1
      | .wait c2 => .hold (c2.setNeed k va)

/-- Whether the line of an address is under way already for stream k, read ahead or asked for. -/
def Core.lineComing (c : Core) (k va : Nat) : Bool :=
  c.pref.any (fun p => p.key == k && p.va / 64 == va / 64)
    || (match c.dtFind (c.dtOf k) va with
        | none => false
        | some e => match leafAddr e.leaf e.large va false with
          | .ok pa => c.lineAsked k (lineOf pa)
          | .error _ => false)

/-- Runs a body that reads: a trap, a hold while data is missing, or its result. -/
def withRead {α : Type} (s : State) (c : Core) (x : Rd α) (go : α → CRes) : CRes :=
  match x with
  | .ok v => go v
  | .error (.trap n st) => .trap n st
  | .error (.need va w) =>
    if !w && c.lineComing s.cur.key va then .hold (c.setNeed s.cur.key va)
    else c.vaAsk s.cur.core s.cur.key s.cycles va w

end Sys2Proof.Machine
end

