-- ==== Sys2Proof/Machine/Access.lean ====
section
/-!
DEFINITION. Sys2Proof/Machine/Access.lean: the meanings of the access half's own instructions (R210 to R228).
-/

namespace Sys2Proof.Machine

/-- Opcode bytes for TRAP_STATUS of cause 0x02 (R144). -/
def opcSpos : Nat := 0x46
def opcScrd : Nat := 0x47
def opcLdq : Nat := 0x48
def opcStq : Nat := 0x4A
def opcLdqa : Nat := 0x4B

/-- The reader of an instruction of the current stream. -/
def State.rdr (s : State) (c : Core) : Rdr := ⟨c, s.cur.key, false⟩

/-- A stream-register operand resolved (R183, R211). -/
def withSt (s : State) (c : Core) (a : StOpnd) (go : Nat → CRes) : CRes :=
  match StOpnd.idx a (c.stream s.cur.key) with
  | .ok n => go n
  | .error t => .trap t.1 t.2

/-- A register that can be walked (R193, R219). -/
def withWalker (s : State) (c : Core) (n : Nat) (go : SWalk → CRes) : CRes :=
  match (c.stream s.cur.key).walker n with
  | .ok w => go w
  | .error t => .trap t.1 t.2

/-- An update of the current stream that retires in the clock after issue. -/
def updDone (s : State) (c : Core) (f : Stream → Stream) : CRes := .done (c.updStream s.cur.key f) .seq 1

/-! ### Defining and releasing streams (R213, R214) -/

/-- A record of n bytes, n-aligned and inside the job's regions. -/
def readRecord (s : State) (c : Core) (a n : Nat) (go : Nat → CRes) : CRes :=
  if a % n != 0 then .trap 0x07 (addrStatus a)
  else if !(c.job (c.stream s.cur.key).job).inRegions a n then .trap 0x0E (kindStatus 3 0xFF)
  else go (leBytes (c.spadRead a n))

/-- Whether a register is bound, or is a co-iterator. -/
def StReg.tied (g : StReg) : Bool := g.bound.isSome || (g.valid && 2 ≤ g.mode)

def execSdef (h : Head) (d a : Nat) (imm : Int) (s : State) : Host.Outcome State Fault Refusal :=
  runC s h fun c =>
    let k := s.cur.key
    readRecord s c (addrOf c k a imm) 64 fun rec =>
      if ((c.stream k).sreg d).tied || !descOk rec then .trap 0x0D 0
      else updDone s c fun t => t.setSreg d { valid := true, desc := rec, done := dTotal rec == 0 }

def execSlvl (h : Head) (d a : Nat) (imm : Int) (s : State) : Host.Outcome State Fault Refusal :=
  runC s h fun c =>
    let k := s.cur.key
    readRecord s c (addrOf c k a imm) 32 fun rec =>
      let g := (c.stream k).sreg d
      if g.tied || !g.valid || dDims g.desc != 1 || 4 ≤ g.levels.length || !levelOk rec then .trap 0x0D 0
      else updDone s c fun t => t.setSreg d { g with levels := g.levels ++ [rec], mode := 1, done := false }

/-- A co-iterator's operands unbound (R214). -/
def Stream.unbindOps (t : Stream) (g : StReg) : Stream :=
  if g.valid && 2 ≤ g.mode then
    let t1 := t.setSreg g.opA { t.sreg g.opA with bound := none }
    t1.setSreg g.opB { t1.sreg g.opB with bound := none }
  else t

def execSrel (h : Head) (a : StOpnd) (s : State) : Host.Outcome State Fault Refusal :=
  runC s h fun c => withSt s c a fun n =>
    let g := (c.stream s.cur.key).sreg n
    if g.bound.isSome then .trap 0x0D 0
    else updDone s c fun t => (t.unbindOps g).setSreg n {}

/-! ### Fibres, co-iteration and position (R215 to R218) -/

/-- SFIB (R215). -/
def execSfib (h : Head) (a : StOpnd) (b lvl : Nat) (s : State) : Host.Outcome State Fault Refusal :=
  runC s h fun c => withSt s c a fun n =>
    let t := c.stream s.cur.key
    let g := t.sreg n
    let p := (t.getX b).toNat
    if !g.valid || g.tied then .trap 0x0D 0
    else if g.mode = 0 then
      if lvl != 0 then .trap 0x0D 0
      else if dTotal g.desc ≤ p then .trap 0x0C 1
      else updDone s c fun t => t.setSreg n { g with idx := p, done := false }
    else if g.levels.length ≤ lvl then .trap 0x0D 0
    else if positions g.levels lvl ≤ p then .trap 0x0C 1
    else
      let r := s.rdr c
      let l := g.levels.getD lvl 0
      let x : Rd (Fib × Bool) := do
        let f ← r.fibre (dSpace g.desc) l p
        let e ← r.empty (dSpace g.desc) l f
        .ok (f, e)
      withRead s c x fun v => updDone s c fun t =>
        t.setSreg n { ({ g with lvl := lvl } : StReg).setFib v.1 with done := v.2 }

/-- SINT and SUNI (R216). -/
def bindOps (s : State) (h : Head) (mode d a b : Nat) : Host.Outcome State Fault Refusal :=
  runC s h fun c =>
    let t := c.stream s.cur.key
    let ga := t.sreg a
    let gb := t.sreg b
    let gd := t.sreg d
    let bad := fun (g : StReg) => !g.valid || g.mode != 1 || g.bound.isSome || g.fib.isNone
    if gd.bound.isSome || a == b || a == d || b == d || bad ga || bad gb then .trap 0x0D 0
    else
      let t1 := (t.unbindOps gd).setSreg d { valid := true, mode := mode, opA := a, opB := b }
      let t2 := (t1.setSreg a { ga with bound := some d }).setSreg b { gb with bound := some d }
      match t2.walker d with
      | .error x => .trap x.1 x.2
      | .ok w => withRead s c ((s.rdr c).finished w) fun e => updDone s c fun _ => t2.setSreg d { t2.sreg d with done := e }

def execSint (h : Head) (d a b : Nat) (s : State) : Host.Outcome State Fault Refusal := bindOps s h 2 d a b
def execSuni (h : Head) (d a b : Nat) (s : State) : Host.Outcome State Fault Refusal := bindOps s h 3 d a b

/-- SSKIP (R217). The element that a skip moves onto has to lie in its space (R188). -/
def execSskip (h : Head) (a : StOpnd) (b : Nat) (s : State) : Host.Outcome State Fault Refusal :=
  runC s h fun c => withSt s c a fun n => withWalker s c n fun w =>
    let r := s.rdr c
    let x : Rd (SWalk × Bool) := do
      let v ← r.skipTo ((c.stream s.cur.key).getX b).toNat w
      if v = w then .ok () else r.ontoWalk (c.stream s.cur.key) n v
      let e ← r.finished v
      .ok (v, e)
    withRead s c x fun v => updDone s c fun t => t.moveTo n v.1 v.2

def ones64 : Nat := 2 ^ 64 - 1

/-- The next place of a fibre as a position (R208). -/
def Fib.curPos (l : Nat) (f : Fib) : Nat :=
  match lvKind l with
  | 0 => f.p * lvSize l + f.cur
  | 2 => f.base + f.rank
  | _ => f.cur

/-- END of a fibre as a position (R208). -/
def Fib.endPos (l : Nat) (f : Fib) : Nat :=
  match lvKind l with
  | 0 => f.p * lvSize l + f.fin
  | 2 => f.base + f.cnt
  | _ => f.fin

/-- The position SPOS returns (R218). -/
def spos (side : Bool) (w : SWalk) (e : Option Nat × Option Nat) : Nat :=
  match w with
  | .dense _ i => i
  | .level _ l f => e.1.getD (f.endPos l)
  | .pair _ => (if side then e.2 else e.1).getD ones64

def execSpos (h : Head) (d : Nat) (a : StOpnd) (side : Bool) (s : State) : Host.Outcome State Fault Refusal :=
  runC s h fun c => withSt s c a fun n => withWalker s c n fun w =>
    if side && ((c.stream s.cur.key).sreg n).mode < 2 then .trap 0x02 opcSpos
    else withRead s c ((s.rdr c).spot w) fun e => .done (c.result s.cur.key 2 (.x d (word (spos side w e))) 0) .seq 2

def execScrd (h : Head) (d : Nat) (a : StOpnd) (dim : Nat) (s : State) : Host.Outcome State Fault Refusal :=
  runC s h fun c => withSt s c a fun n => withWalker s c n fun w =>
    let g := (c.stream s.cur.key).sreg n
    if g.mode != 0 && dim != 0 then .trap 0x02 opcScrd
    else if g.mode == 0 && dDims g.desc ≤ dim then .trap 0x0D 0
    else withRead s c ((s.rdr c).peek w) fun e =>
      let v := match e with
        | none => ones64
        | some x => if g.mode = 0 then (denseCoords g.desc g.idx).getD dim 0 else x.c
      .done (c.result s.cur.key 2 (.x d (word v)) 0) .seq 2

/-! ### Reading ahead (R205, R223)

What the elements ahead are is looked up in device memory as it stands; their lines then come through RB(c) (log 90). -/

/-- A value of device memory that reading ahead looks at, if its pages can be read. -/
def State.aheadVal (s : State) (dt a n : Nat) : Option Nat :=
  ((List.range n).mapM fun i => match s.xlatNow dt (a + i) false with
    | .ok pa => some (rdByte s.mem pa)
    | .error _ => none).map leBytes

/-- The next n elements of a compressed, singleton or bitmap fibre from place i on, whose next child position is q: their child
positions, and the addresses of the array entries passed. -/
def State.aheadScan (s : State) (dt l : Nat) (f : Fib) : Nat → Nat → Nat → Nat → List Nat × List Nat
  | 0, _, _, _ => ([], [])
  | _ + 1, _, _, 0 => ([], [])
  | m + 1, i, q, n + 1 =>
    let w := lvW l / 8
    if lvKind l = 2 then
      let b := f.p * lvSize l + i
      let a := lvCrd l + b / 8
      if (s.aheadVal dt a 1).any fun v => bit v (b % 8) then
        let r := s.aheadScan dt l f m (i + 1) (q + 1) n
        (q :: r.1, a :: r.2)
      else
        let r := s.aheadScan dt l f m (i + 1) q (n + 1)
        (r.1, a :: r.2)
    else
      let a := lvCrd l + i * w
      if lvSent l && s.aheadVal dt a w == sentinel l then
        let r := s.aheadScan dt l f m (i + 1) q (n + 1)
        (r.1, a :: (a + w - 1) :: r.2)
      else
        let r := s.aheadScan dt l f m (i + 1) q n
        (i :: r.1, a :: (a + w - 1) :: r.2)

/-- Data addresses of the next n elements of the current fibre of a levelled register: array entries, and values, or at a level
above the innermost the position entries of their child fibres (R223). -/
def State.aheadFib (s : State) (dt : Nat) (g : StReg) (n : Nat) : List Int :=
  match g.fib with
  | none => []
  | some f =>
    let l := g.lrec
    let (qs, as_) :=
      if lvKind l = 0 then ((List.range (min n (f.fin - f.cur))).map (f.p * lvSize l + f.cur + ·), [])
      else s.aheadScan dt l f (f.fin - f.cur) f.cur (f.base + f.rank) n
    let child := g.levels.getD (g.lvl + 1) 0
    let w := lvW child / 8
    let deep : List Int :=
      if g.innermost then qs.map fun q => elemAddr g.desc (elemIndex g.desc [q, 0, 0, 0])
      else if lvKind child = 1 || lvKind child = 2 then
        qs.flatMap fun q => ([q * w, (q + 2) * w - 1].map fun o => ((lvPos child + o : Nat) : Int))
      else []
    as_.map Int.ofNat ++ deep

/-- Data addresses of the next k elements of a register (R223). -/
def State.aheadAddrs (s : State) (dt : Nat) (t : Stream) (n k : Nat) : List Int :=
  let g := t.sreg n
  let one := fun (g : StReg) => if dSpace g.desc = 0 then s.aheadFib dt g k else []
  if !g.valid then []
  else
    match g.mode with
    | 0 =>
      if dSpace g.desc = 0 then
        (List.range (min k (dTotal g.desc - g.idx))).map fun i =>
          elemAddr g.desc (elemIndex g.desc (denseCoords g.desc (g.idx + i)))
      else []
    | 1 => one g
    | _ => one (t.sreg g.opA) ++ one (t.sreg g.opB)

/-- The lines of data addresses that lie in the space. -/
def linesOf (as_ : List Int) : List Nat :=
  ((as_.filter fun x => 0 ≤ x && x < (2 ^ 48 : Int)).map fun x => x.toNat / 64 * 64).eraseDups

/-- Lines that a stream reads ahead of a delivery which has to wait: up to 64 (DESIGN CHOICE, log 90). -/
def aheadLines : Nat := 64

/-- A delivery from register n that waits for a line for the first time has the lines behind it read ahead (R205). -/
def State.readOn (s : State) (c : Core) (n va : Nat) : Core :=
  let k := s.cur.key
  let t := c.stream k
  let ls := ((linesOf (s.aheadAddrs (c.dtOf k) t n 4096)).take aheadLines).filter fun l => l != va / 64 * 64
  { c with pref := c.pref ++ (ls.filter fun l => !c.lineComing k l).map fun l => { key := k, va := l, pc := t.pc } }

/-- Runs a delivery from register n, which reads ahead while it waits. -/
def withStream {α : Type} (s : State) (c : Core) (n : Nat) (x : Rd α) (go : α → CRes) : CRes :=
  match x with
  | .error (.need va false) =>
    let t := c.stream s.cur.key
    let again := t.need == some (c.dtOf s.cur.key, dataKey va) && t.needVa / 64 == va / 64
    match withRead s c x go with
    | .hold c1 => .hold (if again then c1 else s.readOn c1 n va)
    | r => r
  | _ => withRead s c x go

/-! ### Loading queues (R219, R220) -/

/-- What an entry is made of: lanes, VCNT and flags. -/
abbrev Entry := List Nat × Nat × Nat

/-- Codes packed under R30; an INT64 element fills two lanes. -/
def packCodes (bits : Nat) (cs : List Nat) : List Nat × Nat :=
  if bits = 64 then (cs.flatMap fun c => [c % 2 ^ 32, c / 2 ^ 32 % 2 ^ 32], 2 * cs.length)
  else
    let m := 32 / bits
    let n := (cs.length + m - 1) / m
    ((List.range n).map fun i => packLanes bits ((cs.drop (i * m)).take m), n)

/-- Checks shared by the three members and delivery of n elements to queue q. The child positions that sides names have to fit
32 bits. -/
def ldqBody (s : State) (c : Core) (n q k limit : Nat) (p : Option Nat) (keep : Bool) (sides : Elt → List (Option Nat))
    (deliver : Rdr → List Elt → Rd Entry) : CRes :=
  let key := s.cur.key
  let t := c.stream key
  withWalker s c n fun w =>
    if k = 0 || limit < k then .trap 0x0C 3
    else
      match c.queueCheck (c.job t.job) [] (some q) with
      | some (x, st) => .trap x st
      | none =>
        let r := s.rdr c
        let x : Rd (Entry × SWalk × Bool) := do
          let (es, v) ← r.take k w
          if (t.sreg n).mode != 0 && es.any fun e => (sides e).any fun q => q.any (2 ^ 32 ≤ ·) then .error (.trap 0x0C 3)
          else
            let fin ← r.finished v
            let out ← deliver r es
            .ok (out, v, fin)
        withStream s c n x fun v =>
          let c1 := if keep then c else c.updStream key fun t => t.moveTo n v.2.1 v.2.2
          let (c2, l) := c1.reserveQ q (mkVec v.1.1 v.1.2.1)
          let c3 := c2.result key 2 l v.1.2.2
          .done (match p with | none => c3 | some i => c3.result key 2 (.p i v.2.2) 0) .seq 2

/-- The descriptor that values of a register's side are read through, and whether it is levelled. -/
def Stream.sideDesc (t : Stream) (n : Nat) (side : Bool) : Nat × Bool :=
  let g := t.sreg n
  if 2 ≤ g.mode then ((t.sreg (if side then g.opB else g.opA)).desc, true) else (g.desc, g.mode == 1)

/-- Codes and scales of delivered elements; an absent side reads as zero of its format. -/
def Rdr.elems (r : Rdr) (d : Nat) (levelled side : Bool) (es : List Elt) : Rd (List (Option (Nat × Nat))) :=
  es.mapM fun e =>
    match (if side then e.b else e.a) with
    | none => .ok none
    | some i => do
      let x ← r.elem d (elemCoords d levelled i)
      .ok (some x)

/-- A delivered element in a lane of its own (R220). -/
def widCode (rm : Rm) (f : Nat) (x : Option (Nat × Nat)) : Nat × Nat :=
  match x with
  | none => (0, 0)
  | some (c, sc) => if f ≤ 6 then codeF32 rm f c sc else (uI 32 (if fmtSigned f then sextN (fmtBits f) c else c), 0)

/-- The code of zero of a FMT code (R35, R219). -/
def zeroCode (f : Nat) : Nat := if f = 6 then 0x08 else 0

/-- The child position of the side an instruction names. -/
def sideOf (side : Bool) (e : Elt) : List (Option Nat) := [if side then e.b else e.a]

/-- Whether LDQ accepts a register: dense, or with its level innermost. -/
def Stream.ldqOk (t : Stream) (n : Nat) : Bool :=
  let g := t.sreg n
  match g.mode with
  | 0 => true
  | 1 => g.innermost
  | _ => (t.sreg g.opA).innermost && (t.sreg g.opB).innermost

def execLdq (h : Head) (q : Nat) (a : StOpnd) (b : Nat) (p : Option Nat) (wid keep side : Bool) (s : State) :
    Host.Outcome State Fault Refusal :=
  runC s h fun c => withSt s c a fun n =>
    let t := c.stream s.cur.key
    let (d, lv) := t.sideDesc n side
    let f := dFmt d
    let bits := fmtBits f
    withWalker s c n fun _ =>
      if !t.ldqOk n then .trap 0x0D 0
      else if side && (t.sreg n).mode < 2 then .trap 0x02 opcLdq
      else if wid && (f == 0 || 12 ≤ f) then .trap 0x0D 0
      else
        let limit := if wid then 128 else if bits = 64 then 64 else 128 * (32 / bits)
        ldqBody s c n q (t.getX b).toNat limit p keep (sideOf side) fun r es => do
          let xs ← r.elems d lv side es
          if wid then
            let ws := xs.map (widCode t.rm f)
            .ok (ws.map Prod.fst, ws.length, (ws.map Prod.snd).foldl (· ||| ·) 0)
          else
            let (ls, n) := packCodes bits (xs.map fun x => (x.map Prod.fst).getD (zeroCode f))
            .ok (ls, n, 0)

def execLdqc (h : Head) (q : Nat) (a : StOpnd) (b : Nat) (p : Option Nat) (keep : Bool) (s : State) :
    Host.Outcome State Fault Refusal :=
  runC s h fun c => withSt s c a fun n =>
    let t := c.stream s.cur.key
    if (t.sreg n).mode = 0 then .trap 0x0D 0
    else ldqBody s c n q (t.getX b).toNat 128 p keep (fun e => [e.a, e.b]) fun _ es =>
      .ok (es.map fun e => e.c % 2 ^ 32, es.length, 0)

def execLdqa (h : Head) (q : Nat) (a : StOpnd) (b : Nat) (p : Option Nat) (keep side : Bool) (s : State) :
    Host.Outcome State Fault Refusal :=
  runC s h fun c => withSt s c a fun n =>
    let t := c.stream s.cur.key
    if (t.sreg n).mode = 0 then .trap 0x0D 0
    else withWalker s c n fun _ =>
      if side && (t.sreg n).mode < 2 then .trap 0x02 opcLdqa
      else ldqBody s c n q (t.getX b).toNat 128 p keep (sideOf side) fun _ es =>
        .ok (es.map fun e => (if side then e.b else e.a).getD (2 ^ 32 - 1), es.length, 0)

/-! ### Storing a queue entry (R221) -/

/-- Narrowing of one lane to a format: floating under R42 with RM and F8NS, integers by wrapping or clamping. -/
def narrow (rm : Rm) (f8ns sat : Bool) (f lane : Nat) : Nat × Nat :=
  if f ≤ 6 then (ffOf (fmtOfCode f)).enc rm (!f8ns) (ffF32.dec lane)
  else
    let v := sextN 32 lane
    let w := fmtBits f
    let c := clampI (intLo (fmtSigned f) w) (intHi (fmtSigned f) w) v
    if sat && c != v && w < 32 then (uI w c, fSAT) else (uI w v, 0)

/-- A byte map of element writes; old gives the byte that a 4-bit element shares. -/
def elemBytes (bits : Nat) (old : Nat → Rd Byte) :
    List (Int × Int × Nat) → SMap (Option Byte) → Rd (SMap (Option Byte))
  | [], m => .ok m
  | (e, a, code) :: r, m => do
    let an := a.toNat
    if bits = 4 then
      let b ← match mget none m an with
        | some b => .ok b
        | none => old an
      let v := setFld b.toNat (if e % 2 = 0 then 0 else 4) 4 code
      elemBytes bits old r (mput none an (some (BitVec.ofNat 8 v)) m)
    else elemBytes bits old r (mputs none an ((toBytes (bits / 8) code).map some) m)

/-- Byte writes gathered by 64-byte line: line address, mask and data. -/
def byLine (m : SMap (Option Byte)) : List (Nat × Nat × List Byte) :=
  let lines := (m.map fun e => e.1 / 64).eraseDups
  lines.map fun l =>
    let at_ := fun i => mget none m (64 * l + i)
    (64 * l, lsum ((List.range 64).map fun i => if (at_ i).isSome then 2 ^ i else 0),
      (List.range 64).map fun i => (at_ i).getD 0)

/-- Elements written through a dense stream from its index on: index, address and code. -/
def elemWrites (d idx : Nat) (codes : List Nat) : List (Int × Int × Nat) :=
  (List.range codes.length).map fun i =>
    let e := elemIndex d (denseCoords d (idx + i))
    (e, elemAddr d e, codes.getD i 0)

/-- The writes of an STQ in its space. Each line of device memory has been looked up once (R203). -/
def stqStore (s : State) (c : Core) (d : Nat) (ws : List (Int × Int × Nat)) : Rd Core :=
  let r := s.rdr c
  let bits := fmtBits (dFmt d)
  let nb := max 1 (bits / 8)
  match dSpace d with
  | 2 =>
    if ws.any fun w => w.2.1 < 0 || 131072 ≤ w.2.1 then .error (.trap 0x0C 5)
    else .ok (ws.foldl (fun c w => Core.accWrite c 1 w.2.1.toNat (rawSlot w.2.2)) c)
  | 1 =>
    let b := c.job (c.stream s.cur.key).job
    if ws.any fun w => w.2.1 < 0 || !b.inRegions w.2.1.toNat nb then .error (.trap 0x0E (kindStatus 3 0xFF))
    else do
      let m ← elemBytes bits (fun a => .ok (rdByte c.spad a)) ws []
      .ok (m.foldl (fun c e => c.spadWrite 1 e.1 [e.2.getD 0]) c)
  | _ =>
    if ws.any fun w => w.2.1 < 0 || (2 ^ 48 : Int) < w.2.1 + nb then .error (.trap 0x0C 5)
    else do
      let m ← elemBytes bits r.devByte ws []
      let ls ← (byLine m).mapM fun l => do
        let pa ← r.pa l.1 true
        .ok (pa, l.2)
      let c1 : Core := { c with dtLookups := (c.dtLookups + ls.length) % 2 ^ 64 }
      .ok (ls.foldl (fun c l => c.drainLine (c.sender s.cur.core s.cur.key s.cycles) l.1 l.2.1 l.2.2) c1)

def execStq (h : Head) (d : StOpnd) (q : Nat) (peek : Bool) (b : Nat) (nar sat : Bool) (s : State) :
    Host.Outcome State Fault Refusal :=
  runC s h fun c => withSt s c d fun n =>
    let key := s.cur.key
    let t := c.stream key
    let g := t.sreg n
    let f := dFmt g.desc
    let bits := fmtBits f
    if !g.valid || g.mode != 0 || dScl g.desc || (nar && bits == 4) then .trap 0x0D 0
    else if sat && (!nar || f ≤ 6) then .trap 0x02 opcStq
    else
      match c.queueCheck (c.job t.job) [(q, !peek)] none with
      | some (x, st) => .trap x st
      | none =>
        let (lanes, vcnt) := (((c.queue q).head).map QEnt.vector).getD ([], 0)
        let ls := lanes.take vcnt ++ List.replicate (128 - vcnt) 0
        let k := (t.getX b).toNat
        let supply := if nar then vcnt else if bits = 64 then vcnt / 2 else vcnt * (32 / bits)
        if k = 0 || supply < k then .trap 0x0C 3
        else if dTotal g.desc < g.idx + k then .trap 0x0C 1
        else
          let out := (List.range k).map fun i =>
            if nar then narrow t.rm t.f8ns sat f (ls.getD i 0)
            else if bits = 64 then (ls.getD (2 * i) 0 + 2 ^ 32 * ls.getD (2 * i + 1) 0, 0)
            else (fld (ls.getD (i / (32 / bits)) 0) (bits * (i % (32 / bits))) bits, 0)
          withRead s c (stqStore s c g.desc (elemWrites g.desc g.idx (out.map Prod.fst))) fun c1 =>
            let c2 := (c1.popQueues [(q, !peek)]).updStream key fun t =>
              t.moveTo n (.dense g.desc (g.idx + k)) (dTotal g.desc ≤ g.idx + k)
            let fl := (out.map Prod.snd).foldl (· ||| ·) 0
            .done (if fl = 0 then c2 else c2.result key 1 .none fl) .seq 1

/-! ### Loops and read-ahead (R222, R223) -/

def execLoopt (h : Head) (a : StOpnd) (off k : Nat) (s : State) : Host.Outcome State Fault Refusal :=
  runC s h fun c => withSt s c a fun n => withWalker s c n fun w =>
    withRead s c ((s.rdr c).remaining ((c.stream s.cur.key).sreg n).done w) fun r => loopBody s ((r + k - 1) / k) off 0 c

/-- PRF (R223): the lines are asked for as tags and translations allow, and nothing is raised. -/
def execPrf (h : Head) (a : StOpnd) (b : Nat) (s : State) : Host.Outcome State Fault Refusal :=
  runC s h fun c => withSt s c a fun n =>
    let key := s.cur.key
    let t := c.stream key
    let as_ := s.aheadAddrs (c.dtOf key) t n (min (t.getX b).toNat 4096)
    .done { c with pref := c.pref ++ (linesOf as_).map fun l => { key := key, va := l, pc := t.pc } } .seq 1

/-! ### Filling the lane store (R224) -/

/-- The geometry of an LLS: columns c0, nc and lanes l0, nl. -/
structure Geo where
  c0 : Nat
  nc : Nat
  l0 : Nat
  nl : Nat
  deriving DecidableEq, Repr

def geoOf (g : Nat) : Geo := ⟨fld g 0 9, fld g 16 9 + 1, fld g 32 10, fld g 48 10 + 1⟩

def geoOk (g : Nat) : Bool :=
  let x := geoOf g
  fld g 9 7 == 0 && fld g 25 7 == 0 && fld g 42 6 == 0 && fld g 58 6 == 0 && x.c0 % 16 == 0 && x.nc % 16 == 0
    && x.l0 % 16 == 0 && x.nl % 16 == 0 && x.c0 + x.nc ≤ 512 && x.l0 + x.nl ≤ 1024

/-- LLS (R224): it joins the core's fill path and retires, with its push, when its last byte is written. -/
def execLls (h : Head) (a b st : Nat) (s : State) : Host.Outcome State Fault Refusal :=
  runC s h fun c =>
    let k := s.cur.key
    let t := c.stream k
    let src := (t.getX a).toNat
    let g := (t.getX b).toNat
    let stride := (t.getX st).toNat
    let job := c.job t.job
    if !geoOk g || 2 ^ 19 ≤ stride || c.fills.any fun f => f.key == k then .trap 0x0C 3
    else if (List.range (geoOf g).nl).any fun i => !job.inRegions (src + i * stride) (geoOf g).nc then
      .trap 0x0E (kindStatus 3 0xFF)
    else
      .done { c with fills := c.fills ++ [⟨k, src, g, stride, 0, false, if h.push then some h.tp else none⟩] } .late 1

/-! ### The merge tree (R197 to R199, R225 to R227) -/

/-- MRGB (R225): the clocks before the tree accepts the stream's next MRGE run on (R227). -/
def execMrgb (h : Head) (q q2 : Nat) (int : Bool) (s : State) : Host.Outcome State Fault Refusal :=
  runC s h fun c =>
    let b := c.job (c.stream s.cur.key).job
    if !bit b.qmask q then .trap 0x0E (kindStatus 2 q)
    else if !bit b.qmask q2 then .trap 0x0E (kindStatus 2 q2)
    else if q = q2 then .trap 0x0D 0
    else updDone s c fun t => { t with merge := some ⟨int, q, q2, [], (t.merge.map Merge.busy).getD 0⟩ }

def execMrgi (h : Head) (a : StOpnd) (b : Nat) (s : State) : Host.Outcome State Fault Refusal :=
  runC s h fun c => withSt s c a fun n =>
    let t := c.stream s.cur.key
    let g := t.sreg n
    let sc := (t.getX b).toNat
    match t.merge with
    | none => .trap 0x0D 0
    | some m =>
      if 2 ^ 32 ≤ sc then .trap 0x0C 3
      else if !g.valid || g.mode != 1 || g.bound.isSome || !g.innermost then .trap 0x0D 0
      else
        match g.fib with
        | none => .trap 0x0D 0
        | some f =>
          if 64 ≤ m.leaves.length then .trap 0x0C 3
          else if m.int && dFmt g.desc ≤ 6 then .trap 0x0D 0
          else updDone s c fun t => { t with merge := some { m with leaves := m.leaves ++ [⟨g.desc, g.lrec, f, sc⟩] } }

/-- A leaf's product (R197). -/
def leafProduct (int : Bool) (rm : Rm) (f code scale sc : Nat) : Nat × Nat :=
  if int then
    (uI 32 ((if fmtSigned f then sextN (fmtBits f) code else (code : Int)) * sextN 32 sc), 0)
  else
    let (x, fl) := codeF32 rm f code scale
    let (p, fl2) := fMul ffF32 rm sc x
    (p, fl ||| fl2)

/-- One level of the pairwise tree (R198). -/
def treeLevel (int : Bool) (rm : Rm) : List (Option Nat) → List (Option Nat) × Nat
  | a :: b :: r =>
    let (xs, fl) := treeLevel int rm r
    match a, b with
    | some x, some y =>
      if int then (some ((x + y) % 2 ^ 32) :: xs, fl)
      else
        let (v, f) := fAdd ffF32 rm x y
        (some v :: xs, fl ||| f)
    | some x, none => (some x :: xs, fl)
    | none, y => (y :: xs, fl)
  | _ => ([], 0)

/-- The sum of the products at one coordinate (R198). -/
def treeSum (int : Bool) (rm : Rm) : Nat → List (Option Nat) → Nat × Nat
  | 0, xs => ((xs.headD none).getD 0, 0)
  | n + 1, xs =>
    let (ys, f) := treeLevel int rm xs
    let (v, g) := treeSum int rm n ys
    (v, f ||| g)

/-- The element a leaf stands at, unchecked. -/
def Rdr.leafHead (r : Rdr) (l : Leaf) : Rd (Option (Nat × Nat)) := do
  let (e, _) ← r.next (dSpace l.desc) l.lrec false l.fib.fuel l.fib
  .ok e

/-- Whether a leaf holds an element more: one that cannot be read counts, and is reported by the MRGE that consumes it. -/
def Rdr.leafMore (r : Rdr) (l : Leaf) : Rd Bool :=
  match ({ r with ahead := true } : Rdr).leafHead l with
  | .ok e => .ok e.isSome
  | .error (.need va w) => .error (.need va w)
  | .error (.trap _ _) => .ok true

/-- A leaf behind its element, with the checks of R195. -/
def Rdr.leafStep (r : Rdr) (l : Leaf) : Rd Leaf := do
  let (_, f) ← r.step (dSpace l.desc) l.lrec l.fib
  .ok { l with fib := f }

/-- Up to k output coordinates: coordinates, sums, flags and the leaves behind them (R199). -/
def Rdr.merge (r : Rdr) (int : Bool) (rm : Rm) : Nat → List Leaf → Rd (List Nat × List Nat × Nat × List Leaf)
  | 0, ls => .ok ([], [], 0, ls)
  | k + 1, ls => do
    let hs ← ls.mapM r.leafHead
    let ls1 ← (ls.zip hs).mapM fun x => if x.2.isNone then r.leafStep x.1 else .ok x.1
    match (hs.filterMap fun h => h.map Prod.fst).min? with
    | none => .ok ([], [], 0, ls1)
    | some c =>
      let ls2 ← (ls1.zip hs).mapM fun x => if x.2.map Prod.fst = some c then r.leafStep x.1 else .ok x.1
      let ps ← (ls1.zip hs).mapM fun x =>
        match x.2 with
        | some (c', q) =>
          if c' = c then do
            let (code, sc) ← r.elem x.1.desc [q, 0, 0, 0]
            .ok (some (leafProduct int rm (dFmt x.1.desc) code sc x.1.scale))
          else .ok none
        | none => .ok none
      let nodes := ps.map (Option.map Prod.fst) ++ List.replicate (64 - ps.length) none
      let fl := (ps.filterMap id).foldl (fun f x => f ||| x.2) 0
      let (v, f) := treeSum int rm 6 nodes
      let (cs, vs, g, ls3) ← r.merge int rm k ls2
      .ok (c % 2 ^ 32 :: cs, v :: vs, fl ||| f ||| g, ls3)

def execMrge (h : Head) (b : Nat) (p : Option Nat) (s : State) : Host.Outcome State Fault Refusal :=
  runC s h fun c =>
    let key := s.cur.key
    let t := c.stream key
    let k := (t.getX b).toNat
    match t.merge with
    | none => .trap 0x0D 0
    | some m =>
      if k = 0 || 128 < k || m.busy != 0 then .trap 0x0C 3
      else
        let job := c.job t.job
        match (c.queueCheck job [] (some m.q1)).orElse fun _ => c.queueCheck job [] (some m.q2) with
        | some (x, st) => .trap x st
        | none =>
          let r := s.rdr c
          let x : Rd ((List Nat × List Nat × Nat × List Leaf) × Bool) := do
            let o ← r.merge m.int t.rm k m.leaves
            let hs ← o.2.2.2.mapM r.leafMore
            .ok (o, !hs.any id)
          withRead s c x fun v =>
            let (cs, vs, fl, ls) := v.1
            let c1 := c.updStream key fun t => { t with merge := some { m with leaves := ls, busy := (k + 7) / 8 } }
            let (c2, l1) := c1.reserveQ m.q1 (mkVec cs cs.length)
            let (c3, l2) := (c2.result key 18 l1 0).reserveQ m.q2 (mkVec vs vs.length)
            let c4 := c3.result key 18 l2 fl
            .done (match p with | none => c4 | some i => c4.result key 18 (.p i v.2) 0) .seq 18

/-! ### Bit-field extraction (R200, R201, R228) -/

/-- Field i of a pattern: sign extension, width and offset. -/
def bpField (v i : Nat) : Bool × Nat × Nat := (bit v (13 * i + 12), fld v (13 * i + 6) 6, fld v (13 * i) 6)

def bpWidth (v : Nat) : Nat := fld v 52 7

/-- Fields that are present. -/
def bpFields (v : Nat) : List (Bool × Nat × Nat) := ((List.range 4).map (bpField v)).filter fun f => f.2.1 != 0

/-- The rules of R200. -/
def bpOk (v : Nat) : Bool :=
  fld v 59 5 == 0 && bpWidth v != 0 && bpWidth v ≤ 64 && !(bpFields v).isEmpty
    && (bpFields v).all fun f => f.2.1 ≤ 32 && f.2.2 + f.2.1 ≤ bpWidth v

def execBfxpSet (h : Head) (a bp : Nat) (s : State) : Host.Outcome State Fault Refusal :=
  runC s h fun c =>
    let w := (c.stream s.cur.key).getX a
    if !bpOk w.toNat then .trap 0x0D 0 else updDone s c fun t => { t with bps := mput 0 bp w t.bps }

/-- The entry of one field over n records of a bit stream. -/
def bpEntry (v bits n : Nat) (f : Bool × Nat × Nat) : QEnt :=
  mkVec ((List.range n).map fun i =>
    let x := fld bits (bpWidth v * i + f.2.2) f.2.1
    if f.1 then uI 32 (sextN f.2.1 x) else x) n

/-- The entries of a BFXP pushed to consecutive queues from q. -/
def bpPush (key q : Nat) : List QEnt → Core → Core
  | [], c => c
  | e :: es, c =>
    let (c1, l) := c.reserveQ q e
    bpPush key (q + 1) es (c1.result key 6 l 0)

def execBfxp (h : Head) (q a b bp : Nat) (s : State) : Host.Outcome State Fault Refusal :=
  runC s h fun c =>
    let key := s.cur.key
    let t := c.stream key
    let v := (mget 0 t.bps bp).toNat
    let src := (t.getX a).toNat
    let n := (t.getX b).toNat
    let fs := bpFields v
    let job := c.job t.job
    if v = 0 then .trap 0x0D 0
    else if n = 0 || 128 < n || 7 < q + fs.length - 1 then .trap 0x0C 3
    else
      let nb := (n * bpWidth v + 7) / 8
      if !job.inRegions src nb then .trap 0x0E (kindStatus 3 0xFF)
      else
        match (List.range fs.length).findSome? fun i => c.queueCheck job [] (some (q + i)) with
        | some (x, st) => .trap x st
        | none =>
          let bits := leBytes (c.spadRead src nb)
          .done (bpPush key q (fs.map (bpEntry v bits n)) c) .seq 6

end Sys2Proof.Machine
end

