-- ==== Sys2Proof/Machine/Commands.lean ====
section
/-!
DEFINITION. Sys2Proof/Machine/Commands.lean: what the commands of ME and XE share: the queue and its checks at issue (R306,
R383), waits, signals, acquire and release (R16, R56 to R59), starting, traps of a started command (R140), its accesses to
device memory (R333) and the interlock on status registers (R330).
-/

namespace Sys2Proof.Machine

/-! ### Fields of commands -/

/-- The control fields of a command. -/
def Instr.kctl? : Instr → Option KCtl
  | .mtws _ k _ _ => some k | .mgo _ k _ => some k | .mdrn _ k _ _ => some k | .mbyp _ k _ => some k
  | .mrqt _ k _ _ => some k | .mzero _ k _ => some k | .midx _ k _ _ => some k | .mnms _ k _ _ => some k
  | .mrpr _ k _ _ => some k | .mrst _ k _ _ => some k
  | .xcp _ k _ _ => some k | .xcpg _ k _ _ => some k | .xred _ k _ _ => some k | .xexp _ k _ _ => some k
  | .xarv _ k _ _ => some k | .xstep _ k _ => some k | .xpln _ k _ _ => some k | .xbrd _ k _ _ => some k
  | .xalt _ k _ _ => some k | .xrep _ k _ _ => some k | .xdrp _ k _ _ => some k | .xsigr _ k _ _ => some k
  | .xkeyEnc _ k _ _ => some k | .xkeyDec _ k _ _ => some k | .xqryRing _ k _ => some k | .xqryPeek _ k _ _ => some k
  | _ => none

/-- A command's control fields; every queued command has them. -/
def Cmd.ctl (m : Cmd) : KCtl := (Instr.kctl? m.instr).getD ⟨none, none, ⟨false, false, .stream⟩⟩

/-- The register that receives a command's status or result (R330, R395). -/
def Instr.statusReg : Instr → Option Nat
  | .mrpr _ _ b _ => some b
  | .xpln _ _ _ b => some (b + 1) | .xbrd _ _ _ b => some (b + 1) | .xalt _ _ _ b => some (b + 1)
  | .xrep _ _ _ b => some (b + 1)
  | .xdrp _ _ _ b => some b | .xqryRing _ _ b => some b | .xqryPeek _ _ _ b => some b
  | _ => none

/-- The x register of a scalar operand. -/
def xregOf : Opnd → List Nat
  | .x n => [n]
  | .q _ => []
  | .peek _ => []

/-- The x registers that an instruction of SQ, ME, XE or the wick core reads or writes. -/
def Instr.xregs : Instr → List Nat
  | .call _ a _ => [a] | .callg _ d a _ => [d, a] | .jr _ a => [a] | .loop _ a _ => [a] | .looph _ a _ _ => [a]
  | .csrr _ d _ => xregOf d | .csrw _ a _ => xregOf a
  | .add _ d a b | .sub _ d a b | .and _ d a b | .or _ d a b | .xor _ d a b | .andn _ d a b | .shl _ d a b
  | .shr _ d a b | .sra _ d a b | .mul _ d a b | .mulh _ d a b | .mulhu _ d a b | .min _ d a b | .max _ d a b
  | .minu _ d a b | .maxu _ d a b | .slt _ d a b | .sltu _ d a b => xregOf d ++ xregOf a ++ xregOf b
  | .sel _ d a b _ => xregOf d ++ xregOf a ++ xregOf b
  | .clz _ d a | .popc _ d a => xregOf d ++ xregOf a
  | .addi _ d a _ | .andi _ d a _ | .ori _ d a _ | .xori _ d a _ | .slti _ d a _ | .sltiu _ d a _ => xregOf d ++ xregOf a
  | .shli _ d a _ | .shri _ d a _ | .srai _ d a _ => xregOf d ++ xregOf a
  | .lih _ d _ => xregOf d
  | .cmp _ _ _ a b => xregOf a ++ xregOf b
  | .cmpi _ _ _ a _ => xregOf a
  | .ld _ d a _ _ _ => xregOf d ++ xregOf a
  | .st _ d a _ _ => d :: xregOf a
  | .ldg _ d a _ _ _ | .stg _ d a _ _ => [d, a]
  | .blkh _ sp => [sp.greg]
  | .sset _ _ a | .ckpt _ a _ | .resume _ a => [a]
  | .sget _ d _ | .garv _ d _ _ | .gbar _ d _ _ => [d]
  | .mpost _ d a _ | .planeQuery _ d a | .planeStage _ d a | .planeDrop _ d a => [d, a]
  | .ctxsv _ a b | .capw _ _ _ a b | .tnset _ _ a b => [a, b]
  | .ctxld _ d a b | .keyopLoad _ d a b | .keyopDestroy _ d a b | .keyopQuery _ d a b => [d, a, b]
  | .tlbiDataAll _ a _ | .tlbiDataPage _ a _ | .tlbiInstrAll _ a _ | .tlbiInstrPage _ a _ => [a]
  | .mtw _ a b => [a, b]
  | .mtws _ _ _ b | .mdrn _ _ _ b | .mrqt _ _ _ b | .midx _ _ _ b | .mnms _ _ _ b => [b]
  | .mbyp _ _ b | .mzero _ _ b | .mrpr _ _ b _ | .mrst _ _ b _ => [b]
  | .xcp _ _ a b | .xcpg _ _ a b | .xred _ _ a b | .xpln _ _ a b | .xbrd _ _ a b | .xalt _ _ a b | .xrep _ _ a b =>
    [a, b, b + 1]
  | .xkeyEnc _ _ a b | .xkeyDec _ _ a b => [a, b, b + 1, b + 2]
  | .xexp _ _ a b | .xarv _ _ a b | .xdrp _ _ a b | .xsigr _ _ a b | .xqryPeek _ _ a b => [a, b]
  | .xstep _ _ a => [a]
  | .xqryRing _ _ b => [b]
  | _ => []

/-- Whether register n of a stream waits for a result (R108) or a status (R330). -/
def Core.busyReg (c : Core) (k n : Nat) : Bool :=
  n != 0 && ((c.stream k).cmds.any (fun m => Instr.statusReg m.instr == some n)
    || c.pending.any fun p => p.key == k && (match p.dst with
        | .x i _ => i == n
        | .hold i => i == n
        | _ => false))

/-- Whether the interlock of R108 holds an instruction of stream k. -/
def Core.interlocked (c : Core) (k : Nat) (i : Instr) : Bool :=
  !exposed (engOf k) && (Instr.xregs i).any (c.busyReg k)

/-! ### Issue (R306, R383) -/

/-- The semaphores that a command enables lie within the job's window (R16). -/
def semCheck (b : Job) (kc : KCtl) : Option Trap :=
  (kc.wait.toList ++ kc.sig.toList).findSome? fun n =>
    if (b.sem n).isNone then some (0x0E, kindStatus 1 n) else none

/-- A command enters its stream's queue (R143, R306). -/
def Core.enqueue (c : Core) (clk k : Nat) (i : Instr) (vals : List Nat) : Core :=
  c.updStream k fun t => { t with
    cmds := t.cmds ++ [{ instr := i, vals := vals, pc := t.pc, idx := t.ncmd, clk := clk }]
    ncmd := t.ncmd + 1 }

/-- A command at issue: the registers it reads, its checks, which may charge the job and say what the command keeps, and
the queue, which holds 16. -/
def runCmd (s : State) (h : Head) (i : Instr) (regs : List Nat)
    (check : Core → Job → List Nat → Except Trap (Job × List Nat)) : Host.Outcome State Fault Refusal :=
  runC s h fun c =>
    let k := s.cur.key
    let t := c.stream k
    let b := c.job t.job
    let vals := regs.map fun n => (t.getX n).toNat
    match semCheck b ((Instr.kctl? i).getD ⟨none, none, ⟨false, false, .stream⟩⟩) with
    | some (x, st) => .trap x st
    | none =>
      if 16 ≤ t.cmds.length then .stall c
      else
        match check c b vals with
        | .error e => .trap e.1 e.2
        | .ok (b1, kept) => .done ((c.setJob t.job b1).enqueue s.cycles k i kept) .seq 1

/-! ### The queue -/

def Stream.cmd (t : Stream) (i : Nat) : Option Cmd := t.cmds.find? fun m => m.idx == i

def Core.updCmd (c : Core) (k i : Nat) (f : Cmd → Cmd) : Core :=
  c.updStream k fun t => { t with cmds := lupd (fun m => m.idx == i) f t.cmds }

/-- The first command of a stream that has not started. -/
def Stream.nextCmd (t : Stream) : Option Cmd := t.cmds.find? fun m => !m.started

/-- The sender of a command's requests. -/
def Core.cmdSender (c : Core) (cid k clk : Nat) (m : Cmd) : Sender := ⟨cid, k, c.jobOf k, m.pc, m.idx, clk, m.clk⟩

/-- Whether commands of stream k may start (R140): its job runs, or the stream's own trap lets those ahead of it drain. -/
def Core.mayStart (c : Core) (k : Nat) : Bool :=
  let t := c.stream k
  match (c.job t.job).st with
  | .running => true
  | .yielding => true
  | .stopping => t.drains
  | .free | .loading | .stopped | .held | .retired | .saved => false

/-- The trap record of a command. -/
def Core.cmdRec (c : Core) (k : Nat) (m : Cmd) (cause status : Nat) : TrapRec :=
  ⟨cause, m.pc, m.idx, status, trapEng (c.stream k).job k⟩

/-- A started command traps (R140): it goes on no further, those behind it never start, and the stream stops. -/
def Core.cmdTrap (c : Core) (clk k : Nat) (m : Cmd) (t : Trap) : Core :=
  (c.recordTrap clk (c.stream k).job (c.cmdRec k m t.1 t.2)).updStream k fun s =>
    { s with st := .stopped, drains := false, cmds := s.cmds.filter fun x => x.started && x.idx != m.idx }

/-- Whether something that command m of stream k sent, or that a command of its stream sent which has completed by now, is what
its release covers (R58). -/
def Core.covers (c : Core) (k : Nat) (m : Cmd) (key idx : Nat) : Bool :=
  key == k && (idx == m.idx || (idx < m.idx && ((c.stream k).cmd idx).isNone))

/-- Whether the writes that a command's release covers have been accepted by P(c). -/
def Core.cmdDrained (c : Core) (k : Nat) (m : Cmd) : Bool := !(c.db.any fun d => c.covers k m d.who.key d.who.cmd)

/-- Whether a command's release is complete (R58): its writes to local storage have been performed; at die and device scope those
that leave the core have been accepted by P(c), and at system scope those to host windows acknowledged. -/
def Core.cmdReleased (c : Core) (k : Nat) (m : Cmd) : Bool :=
  let sy := m.ctl.sync
  !sy.rel || (match sy.scope with
    | .stream => true
    | .core => true
    | .die => c.cmdDrained k m
    | .device => c.cmdDrained k m
    | .system => c.cmdDrained k m && !(c.reqs.any fun r => r.purpose == .host && c.covers k m r.key r.cmd))

/-- Whether the writes of a command that leave the core have gone as far as its completion needs: P(c) has accepted them (R306, R391).
Where it carries a release at core scope, which covers writes in the drain buffer, they may still be there (R58; DESIGN CHOICE,
log 92). -/
def Core.writesOut (c : Core) (k : Nat) (m : Cmd) : Bool :=
  (m.ctl.sync.rel && m.ctl.sync.scope == .core) || !(c.db.any fun d => d.who.key == k && d.who.cmd == m.idx)

/-- An increment of semaphore a of the core, which the job names n, by a command. One past 2^32 − 1 is not made (R17, R142). A late one,
made after the clock's consumers have been tested, reaches the semaphore in the next clock (DESIGN CHOICE, log 91). -/
def Core.cmdSignal (c : Core) (clk k : Nat) (m : Cmd) (a n : Nat) (late : Bool) : Core :=
  if late then { c with pending := c.pending ++ [⟨k, 1, .sig a m.pc m.idx n, 0, 1⟩] }
  else if c.semCount a + 1 < 2 ^ 32 then c.setSem a (c.semCount a + 1)
  else c.recordTrap clk (c.stream k).job (c.cmdRec k m 0x11 (kindStatus 1 n))

/-- A finished command leaves the queue: its flags and signal, and the status register one clock later (R16, R41, R330). -/
def Core.completeCmd (c : Core) (clk k : Nat) (m : Cmd) (flags : Nat) (status : Option Nat) (late : Bool) : Core :=
  let j := (c.stream k).job
  let c1 := c.updStream k fun t =>
    { (t.orFlags flags) with landFlags := t.landFlags ||| flags, cmds := ldel (fun x => x.idx == m.idx) t.cmds }
  let c2 := match Instr.statusReg m.instr, status with
    | some r, some v => { c1 with pending := c1.pending ++ [⟨k, 1, .x r (word v), 0, 1⟩] }
    | _, _ => c1
  match m.ctl.sig with
  | none => c2
  | some n =>
    match (c2.job j).sem n with
    | none => c2
    | some a => c2.cmdSignal clk k m a n late

/-- Whether a command's wait is satisfied (R16, R17, R306). -/
def Core.waitOk (c : Core) (k : Nat) (m : Cmd) : Bool :=
  match m.ctl.wait with
  | none => true
  | some n =>
    match (c.job (c.stream k).job).sem n with
    | none => false
    | some a => 1 ≤ c.semCount a

/-- The wait taken and the acquire passed as a command starts. acq is off where the acquire point comes later (R64). -/
def Core.passWait (c : Core) (cid k : Nat) (m : Cmd) (acq : Bool) : Core :=
  let c1 := match m.ctl.wait.bind (c.job (c.stream k).job).sem with
    | none => c
    | some a => c.setSem a (c.semCount a - 1)
  if acq && m.ctl.sync.acq then c1.acquire cid m.ctl.sync.scope else c1

/-! ### Device memory (R333, R373) -/

/-- What an access of a command comes to. -/
inductive CAcc where
  | ok (c : Core) (pa : Nat)
  | wait (c : Core)
  | trap (cause status : Nat)
  deriving DecidableEq, Repr

/-- What command i of stream k waits for: the page of an address, or nothing. -/
def Core.cmdNeed (c : Core) (k i va : Nat) : Core :=
  c.updCmd k i fun m => { m with need := some (c.dtOf k, dataKey va), needVa := va }
def Core.cmdMet (c : Core) (k i : Nat) : Core := c.updCmd k i fun m => { m with need := none }

/-- Translates an address for a command, which waits for the walk under need, and looks each line up once (R203). Every trap names
the address (R333). -/
def Core.cmdXlat (c : Core) (k i va : Nat) (write : Bool) : CAcc :=
  let first := match (c.stream k).cmd i with
    | none => true
    | some m => m.need != some (c.dtOf k, dataKey va) || m.needVa / 64 != va / 64
  match c.xlat (engOf k) (c.dtOf k) va write first with
  | .ok c1 pa => .ok c1 pa
  | .fault n => .trap n (addrStatus va)
  | .wait c1 => .wait (c1.cmdNeed k i va)

/-- Writes bytes of the line of an address under a mask, through the stream's drain buffer (R50). -/
def Core.cmdWriteMask (c : Core) (w : Sender) (va mask : Nat) (data : List Byte) : CAcc :=
  match c.cmdXlat w.key w.cmd va true with
  | .ok c1 pa => .ok ((c1.drainLine w pa mask data).cmdMet w.key w.cmd) pa
  | .wait c1 => .wait c1
  | .trap a b => .trap a b

/-- Writes bytes within one line of the job's data space. -/
def Core.cmdWrite (c : Core) (w : Sender) (va : Nat) (bs : List Byte) : CAcc :=
  c.cmdWriteMask w va (maskAt (va % 64) bs.length) (lineData (va % 64) bs)

/-- Counts the lookup of a line that stream k has not had looked up yet (R206), and remembers it until the line is asked for. -/
def Core.look (c : Core) (k va : Nat) : Core × Bool :=
  if c.looked.contains (k, va / 64) then (c, false)
  else ({ (c.countLookup true) with looked := (k, va / 64) :: c.looked }, true)

def Core.lookMet (c : Core) (k va : Nat) : Core := { c with looked := c.looked.filter fun l => l != (k, va / 64) }

/-- Asks for the line of a data address through RB(c), if it is not there. A fault carries the address, whatever its cause
(R376). A line already held or asked for is no further lookup (R206). -/
def Core.cmdAsk (c : Core) (w : Sender) (va : Nat) : CAcc :=
  let dt := c.dtOf w.key
  match c.dtFind dt va with
  | some e =>
    match leafAddr e.leaf e.large va false with
    | .error n => .trap n (addrStatus va)
    | .ok pa =>
      if (mlook (lineOf pa) c.rb).isSome then .ok c pa
      else if c.rbErr.contains (lineOf pa) then .trap 0x12 (addrStatus va)
      else if c.lineAsked w.key (lineOf pa) then .wait c
      else
        let c0 := (c.look w.key va).1
        match c0.readLine w vcBulk (lineOf pa) with
        | .ok _ => .ok (c0.lookMet w.key va) pa
        | .wait c1 => .wait (if c0.reqs.length < c1.reqs.length then c1.lookMet w.key va else c1)
  | none =>
    let (c0, first) := c.look w.key va
    match c0.askWalk (engOf w.key) dt (dataKey va) va first with
    | .fault n => .trap n (addrStatus va)
    | .ok c1 pa => .ok c1 pa
    | .wait c1 => .wait (c1.cmdNeed w.key w.cmd va)

/-- Asks for several lines. The command's need is the first page that is still walked; the answer says whether anything is
missing, and a fault met before anything that is missing. -/
def Core.cmdAskAll (c : Core) (w : Sender) : List Nat → Core × Bool × Option Trap
  | [] => (c.cmdMet w.key w.cmd, false, none)
  | va :: r =>
    match c.cmdAsk w va with
    | .trap a b => (c, true, some (a, b))
    | .ok c1 _ => c1.cmdAskAll w r
    | .wait c1 =>
      let need := ((c1.stream w.key).cmd w.cmd).bind fun m => m.need.map fun n => (n, m.needVa)
      let (c2, _, _) := c1.cmdAskAll w r
      (match need with
        | none => c2
        | some n => c2.updCmd w.key w.cmd fun m => { m with need := some n.1, needVa := n.2 }, true, none)

/-- A list without repeats of neighbours, then without any. -/
def dedupLines (l : List Nat) : List Nat :=
  (l.foldl (fun acc x => if acc.head? = some x then acc else x :: acc) []).reverse.eraseDups

end Sys2Proof.Machine
end

