-- ==== Sys2Proof/Machine/Matrix.lean ====
section
/-!
DEFINITION. Sys2Proof/Machine/Matrix.lean: the matrix engine (R368 to R397): nest tables and bindings, the checks of a
nest, its steps, drains, the bypass buffer, clearing, rebuilding along a new K, and row progress.
-/

namespace Sys2Proof.Machine

/-! ### Nest tables (R385, R386) -/

def ntW (t : SMap Nat) (i : Nat) : Nat := mget 0 t i
def ntKl (t : SMap Nat) : Nat := fld (ntW t 0) 0 3
def ntMr (t : SMap Nat) : Nat := fld (ntW t 0) 5 7 + 1
def ntNc (t : SMap Nat) : Nat := fld (ntW t 0) 12 8 + 1
def ntL (t : SMap Nat) : Int := sextN 7 (fld (ntW t 0) 20 7)
def ntInit (t : SMap Nat) : Bool := bit (ntW t 0) 27
def ntRm (t : SMap Nat) : Nat := fld (ntW t 0) 28 2
def ntRmx (t : SMap Nat) : Bool := bit (ntW t 0) 30
def ntAb (t : SMap Nat) : Nat := fld (ntW t 0) 36 3
def ntAsrc (t : SMap Nat) : Bool := bit (ntW t 0) 39
def ntBb (t : SMap Nat) : Nat := fld (ntW t 0) 40 3
def ntAcc (t : SMap Nat) : Nat := fld (ntW t 0) 44 3
def ntIdx (t : SMap Nat) : Nat := fld (ntW t 0) 48 3
def ntIdxen (t : SMap Nat) : Bool := bit (ntW t 0) 51
def ntMeta (t : SMap Nat) : Nat := fld (ntW t 0) 52 3
def ntMetaen (t : SMap Nat) : Bool := bit (ntW t 0) 55
def ntTrip (t : SMap Nat) (l : Nat) : Nat := fld (ntW t (1 + l / 2)) (32 * (l % 2)) 24
/-- The stride of level l for role r. -/
def ntStride (t : SMap Nat) (l r : Nat) : Int := sextN 32 (fld (ntW t (4 + 3 * l + r / 2)) (32 * (r % 2)) 32)

/-- Bits of dword i that are reserved. -/
def ntReserved (i : Nat) : Nat :=
  if i = 0 then 0xFF * 2 ^ 56 + 2 ^ 47 + 2 ^ 43 + 0x1F * 2 ^ 31 + 3 * 2 ^ 3
  else if i ≤ 3 then 0xFF * 2 ^ 56 + 0xFF * 2 ^ 24 else 0

/-- Product of the trips of levels a to b - 1. -/
def ntTrips (t : SMap Nat) (a b : Nat) : Nat := (List.range (b - a)).foldl (fun n i => n * ntTrip t (a + i)) 1

/-- Steps of a strip and strips (R371). -/
def ntSteps (t : SMap Nat) : Nat := ntTrips t 0 (ntKl t + 1)
def ntStrips (t : SMap Nat) : Nat := ntTrips t (ntKl t + 1) 6

/-- The level indices of step k of strip s (R371). -/
def ntIndex (t : SMap Nat) (s k : Nat) : List Nat :=
  (List.range 6).map fun l =>
    if l ≤ ntKl t then k / ntTrips t 0 l % ntTrip t l else s / ntTrips t (ntKl t + 1) l % ntTrip t l

/-- off of a role (R372). -/
def ntOff (t : SMap Nat) (ix : List Nat) (r : Nat) : Int :=
  (List.range 6).foldl (fun o l => o + (ix.getD l 0 : Int) * ntStride t l r) 0

/-! ### Bindings (R372) -/

def bRole (d : Nat) : Nat := fld d 110 2
def bSent (d : Nat) : Bool := bit d 109
def bNm (d : Nat) : Nat := fld d 102 2
def bVw (d : Nat) : Nat := fld d 100 2

/-- The ME fields of R372 and R188. -/
def bindOk (d : Nat) : Bool :=
  descOk d && fld d 104 5 == 0 && fld d 96 4 == 0 && (!bSent d || bRole d == 2)
    && (if bNm d = 0 then bVw d == 0 else bNm d != 3 && bRole d == 1 && (bVw d == 1 || bVw d == 2))

/-- Width of a gather index. -/
def idxW (d : Nat) : Nat := fmtBits (dFmt d)

def Me.bindAt (m : Me) (n : Nat) : Nat := mget 0 m.bind n

/-- The checks of MTWS, MIDX and MNMS (R388). kind 0, 1, 2; a is the A binding that MIDX names. -/
def bindCheck (kind a d : Nat) : Bool :=
  bindOk d
    && (match kind with
        | 0 => bRole d ≤ 1
        | 1 => bRole d == 2 && (dFmt d == 11 || dFmt d == 13) && !(bSent d && (a == 0 || 2 ^ idxW d ≤ dSize a 0))
        | _ => bRole d == 3 && (dFmt d == 8 || dFmt d == 11))

/-! ### What a nest runs on -/

/-- Format code of the bypass buffer, and whether it is block-scaled (R390). -/
def bypFmt (dfmt : Nat) : Nat × Bool :=
  match dfmt with
  | 0 => (3, false) | 1 => (4, false) | 2 => (5, true) | 3 => (3, true) | _ => (4, true)

/-- Format and scaling of A (R372, R380). -/
def Me.aFmt (m : Me) (t : SMap Nat) : Nat × Bool :=
  if ntAsrc t then ((m.bypass.map fun b => bypFmt b.dfmt).getD (0, false))
  else (dFmt (m.bindAt (ntAb t)), dScl (m.bindAt (ntAb t)))

/-- Positions per step and clocks per step of a pair (R369), none for a pair that is not listed: UINT8 goes with INT8 only. -/
def pairRate (fa fb : Nat) (sparse : Bool) : Option (Nat × Nat) :=
  if ((fa == 3 || fa == 4) && (fb == 3 || fb == 4)) || ((fa == 7 || fa == 8) && (fb == 7 || fb == 8)) then
    if fa == 8 && fb == 8 then none else some (if sparse then (8, 4) else (1, 1))
  else if fa == 5 && (fb == 5 || fb == 6) then some (if sparse then (8, 1) else (4, 1))
  else none

/-- Exponent of the smallest product bit that a format brings (R370). -/
def minExp (f : Nat) : Int := if f = 3 then -9 else if f = 4 then -16 else 0

/-- The least and the greatest accumulator offset of a nest. -/
def accSpan (t : SMap Nat) : Int × Int :=
  (List.range 6).foldl (fun p l =>
    let x := (ntTrip t l - 1 : Nat) * ntStride t l 3
    (p.1 + min 0 x, p.2 + max 0 x)) (0, 0)

/-- Whether every slot of a nest exists (R371). -/
def accFits (t : SMap Nat) (d : Nat) : Bool :=
  let (lo, hi) := accSpan t
  0 ≤ (dAddr d : Int) + lo && (dAddr d : Int) + hi + 256 * (ntMr t - 1 : Nat) + (ntNc t - 1 : Nat) < 131072

/-- The conditions under which a nest runs (R389). -/
def Me.nestOk (m : Me) (t : SMap Nat) : Bool :=
  let a := m.bindAt (ntAb t)
  let b := m.bindAt (ntBb t)
  let acc := m.bindAt (ntAcc t)
  let ix := m.bindAt (ntIdx t)
  let md := m.bindAt (ntMeta t)
  let byp := ntAsrc t
  let (fa, sa) := m.aFmt t
  let sparse := bNm b != 0
  ntKl t ≤ 4 && (List.range 6).all (fun l => ntTrip t l != 0) && ntStrips t < 2 ^ 24 && ntSteps t < 2 ^ 32
    && (byp || a != 0) && b != 0 && acc != 0 && (byp || bRole a == 0) && bRole b == 1
    && (pairRate fa (dFmt b) sparse).isSome && (sa || dScl b || ntL t ≤ minExp fa + minExp (dFmt b))
    && dSpace acc == 2 && dFmt acc == 14 && (byp || dSpace a != 2) && dSpace b != 2
    && (byp || ntMr t ≤ dSize a 0) && ntNc t ≤ dSize b 0 && accFits t acc
    && ntMetaen t == sparse
    && (!sparse || (md != 0 && bRole md == 3 && dSpace md != 2 && dFmt md == (if bNm b = 1 then 8 else 11)
        && (List.range 6).all fun l => ntStride t l 1 % 4 == 0))
    && (!ntIdxen t || (ix != 0 && bRole ix == 2 && dSpace ix != 2 && !(bSent ix && 2 ^ idxW ix ≤ dSize a 0)))
    && (!byp || (!ntIdxen t && match m.bypass with
        | none => false
        | some y => ntMr t ≤ y.rows))

/-- Whether the engine's state uses FP4 or PW2 (R368, R397): feature 10 of a context image. -/
def Me.fp4 (m : Me) : Bool :=
  let f4 := fun d => d != 0 && (dFmt d == 5 || dFmt d == 6)
  (List.range 8).any (fun i => f4 (m.bindAt i)) || m.bypass.any fun b => b.dfmt == 2

/-! ### Row progress (R374, R395) -/

def progOf (s k : Nat) (done : Bool) : Nat := 2 ^ 63 + bitN done * 2 ^ 61 + s * 2 ^ 32 + k
def progStrip (p : Nat) : Nat := fld p 32 24
def progStep (p : Nat) : Nat := fld p 0 32
def progHalt (p : Nat) : Bool := bit p 62

def Core.updMe (c : Core) (f : Me → Me) : Core := c.updStream 16 fun t => { t with me := f t.me }
def Core.me (c : Core) : Me := (c.stream 16).me

/-- Bit 62 set, and bits 62 and 61 cleared. -/
def haltSet (p : Nat) : Nat := if progHalt p then p else p + 2 ^ 62

/-! ### Operands of a step (R372, R377, R378) -/

/-- The mode of a 3-bit rounding field (R383). -/
def rmxMode (t : Stream) (rmx : Bool) (rm : Nat) : Rm := if rmx then rmOf rm else t.rm

/-- One read of a step: the space, the byte address and its bytes. -/
structure OpRead where
  space : Nat
  addr : Int
  n : Nat
  deriving DecidableEq, Repr

/-- The reads of an operand's elements with indexes es and, where it is scaled, of the scale at sc. -/
def elemReads (d : Nat) (es : List Int) (sc : Int) : List OpRead :=
  es.map (fun e => ⟨dSpace d, elemAddr d e, max 1 (fmtBits (dFmt d) / 8)⟩)
    ++ (if dScl d then [⟨dSpace d, sc, 1⟩] else [])

/-- A row's or column's scale address: SCALE_BASE + r·SS1 + off. -/
def scaleAt (d r : Nat) (off : Int) : Int := (dScaleBase d : Int) + (r : Int) * dScaleStride d 1 + off

/-- A step as it is formed: table, indices, positions, whether B is sparse, and the A rows, none for +0 rows. -/
structure NStep where
  t : SMap Nat
  ix : List Nat
  g : Nat
  sparse : Bool
  rows : List (Option Nat)
  deriving DecidableEq, Repr

def NStep.off (n : NStep) (r : Nat) : Int := ntOff n.t n.ix r

/-- Element indexes of A row r. -/
def NStep.aEls (n : NStep) (d r : Nat) : List Int :=
  (List.range n.g).map fun (q : Nat) => n.off 0 + (r : Int) * dStride d 0 + (q : Int)

/-- Stored values of column j of B. -/
def NStep.bEls (n : NStep) (d j : Nat) : List Int :=
  (List.range (if n.sparse then 4 else n.g)).map fun (q : Nat) => n.off 1 + (j : Int) * dStride d 0 + (q : Int)

/-- Columns to a vector (R372). -/
def vwCols (d : Nat) : Nat := if bVw d = 2 then 8 else 4

/-- Index of the metadata entry of column vector v. -/
def NStep.metaEl (n : NStep) (d v : Nat) : Int := n.off 1 / 4 + (v : Int) * dStride d 0

/-- All reads of a step, A before B before metadata. -/
def NStep.reads (n : NStep) (m : Me) : List OpRead :=
  let a := m.bindAt (ntAb n.t)
  let b := m.bindAt (ntBb n.t)
  let md := m.bindAt (ntMeta n.t)
  let ra := if ntAsrc n.t then [] else n.rows.flatMap fun r => match r with
    | none => []
    | some r => elemReads a (n.aEls a r) (scaleAt a r (n.off 4))
  let rb := (List.range (ntNc n.t)).flatMap fun j => elemReads b (n.bEls b j) (scaleAt b j (n.off 5))
  let rm := if n.sparse then
      (List.range ((ntNc n.t + vwCols b - 1) / vwCols b)).flatMap fun v => elemReads md [n.metaEl md v] 0
    else []
  ra ++ rb ++ rm

/-- The lines of device memory that reads touch, or the trap of an address outside the space (R188). -/
def readLines (rs : List OpRead) : Except Trap (List Nat) :=
  let dev := rs.filter fun r => r.space == 0
  if dev.any fun r => r.addr < 0 || (2 ^ 48 : Int) < r.addr + r.n then .error (0x0C, 5)
  else .ok (dedupLines (dev.map fun r => r.addr.toNat / 64 * 64))

/-- A signed mantissa and an exponent, none for a value that contributes 0 (R370). -/
abbrev MVal := Option (Int × Int)

/-- The value of an operand's code and what it flags. -/
def meVal (f code : Nat) (scale : Option Nat) : MVal × Nat :=
  let v := match scale with
    | some s => if s = 0xFF then (FV.nan false, fBNAN) else (blockElem (fmtOfCode f) code s, fNV)
    | none => (codeValue f code 0, fNV)
  match v.1 with
  | .fin n m e => (some (if n then -(m : Int) else m, e), 0)
  | .inf _ => (none, v.2)
  | .nan _ => (none, v.2)

/-- Values of a row or column with their flags. -/
def Rdr.meVals (r : Rdr) (d : Nat) (es : List Int) (sc : Int) : Rd (List MVal × Nat) := do
  let s ← if dScl d then (do let v ← r.val (dSpace d) sc 1; .ok (some v)) else .ok none
  let cs ← es.mapM fun e => r.codeAt d e
  let vs := cs.map fun c => meVal (dFmt d) c s
  .ok (vs.map Prod.fst, vs.foldl (fun f v => f ||| v.2) 0)

/-- A row of the bypass buffer (R399); a position past the extent raises subcode 1 (R389). -/
def NStep.bypRow (n : NStep) (y : Bypass) (i : Nat) : Rd (List MVal × Nat) :=
  let p := n.off 0
  if p < 0 || (y.ext : Int) < p + n.g then .error (.trap 0x0C 1)
  else
    let vs := (List.range n.g).map fun q =>
      let x := p.toNat + q
      let (f, scl) := bypFmt y.dfmt
      meVal f (mget 0 y.code (256 * i + x)) (if scl then some (mget 0 y.scale (8 * i + x / 32)) else none)
    .ok (vs.map Prod.fst, vs.foldl (fun f v => f ||| v.2) 0)

/-- The rows of A. -/
def NStep.aRows (n : NStep) (r : Rdr) (m : Me) : Rd (List (List MVal × Nat)) :=
  match (if ntAsrc n.t then m.bypass else none) with
  | some y => (List.range (ntMr n.t)).mapM fun i => n.bypRow y i
  | none =>
    let a := m.bindAt (ntAb n.t)
    n.rows.mapM fun x => match x with
      | none => .ok (List.replicate n.g (some (0, 0)), 0)
      | some i => r.meVals a (n.aEls a i) (scaleAt a i (n.off 4))

/-- Kept positions of a metadata entry (R377), each in its place of the eight. -/
def keptOf (nm v : Nat) : Rd (List Nat) :=
  let ps := if nm = 1 then [fld v 0 2, fld v 2 2, 4 + fld v 4 2, 4 + fld v 6 2]
    else [fld v 0 3, fld v 3 3, fld v 6 3, fld v 9 3]
  if nm != 1 && fld v 12 4 != 0 then .error (.trap 0x0C 3)
  else if (ps.zip ps.tail).any fun p => p.2 ≤ p.1 then .error (.trap 0x0C 2)
  else .ok ps

/-- The columns of B and the positions of A that each stored value meets. -/
def NStep.bCols (n : NStep) (r : Rdr) (m : Me) : Rd (List (List MVal × Nat)) :=
  let b := m.bindAt (ntBb n.t)
  (List.range (ntNc n.t)).mapM fun j => r.meVals b (n.bEls b j) (scaleAt b j (n.off 5))

def NStep.kept (n : NStep) (r : Rdr) (m : Me) : Rd (List (List Nat)) :=
  let b := m.bindAt (ntBb n.t)
  let md := m.bindAt (ntMeta n.t)
  if !n.sparse then .ok (List.replicate (ntNc n.t) (List.range n.g))
  else do
    let vs ← (List.range ((ntNc n.t + vwCols b - 1) / vwCols b)).mapM fun v => do
      let e ← r.codeAt md (n.metaEl md v)
      keptOf (bNm b) e
    .ok ((List.range (ntNc n.t)).map fun j => vs.getD (j / vwCols b) [])

/-- Whether a scaled operand's positions fall in two blocks (R372). -/
def NStep.splits (n : NStep) (m : Me) : Bool :=
  let sb := dScl (m.bindAt (ntBb n.t))
  let two := fun (o : Int) => (32 : Int) < o % 32 + n.g
  ((m.aFmt n.t).2 && two (n.off 0)) || (sb && two (n.off (if n.sparse then 0 else 1)))

/-- One product added into a slot (R37, R45, R370): the slot and flags. -/
def mac (rm : Rm) (l : Int) (s : Nat × Nat) (x y : MVal) : Nat × Nat :=
  match x, y with
  | some (a, e), some (b, f) =>
    if a * b = 0 then s
    else
      let (p, fl) := (FV.ofScaled (a * b) (e + f)).toFx rm l
      let cl := accClamps (slotAcc s.1 + p)
      (slotAdd s.1 p, s.2 ||| fl ||| (if cl then fSAT else 0))
  | some _, none => s
  | none, some _ => s
  | none, none => s

/-- The products of a row and a column in ascending K. -/
def macs (rm : Rm) (l : Int) (row : List MVal) : List MVal → List Nat → Nat × Nat → Nat × Nat
  | b :: bs, p :: ps, s => macs rm l row bs ps (mac rm l s ((row.getD p none)) b)
  | _, _, s => s

/-- All slots of a step after its additions, and its flags. -/
def stepSlots (rm : Rm) (l : Int) (rows cols : List (List MVal)) (kept : List (List Nat)) (old : List (List Nat)) :
    List (List (Nat × Nat)) :=
  (rows.zip old).map fun r => ((cols.zip kept).zip r.2).map fun x => macs rm l r.1 x.1.1 x.1.2 (x.2, 0)

/-- What the next step of a nest comes to. -/
inductive NRes where
  | wait (c : Core)
  | fault (cause va : Nat)
  | trap (cause status : Nat)
  | ok (c : Core)
  deriving DecidableEq, Repr

/-- Reads of the gather indices of a strip (R378). -/
def idxReads (m : Me) (t : SMap Nat) (s : Nat) : List OpRead :=
  let d := m.bindAt (ntIdx t)
  let off := ntOff t (ntIndex t s 0) 2
  (List.range (ntMr t)).flatMap fun (i : Nat) => elemReads d [off + (i : Int) * dStride d 0] 0

/-- The gather indices themselves; a sentinel is kept as 2^32. -/
def idxVals (r : Rdr) (m : Me) (t : SMap Nat) (s : Nat) : Rd (List Nat) :=
  let d := m.bindAt (ntIdx t)
  let off := ntOff t (ntIndex t s 0) 2
  (List.range (ntMr t)).mapM fun (i : Nat) => do
    let v ← r.codeAt d (off + (i : Int) * dStride d 0)
    if bSent d && v == 2 ^ idxW d - 1 then .ok (2 ^ 32)
    else if dSize (m.bindAt (ntAb t)) 0 ≤ v then .error (.trap 0x0C 1)
    else .ok v

/-- Asks for the lines of reads: what is missing, a fault met, or a trap. -/
def Core.askReads (c : Core) (w : Sender) (rs : List OpRead) : NRes :=
  match readLines rs with
  | .error t => .trap t.1 t.2
  | .ok ls =>
    let (c1, miss, f) := (c.cmdMet w.key w.cmd).cmdAskAll w ls
    match f with
    | some (n, st) => .fault n (fld st 32 32 * 2 ^ 16 + fld st 0 16)
    | none => if miss then .wait c1 else .ok c1

/-- The step that row progress names, with the strip's gathered rows (R372, R378). -/
def Me.stepAt (m : Me) (s k : Nat) (idx : List Nat) : NStep :=
  let t := m.active
  let b := m.bindAt (ntBb t)
  let g := ((pairRate (m.aFmt t).1 (dFmt b) (bNm b != 0)).map Prod.fst).getD 1
  { t := t, ix := ntIndex t s k, g := g, sparse := bNm b != 0
    rows := if ntIdxen t then idx.map fun v => if v = 2 ^ 32 then none else some v
      else (List.range (ntMr t)).map some }

/-- Clocks between commits (R369). -/
def Me.stepClocks (m : Me) : Nat :=
  let b := m.bindAt (ntBb m.active)
  ((pairRate (m.aFmt m.active).1 (dFmt b) (bNm b != 0)).map Prod.snd).getD 1

/-- The slots of a step by row. -/
def NStep.slots (n : NStep) (acc : Nat) : List (List Nat) :=
  let base := ((dAddr acc : Int) + n.off 3).toNat
  (List.range (ntMr n.t)).map fun i => (List.range (ntNc n.t)).map fun j => base + 256 * i + j

/-- The additions of a step whose operands have all arrived. -/
def Core.commitStep (c : Core) (clk : Nat) (m : Cmd) (s k : Nat) (n : NStep) : NRes :=
  let me := c.me
  let r : Rdr := ⟨c, 16, false⟩
  let x : Rd (List (List MVal × Nat) × List (List MVal × Nat) × List (List Nat)) := do
    let a ← n.aRows r me
    let b ← n.bCols r me
    let ks ← n.kept r me
    .ok (a, b, ks)
  if n.splits me then .trap 0x0C 6
  else
    match x with
    | .error (.trap a st) => .trap a st
    | .error (.need _ _) => .wait c
    | .ok (a, b, ks) =>
      let sl := n.slots (me.bindAt (ntAcc n.t))
      let init := ntInit n.t && k == 0
      let old := if init then sl.map fun q => q.map fun _ => 0 else sl.map c.accReadAll
      let rm := rmxMode (c.stream 16) (ntRmx n.t) (ntRm n.t)
      let out := stepSlots rm (ntL n.t) (a.map Prod.fst) (b.map Prod.fst) ks old
      let fl := ((a ++ b).map Prod.snd ++ out.flatten.map Prod.snd).foldl (· ||| ·) 0
      let last := k + 1 == ntSteps n.t
      let s1 := if last then s + 1 else s
      let ended := last && s1 == ntStrips n.t
      let c1 := c.accWriteAll 4 (sl.flatten.zip (out.flatten.map Prod.fst))
      let c2 := c1.updMe fun e => { e with
        prog := progOf s1 (if last then 0 else k + 1) ended
        ready := clk + me.stepClocks }
      .ok (c2.updCmd 16 m.idx fun x => { x with
        stage := x.stage ||| fl, finished := ended, pos := if ended then clk + 1 else x.pos, aux := if last then [] else x.aux })

/-- The next step of the running nest: its gather indices first, then its operands, then its additions. -/
def Core.nextStep (c : Core) (cid clk : Nat) (m : Cmd) : NRes :=
  let me := c.me
  let t := me.active
  let s := progStrip me.prog
  let k := progStep me.prog
  let w := c.cmdSender cid 16 clk m
  let gather := ntIdxen t && m.aux.isEmpty
  match (if gather then c.askReads w (idxReads me t s) else NRes.ok c) with
  | .wait c1 => .wait c1
  | .fault n va => .fault n va
  | .trap a st => .trap a st
  | .ok c1 =>
    match (if gather then idxVals ⟨c1, 16, false⟩ me t s else .ok m.aux) with
    | .error (.trap a st) => .trap a st
    | .error (.need _ _) => .wait c1
    | .ok idx =>
      let c2 := if gather then c1.updCmd 16 m.idx fun x => { x with aux := idx } else c1
      let n := me.stepAt s k idx
      match c2.askReads w (n.reads me) with
      | .ok c3 => if clk < me.ready then .wait c3 else c3.commitStep clk m s k n
      | .wait c3 => .wait c3
      | .fault n va => .fault n va
      | .trap a st => .trap a st

/-- Whether a command runs a nest. -/
def Cmd.isNest (m : Cmd) : Bool :=
  match m.instr with
  | .mgo _ _ _ => true
  | .mrst _ _ _ _ => true
  | _ => false

/-- The running nest's command. -/
def Core.nest (c : Core) : Option Cmd := (c.stream 16).cmds.find? fun m => m.started && !m.finished && m.isNest

/-- The lines that step k of strip s reads, as far as they are known: in a later strip of a gathered nest its indices come first
(R378). -/
def Core.stepLines (c : Core) (cid clk : Nat) (m : Cmd) (s k : Nat) : NRes × List OpRead :=
  let me := c.me
  if !ntIdxen me.active then (.ok c, (me.stepAt s k []).reads me)
  else if s = progStrip me.prog then
    if m.aux.isEmpty then (.wait c, []) else (.ok c, (me.stepAt s k m.aux).reads me)
  else
    match c.askReads (c.cmdSender cid 16 clk m) (idxReads me me.active s) with
    | .ok c1 =>
      match idxVals ⟨c1, 16, false⟩ me me.active s with
      | .ok idx => (.ok c1, (me.stepAt s k idx).reads me)
      | .error (.trap a st) => (.trap a st, [])
      | .error (.need _ _) => (.wait c1, [])
    | .wait c1 => (.wait c1, [])
    | .fault n va => (.fault n va, [])
    | .trap a st => (.trap a st, [])

/-- Whether what the running nest's command waits for is a page that is held back (R373). -/
def Core.heldBack (c : Core) (i : Nat) : Bool :=
  match ((c.stream 16).cmd i).bind Cmd.need with
  | none => false
  | some n => c.misses.any fun x => x.dt == n.1 && x.page == n.2 && x.res.isSome

/-- Reads ahead the lines of one further step, up to 16 steps past the last committed one (R373). A read-ahead never traps, its
command does not wait for it, and it goes past a line that is held back. -/
def Core.readAhead (c : Core) (cid clk : Nat) : Core :=
  match c.nest with
  | none => c
  | some m =>
    let t := c.me.active
    let done := progStrip c.me.prog * ntSteps t + progStep c.me.prog
    let h := max m.pos (done + 1)
    let put := fun (c1 : Core) (h1 : Nat) => c1.updCmd 16 m.idx fun x => { x with need := m.need, needVa := m.needVa, pos := h1 }
    if ntStrips t * ntSteps t ≤ h || done + 16 ≤ h then c
    else
      match c.stepLines cid clk m (h / ntSteps t) (h % ntSteps t) with
      | (.trap _ _, _) => put c (h + 1)
      | (.fault _ _, _) => put c (h + 1)
      | (.wait c1, _) => put c1 (if c1.heldBack m.idx then h + 1 else h)
      | (.ok c1, rs) =>
        match readLines rs with
        | .error _ => put c1 (h + 1)
        | .ok ls =>
          let (c2, miss, f) := (c1.cmdMet 16 m.idx).cmdAskAll (c.cmdSender cid 16 clk m) ls
          put c2 (if !miss || f.isSome || c2.heldBack m.idx then h + 1 else h)

/-- Whether a nest halts on a cause rather than stopping its job (R376). -/
def haltCause (me : Me) (n : Nat) : Bool := me.halt && (n == 0x09 || n == 0x12)

/-- A running nest halts: FAULTADDR and HALT are set and its command completes (R376, R395). -/
def Core.haltNest (c : Core) (clk : Nat) (m : Cmd) (n va : Nat) : Core :=
  ({ c with rbErr := [] }.updMe fun e => { e with prog := haltSet e.prog, faultaddr := n * 2 ^ 56 + va % 2 ^ 48 }).updCmd 16 m.idx fun x =>
    { x with finished := true, pos := clk }

/-- A finished command of ME completes once its release is complete (R41, R58), and the next starts a clock later at the
earliest (R383). -/
def Core.endMe (c : Core) (clk i : Nat) : Core :=
  match (c.stream 16).cmd i with
  | none => c
  | some m =>
    if m.finished && m.pos ≤ clk && c.cmdReleased 16 m then
      ({ c with rbErr := [] }.completeCmd clk 16 m m.stage m.aux.head? false).updMe fun e => { e with ready := clk + 1 }
    else c

/-- One clock of the running nest (R375, R376). -/
def Core.nestClock (c : Core) (cid clk : Nat) : Core :=
  match c.nest with
  | none => c
  | some m =>
    let due := c.me.ready ≤ clk
    match c.nextStep cid clk m with
    | .ok c1 => c1.readAhead cid clk
    | .wait c1 => c1.readAhead cid clk
    | .trap a st => if due then c.cmdTrap clk 16 m (a, st) else c
    | .fault n va =>
      if !due then c
      else if haltCause c.me n then (c.haltNest clk m n va).endMe clk m.idx
      else { c with rbErr := [] }.cmdTrap clk 16 m (n, addrStatus va)

/-- The page that the next step of the running nest waits for in a clock in which it would commit, with the address (R376). -/
def Core.nestNeed (c : Core) (cid clk : Nat) : Option ((Nat × Nat) × Nat) :=
  match c.nest with
  | none => none
  | some m =>
    if clk < c.me.ready then none
    else
      match c.nextStep cid clk m with
      | .wait c1 => ((c1.stream 16).cmd m.idx).bind fun x => x.need.map fun n => (n, x.needVa)
      | .ok _ => none
      | .trap _ _ => none
      | .fault _ _ => none

/-- One more step of a nest whose job is being switched out by force (R150): it stops at its next committed step, or where
it stands when that step traps or meets a page that is not mapped. -/
def Core.lastStep (c : Core) (cid clk j : Nat) : Core :=
  let off := fun (c : Core) => c.updJob j fun b => { b with nestRun := false }
  match c.nest with
  | none => off c
  | some m =>
    match c.nextStep cid clk m with
    | .ok c1 => if c1.me.prog = c.me.prog then c1 else off c1
    | .wait c1 =>
      if c1.heldBack m.idx then off c else c1
    | .trap _ _ => off c
    | .fault _ _ => off c

/-- NEST_STEP_COMMIT (R375). -/
def execNestStepCommit (c : Nat) (s : State) : Host.Outcome State Fault Refusal :=
  let j := ((s.core c).stream 16).job
  let b := (s.core c).job j
  .next (if (s.core c).frozen || (b.st == .saved && !b.nestRun) then s
    else if b.st = .saved then s.updCore c fun x => x.lastStep c s.cycles j
    else s.updCore c fun x => x.nestClock c s.cycles)

/-! ### Drain control (R390) -/

def dcDfmt (v : Nat) : Nat := fld v 56 3
def dcNc (v : Nat) : Nat := fld v 48 8 + 1
def dcMr (v : Nat) : Nat := fld v 41 7 + 1
def dcRelu (v : Nat) : Bool := bit v 40
def dcRmx (v : Nat) : Bool := bit v 39
def dcRm (v : Nat) : Nat := fld v 37 2
def dcSh (v : Nat) : Int := sextN 7 (fld v 30 7)
def dcL (v : Nat) : Int := sextN 7 (fld v 23 7)
def dcSlot (v : Nat) : Nat := fld v 0 17

/-- Whether a drain control word keeps its layout: kind 0 MDRN, 1 MBYP, 2 MZERO. -/
def dcOk (kind v : Nat) : Bool :=
  fld v 59 5 == 0 && fld v 17 6 == 0 && (dcRmx v || dcRm v == 0)
    && (match kind with
        | 0 => dcDfmt v == 0
        | 1 => dcDfmt v ≤ 4 && (dcDfmt v < 2 || dcNc v % 32 == 0)
        | _ => dcDfmt v == 0 && fld v 23 18 == 0)

/-- Whether every slot of a tile exists. -/
def dcFits (v : Nat) : Bool := dcSlot v + 256 * (dcMr v - 1) + dcNc v ≤ 131072

/-- The slots of a tile by row. -/
def dcSlots (v : Nat) : List (List Nat) :=
  (List.range (dcMr v)).map fun i => (List.range (dcNc v)).map fun j => dcSlot v + 256 * i + j

/-- The value of a slot with shift and ReLU (R380, R391). -/
def dcValue (v slot : Nat) : FV :=
  let a := slotAcc slot
  .ofScaled (if dcRelu v && a < 0 then 0 else a) (dcL v + dcSh v)

/-- Flags of reading slots that are saturated (R37). -/
def satFlag (slots : List Nat) : Nat := if slots.any slotSat then fSAT else 0

/-- Blocks of 32 values packed along j: scales, codes and flags (R43). -/
def packRow (f : Nat) (rm : Rm) : Nat → List FV → List (Nat × List Nat) × Nat
  | 0, _ => ([], 0)
  | n + 1, vs =>
    let (sc, cs, fl) := packBlock (fmtOfCode f) rm (vs.take 32)
    let (r, fl2) := packRow f rm n (vs.drop 32)
    ((sc, cs) :: r, fl ||| fl2)

/-! ### Writes of MDRN and MRQT (R391, R394)

A byte write is coded as ((block·2^48 + address)·256 + value)·256 + mask of the bits written. -/

def wrEnt (blk a v mask : Nat) : Nat := ((blk * 2 ^ 48 + a) * 256 + v) * 256 + mask
def wrBlk (e : Nat) : Nat := e / 2 ^ 64
def wrAddr (e : Nat) : Nat := fld e 16 48
def wrVal (e : Nat) : Nat := fld e 8 8
def wrMask (e : Nat) : Nat := fld e 0 8

def wrKey (e : Nat) : Nat := e / 2 ^ 16

/-- An earlier write placed among later ones, in rising order of block and address; the later one stands where both
write. -/
def insEnt (e : Nat) : List Nat → List Nat
  | [] => [e]
  | x :: r =>
    if wrKey e < wrKey x then e :: x :: r
    else if wrKey e = wrKey x then
      wrEnt (wrBlk x) (wrAddr x) ((wrVal e &&& (255 - wrMask x)) + (wrVal x &&& wrMask x)) (wrMask e ||| wrMask x) :: r
    else x :: insEnt e r

/-- A write before it is checked: address, value and mask. -/
structure WrByte where
  a : Int
  v : Nat
  mask : Nat
  deriving DecidableEq, Repr

/-- The writes of the element of index e (R188); a 4-bit element writes its nibble. -/
def elemWr (d : Nat) (e : Int) (code : Nat) : List WrByte :=
  let a := elemAddr d e
  let b := fmtBits (dFmt d)
  if b = 4 then
    let m := if e % 2 = 0 then 1 else 16
    [⟨a, code % 16 * m, 15 * m⟩]
  else (List.range (b / 8)).map fun (i : Nat) => ⟨a + (i : Int), fld code (8 * i) 8, 255⟩

/-- The check of a command's writes at its start (R391): the scratchpad's regions, or the data space. -/
def wrCheck (b : Job) (space : Nat) (ws : List WrByte) : Option Trap :=
  if space = 1 then
    if ws.any fun w => w.a < 0 || !b.inRegions w.a.toNat 1 then some (0x0E, kindStatus 3 0xFF) else none
  else if ws.any fun w => w.a < 0 || (2 ^ 48 : Int) ≤ w.a then some (0x0C, 5) else none

/-- Writes of a block in order, coded. -/
def wrEnts (blk : Nat) (ws : List WrByte) : List Nat := ws.foldr (fun w l => insEnt (wrEnt blk w.a.toNat w.v w.mask) l) []

/-! ### What starts (R383, R388 to R396) -/

/-- A command marked as started, with what it keeps. -/
def Core.began (c : Core) (clk k : Nat) (m : Cmd) (f : Cmd → Cmd) : Core :=
  c.updCmd k m.idx fun x => f { x with started := true, at_ := clk }

/-- The value of a command's register operand i. -/
def Cmd.val (m : Cmd) (i : Nat) : Nat := m.vals.getD i 0

/-- MTWS, MIDX and MNMS at their start (R388): the descriptor is read and checked. -/
def Core.beginBind (c : Core) (clk : Nat) (m : Cmd) (kind : Nat) : Except Trap Core :=
  let off := fld (m.val 0) 0 19
  let b := c.job (c.stream 16).job
  if off % 64 != 0 then .error (0x07, addrStatus off)
  else if !b.inRegions off 64 then .error (0x0E, kindStatus 3 0xFF)
  else
    let d := leBytes (c.spadRead off 64)
    if bindCheck kind (c.me.bindAt (fld (m.val 0) 32 3)) d then .ok (c.began clk 16 m fun x => { x with aux := [d] })
    else .error (0x0D, 0)

/-- MGO at its start (R389). -/
def Core.beginGo (c : Core) (clk : Nat) (m : Cmd) (halt : Bool) : Except Trap Core :=
  if !c.me.nestOk c.me.shadow then .error (0x0D, 0)
  else
    let c1 := { c with rbErr := [] }.updMe fun e => { e with
      active := e.shadow, prog := 2 ^ 63, faultaddr := 0, halt := halt, ready := clk + 12 }
    .ok (c1.began clk 16 m id)

/-- MRST at its start (R396). -/
def Core.beginRst (c : Core) (clk : Nat) (m : Cmd) (halt : Bool) : Except Trap Core :=
  let v := m.val 0
  let me := c.me
  let t := me.active
  if !bit v 63 || fld v 56 5 != 0 || !bit me.prog 63 || ntStrips t ≤ progStrip v || ntSteps t ≤ progStep v then
    .error (0x0C, 3)
  else if !me.nestOk t then .error (0x0D, 0)
  else
    let c1 := { c with rbErr := [] }.updMe fun e => { e with
      prog := progOf (progStrip v) (progStep v) false, faultaddr := 0, halt := halt, ready := clk + 12 }
    -- what had been read ahead is read again (R400)
    .ok ((c1.dropLines fun _ => true).began clk 16 m id)

/-- The binding conditions of MDRN (R391). -/
def drainOk (d v : Nat) : Bool :=
  d != 0 && dSpace d ≤ 1 && 2 ≤ dDims d && dcNc v ≤ dSize d 0 && dcMr v ≤ dSize d 1
    && (if dScl d then [3, 4, 5, 6].contains (dFmt d) && dcNc v % 32 == 0 else [0, 1, 2, 3, 4, 12, 14].contains (dFmt d))

/-- The writes of one row of a drained tile, and its flags (R391). -/
def drainRow (t : Stream) (d v i : Nat) (slots : List Nat) : List WrByte × Nat :=
  let rm := rmxMode t (dcRmx v) (dcRm v)
  let f := dFmt d
  let at_ := fun j => elemIndex d [j, i, 0, 0]
  if dScl d then
    let (bs, fl) := packRow f rm (dcNc v / 32) (slots.map (dcValue v))
    let ws := (List.range bs.length).flatMap fun q =>
      let b := bs.getD q (0, [])
      ((List.range 32).flatMap fun j => elemWr d (at_ (32 * q + j)) (b.2.getD j 0))
        ++ [⟨scaleAddr d [32 * q, i, 0, 0], b.1, 255⟩]
    (ws, fl)
  else
    let cs := slots.map fun s =>
      if f = 14 then (rawSlot s, 0)
      else if f = 12 then
        let (x, fl) := (dcValue v s).toInt true 32 rm
        (uI 32 x, fl)
      else (ffOf (fmtOfCode f)).enc rm (!t.f8ns) (dcValue v s)
    (((List.range cs.length).zip cs).flatMap fun p => elemWr d (at_ p.1) p.2.1, cs.foldl (fun fl x => fl ||| x.2) 0)

/-- MDRN at its start (R391): the tile is read and every write formed. A raw read of a saturated slot flags nothing (R37). -/
def Core.beginDrain (c : Core) (clk : Nat) (m : Cmd) (dn : Nat) : Except Trap Core :=
  let v := m.val 0
  let t := c.stream 16
  let d := c.me.bindAt dn
  if !drainOk d v then .error (0x0D, 0)
  else if dFmt d = 14 && (dcSh v != 0 || dcRelu v || dcRmx v || dcRm v != 0) then .error (0x0C, 3)
  else if !dcFits v then .error (0x0C, 5)
  else
    let tile := (dcSlots v).map c.accReadAll
    let rows := ((List.range tile.length).zip tile).map fun r => drainRow t d v r.1 r.2
    let ws := rows.flatMap Prod.fst
    let fl := rows.foldl (fun f r => f ||| r.2) (if dFmt d = 14 then 0 else satFlag tile.flatten)
    match wrCheck (c.job t.job) (dSpace d) ws with
    | some e => .error e
    | none => .ok (c.began clk 16 m fun x => { x with aux := wrEnts 0 ws, stage := fl, pos := 1 })

/-- MBYP at its start (R392): codes by 256·row + column in data, scales by block in aux. -/
def Core.beginByp (c : Core) (clk : Nat) (m : Cmd) : Except Trap Core :=
  let v := m.val 0
  let t := c.stream 16
  if !dcFits v then .error (0x0C, 5)
  else
    let tile := (dcSlots v).map c.accReadAll
    let rm := rmxMode t (dcRmx v) (dcRm v)
    let (f, scl) := bypFmt (dcDfmt v)
    let rows := tile.map fun r =>
      if scl then
        let (bs, fl) := packRow f rm (dcNc v / 32) (r.map (dcValue v))
        (bs.flatMap Prod.snd, bs.map Prod.fst, fl)
      else
        let cs := r.map fun s => (ffOf (fmtOfCode f)).enc rm (!t.f8ns) (dcValue v s)
        (cs.map Prod.fst, [], cs.foldl (fun fl x => fl ||| x.2) 0)
    let ents := ((List.range rows.length).zip rows).flatMap fun r =>
      ((List.range r.2.1.length).zip r.2.1).map fun e => (256 * r.1 + e.1, BitVec.ofNat 8 e.2)
    .ok (c.began clk 16 m fun x => { x with
      data := mbulk 0 ents [], aux := rows.flatMap fun r => r.2.1
      stage := rows.foldl (fun fl r => fl ||| r.2.2) (satFlag tile.flatten) })

/-- The bypass buffer that a finished MBYP leaves. -/
def Cmd.bypass (m : Cmd) : Bypass :=
  let v := m.val 0
  let nb := dcNc v / 32
  let sc := if (bypFmt (dcDfmt v)).2 then
      (List.range m.aux.length).map fun i => (8 * (i / nb) + i % nb, m.aux.getD i 0)
    else []
  { rows := dcMr v, ext := dcNc v, dfmt := dcDfmt v, code := mbulk 0 (m.data.map fun e => (e.1, e.2.toNat)) []
    scale := mbulk 0 sc [] }

/-- The binding conditions of MRQT (R394). -/
def rebuildOk (d s : Nat) : Bool :=
  let ok := fun b => b != 0 && dSpace b ≤ 1 && dScl b && 2 ≤ dDims b && dSize b 0 % 32 == 0 && dSize b 1 % 32 == 0
    && [3, 4, 5, 6].contains (dFmt b) && bNm b == 0 && bVw b == 0
  ok d && ok s && dSize d 0 == dSize s 1 && dSize d 1 == dSize s 0

/-- The reads of the source elements that become the destination's block at row b.1 and column b.2. -/
def rebuildReads (s : Nat) (b : Nat × Nat) : List OpRead :=
  (List.range 32).flatMap fun i => (List.range 32).flatMap fun j =>
    let x := [b.1 + i, b.2 + j, 0, 0]
    elemReads s [elemIndex s x] (scaleAddr s x)

/-- The writes of one 32 by 32 block of an MRQT from row r and column q of the destination, given the codes and scales. -/
def rebuildRow (d : Nat) (rm : Rm) (row q : Nat) (vals : List FV) : List WrByte × Nat :=
  let (sc, cs, fl) := packBlock (fmtOfCode (dFmt d)) rm vals
  (((List.range 32).flatMap fun j => elemWr d (elemIndex d [q + j, row, 0, 0]) (cs.getD j 0))
    ++ [⟨scaleAddr d [q, row, 0, 0], sc, 255⟩], fl)

/-- Rows and columns at which the destination's blocks begin, in order. -/
def rebuildBlocks (d : Nat) : List (Nat × Nat) :=
  (List.range (dSize d 1 / 32)).flatMap fun r => (List.range (dSize d 0 / 32)).map fun q => (32 * r, 32 * q)

/-- The writes of the block numbered x.1 at x.2, coded, with its flags; the source element (i, j) becomes element (j, i). -/
def Rdr.rebuild (r : Rdr) (d s : Nat) (rm : Rm) (x : Nat × Nat × Nat) : Rd (List Nat × Nat) := do
  let rows ← (List.range 32).mapM fun i => do
    let vs ← (List.range 32).mapM fun j => do
      let (code, sc) ← r.elem s [x.2.1 + i, x.2.2 + j, 0, 0]
      .ok (blockElem (fmtOfCode (dFmt s)) code sc)
    .ok (rebuildRow d rm (x.2.1 + i) x.2.2 vs)
  .ok (wrEnts x.1 (rows.flatMap Prod.fst), rows.foldl (fun f y => f ||| y.2) 0)

/-- The blocks of an MRQT from number n on, numbered. -/
def rebuildLeft (d n : Nat) : List (Nat × Nat × Nat) :=
  let bs := rebuildBlocks d
  ((List.range bs.length).zip bs).drop n

/-- Bindings of an MRQT: source and destination. -/
def Core.rebuildPair (c : Core) (m : Cmd) (dn : Nat) : Nat × Nat := (c.me.bindAt dn, c.me.bindAt (fld (m.val 0) 3 3))

/-- Rebuilds block x of a command, whose writes are then to be made. -/
def Core.rebuildOne (c : Core) (m : Cmd) (d s : Nat) (x : Nat × Nat × Nat) : Rd Core := do
  let v := m.val 0
  let (es, fl) ← (⟨c, 16, false⟩ : Rdr).rebuild d s (rmxMode (c.stream 16) (bit v 2) (fld v 0 2)) x
  .ok (c.updCmd 16 m.idx fun y => { y with aux := y.aux ++ es, stage := y.stage ||| fl, pos := x.1 + 1 })

/-- MRQT at its start (R394). A local source is read whole then, as it stands. -/
def Core.beginRqt (c : Core) (clk : Nat) (m : Cmd) (dn : Nat) : Except Trap Core :=
  let (d, s) := c.rebuildPair m dn
  if !rebuildOk d s then .error (0x0D, 0)
  else
    let ws := (rebuildBlocks d).flatMap fun b => (List.range 32).flatMap fun i =>
      (rebuildRow d .rne (b.1 + i) b.2 (List.replicate 32 (.fin false 0 0))).1
    match wrCheck (c.job (c.stream 16).job) (dSpace d) ws with
    | some e => .error e
    | none =>
      let c1 := c.began clk 16 m id
      if dSpace s = 1 then
        match (rebuildLeft d 0).foldlM (fun c x => c.rebuildOne m d s x) c1 with
        | .ok c2 => .ok c2
        | .error (.trap a st) => .error (a, st)
        | .error (.need _ _) => .ok c1
      else .ok c1

/-- The slots of a tile by rising number. -/
def dcAll (v : Nat) : List Nat := (dcSlots v).flatten

/-- A command at its start, once its wait has passed. -/
def Core.meBegin (c : Core) (clk : Nat) (m : Cmd) : Except Trap Core :=
  match m.instr with
  | .mtws _ _ _ _ => c.beginBind clk m 0
  | .midx _ _ _ _ => c.beginBind clk m 1
  | .mnms _ _ _ _ => c.beginBind clk m 2
  | .mgo _ _ halt => c.beginGo clk m halt
  | .mrst _ _ _ halt => c.beginRst clk m halt
  | .mdrn _ _ d _ => c.beginDrain clk m d
  | .mbyp _ _ _ => c.beginByp clk m
  | .mrqt _ _ d _ => c.beginRqt clk m d
  | .mrpr _ _ _ f => .ok (c.began clk 16 m fun x => { x with aux := [if f then c.me.faultaddr else c.me.prog] })
  | _ => if dcFits (m.val 0) then .ok (c.began clk 16 m id) else .error (0x0C, 5)

/-- Commands that may start while HALT is set (R376, R383). -/
def haltMay : Instr → Bool
  | .mtws _ _ _ _ => true
  | .mgo _ _ _ => true
  | .mrpr _ _ _ _ => true
  | .mrst _ _ _ _ => true
  | _ => false

/-- Starts the command at the head of ME's queue if it may start (R381, R383). -/
def Core.startMe (c : Core) (cid clk : Nat) : Core :=
  match (c.stream 16).cmds with
  | [] => c
  | m :: _ =>
    if m.started || clk < c.me.ready || !c.mayStart 16 || !c.waitOk 16 m then c
    else
      let c1 := c.passWait cid 16 m true
      if progHalt c.me.prog && !haltMay m.instr then c1.cmdTrap clk 16 m (0x0C, 3)
      else
        match c1.meBegin clk m with
        | .ok c2 => c2
        | .error t => c1.cmdTrap clk 16 m t

/-! ### What works and completes -/

/-- What a clock of a command's work comes to. -/
inductive Work where
  | more (c : Core)
  | done (c : Core)
  | trap (t : Trap)
  deriving DecidableEq, Repr

/-- Writes up to n lines of a drain or rebuild in order (R391); a byte with one nibble written is read and written back
whole (R188). -/
def Core.drainLines (c : Core) (w : Sender) (space : Nat) : Nat → List Nat → Core × List Nat × Option Trap
  | 0, es => (c, es, none)
  | _ + 1, [] => (c, [], none)
  | n + 1, e :: es =>
    let (now, rest) := (e :: es).span fun x => wrKey x / 64 = wrKey e / 64
    if space = 1 then
      let c1 := now.foldl (fun c x =>
        c.spadWrite 4 (wrAddr x) [BitVec.ofNat 8 (((c.spadByte (wrAddr x)).toNat &&& (255 - wrMask x)) + wrVal x)]) c
      c1.drainLines w space n rest
    else
      let line := wrAddr e / 64 * 64
      let part := now.any fun x => wrMask x != 255
      match (if part then c.cmdAsk w (wrAddr e) else CAcc.ok c 0) with
      | .trap a st => (c, e :: es, some (a, st))
      | .wait c1 => (c1, e :: es, none)
      | .ok c1 pa =>
        let old := if part then (mlook (lineOf pa) c1.rb).getD [] else []
        let data := (List.range 64).map fun i =>
          match now.find? fun x => wrAddr x = line + i with
          | some x => BitVec.ofNat 8 (((old.getD i 0).toNat &&& (255 - wrMask x)) + wrVal x)
          | none => 0
        let mask := now.foldl (fun m x => m + 2 ^ (wrAddr x - line)) 0
        match c1.cmdWriteMask w (wrAddr e) mask data with
        | .trap a st => (c1, e :: es, some (a, st))
        | .wait c2 => (c2, e :: es, none)
        | .ok c2 _ => c2.drainLines w space n rest

/-- One clock of a drain's or rebuild's writes: 16 lines of blocks that are ready, up to one that has to be held. The lines before one
that fails are written. -/
def Core.drainClock (c : Core) (cid clk : Nat) (m : Cmd) (d : Nat) (held : Nat → Bool) : Work :=
  match m.aux with
  | [] => if c.writesOut 16 m then .done c else .more c
  | _ :: _ =>
    let (es, later) := m.aux.span fun x => m.at_ + 4 * (wrBlk x + 1) ≤ clk && !held (wrAddr x)
    let (c1, rest, t) := c.drainLines (c.cmdSender cid 16 clk m) (dSpace d) 16 es
    let c2 := c1.updCmd 16 m.idx fun x => { x with aux := rest ++ later }
    match t with
    | some t => if rest.length < es.length then .more c2 else .trap t
    | none => if (rest ++ later).isEmpty && c2.writesOut 16 m then .done c2 else .more c2

/-- The next block of an MRQT whose source is in device memory: rebuilt once its lines are there, while those of later blocks are asked
for; or the trap it meets. -/
def Core.rebuildRead (c : Core) (w : Sender) (m : Cmd) (d s : Nat) : Core × Option Trap :=
  match rebuildLeft d m.pos with
  | [] => (c, none)
  | x :: r =>
    match c.askReads w (rebuildReads s x.2) with
    | .fault n va => (c, some (n, addrStatus va))
    | .trap a st => (c, some (a, st))
    | .wait c1 => (c1, none)
    | .ok c1 =>
      match c1.rebuildOne m d s x with
      | .error (.trap a st) => (c1, some (a, st))
      | .error (.need _ _) => (c1, none)
      | .ok c2 =>
        match c2.askReads w (r.flatMap fun y => rebuildReads s y.2) with
        | .wait c3 => (c3, none)
        | .ok c3 => (c3, none)
        | .fault _ va => (c2.cmdNeed w.key w.cmd va, none)
        | .trap _ _ => (c2, none)

/-- One clock of an MRQT (R394): blocks are read and written in order, a write over source bytes that are still to be read is held, and a
fault is met once the blocks before it have been written. -/
def Core.rebuildClock (c : Core) (cid clk : Nat) (m : Cmd) (dn : Nat) : Work :=
  let (d, s) := c.rebuildPair m dn
  let (c1, t) := c.rebuildRead (c.cmdSender cid 16 clk m) m d s
  let m1 := ((c1.stream 16).cmd m.idx).getD m
  let left := rebuildLeft d m1.pos
  let held := fun (a : Nat) => dSpace d = dSpace s && left.any fun x => (rebuildReads s x.2).any fun r =>
    r.addr ≤ (a : Int) && (a : Int) < r.addr + r.n
  if left.isEmpty then c1.drainClock cid clk m1 d held
  else
    match m1.aux, t with
    | [], some t => .trap t
    | [], none => .more c1
    | _ :: _, _ =>
      match c1.drainClock cid clk m1 d held with
      | .done c2 => .more c2
      | .more c2 => .more c2
      | .trap t => .trap t

/-- One clock of a started command that runs no nest. -/
def Core.meWork (c : Core) (cid clk : Nat) (m : Cmd) : Work :=
  let bind := fun d => if clk < m.at_ + 4 then Work.more c
    else .done (c.updMe fun e => { e with bind := mput 0 d (m.aux.headD 0) e.bind })
  match m.instr with
  | .mtws _ _ d _ => bind d
  | .midx _ _ d _ => bind d
  | .mnms _ _ d _ => bind d
  | .mdrn _ _ d _ => c.drainClock cid clk m (c.me.bindAt d) fun _ => false
  | .mrqt _ _ d _ => c.rebuildClock cid clk m d
  | .mbyp _ _ _ =>
    if clk < m.at_ + 4 + (dcMr (m.val 0) * dcNc (m.val 0) + 1023) / 1024 then .more c
    else .done (c.updMe fun e => { e with bypass := some m.bypass })
  | .mzero _ _ _ =>
    if clk < m.at_ + 1 then .more c else .done (c.accWriteAll 4 ((dcAll (m.val 0)).map fun k => (k, 0)))
  | _ => if clk < m.at_ + 1 then .more c else .done c

/-- One clock of the started command i of ME, and its completion (R381). -/
def Core.meClock (c : Core) (cid clk i : Nat) : Core :=
  match (c.stream 16).cmd i with
  | none => c
  | some m =>
    if !m.started then c
    else if m.finished || m.isNest then c.endMe clk i
    else
      match c.meWork cid clk m with
      | .more c1 => c1
      | .trap t => { c with rbErr := [] }.cmdTrap clk 16 m t
      | .done c1 => (c1.updCmd 16 i fun x => { x with finished := true, pos := clk }).endMe clk i

/-! ### Issue (R384, R387) -/

/-- MTW (R387): it waits while an MGO has not started, or has started in this very clock. Dword 0 with RMX = 0 and a nonzero RM breaks
R383. -/
def execMtw (h : Head) (a b : Nat) (s : State) : Host.Outcome State Fault Refusal :=
  runC s h fun c =>
    let k := s.cur.key
    let t := c.stream k
    let i := (t.getX a).toNat
    let v := (t.getX b).toNat
    let isGo := fun (x : Instr) => match x with
      | .mgo _ _ _ => true
      | _ => false
    if 21 < i || v &&& ntReserved i != 0 || (i = 0 && !bit v 30 && fld v 28 2 != 0) then .trap 0x0C 3
    else if t.cmds.any fun m => isGo m.instr && (!m.started || m.at_ == s.cycles) then .stall c
    else .done (c.updStream k fun t => { t with me := { t.me with shadow := mput 0 i v t.me.shadow } }) .seq 1

/-- A command that is checked by the layout of its one register (R383). -/
def runLayout (s : State) (h : Head) (i : Instr) (b : Nat) (ok : Nat → Bool) : Host.Outcome State Fault Refusal :=
  runCmd s h i [b] fun _ j v => if ok (v.getD 0 0) then .ok (j, v) else .error (0x0C, 3)

def execMtws (h : Head) (k : KCtl) (d b : Nat) (s : State) : Host.Outcome State Fault Refusal :=
  runLayout s h (.mtws h k d b) b (· < 2 ^ 19)

def execMgo (h : Head) (k : KCtl) (halt : Bool) (s : State) : Host.Outcome State Fault Refusal :=
  runCmd s h (.mgo h k halt) [] fun _ j v => .ok (j, v)

def execMdrn (h : Head) (k : KCtl) (d b : Nat) (s : State) : Host.Outcome State Fault Refusal :=
  runLayout s h (.mdrn h k d b) b (dcOk 0)

def execMbyp (h : Head) (k : KCtl) (b : Nat) (s : State) : Host.Outcome State Fault Refusal :=
  runLayout s h (.mbyp h k b) b (dcOk 1)

def execMrqt (h : Head) (k : KCtl) (d b : Nat) (s : State) : Host.Outcome State Fault Refusal :=
  runLayout s h (.mrqt h k d b) b fun v => v < 2 ^ 6 && (bit v 2 || fld v 0 2 == 0)

def execMzero (h : Head) (k : KCtl) (b : Nat) (s : State) : Host.Outcome State Fault Refusal :=
  runLayout s h (.mzero h k b) b (dcOk 2)

def execMidx (h : Head) (k : KCtl) (d b : Nat) (s : State) : Host.Outcome State Fault Refusal :=
  runLayout s h (.midx h k d b) b fun v => fld v 19 13 == 0 && v < 2 ^ 35

def execMnms (h : Head) (k : KCtl) (d b : Nat) (s : State) : Host.Outcome State Fault Refusal :=
  runLayout s h (.mnms h k d b) b (· < 2 ^ 19)

def execMrpr (h : Head) (k : KCtl) (b : Nat) (fault : Bool) (s : State) : Host.Outcome State Fault Refusal :=
  runCmd s h (.mrpr h k b fault) [] fun _ j v => .ok (j, v)

def execMrst (h : Head) (k : KCtl) (b : Nat) (halt : Bool) (s : State) : Host.Outcome State Fault Refusal :=
  runCmd s h (.mrst h k b halt) [b] fun _ j v => .ok (j, v)

end Sys2Proof.Machine
end

