-- ==== Sys2Proof/Machine/Exchange.lean ====
section
/-!
DEFINITION. Sys2Proof/Machine/Exchange.lean: the exchange engine (R306 to R345): endpoint words and their checks, byte
barriers, the commands at issue, when they start, their copies, reductions and packets, and their completion.
-/

namespace Sys2Proof.Machine

/-! ### Operand words (R331) -/

def epSpace (w : Nat) : Nat := fld w 61 3
def epOp (w : Nat) : Nat := fld w 57 4
def epCh (w : Nat) : Nat := fld w 51 6
def epBben (w : Nat) : Bool := bit w 50
def epBb (w : Nat) : Nat := fld w 48 2
def epAddr (w : Nat) : Nat := fld w 0 48

/-- Whether a space is local storage. -/
def isLocal (sp : Nat) : Bool := 1 ≤ sp && sp ≤ 3

/-- Whether an endpoint word keeps its layout; red and key say that OP, and CH of a local end, are used. -/
def epOk (w : Nat) (dest red key : Bool) : Bool :=
  let sp := epSpace w
  sp ≤ 4 && (red || epOp w == 0) && (sp == 4 || epCh w == 0 || (key && isLocal sp)) && (epBben w || epBb w == 0)
    && !(epBben w && (!dest || sp == 0)) && !((sp == 1 || sp == 3) && 2 ^ 19 ≤ epAddr w) && !(sp == 2 && 2 ^ 20 ≤ epAddr w)

/-- Where a local or data space ends (R331, R332). -/
def spaceEnd (sp : Nat) : Nat := if sp = 0 then 2 ^ 48 else if sp = 2 then 2 ^ 20 else 2 ^ 19

/-! ### Channels (R309, R364, R404) -/

/-- The function a core belongs to (R405): 0 the physical function. -/
def State.fnOf (s : State) (cid : Nat) : Nat := ((List.range 17).find? fun v => v != 0 && bit (mget 0 s.partitions v) cid).getD 0

/-- Whether n bytes at offset a pass through host window w for a core (R404). -/
def State.windowOk (s : State) (cid w a n : Nat) : Bool :=
  let x := mget {} s.windows w
  bit x.ctl 63 && fld x.ctl 0 5 == s.fnOf cid && a + n ≤ x.size

/-- Whether a module-link entry's link is up and joined to the module it expects (R364). -/
def State.linkOk (s : State) (cp : Cap) : Bool :=
  let l := mget {} s.links cp.linkNo
  l.up && l.peer == cp.moduleNo

/-- The check of a far range of n bytes at offset a through a channel, in the order of R309. -/
def State.chanCheck (s : State) (cid : Nat) (b : Job) (ch : Nat) (kinds : List Nat) (perm : Cap → Bool) (a n sent : Nat) :
    Except Trap Cap :=
  let bad : Except Trap Cap := .error (0x0E, kindStatus 0 ch)
  match b.chan ch kinds perm with
  | .error t => .error t
  | .ok cp =>
    let fits := match cp.kind with
      | 3 => s.windowOk cid (fld cp.lo 0 6) a n
      | 4 => a + n ≤ fld cp.lo 48 16 * 2 ^ 16
      | 6 => s.linkOk cp && a + n ≤ cp.size
      | 0 => a + n ≤ cp.size
      | _ => true
    if !fits then bad
    else if !cp.covers sent then .error (0x0F, kindStatus 0 ch)
    else if cp.kind = 4 && 2 ^ 40 < fld cp.lo 0 48 + a + n then .error (0x0C, 5)
    else .ok cp

/-- A capability that an end does not have. -/
def noCap : Cap := ⟨0, 0⟩

/-- The checks of one end of a transfer of n bytes whose multiple is unit (R332): alignment, range, regions or channel. -/
def State.endCheck (s : State) (cid : Nat) (b : Job) (w n unit : Nat) (kinds : List Nat) (perm : Cap → Bool) :
    Except Trap Cap :=
  let a := epAddr w
  let sp := epSpace w
  if a % unit != 0 then .error (0x07, addrStatus a)
  else if sp = 4 then
    match s.chanCheck cid b (epCh w) kinds perm a n n with
    | .error t => .error t
    | .ok cp => if epBben w && cp.kind != 0 && cp.kind != 6 then .error (0x0C, 3) else .ok cp
  else if spaceEnd sp < a + n then .error (0x0C, 5)
  else if sp = 1 && !b.inRegions a n then .error (0x0E, kindStatus 3 0xFF)
  else .ok noCap

/-- A length word (R332). -/
def lenCheck (n unit : Nat) : Option Trap :=
  if n = 0 || 2 ^ 24 < n then some (0x0C, 3) else if n % unit != 0 then some (0x07, addrStatus n) else none

/-- Both ends of a transfer checked and charged; the command keeps the words, the length and the entries. dk, sk are the
channel kinds that the destination and the source may name, with the permission of the destination. -/
def State.transfer (s : State) (cid : Nat) (b : Job) (wd ws n unit : Nat) (dk sk : List Nat) (perm : Cap → Bool)
    (extra : List Nat) : Except Trap (Job × List Nat) :=
  match s.endCheck cid b wd n unit dk perm with
  | .error t => .error t
  | .ok cd =>
    let b1 := if epSpace wd = 4 then b.charge (epCh wd) n else b
    match s.endCheck cid b1 ws n unit sk Cap.send with
    | .error t => .error t
    | .ok cs =>
      let b2 := if epSpace ws = 4 then b1.charge (epCh ws) n else b1
      .ok (b2, [wd, ws, n, cd.hi, cd.lo, cs.hi, cs.lo] ++ extra)

/-- What a transfer keeps. -/
def Cmd.wd (m : Cmd) : Nat := m.val 0
def Cmd.ws (m : Cmd) : Nat := m.val 1
def Cmd.len (m : Cmd) : Nat := m.val 2
def Cmd.capD (m : Cmd) : Cap := ⟨m.val 3, m.val 4⟩
def Cmd.capS (m : Cmd) : Cap := ⟨m.val 5, m.val 6⟩

/-! ### Copies and reductions at issue (R336 to R338, R345) -/

/-- XCP (R336). -/
def execXcp (h : Head) (k : KCtl) (a b : Nat) (s : State) : Host.Outcome State Fault Refusal :=
  runCmd s h (.xcp h k a b) [a, b, b + 1] fun _ j v =>
    let wd := v.getD 0 0
    let ws := v.getD 1 0
    let n := v.getD 2 0
    if !epOk wd true false false || !epOk ws false false false then .error (0x0C, 3)
    else
      match lenCheck n 8 with
      | some t => .error t
      | none => s.transfer s.cur.core j wd ws n 8 [3, 4] [3, 4] Cap.send []

/-- XCPG (R337). -/
def execXcpg (h : Head) (k : KCtl) (a b : Nat) (s : State) : Host.Outcome State Fault Refusal :=
  runCmd s h (.xcpg h k a b) [a, b, b + 1] fun _ j v =>
    let wd := v.getD 0 0
    let ws := v.getD 1 0
    let n := v.getD 2 0
    if !epOk wd true false false || !epOk ws false false false || epSpace wd != 4 || epSpace ws == 4 then .error (0x0C, 3)
    else
      match lenCheck n 8 with
      | some t => .error t
      | none => s.transfer s.cur.core j wd ws n 8 [0, 6] [] Cap.send []

/-- Bytes of a reduce unit (R310). -/
def redUnit (op : Nat) : Nat := if [1, 3, 8, 9].contains op then 8 else 4

def opcXred : Nat := 0x42

/-- XRED (R338). -/
def execXred (h : Head) (k : KCtl) (a b : Nat) (s : State) : Host.Outcome State Fault Refusal :=
  runCmd s h (.xred h k a b) [a, b, b + 1] fun _ j v =>
    let wd := v.getD 0 0
    let ws := v.getD 1 0
    let n := v.getD 2 0
    if 10 ≤ epOp wd then .error (0x01, opcXred)
    else if !epOk wd true true false || !epOk ws false false false || epSpace wd != 4
        || !(epSpace ws == 1 || (epSpace ws == 2 && epOp wd == 3)) then .error (0x0C, 3)
    else
      match lenCheck n 8 with
      | some t => .error t
      | none =>
        match s.transfer s.cur.core j wd ws n 8 [0, 6] [] Cap.red [] with
        | .error t => .error t
        | .ok r =>
          -- the destination begins at BASE + ADDR, which is aligned to the unit as well (R310)
          if (Cap.mk (r.2.getD 3 0) (r.2.getD 4 0)).base % redUnit (epOp wd) != 0 then .error (0x07, addrStatus (epAddr wd)) else .ok r

/-- XKEY (R345): the key-slot channel stands in the local end's word. -/
def keyCheck (s : State) (j : Job) (v : List Nat) (enc : Bool) : Except Trap (Job × List Nat) :=
  let wd := v.getD 0 0
  let ws := v.getD 1 0
  let n := v.getD 2 0
  let loc := if enc then ws else wd
  let far := if enc then wd else ws
  let perm := if enc then Cap.send else Cap.repl
  if !epOk wd true false true || !epOk ws false false true || !isLocal (epSpace loc)
      || !(epSpace far == 0 || epSpace far == 4) then .error (0x0C, 3)
  else
    match lenCheck n 512 with
    | some t => .error t
    | none =>
      match s.chanCheck s.cur.core j (epCh loc) [5] perm 0 0 n with
      | .error t => .error t
      | .ok ck =>
        s.transfer s.cur.core (j.charge (epCh loc) n) wd ws n 512 [4] [4] Cap.send [v.getD 3 0, fld ck.lo 0 12]

def execXkeyEnc (h : Head) (k : KCtl) (a b : Nat) (s : State) : Host.Outcome State Fault Refusal :=
  runCmd s h (.xkeyEnc h k a b) [a, b, b + 1, b + 2] fun _ j v => keyCheck s j v true

def execXkeyDec (h : Head) (k : KCtl) (a b : Nat) (s : State) : Host.Outcome State Fault Refusal :=
  runCmd s h (.xkeyDec h k a b) [a, b, b + 1, b + 2] fun _ j v => keyCheck s j v false

/-! ### Barriers, signals, steps and planes at issue (R339 to R342) -/

/-- Whether a barrier word and its count keep their layout. -/
def barWordOk (w n : Nat) : Bool :=
  fld w 2 6 == 0 && fld w 9 7 == 0 && w < 2 ^ 22 && (bit w 8 || fld w 16 6 == 0) && 1 ≤ n && n < 2 ^ 47

/-- XEXP (R339): the group's number is kept, or 2^12 for none. -/
def execXexp (h : Head) (k : KCtl) (a b : Nat) (s : State) : Host.Outcome State Fault Refusal :=
  runCmd s h (.xexp h k a b) [a, b] fun _ j v =>
    let w := v.getD 0 0
    if !barWordOk w (v.getD 1 0) then .error (0x0C, 3)
    else if bit w 8 then
      match j.chan (fld w 16 6) [1] fun _ => true with
      | .error t => .error t
      | .ok cp => .ok (j, v ++ [fld cp.lo 0 12])
    else .ok (j, v ++ [2 ^ 12])

/-- XARV (R340): the words, then the destination's entry. -/
def execXarv (h : Head) (k : KCtl) (a b : Nat) (s : State) : Host.Outcome State Fault Refusal :=
  runCmd s h (.xarv h k a b) [a, b] fun _ j v =>
    let w := v.getD 0 0
    if !barWordOk w (v.getD 1 0) then .error (0x0C, 3)
    else if bit w 8 then
      match s.chanCheck s.cur.core j (fld w 16 6) [0, 6] Cap.sig 0 0 0 with
      | .error t => .error t
      | .ok cp => .ok (j, v ++ [0, cp.hi, cp.lo])
    else .ok (j, v ++ [0, 0, 0])

/-- XSIGR (R341). -/
def execXsigr (h : Head) (k : KCtl) (a b : Nat) (s : State) : Host.Outcome State Fault Refusal :=
  runCmd s h (.xsigr h k a b) [a, b] fun _ j v =>
    let w := v.getD 0 0
    let x := v.getD 1 0
    if 2 ^ 6 ≤ w || fld x 8 8 != 0 || 2 ^ 28 ≤ x || fld x 16 12 == 0 then .error (0x0C, 3)
    else
      match s.chanCheck s.cur.core j w [0, 6] Cap.sig 0 0 0 with
      | .error t => .error t
      | .ok cp => .ok (j, v ++ [0, cp.hi, cp.lo])

/-- Fields of a slot-table entry (R314). -/
def slValid (e : Nat) : Bool := bit e 127
def slGroup (e : Nat) : Nat := fld e 115 12
def slDest (e : Nat) : Nat := fld e 107 8
def slJslot (e : Nat) : Nat := fld e 104 3
def slBben (e : Nat) : Bool := bit e 103
def slBb (e : Nat) : Nat := fld e 101 2
/-- Units of 64 bytes. -/
def slUnits (e : Nat) : Nat := fld e 64 6 + 1
def slDst (e : Nat) : Nat := fld e 20 20
def slSrc (e : Nat) : Nat := fld e 0 20

/-- Slots of a core's active plane whose group is g, each as entry·2^6 + slot. -/
def Core.slotsOf (c : Core) (g : Nat) : List Nat :=
  ((List.range 64).map fun k => imgN c.active (200 + 2 * k) 2 * 2 ^ 6 + k).filter fun e =>
    slValid (e / 2 ^ 6) && slGroup (e / 2 ^ 6) == g

/-- XSTEP (R340): the slots are kept as they stand at issue. -/
def execXstep (h : Head) (k : KCtl) (a : Nat) (s : State) : Host.Outcome State Fault Refusal :=
  runCmd s h (.xstep h k a) [a] fun c j v =>
    let w := v.getD 0 0
    if 2 ^ 6 ≤ w then .error (0x0C, 3)
    else
      match j.chan w [1] Cap.send with
      | .error t => .error t
      | .ok cp =>
        let es := c.slotsOf (fld cp.lo 0 12)
        let n := lsum (es.map fun e => 64 * slUnits (e / 2 ^ 6))
        if es.any fun e => !j.inRegions (slSrc (e / 2 ^ 6)) (64 * slUnits (e / 2 ^ 6)) then .error (0x0E, kindStatus 3 0xFF)
        else if !cp.covers n then .error (0x0F, kindStatus 0 w)
        else .ok (j.charge w n, v ++ es)

/-- Size of the entries of a difference record from offset a, or the trap of a malformed or unreadable one (R319, R342). -/
def recEntries (c : Core) (b : Job) : Nat → Nat → Except Trap Nat
  | 0, _ => .ok 0
  | n + 1, a =>
    if 2 ^ 19 < a + 8 then .error (0x0C, 5)
    else if !b.inRegions a 8 then .error (0x0E, kindStatus 3 0xFF)
    else
      let e := leBytes (c.spadRead a 8)
      let ndw := fld e 16 9
      if fld e 12 4 != 0 || fld e 25 39 != 0 || fld e 0 12 % 8 != 0 || ndw = 0 || 332 < ndw || 2656 < fld e 0 12 + 8 * ndw then
        .error (0x0C, 3)
      else if 2 ^ 19 < a + 8 + 8 * ndw then .error (0x0C, 5)
      else if !b.inRegions (a + 8) (8 * ndw) then .error (0x0E, kindStatus 3 0xFF)
      else
        match recEntries c b n (a + 8 + 8 * ndw) with
        | .error t => .error t
        | .ok r => .ok (8 + 8 * ndw + r)

/-- The size of the difference record at offset a. -/
def recSize (c : Core) (b : Job) (a : Nat) : Except Trap Nat :=
  if a % 8 != 0 then .error (0x07, addrStatus a)
  else if 2 ^ 19 < a + 16 then .error (0x0C, 5)
  else if !b.inRegions a 16 then .error (0x0E, kindStatus 3 0xFF)
  else
    let bs := c.spadRead a 16
    let n := leBytes ((bs.drop 4).take 2)
    if n = 0 || 332 < n || leBytes (bs.drop 6) != 0 then .error (0x0C, 3)
    else
      match recEntries c b n (a + 16) with
      | .error t => .error t
      | .ok r => .ok (16 + r)

/-- The cores that a record of job slot j of core cid goes to: those with a member of the group, but the issuing core only for members
of its own job (R342). -/
def State.groupCores (s : State) (cid j g : Nat) : List Nat :=
  (((s.group g).members.filter fun m => m.1 != cid || ((s.core cid).stream m.2).job == j).map Prod.fst).eraseDups

/-- XPLN (R342): words, size, and the receiving cores. -/
def execXpln (h : Head) (k : KCtl) (a b : Nat) (s : State) : Host.Outcome State Fault Refusal :=
  runCmd s h (.xpln h k a b) [a, b] fun c j v =>
    let w := v.getD 0 0
    if 2 ^ 6 ≤ w then .error (0x0C, 3)
    else
      match j.chan w [1] Cap.send, recSize c j (v.getD 1 0) with
      | .error t, _ => .error t
      | .ok _, .error t => .error t
      | .ok cp, .ok n =>
        let cs := s.groupCores s.cur.core (c.stream s.cur.key).job (fld cp.lo 0 12)
        if !cp.covers (n * cs.length) then .error (0x0F, kindStatus 0 w)
        else .ok (j.charge w (n * cs.length), v ++ n :: cs)

/-! ### Carousel commands at issue (R323, R343, R344) -/

/-- The check of a tile word, with what the command is charged. -/
def tileCheck (c : Core) (j : Job) (w : Nat) (perm : Cap → Bool) (n : Nat) : Except Trap Job :=
  let ch := fld w 32 6
  let dom := fld w 24 8
  if 2 ^ 38 ≤ w then .error (0x0C, 3)
  else
    match j.chan ch [2] perm with
    | .error t => .error t
    | .ok cp =>
      if fld cp.lo 0 8 != dom || !c.domainOn dom then .error (0x0E, kindStatus 0 ch)
      else if !cp.covers n then .error (0x0F, kindStatus 0 ch)
      else .ok (j.charge ch n)

/-- A carousel command with its local 4 KiB. -/
def runTile (s : State) (h : Head) (i : Instr) (a b : Nat) (perm : Cap → Bool) (n : Nat) :
    Host.Outcome State Fault Refusal :=
  runCmd s h i [a, b] fun c j v =>
    let w := v.getD 1 0
    match tileCheck c j (v.getD 0 0) perm n with
    | .error t => .error t
    | .ok j1 =>
      if !epOk w false false false || !isLocal (epSpace w) then .error (0x0C, 3)
      else
        match s.endCheck s.cur.core j1 w 4096 64 [] Cap.send with
        | .error t => .error t
        | .ok _ => .ok (j1, v)

def execXbrd (h : Head) (k : KCtl) (a b : Nat) (s : State) : Host.Outcome State Fault Refusal :=
  runTile s h (.xbrd h k a b) a b Cap.send 4096
def execXalt (h : Head) (k : KCtl) (a b : Nat) (s : State) : Host.Outcome State Fault Refusal :=
  runTile s h (.xalt h k a b) a b (fun _ => true) 0
def execXrep (h : Head) (k : KCtl) (a b : Nat) (s : State) : Host.Outcome State Fault Refusal :=
  runTile s h (.xrep h k a b) a b Cap.repl 4096

def execXdrp (h : Head) (k : KCtl) (a b : Nat) (s : State) : Host.Outcome State Fault Refusal :=
  runCmd s h (.xdrp h k a b) [a] fun c j v => match tileCheck c j (v.getD 0 0) Cap.repl 0 with
    | .error t => .error t
    | .ok j1 => .ok (j1, v)

def execXqryPeek (h : Head) (k : KCtl) (a b : Nat) (s : State) : Host.Outcome State Fault Refusal :=
  runCmd s h (.xqryPeek h k a b) [a] fun c j v => match tileCheck c j (v.getD 0 0) (fun _ => true) 0 with
    | .error t => .error t
    | .ok j1 => .ok (j1, v)

/-- What XQRY.ring reports (R344). -/
def State.ringWord (s : State) (cid : Nat) : Nat :=
  s.ring.cur + bitN s.ring.pvalid * 2 ^ 3 + ringPos (dieOf cid) * 2 ^ 8 + s.ring.rc % 2 ^ 32 * 2 ^ 32

/-- XQRY.ring (R344): the register is written one clock after issue; with a wait, signal, acquire or release it takes its
turn in the queue with the value at issue. -/
def execXqryRing (h : Head) (k : KCtl) (b : Nat) (s : State) : Host.Outcome State Fault Refusal :=
  if k.wait.isNone && k.sig.isNone && !k.sync.acq && !k.sync.rel then
    runC s h fun c =>
      let key := s.cur.key
      .done { c with pending := c.pending ++ [⟨key, 1, .x b (word (s.ringWord s.cur.core)), 0, 1⟩] } .seq 1
  else runCmd s h (.xqryRing h k b) [] fun _ j _ => .ok (j, [s.ringWord s.cur.core])

/-! ### Byte barriers (R311 to R313) -/

def Core.barrier (c : Core) (i : Nat) : Barrier := mget {} c.barriers i
def Core.setBarrier (c : Core) (i : Nat) (b : Barrier) : Core := { c with barriers := mput {} i b c.barriers }

/-- The completion test of barrier i (R312): PHASE toggles, and the posting XEXP completes with its release and signal; an expectation
without its XEXP, as an image may hold one, signals by itself. late says that the clock's consumers have been tested. -/
def Core.barrierTest (c : Core) (clk i : Nat) (late : Bool) : Core :=
  let b := c.barrier i
  if !b.exp || b.balance != 0 then c
  else
    let c1 := c.setBarrier i { b with exp := false, phase := !b.phase, sigen := false, owner := none }
    match b.owner.bind fun o => ((c.stream o.1).cmd o.2).map fun m => (o.1, m) with
    | none =>
      match (if b.sigen then (c1.job (i / 4)).sem b.sem else none) with
      | none => c1
      | some a => if c1.semCount a + 1 < 2 ^ 32 then c1.setSem a (c1.semCount a + 1) else c1
    | some (k, m) =>
      if c1.cmdReleased k m then c1.completeCmd clk k m 0 none late
      else c1.updCmd k m.idx fun x => { x with finished := true }

/-- n bytes arrive at barrier bb of job slot j, counted from core src (R312, R142). -/
def Core.arrive (c : Core) (clk j bb n src : Nat) (late : Bool) : Core :=
  let i := 4 * j + bb
  let b := c.barrier i
  if b.balance - n < -(2 ^ 63) then
    c.recordTrap clk j ⟨0x11, 0, 0, 2 ^ 26 + src % 256 * 2 ^ 16 + bb, trapEng j 20⟩
  else (c.setBarrier i { b with balance := b.balance - n }).barrierTest clk i late

/-- A started XEXP posts its expectation, after the arrivals of its clock (R312, R339); stage says that it has. -/
def Core.postExp (c : Core) (clk k : Nat) (m : Cmd) (late : Bool) : Core :=
  let i := 4 * (c.stream k).job + fld (m.val 0) 0 2
  let b := c.barrier i
  if m.stage = 1 then c
  else if b.exp then c.cmdTrap clk k m (0x0C, 3)
  else
    let b1 := { b with
      balance := b.balance + m.val 1, exp := true, sigen := m.ctl.sig.isSome, sem := m.ctl.sig.getD 0
      owner := some (k, m.idx) }
    let b2 := if m.val 2 < 2 ^ 12 then { b1 with bound := true, group := m.val 2 } else b1
    ((c.updCmd k m.idx fun x => { x with stage := 1 }).setBarrier i b2).barrierTest clk i late

/-! ### Local ends (R331, R336) -/

/-- XE's rank among the engines of a core, and that of a packet applied to its scratchpad, which goes after every engine's writes
(DESIGN CHOICE, log 93). -/
def rankXe : Nat := 5
def rankPacket : Nat := 6

/-- Local storage as XE reads it in this clock: as it stood at the clock's start (R24), with what XE's own commands have written
in it, which a command they held back follows (R307). -/
def xeView {α : Type} [DecidableEq α] (blank : α) (prev : List (Nat × α × Nat)) (m : SMap α) : SMap α :=
  (prev.filter fun p => p.2.2 == rankXe).foldl (fun o p => mput blank p.1 (mget blank m p.1) o)
    (prev.foldl (fun o p => mput blank p.1 p.2.1 o) m)

/-- n bytes of local storage from offset a as XE reads them in this clock, by offset from a. -/
def Core.localRead (c : Core) (sp a n : Nat) : SMap Byte :=
  let cut := fun (m : SMap Byte) => (m.filter fun e => a ≤ e.1 && e.1 < a + n).map fun e => (e.1 - a, e.2)
  match sp with
  | 1 => cut (xeView Memory.blank c.prev c.spad)
  | 2 =>
    ((xeView 0 c.prevAcc c.acc).filter fun e => a / 8 ≤ e.1 && e.1 < (a + n) / 8).flatMap fun e =>
      ((List.range 8).map fun i => (8 * e.1 + i - a, BitVec.ofNat 8 (e.2 / 2 ^ (8 * i)))).filter fun b => b.2 != 0
  | _ => cut (xeView Memory.blank c.prevLane c.lane)

/-- Bytes written to local storage in one clock at a rank (R24, R202); slots take bits 56 to 0 (R336). -/
def Core.localWrite (c : Core) (rank sp a : Nat) (bs : List Byte) : Core :=
  match sp with
  | 1 => c.spadWrite rank a bs
  | 2 =>
    c.accWriteAll rank ((List.range (bs.length / 8)).map fun i => (a / 8 + i, rawSlot (leBytes ((bs.drop (8 * i)).take 8))))
  | _ => c.laneWrite rank (atAddr a bs)

/-- The first n bytes a command holds. -/
def Cmd.bytes (m : Cmd) (n : Nat) : List Byte := mreads Memory.blank (List.range n) m.data

/-! ### What a command declares (R307, R334) -/

/-- A declared range: space, first byte, length and whether it is written. -/
structure Range where
  space : Nat
  a : Nat
  n : Nat
  write : Bool
  deriving DecidableEq, Repr

def endRange (w n : Nat) (write : Bool) : List Range := if isLocal (epSpace w) then [⟨epSpace w, epAddr w, n, write⟩] else []

/-- The ranges of local storage that a command declares. -/
def Cmd.ranges (m : Cmd) : List Range :=
  let both := endRange m.ws m.len false ++ endRange m.wd m.len true
  match m.instr with
  | .xcp .. => both
  | .xkeyEnc .. => both
  | .xkeyDec .. => both
  | .xcpg .. => endRange m.ws m.len false
  | .xred .. => endRange m.ws m.len false
  | .xstep .. => (m.vals.drop 1).map fun e => ⟨1, slSrc (e / 2 ^ 6), 64 * slUnits (e / 2 ^ 6), false⟩
  | .xpln .. => [⟨1, m.val 1, m.val 2, false⟩]
  | .xbrd .. => endRange (m.val 1) 4096 false
  | .xrep .. => endRange (m.val 1) 4096 false
  | .xalt .. => endRange (m.val 1) 4096 true
  | _ => []

/-- Whether two commands may not overlap. -/
def Cmd.clash (m n : Cmd) : Bool :=
  m.ranges.any fun a => n.ranges.any fun b => a.space == b.space && overlaps a.a a.n b.a b.n && (a.write || b.write)

/-- Whether a command's acquire point comes at a passage (R64, R344). -/
def Instr.acqLate : Instr → Bool
  | .xalt _ _ _ _ => true
  | .xqryPeek _ _ _ _ => true
  | _ => false

/-- Whether a command's acquire passes later than its start: no later command starts before it (R59). -/
def Cmd.acqWaits (m : Cmd) : Bool := m.ctl.sync.acq && Instr.acqLate m.instr

/-- Whether a command starts only when all earlier ones of its stream have completed (R59, R313). -/
def Cmd.alone (m : Cmd) : Bool :=
  m.ctl.sync.acq
    || (match m.instr with
        | .xarv _ _ _ _ => true
        | _ => false)

/-- The command that stream k of XE may start next, apart from its wait (R306, R307). -/
def Core.admits (c : Core) (k : Nat) : Option Cmd :=
  let t := c.stream k
  let run := t.cmds.filter Cmd.started
  match t.nextCmd with
  | none => none
  | some m =>
    if c.mayStart k && run.length < 8 && !(m.alone && !run.isEmpty) && !run.any Cmd.acqWaits && !run.any m.clash then some m else none

/-! ### Packets of commands (R337, R338, R349, R365) -/

/-- The router at which host traffic of a core leaves (R402), and which host's memory it reaches. -/
def State.hostLink (s : State) (cid : Nat) : Nat := if s.bifur = 1 && 128 ≤ cid then 1 else 0
def hostRouter (link : Nat) : Nat := if link = 1 then 240 else 0

/-- Sends a packet to a core of this module or, through a module-link entry, of the peer, by way of the stream's drain buffer (R50). A
packet for the peer travels to the die that ends the link, and its arguments begin with the peer core. -/
def Core.sendCore (c : Core) (own : Nat) (w : Sender) (cp : Cap) (p : Packet) (purpose : Purpose) : Core :=
  let q := { p with djslot := cp.jslot }
  if cp.kind = 6 then
    let d := linkDie cp.linkNo
    c.drainPacket w { q with dest := 16 * d, xmod := xmodOf own cp.moduleNo cp.linkNo, space := 3, args := cp.coreNo :: p.args } purpose d
      (some cp.linkNo)
  else c.drainPacket w { q with dest := cp.coreNo } purpose (dieOf cp.coreNo) none

/-- Arguments of a packet that counts on a barrier. -/
def bbArgs (w : Nat) : List Nat := if epBben w then [epBb w] else []

/-! ### Transfers (R332, R333, R336 to R338, R345)

A transfer reads its whole source before it writes anything (R332). It keeps in stage the offset asked for next, in pos the offset
written next, and in aux the places of its windows, its key, the lines that one packet of it carries and, once a line has failed,
the cause, TRAP_STATUS and offset of the failure. -/

/-- Whether an end lies beyond the core and is reached by lines: device memory, or a window. -/
def byLines (w : Nat) (cp : Cap) : Bool := epSpace w == 0 || (epSpace w == 4 && (cp.kind == 3 || cp.kind == 4))

/-- Bytes from offset pos to the end of the line that an end's address lies in. -/
def lineRest (w pos : Nat) : Nat := 64 - (epAddr w + pos) % 64

/-- A window's place as it stood at the start. -/
def Cmd.winD (m : Cmd) : Nat := m.aux.getD 0 0
def Cmd.winS (m : Cmd) : Nat := m.aux.getD 1 0
/-- The key of an XKEY, plus one; 0 for the others. -/
def Cmd.key? (m : Cmd) : Nat := m.aux.getD 2 0
/-- The lines of one packet to a core: the spec fixes one line at a time for accesses of memory, and shows both packets of one line and
packets of 64 lines for the others (R349; a free value, log 94). -/
def Cmd.lines (m : Cmd) : Nat := m.aux.getD 3 1
/-- The failure of a line: cause, TRAP_STATUS and offset. -/
def Cmd.fail? (m : Cmd) : Option (Nat × Nat × Nat) :=
  if m.aux.length = 7 then some (m.aux.getD 4 0, m.aux.getD 5 0, m.aux.getD 6 0) else none

/-- The bytes that a transfer still moves: those before a line that has failed (R333). -/
def Cmd.limit (m : Cmd) : Nat := (m.fail?.map fun f => f.2.2).getD m.len

/-- A transfer whose line at offset pos has failed; the first failing line counts. -/
def Cmd.failAt (m : Cmd) (t : Trap) (pos : Nat) : Cmd :=
  if m.limit ≤ pos && m.fail?.isSome then m else { m with aux := m.aux.take 4 ++ [t.1, t.2, pos] }

/-- Bytes of the piece that a transfer writes at offset pos. -/
def Cmd.piece (m : Cmd) (pos : Nat) : Nat :=
  min (m.limit - pos) (if byLines m.wd m.capD then lineRest m.wd pos else 64 * m.lines)

/-- Whether the source lies beyond the core. -/
def Cmd.farSrc (m : Cmd) : Bool := !isLocal (epSpace m.ws)

/-- Requests the source line at offset pos, after the accesses of earlier commands to it (R51). -/
def Core.xeRead (c : Core) (w : Sender) (m : Cmd) (link pos : Nat) : CAcc :=
  let n := min (m.len - pos) (lineRest m.ws pos)
  let a := epAddr m.ws + pos
  let ask := fun (c : Core) (pa : Nat) =>
    match c.sendLine w .read vcBulk (pa - pa % 64) (2 ^ 64 - 1) [] (.cmd w.key m.idx pos) with
    | none => CAcc.wait c
    | some c1 => .ok (c1.cmdMet w.key m.idx) pa
  if c.cmdsHold w.key m.idx a true then .wait c
  else if epSpace m.ws = 0 then
    match c.cmdXlat w.key m.idx a false with
    | .ok c1 pa => ask (c1.cmdNeed w.key m.idx a) pa
    | .wait c1 => .wait c1
    | .trap x st => .trap x st
  else if m.capS.kind = 4 then ask c (fld m.capS.lo 0 48 + a)
  else
    let r := hostRouter link
    let p := { blankPacket with
      kind := .read, dest := r, vc := vcBulk, addr := m.winS + a, space := 1, args := [n], tag := c.nextQ % 8 }
    .ok (c.post w p (.cmd w.key m.idx pos) (dieOf r) none none) 0

/-- The kind, channel and reduce code of a transfer's packets to a core. -/
def Cmd.corePacket (m : Cmd) : Packet :=
  match m.instr with
  | .xred .. => { blankPacket with kind := .reduce, vc := 3, op := epOp m.wd }
  | _ => { blankPacket with kind := .write, vc := vcBulk }

/-- Sends the piece at offset pos to its far destination, after the accesses of earlier commands to it (R51). -/
def Core.xeWrite (c : Core) (own : Nat) (w : Sender) (m : Cmd) (link pos : Nat) (bs : List Byte) : CAcc :=
  let a := epAddr m.wd + pos
  if byLines m.wd m.capD && c.cmdsHold w.key m.idx a true then .wait c
  else if epSpace m.wd = 0 then c.cmdWrite w a bs
  else
    match m.capD.kind with
    | 4 => .ok (c.drainLine w (fld m.capD.lo 0 48 + a) (maskAt (a % 64) bs.length) (lineData (a % 64) bs)) 0
    | 3 =>
      let r := hostRouter link
      let p := { blankPacket with kind := .write, dest := r, vc := vcBulk, addr := m.winD + a, space := 1, data := bs }
      .ok (c.drainPacket w p .host (dieOf r) none) 0
    | _ =>
      let p := { m.corePacket with addr := m.capD.base + a, data := bs, args := bbArgs m.wd }
      .ok (c.sendCore own w m.capD p (.write w.key)) 0

/-- Whether the source has come as far as the transfer moves it. -/
def Core.sourceHere (c : Core) (k : Nat) (m : Cmd) : Bool :=
  !m.farSrc || (m.limit ≤ m.stage && !(c.reqs.any fun r => match r.purpose with
    | .cmd key i p => key == k && i == m.idx && p < m.limit
    | _ => false))

/-- Bytes decrypted from the start of a fill; a unit that is not whole decrypts block by block (R333). -/
def Cmd.plain (m : Cmd) (n : Nat) : List Byte :=
  let bs := m.bytes n
  match m.instr with
  | .xkeyDec .. => (xtsUnits false (m.key? - 1) (m.val 7) (bs ++ List.replicate ((512 - n % 512) % 512) 0)).take n
  | _ => bs

/-- The local end of a transfer as it completes or stops: written, and counted where BBEN says so. -/
def Core.landLocal (c : Core) (cid clk k : Nat) (m : Cmd) : Core :=
  let n := m.limit
  if !isLocal (epSpace m.wd) || n = 0 then c
  else
    let c1 := c.localWrite rankXe (epSpace m.wd) (epAddr m.wd) (m.plain n)
    if epBben m.wd then c1.arrive clk (c.stream k).job (epBb m.wd) n cid false else c1

/-- The read of a transfer's next source line. -/
def Core.readClock (c : Core) (w : Sender) (m : Cmd) (link : Nat) : Core :=
  if !m.farSrc || m.limit ≤ m.stage then c
  else
    match c.xeRead w m link m.stage with
    | .ok c1 _ => c1.updCmd w.key m.idx fun x => { x with stage := m.stage + lineRest m.ws m.stage }
    | .wait c1 => c1
    | .trap a st => c.updCmd w.key m.idx fun x => x.failAt (a, st) m.stage

/-- The write of a transfer's next piece. -/
def Core.writeClock (c : Core) (own : Nat) (w : Sender) (m : Cmd) (link : Nat) : Core :=
  let n := m.piece m.pos
  let step := fun (c : Core) => c.updCmd w.key m.idx fun x => { x with pos := m.pos + n }
  if m.limit ≤ m.pos then c
  else if isLocal (epSpace m.wd) then step c
  else
    match c.xeWrite own w m link m.pos ((m.bytes (m.pos + n)).drop m.pos) with
    | .trap a st => c.updCmd w.key m.idx fun x => x.failAt (a, st) m.pos
    | .wait c1 => c1
    | .ok c1 _ => step c1

/-- The end of a transfer that has written as much as it moves: it completes once its writes are out, or stops at the line that failed,
the lines before which have been written (R306, R333). -/
def Core.transferEnd (c : Core) (cid clk k : Nat) (m : Cmd) : Work :=
  match m.fail? with
  | some f => .done ((c.landLocal cid clk k m).cmdTrap clk k m (f.1, f.2.1))
  | none => if c.writesOut k m then .done (c.landLocal cid clk k m) else .more c

/-- One clock of a transfer. -/
def Core.transferClock (c : Core) (own cid clk k : Nat) (m : Cmd) (link : Nat) : Work :=
  let w := c.cmdSender cid k clk m
  let now := fun (c : Core) => ((c.stream k).cmd m.idx).getD m
  let c1 := c.readClock w m link
  let m1 := now c1
  if !c1.sourceHere k m1 then .more c1
  else
    let c2 := c1.writeClock own w m1 link
    let m2 := now c2
    if m2.limit ≤ m2.pos then c2.transferEnd cid clk k m2 else .more c2

/-- A transfer at its start: a local source is read whole (R332), an XKEY takes its key (R345), a window its place (R404), and a free
value says how many lines its packets to a core carry (log 94). -/
def State.beginTransfer (s : State) (cid k : Nat) (m : Cmd) : Except Trap Core :=
  let c := s.core cid
  let win := fun (w : Nat) (cp : Cap) => epSpace w == 4 && cp.kind == 3
  let place := fun (w : Nat) (cp : Cap) => if win w cp then
      2 ^ 64 * s.hostLink cid + (mget {} s.windows (fld cp.lo 0 6)).addr else 0
  let gone := fun (w : Nat) (cp : Cap) => win w cp && !s.windowOk cid (fld cp.lo 0 6) (epAddr w) m.len
  let src := if m.farSrc then [] else c.localRead (epSpace m.ws) (epAddr m.ws) m.len
  let start := fun (key : Nat) (data : SMap Byte) => c.began s.cycles k m fun x => { x with
    aux := [place m.wd m.capD, place m.ws m.capS, key, 1 + Config.freeNat (2 ^ 70 + (s.cycles * 256 + cid) * 32 + k) % 64], data := data }
  if gone m.wd m.capD then .error (0x0E, kindStatus 0 (epCh m.wd))
  else if gone m.ws m.capS then .error (0x0E, kindStatus 0 (epCh m.ws))
  else
    let keyed := fun (go : Nat → Core) => match mget none (s.die (dieOf cid)).keys (m.val 8) with
      | none => Except.error (0x12, 4)
      | some key => .ok (go key)
    match m.instr with
    | .xkeyEnc .. => keyed fun key =>
      let bs := mreads Memory.blank (List.range m.len) src
      let out := xtsUnits true key (m.val 7) bs
      start (key + 1) (mbulk Memory.blank ((List.range out.length).zip out) [])
    | .xkeyDec .. => keyed fun key => start (key + 1) []
    | _ => .ok (start 0 src)

/-! ### Signals, steps and planes once started (R315, R319, R341) -/

/-- The signal of an XSIGR leaves once its release is complete; pos says that it has left. -/
def Core.sigrClock (c : Core) (own cid clk k : Nat) (m : Cmd) : Core :=
  if m.pos = 1 || !c.cmdReleased k m then c
  else
    let x := m.val 1
    let p := { blankPacket with kind := .signal, vc := 3, args := [fld x 0 8, fld x 16 12] }
    (c.sendCore own (c.cmdSender cid k clk m) m.capD p (.signal k m.idx)).updCmd k m.idx fun x => { x with pos := 1 }

/-- The arrival of an XARV is applied, or leaves, once its release is complete (R58, R313). -/
def Core.arvClock (c : Core) (own cid clk k : Nat) (m : Cmd) (late : Bool) : Core :=
  if m.finished || !c.cmdReleased k m then c
  else
    let bb := fld (m.val 0) 0 2
    let c1 := c.updCmd k m.idx fun x => { x with finished := true, pos := clk }
    if bit (m.val 0) 8 then
      let p := { blankPacket with kind := .arrival, vc := 3, args := [bb, m.val 1] }
      c1.sendCore own (c.cmdSender cid k clk m) m.capD p (.write k)
    else c1.arrive clk (c.stream k).job bb (m.val 1) cid late

/-- Whether slot e's window opens in clock clk for a step started at clock at_ (R314, R315). -/
def slotOpen (clk at_ e : Nat) : Bool := clk % 16 == 0 && clk % 1024 / 16 == e % 2 ^ 6 && at_ + 4 ≤ clk

/-- The packet of a slot, with its data as they stand as its window opens (R315; DESIGN CHOICE, log 95). -/
def Core.slotPacket (c : Core) (d : Nat) : Packet :=
  { blankPacket with
    kind := .write, dest := slDest d, djslot := slJslot d, vc := vcBulk, addr := slDst d
    data := c.spadRead (slSrc d) (64 * slUnits d), args := if slBben d then [slBb d] else [] }

/-- One clock of an exchange step: every slot whose window opens enters P(c). -/
def Core.stepClock (c : Core) (cid clk k : Nat) (m : Cmd) : Core :=
  let go := m.aux.filter (slotOpen clk m.at_)
  (go.foldl (fun c e =>
    let d := e / 2 ^ 6
    c.post (c.cmdSender cid k clk m) { c.slotPacket d with tag := c.nextQ % 8 } (.write k) (dieOf (slDest d)) none none) c).updCmd k m.idx
      fun x => { x with aux := m.aux.filter fun e => !slotOpen clk m.at_ e }

/-- SLOT_WINDOW_SEND (R315): the started exchange steps of stream k of core c send in this clock. -/
def execSlotWindowSend (c k : Nat) (s : State) : Host.Outcome State Fault Refusal :=
  let go := fun (x : Core) =>
    ((x.stream k).cmds.filter fun m => m.started && (match m.instr with
      | .xstep _ _ _ => true
      | _ => false)).foldl (fun x m => x.stepClock c s.cycles k m) x
  .next (if (s.core c).frozen then s else s.updCore c go)

/-- The pieces of a record of n bytes, 4 KiB at most: offset and length of each. -/
def recordPieces (n : Nat) : List (Nat × Nat) := (List.range ((n + 4095) / 4096)).map fun i => (4096 * i, min 4096 (n - 4096 * i))

/-- A record as it leaves for one core: a packet for each 4 KiB (R349), which name the command, and of which the last is answered. -/
def Core.sendRecord (c : Core) (w : Sender) (d : Nat) (bs : List Byte) : Core :=
  (recordPieces bs.length).foldl (fun c p =>
    let last := p.1 + p.2 == bs.length
    c.drainPacket w (sysPacket .plane d 0 0 ((bs.drop p.1).take p.2) [w.key + 32 * w.cmd, bitN last])
      (if last then .plane w.key w.cmd else .write w.key) (dieOf d) none) c

/-- The records of an XPLN leave, one to every core (R319). -/
def Core.sendPlanes (c : Core) (cid clk k : Nat) (m : Cmd) : Core :=
  (m.vals.drop 3).foldl (fun x d => x.sendRecord (c.cmdSender cid k clk m) d (c.spadRead (m.val 1) (m.val 2))) c

/-- Status of an XPLN (R342) from the answers kept in aux: 0 applied, 1 held, 2 rolled back. -/
def planeStatus (as_ : List Nat) : Nat :=
  let n := fun v => (as_.filter (· == v)).length
  n 0 + n 1 * 2 ^ 16 + n 2 * 2 ^ 32

/-! ### Starting (R306, R343) -/

/-- A status word (R335). -/
def statusWord (code ver rc : Nat) : Nat := code * 2 ^ 16 + ver % 2 ^ 16 + rc % 2 ^ 32 * 2 ^ 32

/-- A command of XE at its start, once its wait has passed. A carousel command keeps in stage the first clock at which a
passage can suit it. -/
def State.xeBegin (s : State) (cid k : Nat) (m : Cmd) (late : Bool) : Except Trap Core :=
  let c := s.core cid
  let clk := s.cycles
  let tile := fun (m : Cmd) => c.localRead (epSpace (m.val 1)) (epAddr (m.val 1)) 4096
  match m.instr with
  | .xcp .. => s.beginTransfer cid k m
  | .xcpg .. => s.beginTransfer cid k m
  | .xred .. => s.beginTransfer cid k m
  | .xkeyEnc .. => s.beginTransfer cid k m
  | .xkeyDec .. => s.beginTransfer cid k m
  | .xexp .. => .ok (c.began clk k m id)
  | .xarv .. => .ok ((c.began clk k m id).arvClock s.moduleId cid clk k m late)
  | .xsigr .. => .ok ((c.began clk k m id).sigrClock s.moduleId cid clk k m)
  | .xstep .. => .ok (c.began clk k m fun x => { x with aux := m.vals.drop 1 })
  | .xpln .. => .ok ((c.began clk k m id).sendPlanes cid clk k m)
  | .xbrd .. => .ok (c.began clk k m fun x => { x with data := tile m, stage := clk + 20 })
  | .xrep .. => .ok (c.began clk k m fun x => { x with data := tile m, stage := clk + 20 })
  | .xalt .. => .ok (c.began clk k m fun x => { x with stage := clk + 1 })
  | .xdrp .. => .ok (c.began clk k m fun x => { x with stage := clk + 1 })
  | .xqryPeek .. => .ok (c.began clk k m fun x => { x with stage := clk + 1 })
  | _ => .ok (c.began clk k m fun x => { x with finished := true, aux := [m.val 0] })

/-- A finished command of XE completes once its writes are out and its release is complete (R58, R306). -/
def Core.endXe (c : Core) (clk k i : Nat) (late : Bool) : Core :=
  match (c.stream k).cmd i with
  | none => c
  | some m =>
    if m.finished && m.pos ≤ clk && c.writesOut k m && c.cmdReleased k m then c.completeCmd clk k m 0 m.aux.head? late else c

/-- Starts the command that stream k of XE may start, if its wait is satisfied (R306, R348). late says that the clock's consumers are
tested already, so that a signal which the start itself brings reaches its semaphore in the next clock. -/
def State.startXe (s : State) (cid k : Nat) (late : Bool) : State :=
  let c := s.core cid
  match c.admits k with
  | none => s
  | some m =>
    if !c.waitOk k m then s
    else
      let s1 := s.setCore cid (c.passWait cid k m !(Instr.acqLate m.instr))
      match s1.xeBegin cid k m late with
      | .error t => s1.updCore cid fun c => c.cmdTrap s.cycles k m t
      | .ok c1 =>
        let atOnce := match m.instr with
          | .xstep _ _ _ => decide (m.vals.length ≤ 1)
          | _ => false
        s1.setCore cid ((if atOnce then c1.updCmd k m.idx fun x => { x with finished := true, pos := 0, aux := [] } else c1).endXe
          s.cycles k m.idx late)

/-! ### Working and completing -/

/-- Whether a command takes part in the ring: 1 boarding, 2 catch, 3 replacement, 4 drop, 5 peek. -/
def ringKind : Instr → Nat
  | .xbrd .. => 1 | .xalt .. => 2 | .xrep .. => 3 | .xdrp .. => 4 | .xqryPeek .. => 5
  | _ => 0

/-- The last clock of the revolution in which a ring command waits, after which it completes full or absent (R324 to
R327). -/
def ringEnd (r : Ring) (m : Cmd) : Nat := m.stage + 64 * r.slots - (if ringKind m.instr = 1 then 1 else 0)

/-- One clock of a ring command that no passage has decided: its earliest clock waits for its release (R326, R327), and it
ends full or absent when its revolution has passed. pos is 2 while a boarded tile is pending. -/
def State.ringClock (s : State) (cid k : Nat) (m : Cmd) : State :=
  let c := s.core cid
  let kd := ringKind m.instr
  let first := m.at_ + (if kd = 3 then 20 else 1)
  if (kd = 3 || kd = 4) && m.ctl.sync.rel && !c.cmdReleased k m then
    s.updCore cid fun c => c.updCmd k m.idx fun x => { x with stage := max first (s.cycles + 1) }
  else if m.pos != 2 && ringEnd s.ring m ≤ s.cycles then
    s.updCore cid fun c =>
      (c.updCmd k m.idx fun x => { x with
        finished := true, pos := 0, aux := [statusWord (if kd = 1 then 2 else 5) 0 s.ring.rc] }).endXe s.cycles k m.idx false
  else s

/-- A catch decided at a passage lands at its clock (R325); a second entry of aux says that it has not. -/
def Core.landCatch (c : Core) (k i : Nat) (clk : Nat) : Core :=
  match (c.stream k).cmd i with
  | none => c
  | some m =>
    if m.aux.length = 2 && m.pos ≤ clk then
      (c.localWrite rankXe (epSpace (m.val 1)) (epAddr (m.val 1)) (m.bytes 4096)).updCmd k i fun x => { x with aux := m.aux.take 1 }
    else c

/-- One clock of the started command i of stream k of XE, and its completion. -/
def State.xeClock (s : State) (cid k i : Nat) (late : Bool) : State :=
  let c := s.core cid
  let clk := s.cycles
  match (c.stream k).cmd i with
  | none => s
  | some m =>
    if !m.started then s
    else if m.finished then s.setCore cid ((c.landCatch k i clk).endXe clk k i late)
    else if ringKind m.instr != 0 then s.ringClock cid k m
    else
      let fin := fun (c1 : Core) (status : List Nat) =>
        (c1.updCmd k i fun x => { x with finished := true, pos := clk, aux := status }).endXe clk k i late
      let move := fun (_ : Unit) => match c.transferClock s.moduleId cid clk k m (s.hostLink cid) with
        | .more c1 => s.setCore cid c1
        | .done c1 => s.setCore cid (if ((c1.stream k).cmd i).isSome then fin c1 [] else c1)
        | .trap t => s.setCore cid (c.cmdTrap clk k m t)
      match m.instr with
      | .xcp .. => move ()
      | .xcpg .. => move ()
      | .xred .. => move ()
      | .xkeyEnc .. => move ()
      | .xkeyDec .. => move ()
      | .xexp .. => s.setCore cid (c.postExp clk k m late)
      | .xarv .. => s.setCore cid ((c.arvClock s.moduleId cid clk k m late).endXe clk k i late)
      | .xsigr .. => s.setCore cid (c.sigrClock s.moduleId cid clk k m)
      | .xstep .. => if m.aux.isEmpty then s.setCore cid (fin c []) else s
      | .xpln .. => if m.aux.length = (m.vals.drop 3).length then s.setCore cid (fin c [planeStatus m.aux]) else s
      | _ => s

end Sys2Proof.Machine
end

