-- ==== Sys2Proof/Machine/Carousel.lean ====
section
/-!
DEFINITION. Sys2Proof/Machine/Carousel.lean: the carousel (R321 to R328): a slot's passage at a station with its change and
its catches, code tiles for WE (R268), and CAROUSEL_SLOTS. An event that is not due changes nothing (log 4).
-/

namespace Sys2Proof.Machine

/-! ### Slots and passages (R322) -/

/-- The die whose station stands at ring position p (R28). -/
def dieAtPos (p : Nat) : Nat := [0, 1, 2, 3, 7, 6, 5, 9, 10, 11, 15, 14, 13, 12, 8, 4].getD p 0

/-- The slot that begins a passage at position p in this clock. -/
def Ring.slotAt (r : Ring) (p : Nat) : Option Nat :=
  if r.rc % 4 != 0 then none
  else some ((r.rc / 4 + 16 * r.slots - r.slots * p % (16 * r.slots)) % (16 * r.slots))

def Ring.tile (r : Ring) (k : Nat) : Option Tile := mget none r.tiles k
def Ring.setTile (r : Ring) (k : Nat) (t : Option Tile) : Ring := { r with tiles := mput none k t r.tiles }

/-- Whether a tile is on the ring for every operation: it is no boarding that is still pending or has failed. -/
def Tile.confirmed (t : Tile) : Bool := t.pend.isNone

/-- The clock at which a pending tile returns to its boarder's station (R324). -/
def Ring.returns (r : Ring) (t : Tile) : Nat := t.boardedAt + 64 * r.slots

/-- A ring command that is under way: its core, stream key and itself. -/
structure RingCmd where
  core : Nat
  key : Nat
  cmd : Cmd
  deriving DecidableEq, Repr

/-- The tile name of a ring command. -/
def Cmd.tileName (m : Cmd) : Nat := m.val 0 % 2 ^ 32

/-- The undecided ring commands of a die whose revolution includes this clock, in the order in which a passage serves them:
by core, and within a core by start (R29, R322). -/
def State.ringCmds (s : State) (d : Nat) : List RingCmd :=
  (List.range 16).flatMap fun i =>
    let cid := 16 * d + i
    let c := s.core cid
    if c.frozen then []
    else
      let ms := [20, 21, 22, 23].flatMap fun k => ((c.stream k).cmds.filter fun m =>
        m.started && !m.finished && m.pos != 2 && ringKind m.instr != 0 && m.stage ≤ s.cycles
          && s.cycles < m.stage + 64 * s.ring.slots
          && !((ringKind m.instr = 3 || ringKind m.instr = 4) && !c.cmdReleased k m)).map fun m => RingCmd.mk cid k m
      ms.mergeSort fun a b => a.cmd.at_ ≤ b.cmd.at_

/-- The change that a slot with the given contents takes at a station of die d. -/
def State.changeFor (s : State) (d : Nat) (t : Option Tile) : Option RingCmd :=
  (s.ringCmds d).find? fun x =>
    match t with
    | none => ringKind x.cmd.instr == 1
    | some t => t.confirmed && t.name == x.cmd.tileName && (ringKind x.cmd.instr == 3 || ringKind x.cmd.instr == 4)

/-- A slot's contents as its passage begins: a boarding that has failed frees the slot at its next passage (R324). -/
def State.slotTile (s : State) (k : Nat) : Option Tile :=
  match s.ring.tile k with
  | none => none
  | some t => if !t.confirmed && s.ring.returns t < s.cycles then none else some t

/-- Whether another station boards a tile of the name in this clock. -/
def State.boardsElsewhere (s : State) (p name : Nat) : Bool :=
  (List.range 16).any fun q => q != p && (match s.ring.slotAt q with
    | none => false
    | some k => (s.slotTile k).isNone && (match s.changeFor (dieAtPos q) none with
      | none => false
      | some x => x.cmd.tileName == name))

/-- A ring command is decided: when it completes, its status, and what it catches. -/
def Core.decide (c : Core) (x : RingCmd) (at_ : Nat) (status : List Nat) (data : SMap Byte) : Core :=
  c.updCmd x.key x.cmd.idx fun m => { m with finished := true, pos := at_, aux := status, data := data }

/-- A boarded tile's return (R324): it is confirmed, or its boarding has failed. -/
def State.confirmTile (s : State) (p k : Nat) (t : Tile) : State :=
  match t.pend with
  | none => s
  | some (cid, key, idx) =>
    if s.ring.returns t != s.cycles then s
    else
      let bad := t.spoilt || s.boardsElsewhere p t.name
      let t1 := if bad then { t with spoilt := true } else { t with pend := none }
      let st := if bad then statusWord 3 0 s.ring.rc else statusWord 1 1 s.ring.rc
      ({ s with ring := s.ring.setTile k (some t1) } : State).updCore cid fun c =>
        c.updCmd key idx fun m => { m with finished := true, pos := s.cycles, aux := [st], data := [] }

/-- Every pending boarding of a name is spoilt. -/
def Ring.spoil (r : Ring) (name : Nat) : Ring :=
  { r with tiles := r.tiles.map fun e => (e.1, e.2.map fun t =>
      if t.name = name && !t.confirmed then { t with spoilt := true } else t) }

/-- A boarding takes a free slot. -/
def State.board (s : State) (k : Nat) (x : RingCmd) : State :=
  let name := x.cmd.tileName
  let met := fun (t : Tile) => t.name == name && (t.confirmed || s.cycles ≤ s.ring.returns t)
  let bad := s.ring.tiles.any fun e => e.2.any met
  let t : Tile := {
    name := name, ver := 1, data := leBytes (x.cmd.bytes 4096), pend := some (x.core, x.key, x.cmd.idx), spoilt := bad
    boardedAt := s.cycles }
  ({ s with ring := (s.ring.spoil name).setTile k (some t) } : State).updCore x.core fun c =>
    c.updCmd x.key x.cmd.idx fun m => { m with pos := 2 }

/-- A replacement takes effect (R326), as a packet of the writer's die (R64). -/
def State.replaceTile (s : State) (k : Nat) (x : RingCmd) (t : Tile) : State :=
  let d := dieOf x.core
  let die := s.die d
  let clock := mput 0 d (clockOf die.clock d + 1) die.clock
  let v := (t.ver + 1) % 2 ^ 16
  let t1 := { t with ver := v, data := leBytes (x.cmd.bytes 4096), vec := clock }
  (({ s with ring := s.ring.setTile k (some t1) } : State).setDie d { die with clock := clock }).updCore x.core fun c =>
    c.decide x (s.cycles + 4) [statusWord 6 v s.ring.rc] []

/-- A drop frees the slot (R327). -/
def State.dropTile (s : State) (k : Nat) (x : RingCmd) (t : Tile) : State :=
  ({ s with ring := s.ring.setTile k none } : State).updCore x.core fun c =>
    c.decide x (s.cycles + 4) [statusWord 7 t.ver s.ring.rc] []

/-- The replacements and drops that lose a passage of their tile to x: each has a revolution from here on (R322, R326). -/
def State.losers (s : State) (d : Nat) (t : Tile) (x : RingCmd) : State :=
  let ls := (s.ringCmds d).filter fun y =>
    y != x && (ringKind y.cmd.instr == 3 || ringKind y.cmd.instr == 4) && y.cmd.tileName == t.name
  ls.foldl (fun s y => s.updCore y.core fun c => c.updCmd y.key y.cmd.idx fun m => { m with stage := s.cycles + 1 }) s

/-- The one change of a passage. -/
def State.change (s : State) (d k : Nat) : State :=
  let t := s.ring.tile k
  match s.changeFor d t with
  | none => s
  | some x =>
    match t with
    | none => s.board k x
    | some t =>
      let s1 := s.losers d t x
      if ringKind x.cmd.instr = 3 then s1.replaceTile k x t else s1.dropTile k x t

/-- A catch or a peek of a passage (R325, R344). With ACQ it follows the passage causally (R64). -/
def State.catchTile (s : State) (t : Tile) (x : RingCmd) : State :=
  let sy := x.cmd.ctl.sync
  let s1 := if sy.acq then
      (s.updDie (dieOf x.core) fun d => { d with clock := clockMax d.clock t.vec }).updCore x.core fun c =>
        c.acquire x.core sy.scope
    else s
  s1.updCore x.core fun c =>
    if ringKind x.cmd.instr = 2 then
      let bs := toBytes 4096 t.data
      c.decide x (s.cycles + 24) [statusWord 4 t.ver s.ring.rc, 1] (mbulk Memory.blank ((List.range 4096).zip bs) [])
    else c.decide x (s.cycles + 4) [statusWord 8 t.ver s.ring.rc] []

/-- The catches and peeks of a passage. -/
def State.catches (s : State) (d : Nat) (t : Tile) : State :=
  ((s.ringCmds d).filter fun x => (ringKind x.cmd.instr = 2 || ringKind x.cmd.instr = 5) && x.cmd.tileName == t.name).foldl
    (fun s x => s.catchTile t x) s

/-- CAROUSEL_PASSAGE: the slot that begins a passage at position p: a boarding's return, the change, then the catches
(R322). -/
def execCarouselPassage (p : Nat) (s : State) : Host.Outcome State Fault Refusal :=
  match s.ring.slotAt p with
  | none => .next s
  | some k =>
    let d := dieAtPos p
    let t0 := s.slotTile k
    let s0 : State := { s with ring := s.ring.setTile k t0 }
    let s1 := match t0 with
      | none => s0
      | some t => s0.confirmTile p k t
    let s2 := s1.change d k
    match s2.ring.tile k with
    | none => .next s2
    | some t => .next (if t.confirmed then s2.catches d t else s2)

/-! ### Code tiles (R268) -/

/-- Line i of a tile's 16 code lines. -/
def Tile.line (t : Tile) (i : Nat) : Nat := t.data / 2 ^ (2048 * i) % 2 ^ 2048

/-- One awaited code tile of a core: caught as it passes, given up after a revolution, or awaited on. -/
def State.weCatch (s : State) (k : Catch) : State :=
  let without := { s.ring with catches := s.ring.catches.filter (· != k) }
  let passing := ((s.ring.slotAt (ringPos (dieOf k.core))).bind s.ring.tile).filter fun t => t.confirmed && t.name == k.name
  match passing with
  | some t =>
    ({ s with ring := without } : State).updCore k.core fun c =>
      (List.range 16).foldl (fun c i => c.codeFill (k.line + i) (t.line i)) c
  | none =>
    if k.left != 0 then s
    else
      ({ s with ring := without } : State).updCore k.core fun c => { c with
        codeWant := c.codeWant ++ k.lines.filter fun l => !c.codeWant.contains l && (c.codeLine l).isNone }

/-- CAROUSEL_WE_CATCH: the code tiles that core c waits for. -/
def execCarouselWeCatch (c : Nat) (s : State) : Host.Outcome State Fault Refusal :=
  .next ((s.ring.catches.filter fun k => k.core == c).foldl (fun s k => s.weCatch k) s)

/-! ### CAROUSEL_SLOTS (R321) -/

/-- Whether a word may be written to CAROUSEL_SLOTS. -/
def slotsWordOk (v : Nat) : Bool := v < 2 ^ 12 && fld v 3 5 == 0 && fld v 8 3 < 6

/-- CAROUSEL_CHANGE_REQUEST: a change is requested or cancelled; a word that the register does not take changes nothing. -/
def execCarouselChangeRequest (v : Nat) (s : State) : Host.Outcome State Fault Refusal :=
  .next (if slotsWordOk v then { s with ring := s.ring.request v } else s)

/-- Whether the ring holds no tile and no station has an operation or a WE catch in progress. -/
def State.ringIdle (s : State) : Bool :=
  (s.ring.tiles.all fun e => e.2.isNone) && s.ring.catches.isEmpty
    && s.cores.all fun e => [20, 21, 22, 23].all fun k => (e.2.stream k).cmds.all fun m =>
      !(m.started && ringKind m.instr != 0)

/-- CAROUSEL_CHANGE_EFFECT: S changes and the ring clock restarts. -/
def execCarouselChangeEffect (s : State) : Host.Outcome State Fault Refusal :=
  .next (if s.ring.pvalid && s.ringIdle then
    { s with ring := { s.ring with cur := s.ring.pend, pvalid := false, rc := 0, tiles := [] } } else s)

end Sys2Proof.Machine
end

