-- ==== Sys2Proof/Machine/Issue.lean ====
section
/-!
DEFINITION. Sys2Proof/Machine/Issue.lean: which stream an engine issues from (R97, R100, R101), and the instruction that
stream's next word or bundle decodes to (R78).
-/

namespace Sys2Proof.Machine

/-- Whether streams of a job may issue in clock clk: the job runs, or it trapped in this very clock (R140). -/
def Job.mayIssue (b : Job) (clk : Nat) : Bool :=
  match b.st with
  | .running => true
  | .yielding => true
  | .stopping => b.trapClk == some clk
  | .free | .loading | .stopped | .held | .retired | .saved => false

/-- Whether a stream is ELIGIBLE in clock clk, as far as that can be told before its instruction is tried (R97). -/
def State.eligible (s : State) (cid k : Nat) : Bool :=
  let c := s.core cid
  let t := c.stream k
  t.st == .live && t.noIssue ≤ s.cycles
    && (if k = 24 then c.frozen && !c.thaw && c.wickStart ≤ s.cycles
        else !c.frozen && (c.job t.job).mayIssue s.cycles
          && !(c.retires.any fun r => r.key == k && r.rem == 0 && !exposed (engOf k)))
    && (t.wait == .none || s.headReady cid k) && (k = 24 || !s.isRoslor (dieOf cid) (descImage (c.job t.job).desc))

/-- The slots of an engine that may issue, apart from those already tried in this clock. -/
def State.candidates (s : State) (cid : Nat) (e : Eng) (tried : List Nat) : List Nat :=
  let c := s.core cid
  if (e == .va && (c.vaHeld || c.db.any fun d => d.who.key / 4 == 1)) || (e == .we && c.weHeld) || s.cycles < mget 0 c.bubble e.num || c.reissue.contains (e.num, s.cycles) then []
  else (List.range (slotsOf e)).filter fun i => !tried.contains i && s.eligible cid (skey e i)

/-- The priority of a stream's job (R100). -/
def Core.prioOf (c : Core) (k : Nat) : Nat := fld (c.job (c.stream k).job).desc 8 2

/-- The issue choice of R100. -/
def State.choose (s : State) (cid : Nat) (e : Eng) (tried : List Nat) : Option Nat :=
  let c := s.core cid
  let cs := s.candidates cid e tried
  let prom := cs.filter fun i => (c.stream (skey e i)).promoted
  let prio := cs.map fun i => c.prioOf (skey e i)
  let set := if prom.isEmpty then cs.filter fun i => c.prioOf (skey e i) == prio.foldl min 3 else prom
  let n := slotsOf e
  ((List.range n).map fun d => (mget 0 c.last e.num + d) % n).find? fun i => set.contains i

/-- Cause of a decode error (R78). -/
def DecodeErr.cause : DecodeErr → Nat
  | .illegal => 0x01
  | .reserved => 0x02
  | .privileged => 0x03

/-- The opcode byte of an instruction's bytes (R144). -/
def opcodeByte (e : Eng) (bs : List Byte) : Nat := if e = .we then fld (wordOf e bs) 248 8 else fld (wordOf e bs) 56 8

/-- What an engine's turn comes to: nothing, or an instruction to execute in a state. -/
inductive Pick where
  | idle (s : State)
  | run (i : Instr) (s : State)
  deriving DecidableEq, Repr

/-- The present stream is not free to issue in this clock, and its engine turns to another one (R97, R100). -/
def State.stallCur (s : State) (k : Nat) : State :=
  (s.updCore s.cur.core fun c => c.updStream k fun t => { t with stalled := true }).yieldEng

/-- The next bundle of the present stream is absent from the code buffer (R266): its stream is WAITING, which costs WE the bubble of
R19 where the stream is the one that issued last. -/
def State.absentCur (s : State) (k : Nat) : State :=
  let x := s.cur
  let c := s.core x.core
  let t := c.stream k
  let c1 := c.updStream k fun t => { t with stalled := true, absent := true }
  if x.eng = .we && !t.absent && mget 0 c.last x.eng.num == x.slot + 1 then
    s.setCore x.core { c1 with bubble := mput 0 x.eng.num (s.cycles + 2) c1.bubble }
  else (s.setCore x.core c1).yieldEng

/-- Slot i of an engine goes on (R78): its head is satisfied, or its next instruction is fetched and decoded. A fetch that has to
wait, and an instruction that waits for a register (R108, R330), yield the engine; a fetch or decode error is the stream's trap. -/
def State.tryStream (s : State) (cid : Nat) (e : Eng) (i : Nat) (tried : List Nat) : Pick :=
  let k := skey e i
  let s1 := { s with cur := ⟨cid, e, i, tried⟩ }
  let c := s.core cid
  if (c.stream k).wait != .none then .run (.blockHeadSatisfied cid k) s1
  else
    match s1.fetch cid k with
    | .wait s2 => .idle (s2.absentCur k)
    | .trap n =>
      let c1 := if n = 0x12 then { c with codeErr := [] } else c
      .idle (s1.setCore cid (c1.takeTrap s.cycles k n (faultStatus n (c.stream k).pc)))
    | .ok bs =>
      match decode e (c.privileged k) bs with
      | .ok i => if c.interlocked k i then .idle (s1.stallCur k) else .run i s1
      | .error er => .idle (s1.setCore cid (c.takeTrap s.cycles k (DecodeErr.cause er) (opcodeByte e bs)))

/-- An engine's turn (R100). -/
def State.issueTurn (s : State) (cid : Nat) (e : Eng) (tried : List Nat) : Pick :=
  match s.choose cid e tried with
  | none => .idle s
  | some i => s.tryStream cid e i tried

end Sys2Proof.Machine
end

