-- ==== Sys2Proof/Machine/Weight.lean ====
section
/-!
DEFINITION. Sys2Proof/Machine/Weight.lean: the weight-code engine: terms and factors (R257 to R260), rows and the flush
path (R261 to R263), segments (R267, R270, R293), hooks and adapters (R271 to R273, R294), jumps, waits and the end.
-/

namespace Sys2Proof.Machine

/-! ### The frame of a bundle -/

/-- A body that gets the core and the stream. Where an adapter entry has just been reached, only WLINK has an effect
(R294). -/
def runWe (s : State) (h : WHead) (body : State → Core → Stream → Res) : Host.Outcome State Fault Refusal :=
  runB s h fun s1 =>
    let c := s1.core s.cur.core
    let t := c.stream s.cur.key
    if t.we.hook.act && t.we.hook.entry then .trap 0x0C 3 else body s1 c t

/-- A bundle that an adapter may not hold (R272): cause 0x01 with its opcode byte while HOOKACT is 1. -/
def runMain (s : State) (h : WHead) (opc : Nat) (body : State → Core → Stream → Res) : Host.Outcome State Fault Refusal :=
  runWe s h fun s1 c t => if t.we.hook.act then .trap 0x01 opc else body s1 c t

/-- A bundle that changes the weight-code part of its own stream. -/
def weDone (s : State) (s1 : State) (c : Core) (f : We → We) : Res :=
  .done (s1.setCore s.cur.core (c.updStream s.cur.key fun t => { t with we := f t.we })) .seq 1

/-! ### Lanes, columns and weights (R257 to R259) -/

/-- The mask: all lanes, or those of the tenant whose adapter runs (R257, R272), rising. -/
def We.mask (w : We) : List Nat :=
  if w.hook.act then (List.range 1024).filter fun l => mget 0 w.map l == w.hook.tenant else List.range 1024

/-- A(c, l) of a lane-store byte (R258): a NaN of E4M3 reads as 0. -/
def actVal (e4m3 : Bool) (b : Byte) : Int :=
  if e4m3 then
    match ffE4m3.dec b.toNat with
    | .nan _ => 0
    | .inf _ => 0
    | .fin n m e => onExp n m e (-9)
  else b.toInt

/-- Whether a byte is an E4M3 NaN. -/
def actNan (e4m3 : Bool) (b : Byte) : Bool := e4m3 && b.toNat % 128 == 127

/-- eA (R258). -/
def eAct (e4m3 : Bool) : Int := if e4m3 then -9 else 0

/-- The bytes of a column in the given lanes, which a read of WE finds as they stand before the writes of its clock (R202). -/
def Core.column (c : Core) (col : Nat) (ls : List Nat) : List Byte := c.laneReadAll (ls.map fun l => 1024 * col + l)

/-- The valid slots of a bundle with their numbers. -/
def validSlots (sl : WSlots) : List (Nat × WSlot) :=
  ((List.range sl.length).zip sl).filterMap fun p => p.2.map fun w => (p.1, w)

/-- The columns a bundle's slots name, with their codes (R257). -/
def slotCols (sl : WSlots) : List (Nat × Nat) := (validSlots sl).map fun p => (16 * p.2.off + p.1, p.2.code)

/-- W(w)·2^d (R259). -/
def weightVal (m : WMode) (code d : Nat) : Int :=
  (match m with
    | .pw2 => pw2Units code
    | .i8 => 128 * sextN 8 code) * 2 ^ d

/-- Values added to the row register in the masked lanes, each addition clamping (R37, R259). -/
def We.addRow (w : We) (ls : List Nat) (vs : List Int) : We :=
  let old := mreads 0 ls w.row
  { w with row := mbulk 0 (ls.zip (List.zipWith slotAdd old vs)) w.row }

/-- Whether one of the columns holds an E4M3 NaN in the mask (R258). -/
def anyNan (e4m3 : Bool) (cols : List (List Byte)) : Bool := cols.any fun bs => bs.any (actNan e4m3)

/-- Elementwise sum of the columns' values, each times a coefficient. -/
def sumCols (n : Nat) (e4m3 : Bool) : List (Int × List Byte) → List Int
  | [] => List.replicate n 0
  | (k, bs) :: r => List.zipWith (fun (b : Byte) (v : Int) => k * actVal e4m3 b + v) bs (sumCols n e4m3 r)

/-- f_k in the given lanes, as signed integers (R256). -/
def We.factor (w : We) (k : Nat) (ls : List Nat) : List Int :=
  (mreads 0 (ls.map fun l => 1024 * k + l) w.f).map (sextN 24)

/-- A term bundle needs an open row (R259). -/
def runTerm (s : State) (h : WHead) (f : Core → We → We) : Host.Outcome State Fault Refusal :=
  runWe s h fun s1 c t => if !t.we.opn then .trap 0x0C 3 else weDone s s1 c (f c)

def execWnop (h : WHead) (s : State) : Host.Outcome State Fault Refusal := runWe s h fun s1 _ _ => .done s1 .seq 1

/-- WT (R259, R289). -/
def execWt (h : WHead) (m : WMode) (d : Nat) (sl : WSlots) (s : State) : Host.Outcome State Fault Refusal :=
  runTerm s h fun c w =>
    let ls := w.mask
    let cols := (slotCols sl).map fun p => (c.column p.1 ls, p.2)
    let w1 := cols.foldl (fun w p => w.addRow ls (p.1.map fun b => weightVal m p.2 d * actVal w.seg.e4m3 b)) w
    { w1 with nv := w.nv || anyNan w.seg.e4m3 (cols.map Prod.fst) }

/-- WG (R259, R290): one product per lane, of the exact sum. -/
def execWg (h : WHead) (m : WMode) (code d : Nat) (sl : WSlots) (s : State) : Host.Outcome State Fault Refusal :=
  runTerm s h fun c w =>
    let ls := w.mask
    let cols := (slotCols sl).map fun p => c.column p.1 ls
    let sums := sumCols ls.length w.seg.e4m3 (cols.map fun bs => (1, bs))
    { w.addRow ls (sums.map (weightVal m code d * ·)) with nv := w.nv || anyNan w.seg.e4m3 cols }

/-- WTF (R259, R289): several slots may name one factor. -/
def execWtf (h : WHead) (m : WMode) (d : Nat) (sl : WSlots) (s : State) : Host.Outcome State Fault Refusal :=
  runTerm s h fun _ w =>
    let ls := w.mask
    (validSlots sl).foldl (fun w p => w.addRow ls ((w.factor p.2.off ls).map (weightVal m p.2.code d * ·))) w

/-- WF (R260, R291): the factor lands with its flags two clocks after issue, in the masked lanes. -/
def execWf (h : WHead) (acc : Bool) (k : Nat) (sl : WSlots) (s : State) : Host.Outcome State Fault Refusal :=
  runWe s h fun s1 c t =>
    let w := t.we
    let ls := w.mask
    let cols := (slotCols sl).map fun p => (sextN 8 p.2, c.column p.1 ls)
    let old := if acc then w.factor k ls else ls.map fun _ => 0
    let vs := List.zipWith (· + ·) old (sumCols ls.length w.seg.e4m3 cols)
    let lo : Int := -(2 ^ 23)
    let hi : Int := 2 ^ 23 - 1
    let sat := vs.any fun v => v < lo || hi < v
    let fl := (if sat then fSAT else 0) ||| (if anyNan w.seg.e4m3 (cols.map Prod.snd) then fNV else 0)
    let m := mbulk (2 ^ 24) (ls.zip (vs.map fun v => uI 24 (clampI lo hi v))) []
    .done (s1.setCore s.cur.core (c.result s.cur.key 2 (.f k (mreads (2 ^ 24) (List.range 1024) m)) fl)) .seq 2

/-! ### Rows and the flush path (R262, R263, R292) -/

/-- Whether the flush path is still writing: its last lane group is written in the clock in which the flush lands. -/
def Core.flushing (c : Core) : Bool := c.flushes.any fun f => f.group < 7

/-- A row value on the window's grid: value and whether it was inexact (R262). -/
def flushVal (g : Seg) (e : Int) (v : Int) : Int × Bool :=
  let u := e - 7 + eAct g.e4m3
  let (m, ix) := roundShift g.frm (v < 0) v.natAbs (g.lacc - u)
  (if v < 0 then -(m : Int) else m, ix)

/-- Flags that the row's bundles leave for its flush (R263). -/
def We.rowFlags (w : We) : Nat :=
  (if w.nv then fNV else 0) ||| (if w.row.any fun e => slotSat e.2 then fSAT else 0)

/-- OPEN, E and the cleared row (R262). -/
def We.openRow (w : We) (o : Bool) (en : Int) : We :=
  if o then { w with opn := true, e := en, row := [], nv := false } else { w with opn := false, nv := false }

/-- WROW (R262, R263, R292). -/
def execWrow (h : WHead) (f : WFlush) (o : Bool) (en : Int) (s : State) : Host.Outcome State Fault Refusal :=
  runMain s h 0x05 fun s1 c t =>
    let k := s.cur.key
    let cid := s.cur.core
    let w := t.we
    let c1 := c.updStream k fun t => { t with we := t.we.openRow o en }
    if !w.opn then .done (s1.setCore cid c1) .seq 1
    else if f = .none then
      let c2 := if w.rowFlags = 0 then c1 else { c1 with pending := c1.pending ++ [⟨k, 1, .none, w.rowFlags, 1⟩] }
      .done (s1.setCore cid c2) .seq 1
    else if c.flushing then .hold s1
    else
      let row := mreads 0 (List.range 1024) w.row
      let vs := row.map fun r => flushVal w.seg w.e (slotAcc r)
      let fl := w.rowFlags ||| (if vs.any Prod.snd then fIX else 0)
      let r := w.seg.accbase + w.seg.nfl % w.seg.accrows
      let fr : Flush := ⟨k, r, f == .add, (vs.map Prod.fst).zip (row.map slotSat), s.cycles, 0, fl,
        if h.push then some h.tp else none⟩
      let c2 := c1.updStream k fun t => { t with we := { t.we with seg := { t.we.seg with nfl := t.we.seg.nfl + 1 } } }
      .done (s1.setCore cid { c2 with flushes := c2.flushes ++ [fr] }) .late 8

/-- What one lane of a flush makes of its slot, and whether the write clamped it (R37, R262). -/
def flushSlot (add : Bool) (old : Nat) (v : Int × Bool) : Nat × Bool :=
  let x := if add then slotAcc old + v.1 else v.1
  (mkSlot (clampI accMin accMax x) (v.2 || accClamps x || (add && slotSat old)), accClamps x)

/-- A flush or a fill of stream k has finished: the markers behind it have one less piece of work ahead. -/
def Core.workEnds (c : Core) (k : Nat) : Core :=
  let j := (c.stream k).job
  c.updJob j fun b => { b with markers := b.markers.map fun m => if m.tgt = k then { m with work := m.work - 1 } else m }

/-- The push that a flush or a fill makes when it retires, rem clocks before its token can be popped (R13, R15). -/
def Core.pushEnd (c : Core) (k rem : Nat) (p : Option Nat) : Core :=
  match p with
  | none => c
  | some tp => { c with maturing := c.maturing ++ [⟨(c.stream k).job, fifoNo (k / 4) tp, rem⟩] }

/-- One lane group of a flush: slots written at WE's rank (R24, R300), and with the last group the flags and the push (R263). -/
def Core.flushGroup (c : Core) (clk : Nat) (f : Flush) : Core :=
  let ks := (List.range 128).map fun i => 1024 * f.row + 128 * f.group + i
  let out := List.zipWith (flushSlot f.add) (c.accReadAll ks) ((f.vals.drop (128 * f.group)).take 128)
  let fl := f.flags ||| (if out.any Prod.snd then fSAT else 0)
  let c1 := c.accWriteAll 3 (ks.zip (out.map Prod.fst))
  if f.group < 7 then
    { c1 with flushes := lupd (· == f) (fun f => { f with group := f.group + 1, flags := fl }) c1.flushes }
  else
    let c2 := { c1 with flushes := ldel (· == f) c1.flushes }
    let c3 := c2.updStream f.key fun t => { t.orFlags fl with landFlags := t.landFlags ||| fl, landClk := clk + 1 }
    (c3.workEnds f.key).pushEnd f.key 2 f.partner

/-- FLUSH_GROUP_WRITE: the flush path writes the next lane group of the flush whose clock for it has come; nothing on a
frozen core (R145). -/
def execFlushGroupWrite (cid : Nat) (s : State) : Host.Outcome State Fault Refusal :=
  let c := s.core cid
  if c.frozen then .next s
  else
    match c.flushes.find? fun f => f.clk + f.group < s.cycles with
    | none => .next s
    | some f => .next (s.setCore cid (c.flushGroup s.cycles f))

/-! ### Segments (R261, R267, R270, R293) -/

/-- A WSEG: its checks, the settings and NFL at issue, and the map and the tenant records as they stand in its issue clock
(R300), and its acquire at device scope (R267). The root records follow. -/
def runWseg (s : State) (h : WHead) (g : Seg → Seg) : Host.Outcome State Fault Refusal :=
  runMain s h 0x06 fun s1 c t =>
    let b := c.job t.job
    let seg : Seg := { g t.we.seg with nfl := 0 }
    if t.we.opn then .trap 0x0C 3
    else if 128 < seg.accbase + seg.accrows then .trap 0x0C 3
    else if !b.inRegions b.tmap 512 then .trap 0x0E (kindStatus 3 0xFF)
    else
      let slots := mputs 0 0 ((List.range 16).map c.tenant) []
      let c1 := (c.updStream s.cur.key fun t => { t with we := { t.we with seg := seg } }).acquire s.cur.core .device
      let own := t.credit != ((s.core s.cur.core).stream s.cur.key).credit
      .done (s1.setCore s.cur.core c1)
        (.wait (.wseg (if h.pop then some (h.tp + 8 * bitN own) else none) t.we.seg (c.laneMap b.tmap) slots)) 1

def execWsegFull (h : WHead) (accbase accrows : Nat) (lacc : Int) (e4m3 : Bool) (frm : Rm) (s : State) :
    Host.Outcome State Fault Refusal :=
  runWseg s h fun _ => ⟨accbase, accrows, lacc, e4m3, frm, 0⟩

def execWsegKeep (h : WHead) (s : State) : Host.Outcome State Fault Refusal := runWseg s h id

/-- The addresses of the root records that a WSEG reads: the job's, and those of the valid tenants (R267, R270). -/
def rootAddrs (it : Nat) (slots : SMap Nat) : List Nat :=
  it :: (((List.range 16).map (mget 0 slots)).filter fun r => bit r 0).map fun r => fld r 192 40

/-- Reads the lines of root records through RB(c): their dwords by address, or the core with what is still missing asked for. -/
def Core.readRoots (c : Core) (w : Sender) : List Nat → Core × Option (List (Nat × Nat))
  | [] => (c, some [])
  | a :: r =>
    if !codeRootAt a then c.readRoots w r
    else
      match c.readLine w vcScalar (lineOf a) with
      | .wait c1 => ((c1.readRoots w r).1, none)
      | .ok bs =>
        let (c1, rest) := c.readRoots w r
        (c1, rest.map fun l => (a, leBytes ((bs.drop (a % 64)).take 8)) :: l)

/-- The level-1 table that a root record read at an address names, plus one; 0 for one that is not there or malformed (R264). -/
def rootRead (vals : List (Nat × Nat)) (a : Nat) : Nat := ((mlook a vals).bind codeRootOf).elim 0 (· + 1)

/-- The segment that a WSEG begins once its root records are read (R267, R270). -/
def We.newSegment (w : We) (m slots : SMap Nat) (vals : List (Nat × Nat)) : We :=
  let recs := (List.range 16).map (mget 0 slots)
  let lanes := (List.range 1024).map (mget 0 m)
  { w with
    map := m
    tslots := slots
    ovroots := mputs 0 0 (recs.map fun r => if bit r 0 then rootRead vals (fld r 192 40) else 0) []
    present := (List.range 16).filter fun i => bit (recs.getD i 0) 0 && lanes.contains i }

/-- The WSEG of a stream as if it had not issued (R301): its settings, its wait, and its token where it took it from. -/
def Core.undoWseg (c : Core) (k : Nat) : Core :=
  let t := c.stream k
  match t.wait with
  | .wseg pop old _ _ =>
    let c1 := c.setStream k { t with wait := .none, owe := none, we := { t.we with seg := old } }
    match pop with
    | none => c1
    | some tp =>
      if 8 ≤ tp then c1.updStream k fun t => { t with credit := t.credit + 1 }
      else c1.updJob t.job fun b => b.setTok (fifoNo tp (k / 4)) (b.tok (fifoNo tp (k / 4)) + 1)
  | _ => c

/-- WSEG_READS_COMPLETE: the root records come through RB(c), and with the last of them the snapshots are there (R267, R270); a
malformed record traps at the WSEG (R293). -/
def execWsegReadsComplete (cid k : Nat) (s : State) : Host.Outcome State Fault Refusal :=
  let c := s.core cid
  let t := c.stream k
  match t.wait with
  | .wseg _ _ m slots =>
    if c.frozen || t.st != .live then .next s
    else
      let it := (c.job t.job).itBase
      let as_ := rootAddrs it slots
      match c.readRoots (c.sender cid k s.cycles) as_ with
      | (c1, none) => .next (s.setCore cid c1)
      | (c1, some vals) =>
        match as_.find? fun a => rootRead vals a == 0 with
        | some a => .next (s.setCore cid ((c1.undoWseg k).takeTrap s.cycles k 0x0B (addrStatus a)))
        | none =>
          let c2 := c1.updStream k fun t => { t with rootT := rootRead vals it, we := t.we.newSegment m slots vals }
          .next (s.setCore cid ((c2.endWait k 1).hookEnds k))
  | .none => .next s
  | .head _ => .next s
  | .rdzv _ => .next s
  | .ckpt _ _ => .next s
  | .gbar .. => .next s
  | .post _ => .next s
  | .load .. => .next s

/-! ### Hooks (R271 to R273, R294, R295) -/

/-- How far a WHOOK gets: an adapter of tenant t at address a, the end, or a hook-vector dword of tenant t that is missing
or traps; each after r vector reads. -/
inductive HookRes where
  | run (t a r : Nat)
  | fin (r : Nat)
  | miss (t r : Nat) (s : State)
  | trap (t r cause status : Nat)
  deriving DecidableEq, Repr

/-- Whether tenant i takes part in hook n (R271). -/
def We.hooked (w : We) (n i : Nat) : Bool := w.present.contains i && n < fld (mget 0 w.tslots i) 128 13

/-- The tenants from slot `next` on, in ascending order. -/
def State.hookGo (s : State) (cid k n : Nat) (w : We) : Nat → List Nat → HookRes
  | r, [] => .fin r
  | r, i :: is =>
    let va := fld (mget 0 w.tslots i) 144 48 + 8 * n
    if 2 ^ 48 ≤ va then .trap i r 0x0B (addrStatus va)
    else
      match s.fetchVa cid k (mget 0 w.ovroots i) va 8 with
      | .wait s1 => .miss i r s1
      | .trap m => .trap i r m (faultStatus m va)
      | .ok bs =>
        let a := leBytes bs
        if 2 ^ 48 ≤ a then .trap i r 0x0B (addrStatus a)
        else if a % 32 != 0 then .trap i r 0x07 (addrStatus a)
        else if a = 0 then s.hookGo cid k n w (r + 1) is
        else .run i a (r + 1)

/-- The tenants that hook n has still to consider. -/
def We.hookTodo (w : We) (n next : Nat) : List Nat := ((List.range 16).drop next).filter (w.hooked n)

/-- A stream that goes on at an address in a later clock. -/
def Stream.goOn (t : Stream) (pc noIssue : Nat) : Stream :=
  { t with pc := pc, wait := .none, noIssue := noIssue, age := 0, promoted := false, issued := true, need := none }

/-- The hook state of an adapter that begins (R271, R294). -/
def Stream.enter (t : Stream) (h : Hook) (i a noIssue : Nat) : Stream :=
  let t1 := t.goOn a noIssue
  { t1 with we := { t1.we with hook := { h with act := true, entry := true, running := true, tenant := i, next := i + 1 } } }

/-- The end of a WHOOK: the stream goes on behind it, and the push it owes is made when it retires (R286). -/
def Core.hookEnd (c : Core) (k : Nat) (h : Hook) (noIssue lat : Nat) : Core :=
  let t := c.stream k
  let t1 := t.goOn ((h.pc + 32) % 2 ^ 48) noIssue
  let c1 := (c.setStream k { t1 with owe := none, we := { t1.we with hook := {} } }).hookEnds k
  match t.owe with
  | none => c1
  | some tp => { c1 with retires := c1.retires ++ [⟨k, t.job, tp, lat⟩] }

/-- A WHOOK as it issues (R271, R273). -/
def hookStart (s : State) (h : WHead) (n : Nat) (s1 : State) (c : Core) (t : Stream) : Res :=
  let k := s.cur.key
  let cid := s.cur.core
  let clk := s.cycles
  let hk : Hook := { pc := t.pc, n := n, running := true }
  let own := fun (c : Core) => c.updStream k fun t => { t with owe := if h.push then some h.tp else none }
  match s1.hookGo cid k n t.we 0 (t.we.hookTodo n 0) with
  | .run i a r => .done (s1.setCore cid ((own c).updStream k fun t => t.enter hk i a (clk + r + 2))) .kept 1
  | .fin r => .done (s1.setCore cid (c.hookEnd k hk (clk + 1 + r) 1)) .gone (1 + r)
  | .trap _ _ x st => .trap x st
  | .miss i r s2 =>
    .done (s2.updCore cid fun c => (own c).updStream k fun t =>
      { t.goOn t.pc (clk + 1 + r) with need := t.need, we := { t.we with hook := { hk with next := i } } }) .kept 1

/-- A WHOOK that goes on from its hook state (R294). -/
def hookResume (s : State) (s1 : State) (c : Core) (t : Stream) : Res :=
  let k := s.cur.key
  let cid := s.cur.core
  let clk := s.cycles
  let hk := t.we.hook
  match s1.hookGo cid k hk.n t.we 0 (t.we.hookTodo hk.n hk.next) with
  | .run i a r => .done (s1.setCore cid (c.updStream k fun t => t.enter hk i a (clk + r + 1))) .gone 1
  | .fin r => .done (s1.setCore cid (c.hookEnd k hk (clk + max 1 r) (max 1 r))) .gone 1
  | .trap _ _ x st => .trap x st
  | .miss i _ s2 =>
    .stall (s2.updCore cid fun c => c.updStream k fun t => { t with we := { t.we with hook := { hk with next := i } } })

/-- WHOOK n (R271, R294). -/
def execWhook (h : WHead) (n : Nat) (s : State) : Host.Outcome State Fault Refusal :=
  let t := (s.core s.cur.core).stream s.cur.key
  if t.we.hook.running && !t.we.hook.act then
    .next (runWord s 32 h.tp false false true fun s1 =>
      hookResume s s1 (s1.core s.cur.core) ((s1.core s.cur.core).stream s.cur.key))
  else runMain s h 0x07 (hookStart s h n)

/-- WRET (R295): the WHOOK goes on with the next tenant; one clock passes without issue (R286). -/
def execWret (h : WHead) (s : State) : Host.Outcome State Fault Refusal :=
  runWe s h fun s1 c t =>
    let k := s.cur.key
    let cid := s.cur.core
    let clk := s.cycles
    if !t.we.hook.act then .trap 0x01 0x08
    else
      let hk := { t.we.hook with act := false, entry := false }
      let back := fun (s2 : State) (i r : Nat) =>
        Res.done (s2.updCore cid fun c => c.updStream k fun t =>
          { t.goOn hk.pc (clk + 2 + r) with we := { t.we with hook := { hk with next := i } } }) .gone 1
      match s1.hookGo cid k hk.n t.we 0 (t.we.hookTodo hk.n hk.next) with
      | .run i a r => .done (s1.setCore cid (c.updStream k fun t => t.enter hk i a (clk + r + 3))) .gone 1
      | .fin r => .done (s1.setCore cid (c.hookEnd k hk (clk + 2 + r) 1)) .gone 1
      | .trap i r _ _ => back s1 i r
      | .miss i r s2 => back s2 i r

/-- WLINK n (R294). -/
def execWlink (h : WHead) (n : Nat) (s : State) : Host.Outcome State Fault Refusal :=
  runB s h fun s1 =>
    let c := s1.core s.cur.core
    let w := (c.stream s.cur.key).we
    if !(w.hook.act && w.hook.entry) then .trap 0x01 0x0C
    else if n != w.hook.n then .trap 0x0C 3
    else weDone s s1 c fun w => { w with hook := { w.hook with entry := false } }

/-! ### Jumps, waits and the end (R296 to R299) -/

/-- The level-1 table a WE stream fetches its next bundle through. -/
def Stream.fetchRoot (t : Stream) : Nat := if t.we.hook.act then mget 0 t.we.ovroots t.we.hook.tenant else t.rootT

/-- A taken WJMP: the check of its target, which is fetched at issue, and LR (R266, R296). -/
def weJump (s s1 : State) (t : Stream) (a : Int) (lr : Nat) : Res :=
  let u := uI 64 a
  if 2 ^ 48 ≤ u then .trap 0x0B (addrStatus u)
  else
    let cid := s.cur.core
    let k := s.cur.key
    let s2 := match s1.fetchVa cid k t.fetchRoot u 32 with
      | .wait s' => s'
      | .ok _ => s1
      | .trap _ => s1
    .done (s2.updCore cid fun c => c.updStream k fun t => { t with we := { t.we with lr := lr } }) (.jump u) 1

/-- The target of an offset counted in bundles. -/
def bundleTarget (pc : Nat) (off : Int) : Int := (pc : Int) + 32 * off

def execWjmp (h : WHead) (off : Int) (s : State) : Host.Outcome State Fault Refusal :=
  runWe s h fun s1 _ t => weJump s s1 t (bundleTarget t.pc off) t.we.lr

def execWjmpLink (h : WHead) (off : Int) (s : State) : Host.Outcome State Fault Refusal :=
  runMain s h 0x09 fun s1 _ t =>
    if t.we.lr != 0 then .trap 0x0C 3 else weJump s s1 t (bundleTarget t.pc off) ((t.pc + 32) % 2 ^ 48)

def execWjmpRet (h : WHead) (s : State) : Host.Outcome State Fault Refusal :=
  runMain s h 0x09 fun s1 _ t => if t.we.lr = 0 then .trap 0x0C 3 else weJump s s1 t t.we.lr 0

/-- WEND (R298). It pushes in the clock in which it takes effect (R286). -/
def execWend (h : WHead) (s : State) : Host.Outcome State Fault Refusal :=
  runMain s h 0x0A fun s1 c t =>
    if t.we.opn then .trap 0x0C 3
    else if c.workDone s.cur.key s.cycles then .done (s1.endStream s.cur.core s.cur.key) .gone 0
    else .stall s1

/-- WRDZV n (R299). It ends its block (R180), and pushes in the clock in which it takes effect (R286). -/
def execWrdzv (h : WHead) (n : Nat) (s : State) : Host.Outcome State Fault Refusal :=
  runMain s h 0x0D fun s1 c t =>
    let k := s.cur.key
    let s2 := s1.setCore s.cur.core (c.returnCredit k)
    if t.we.opn then .trap 0x0C 3
    else if c.workDone k s.cycles then .done s2 (.wait (.rdzv n)) 0
    else .stall s2

/-- WWAIT (R297): a block head. -/
def execWwait (h : WHead) (sem scnt tcnt : Nat) (sy : Option Sync) (s : State) : Host.Outcome State Fault Refusal :=
  runMain s h 0x0B fun s1 _ _ => headBody s h.tp (wwaitHead sem scnt tcnt sy) (.wwait h sem scnt tcnt sy) s1

end Sys2Proof.Machine
end

