-- ==== Sys2Proof/Machine/Context.lean ====
section
/-!
DEFINITION. Sys2Proof/Machine/Context.lean: context images (R106, R153 to R155): what of a job they hold, how that stands in
their sections, and how it is read back from the bytes of an image; how a job is restored (R107, R133, R151); and the forced
switch (R150).
-/

namespace Sys2Proof.Machine

/-! ### Values in a section (log 14)

The spec says what each section holds and gives the layout of the records of R208 alone. Everything else stands in this model's own
layout (DESIGN CHOICE): a section is a list of numbers, each as its length in four bytes and its bytes. -/

/-- How values of a kind are written as numbers, and read back; a number that is missing reads as 0. -/
structure Codec (α : Type) where
  enc : α → List Nat
  dec : List Nat → α × List Nat

/-- The same of a part of a record, which a read puts in its place. -/
structure Part (α : Type) where
  enc : α → List Nat
  dec : List Nat → α → α × List Nat

def cNat : Codec Nat := ⟨fun n => [n], fun l => (l.headD 0, l.tail)⟩

/-- A kind of values by way of another. -/
def Codec.via {α β : Type} (c : Codec β) (f : α → β) (g : β → α) : Codec α :=
  ⟨fun x => c.enc (f x), fun l => let (v, r) := c.dec l; (g v, r)⟩

def cBool : Codec Bool := cNat.via bitN (· != 0)
def cWord : Codec Word := cNat.via BitVec.toNat (BitVec.ofNat 64)
def cByte : Codec Byte := cNat.via BitVec.toNat (BitVec.ofNat 8)

/-- Integers, the negative ones by odd numbers. -/
def cInt : Codec Int :=
  cNat.via (fun i => if i < 0 then 2 * (-i).toNat - 1 else 2 * i.toNat) fun n =>
    if n % 2 = 1 then -((n / 2 + 1 : Nat) : Int) else ((n / 2 : Nat) : Int)

def cPair {α β : Type} (a : Codec α) (b : Codec β) : Codec (α × β) where
  enc x := a.enc x.1 ++ b.enc x.2
  dec l :=
    let (x, r) := a.dec l
    let (y, r1) := b.dec r
    ((x, y), r1)

def cOpt {α : Type} (a : Codec α) : Codec (Option α) where
  enc x := match x with
    | none => [0]
    | some v => 1 :: a.enc v
  dec l := if l.headD 0 = 0 then (none, l.tail) else
    let (x, r) := a.dec l.tail
    (some x, r)

/-- n values one after another. -/
def decN {α : Type} (a : Codec α) : Nat → List Nat → List α × List Nat
  | 0, l => ([], l)
  | n + 1, l =>
    let (x, r) := a.dec l
    let (xs, r1) := decN a n r
    (x :: xs, r1)

/-- A list, its length first; none is longer than the numbers that are there. -/
def cList {α : Type} (a : Codec α) : Codec (List α) where
  enc l := l.length :: l.flatMap a.enc
  dec l := decN a (min (l.headD 0) l.length) l.tail

/-- A map, in its canonical form. -/
def cMap {α : Type} [DecidableEq α] (d : α) (a : Codec α) : Codec (SMap α) :=
  (cList (cPair cNat a)).via id fun l => l.foldl (fun m e => mput d e.1 e.2 m) []

/-- A field of a record. -/
def part' {α β : Type} (c : Codec β) (get : α → β) (set : β → α → α) : Part α :=
  ⟨fun x => c.enc (get x), fun l x => let (v, r) := c.dec l; (set v x, r)⟩

def encAll {α : Type} (ps : List (Part α)) (x : α) : List Nat := ps.flatMap fun p => p.enc x

def decAll {α : Type} : List (Part α) → List Nat → α → α × List Nat
  | [], l, x => (x, l)
  | p :: ps, l, x =>
    let (y, r) := p.dec l x
    decAll ps r y

/-- A record by its fields, the others as in x0. -/
def cRecord {α : Type} (x0 : α) (ps : List (Part α)) : Codec α := ⟨encAll ps, fun l => decAll ps l x0⟩

/-- Numbers as bytes. -/
def packNums (l : List Nat) : List Byte :=
  l.flatMap fun n =>
    let k := (bitLen n + 7) / 8
    toBytes 4 k ++ toBytes k n

/-- The numbers that bytes hold; n bounds how many. -/
def unpackNums : Nat → List Byte → List Nat
  | 0, _ => []
  | _ + 1, [] => []
  | n + 1, bs =>
    let k := leBytes (bs.take 4)
    leBytes ((bs.drop 4).take k) :: unpackNums n (bs.drop (4 + k))

/-! ### Parts of the state in a section -/

def scopeOf (n : Nat) : Scope := (rdScope n).getD .stream

/-- What a stream waits for. One that waits at a head tests it anew. -/
def cWait : Codec Wait where
  enc w := match w with
    | .rdzv n => [1, n]
    | .ckpt n a => [2, n, a]
    | .gbar d g ph acq sc => [3, d, g, ph, bitN acq, sc.bits]
    | .none => [0] | .head _ => [0] | .post _ => [0] | .wseg .. => [0] | .load .. => [0]
  dec l := match l with
    | 1 :: n :: r => (.rdzv n, r)
    | 2 :: n :: a :: r => (.ckpt n a, r)
    | 3 :: d :: g :: ph :: acq :: sc :: r => (.gbar d g ph (acq != 0) (scopeOf sc), r)
    | _ => (.none, l.tail)

/-- The word of a queued command of an engine, decoded as at its issue. -/
def cInstr (e : Eng) : Codec Instr :=
  cNat.via encode fun w => match decodeWord e true w with
    | .ok i => i
    | .error _ => .nop ⟨0, false, false, 126, false⟩

def cCmd (e : Eng) : Codec Cmd :=
  cRecord { instr := .nop ⟨0, false, false, 126, false⟩, vals := [], pc := 0, idx := 0, clk := 0 } [
    part' (cInstr e) Cmd.instr fun v x => { x with instr := v },
    part' (cList cNat) Cmd.vals fun v x => { x with vals := v },
    part' cNat Cmd.pc fun v x => { x with pc := v },
    part' cNat Cmd.idx fun v x => { x with idx := v },
    part' cNat Cmd.clk fun v x => { x with clk := v },
    part' cBool Cmd.started fun v x => { x with started := v },
    part' cNat Cmd.at_ fun v x => { x with at_ := v },
    part' cNat Cmd.pos fun v x => { x with pos := v },
    part' cNat Cmd.stage fun v x => { x with stage := v },
    part' (cList cNat) Cmd.aux fun v x => { x with aux := v }]

def cLoop : Codec LoopEnt :=
  (cPair (cPair cNat cNat) (cPair cNat (cPair cNat cNat))).via (fun x => ((x.start, x.fin), (x.rem, x.w, x.base)))
    fun v => ⟨v.1.1, v.1.2, v.2.1, v.2.2.1, v.2.2.2⟩

def cFib : Codec Fib :=
  cRecord ⟨0, 0, 0, 0, 0, 0, none, false⟩ [
    part' cNat Fib.p fun v x => { x with p := v },
    part' cNat Fib.cur fun v x => { x with cur := v },
    part' cNat Fib.fin fun v x => { x with fin := v },
    part' cNat Fib.base fun v x => { x with base := v },
    part' cNat Fib.cnt fun v x => { x with cnt := v },
    part' cNat Fib.rank fun v x => { x with rank := v },
    part' (cOpt cNat) Fib.last fun v x => { x with last := v },
    part' cBool Fib.ended fun v x => { x with ended := v }]

/-- What a stream register holds beside its record of R208. -/
def cStReg : Codec StReg :=
  cRecord {} [
    part' (cMap none (cOpt cFib)) StReg.fibs fun v x => { x with fibs := v },
    part' cNat StReg.idx fun v x => { x with idx := v },
    part' (cOpt cNat) StReg.bound fun v x => { x with bound := v }]

def cLeaf : Codec Leaf :=
  (cPair (cPair cNat cNat) cFib).via (fun x => ((x.desc, x.lrec), x.fib)) fun v => ⟨v.1.1, v.1.2, v.2, 0⟩

def cMerge : Codec Merge :=
  cRecord ⟨false, 0, 0, [], 0⟩ [
    part' cBool Merge.int fun v x => { x with int := v },
    part' cNat Merge.q1 fun v x => { x with q1 := v },
    part' cNat Merge.q2 fun v x => { x with q2 := v },
    part' (cList cLeaf) Merge.leaves fun v x => { x with leaves := v },
    part' cNat Merge.busy fun v x => { x with busy := v }]

def cQEnt : Codec QEnt where
  enc x := match x with
    | .vec l n => [0, l, n]
    | .sca v => [1, v.toNat]
  dec l := match l with
    | 0 :: v :: n :: r => (.vec v n, r)
    | _ :: v :: r => (.sca (word v), r)
    | _ => (.sca 0, [])

def cPlace : Codec QPlace where
  enc x := match x with
    | .reserved id => [0, id]
    | .landed e => 1 :: cQEnt.enc e
    | .present e => 2 :: cQEnt.enc e
  dec l := match l with
    | 0 :: id :: r => (.reserved id, r)
    | n :: r =>
      let (e, r1) := cQEnt.dec r
      (if n = 1 then .landed e else .present e, r1)
    | [] => (.reserved 0, [])

def cQueue : Codec Queue := (cList cPlace).via Queue.places fun l => { places := l }

/-- Where a result lands. The signal of a command is performed before an image is written. -/
def cLand : Codec Land where
  enc d := match d with
    | .x n v => [1, n, v.toNat]
    | .p n v => [2, n, bitN v]
    | .v n l => [3, n, l]
    | .q n id e => 4 :: n :: id :: cQEnt.enc e
    | .acc n m v s => 5 :: n :: m :: bitN s :: cInt.enc v
    | .f n l => 6 :: n :: (cList cNat).enc l
    | .sem n a pc => [7, n, a, pc]
    | .hold n => [8, n]
    | .sig .. => [0] | .none => [0]
  dec l := match l with
    | 1 :: n :: v :: r => (.x n (word v), r)
    | 2 :: n :: v :: r => (.p n (v != 0), r)
    | 3 :: n :: v :: r => (.v n v, r)
    | 4 :: n :: id :: r =>
      let (e, r1) := cQEnt.dec r
      (.q n id e, r1)
    | 5 :: n :: m :: s :: r =>
      let (v, r1) := cInt.dec r
      (.acc n m v (s != 0), r1)
    | 6 :: n :: r =>
      let (v, r1) := (cList cNat).dec r
      (.f n v, r1)
    | 7 :: n :: a :: pc :: r => (.sem n a pc, r)
    | 8 :: n :: r => (.hold n, r)
    | _ => (.none, l.tail)

def cPending : Codec Pending :=
  cRecord ⟨0, 0, .none, 0, 0⟩ [
    part' cNat Pending.key fun v x => { x with key := v },
    part' cNat Pending.rem fun v x => { x with rem := v },
    part' cLand Pending.dst fun v x => { x with dst := v },
    part' cNat Pending.flags fun v x => { x with flags := v },
    part' cNat Pending.lat fun v x => { x with lat := v }]

def cRetire : Codec Retire :=
  (cPair cNat (cPair cNat cNat)).via (fun x => (x.key, x.partner, x.rem)) fun v => ⟨v.1, 0, v.2.1, v.2.2⟩

def cFlush : Codec Flush :=
  cRecord ⟨0, 0, false, [], 0, 0, 0, none⟩ [
    part' cNat Flush.key fun v x => { x with key := v },
    part' cNat Flush.row fun v x => { x with row := v },
    part' cBool Flush.add fun v x => { x with add := v },
    part' (cList (cPair cInt cBool)) Flush.vals fun v x => { x with vals := v },
    part' cNat Flush.group fun v x => { x with group := v },
    part' cNat Flush.flags fun v x => { x with flags := v },
    part' (cOpt cNat) Flush.partner fun v x => { x with partner := v }]

/-- A fill copies its whole rectangle again (R224). -/
def cFill : Codec Fill :=
  cRecord ⟨0, 0, 0, 0, 0, false, none⟩ [
    part' cNat Fill.key fun v x => { x with key := v },
    part' cNat Fill.src fun v x => { x with src := v },
    part' cNat Fill.geo fun v x => { x with geo := v },
    part' cNat Fill.stride fun v x => { x with stride := v },
    part' (cOpt cNat) Fill.partner fun v x => { x with partner := v }]

def cSeg : Codec Seg :=
  cRecord {} [
    part' cNat Seg.accbase fun v x => { x with accbase := v },
    part' cNat Seg.accrows fun v x => { x with accrows := v },
    part' cInt Seg.lacc fun v x => { x with lacc := v },
    part' cBool Seg.e4m3 fun v x => { x with e4m3 := v },
    part' cNat (fun x => x.frm.bits) fun v x => { x with frm := rmOf v },
    part' cNat Seg.nfl fun v x => { x with nfl := v }]

def cHook : Codec Hook :=
  cRecord {} [
    part' cBool Hook.act fun v x => { x with act := v },
    part' cNat Hook.pc fun v x => { x with pc := v },
    part' cNat Hook.n fun v x => { x with n := v },
    part' cNat Hook.tenant fun v x => { x with tenant := v },
    part' cBool Hook.entry fun v x => { x with entry := v },
    part' cNat Hook.next fun v x => { x with next := v },
    part' cBool Hook.running fun v x => { x with running := v }]

/-- The state of a WE stream but for its snapshots (R256). -/
def weParts : List (Part We) := [
  part' (cMap 0 cNat) We.f fun v x => { x with f := v },
  part' (cMap 0 cNat) We.row fun v x => { x with row := v },
  part' cBool We.opn fun v x => { x with opn := v },
  part' cInt We.e fun v x => { x with e := v },
  part' cBool We.nv fun v x => { x with nv := v },
  part' cSeg We.seg fun v x => { x with seg := v },
  part' cNat We.lr fun v x => { x with lr := v },
  part' cHook We.hook fun v x => { x with hook := v }]

/-- The tenant snapshots of a WE stream (R270). -/
def snapParts : List (Part We) := [
  part' (cMap 0 cNat) We.map fun v x => { x with map := v },
  part' (cMap 0 cNat) We.tslots fun v x => { x with tslots := v },
  part' (cMap 0 cNat) We.ovroots fun v x => { x with ovroots := v },
  part' (cList cNat) We.present fun v x => { x with present := v }]

def cBypass : Codec Bypass :=
  cRecord ⟨0, 0, 0, [], []⟩ [
    part' cNat Bypass.rows fun v x => { x with rows := v },
    part' cNat Bypass.ext fun v x => { x with ext := v },
    part' cNat Bypass.dfmt fun v x => { x with dfmt := v },
    part' (cMap 0 cNat) Bypass.code fun v x => { x with code := v },
    part' (cMap 0 cNat) Bypass.scale fun v x => { x with scale := v }]

/-- A bypass buffer without its scales, which stand in the section for feature 10 where a FP4 or PW2 format is in use. -/
def Me.plainBypass (m : Me) : Option Bypass := m.bypass.map fun b => if m.fp4 then { b with scale := [] } else b

def meParts : List (Part Me) := [
  part' (cMap 0 cNat) Me.bind fun v x => { x with bind := v },
  part' (cMap 0 cNat) Me.shadow fun v x => { x with shadow := v },
  part' (cMap 0 cNat) Me.active fun v x => { x with active := v },
  part' cNat Me.prog fun v x => { x with prog := v },
  part' cNat Me.faultaddr fun v x => { x with faultaddr := v },
  part' cBool Me.halt fun v x => { x with halt := v },
  part' (cOpt cBypass) Me.plainBypass fun v x => { x with bypass := v }]

/-- The scales of a bypass buffer. -/
def Me.scales (m : Me) : SMap Nat := m.bypass.elim [] Bypass.scale
def Me.setScales (m : Me) (v : SMap Nat) : Me := { m with bypass := m.bypass.map fun b => { b with scale := v } }

def cBarrier : Codec Barrier :=
  cRecord {} [
    part' cInt Barrier.balance fun v x => { x with balance := v },
    part' cBool Barrier.exp fun v x => { x with exp := v },
    part' cBool Barrier.phase fun v x => { x with phase := v },
    part' cBool Barrier.bound fun v x => { x with bound := v },
    part' cNat Barrier.group fun v x => { x with group := v },
    part' cBool Barrier.sigen fun v x => { x with sigen := v },
    part' cNat Barrier.sem fun v x => { x with sem := v }]

def cMarker : Codec Marker :=
  cRecord ⟨0, 0, 0, 0, 0, 0, false⟩ [
    part' cNat Marker.key fun v x => { x with key := v },
    part' cNat Marker.join fun v x => { x with join := v },
    part' cNat Marker.eng fun v x => { x with eng := v },
    part' cNat Marker.tgt fun v x => { x with tgt := v },
    part' cNat Marker.upto fun v x => { x with upto := v },
    part' cNat Marker.work fun v x => { x with work := v },
    part' cBool Marker.hook fun v x => { x with hook := v }]

def cTrap : Codec TrapRec :=
  cRecord {} [
    part' cNat TrapRec.cause fun v x => { x with cause := v },
    part' cNat TrapRec.pc fun v x => { x with pc := v },
    part' cNat TrapRec.cmd fun v x => { x with cmd := v },
    part' cNat TrapRec.status fun v x => { x with status := v },
    part' cNat TrapRec.eng fun v x => { x with eng := v }]

def cCatch : Codec Catch :=
  cRecord ⟨0, 0, [], 0, 0⟩ [
    part' cNat Catch.line fun v x => { x with line := v },
    part' (cList cNat) Catch.lines fun v x => { x with lines := v },
    part' cNat Catch.name fun v x => { x with name := v },
    part' cNat Catch.left fun v x => { x with left := v }]

/-- What every stream has: pc, registers, flags, loops, its wait, credit and queued commands (R84, R174, R175, R256, R306, R368). -/
def streamParts (e : Eng) : List (Part Stream) := [
  part' cNat Stream.pc fun v x => { x with pc := v },
  part' (cMap 0 cWord) Stream.x fun v x => { x with x := v },
  part' (cMap false cBool) Stream.p fun v x => { x with p := v },
  part' cNat (fun x => x.rm.bits) fun v x => { x with rm := rmOf v },
  part' cBool Stream.f8ns fun v x => { x with f8ns := v },
  part' cNat Stream.flags fun v x => { x with flags := v },
  part' (cList cLoop) Stream.loops fun v x => { x with loops := v },
  part' cWait Stream.wait fun v x => { x with wait := v },
  part' cNat Stream.rootT fun v x => { x with rootT := v },
  part' cNat Stream.credit fun v x => { x with credit := v },
  part' cNat Stream.creditFrom fun v x => { x with creditFrom := v },
  part' (cOpt cNat) Stream.owe fun v x => { x with owe := v },
  part' (cMap 0 cWord) Stream.bps fun v x => { x with bps := v },
  part' (cMap 0 cNat) Stream.v fun v x => { x with v := v },
  part' (cOpt cMerge) Stream.merge fun v x => { x with merge := v },
  part' (cMap {} cStReg) Stream.stregs fun v x => { x with stregs := v },
  part' (cRecord {} weParts) (fun x => { x.we with map := [], present := [], tslots := [], ovroots := [] })
    fun v x => { x with we := { v with map := x.we.map, present := x.we.present, tslots := x.we.tslots, ovroots := x.we.ovroots } },
  part' (cRecord {} meParts) Stream.me fun v x => { x with me := v },
  part' (cList (cCmd e)) Stream.cmds fun v x => { x with cmds := v }]

/-- The record of a job (R9, R85, R86, R143). -/
def jobParts : List (Part Job) := [
  part' cNat Job.desc fun v x => { x with desc := v },
  part' cNat Job.engmask fun v x => { x with engmask := v },
  part' cNat Job.qmask fun v x => { x with qmask := v },
  part' cNat Job.semSize fun v x => { x with semSize := v },
  part' cBool Job.priv fun v x => { x with priv := v },
  part' cBool Job.unlim fun v x => { x with unlim := v },
  part' cBool Job.grace fun v x => { x with grace := v },
  part' cNat Job.remain fun v x => { x with remain := v },
  part' cNat Job.tmap fun v x => { x with tmap := v },
  part' cNat Job.itBase fun v x => { x with itBase := v },
  part' cNat Job.dtBase fun v x => { x with dtBase := v },
  part' (cMap 0 cNat) Job.tokens fun v x => { x with tokens := v },
  part' cTrap Job.trap fun v x => { x with trap := v },
  part' cNat Job.rowProg fun v x => { x with rowProg := v }]

/-! ### What an image holds -/

/-- The state of a job that an image carries (R106, R154), apart from where it stood on its core: streams under 4·engine, and
semaphores by their numbers in the job's window. -/
structure Saved where
  ckpt : Bool := false
  job : Job := {}
  streams : SMap Stream := []
  queues : SMap Queue := []
  sems : List Nat := []
  barriers : List Barrier := []
  spad : SMap Byte := []
  acc : SMap Nat := []
  lane : SMap Byte := []
  tenants : SMap Word := []
  catches : List Catch := []
  nextQ : Nat := 0
  deriving DecidableEq, Repr

/-- The stream of an engine in an image. -/
def Saved.stream? (r : Saved) (e : Nat) : Option Stream := mlook (4 * e) r.streams

def Saved.updStream (r : Saved) (e : Nat) (f : Stream → Stream) : Saved :=
  match r.stream? e with
  | none => r
  | some t => { r with streams := mset (4 * e) (f t) r.streams }

/-- The engines whose streams an image holds. -/
def Saved.mask (r : Saved) : Nat := r.streams.foldl (fun m e => m ||| 2 ^ (e.1 / 4)) 0

/-- The stream of engine e, and its replay records (R150). -/
def streamPart (e : Nat) : Part Saved :=
  part' (cOpt (cRecord {} (streamParts (engNo e)))) (fun r => r.stream? e) fun v r =>
    match v with
    | none => r
    | some t => { r with streams := mset (4 * e) t r.streams }

def replayPart (e : Nat) : Part Saved :=
  let mine := fun (k : Nat) => k / 4 == e
  let upd := fun (f : Replay → Replay) (r : Saved) => { r with job := { r.job with replay := f r.job.replay } }
  part' (cPair (cPair (cList cPending) (cList cRetire)) (cPair (cList cFlush) (cList cFill)))
    (fun r =>
      let q := r.job.replay
      ((q.pend.filter fun p => mine p.key, q.ret.filter fun p => mine p.key),
        (q.flush.filter fun p => mine p.key, q.fill.filter fun p => mine p.key)))
    fun v => upd fun q => { pend := q.pend ++ v.1.1, ret := q.ret ++ v.1.2, flush := q.flush ++ v.2.1, fill := q.fill ++ v.2.2 }

/-- The queue registers stand in the section of VA, or in that of VE where the image holds no stream of VA. -/
def queuesIn (r : Saved) (e : Nat) : Bool := e == 1 || (e == 2 && (r.stream? 1).isNone)

def queuePart (e : Nat) : Part Saved :=
  part' (cMap {} cQueue) (fun r => if queuesIn r e then r.queues else []) fun v r =>
    if v.isEmpty then r else { r with queues := v }

def jobPart {β : Type} (c : Codec β) (get : Job → β) (set : β → Job → Job) : Part Saved :=
  part' c (fun r => get r.job) fun v r => { r with job := set v r.job }

/-- The parts of each section (R154). -/
def secParts (i : Nat) : List (Part Saved) :=
  match i with
  | 0 => [streamPart 0, replayPart 0, jobPart (cList cMarker) Job.markers fun v b => { b with markers := v }]
  | 1 => [streamPart 1, replayPart 1, queuePart 1]
  | 2 => [streamPart 2, replayPart 2, queuePart 2]
  | 3 => [streamPart 3, replayPart 3]
  | 4 => [streamPart 4, replayPart 4]
  | 5 => [streamPart 5, replayPart 5, part' (cList cBarrier) Saved.barriers fun v r => { r with barriers := v }]
  | 7 => [part' (cMap 0 cWord) Saved.tenants fun v r => { r with tenants := v },
      part' (cRecord {} snapParts) (fun r => (r.stream? 3).elim {} Stream.we) fun v r => r.updStream 3 fun t =>
        { t with we := { t.we with map := v.map, present := v.present, tslots := v.tslots, ovroots := v.ovroots } }]
  | 8 => [part' (cMap Memory.blank cByte) Saved.spad fun v r => { r with spad := v },
      part' (cMap 0 cNat) Saved.acc fun v r => { r with acc := v },
      part' (cMap Memory.blank cByte) Saved.lane fun v r => { r with lane := v }]
  | 9 => [jobPart (cRecord {} jobParts) id fun v b => { v with markers := b.markers, replay := b.replay },
      part' (cList cNat) Saved.sems fun v r => { r with sems := v },
      part' (cMap [] (cList cNat)) (fun r => r.streams.map fun e => (e.1, e.2.groups)) fun v r =>
        { r with streams := r.streams.map fun e => (e.1, { e.2 with groups := mget [] v e.1 }) },
      part' cNat Saved.nextQ fun v r => { r with nextQ := v }]
  | 10 => [part' (cMap 0 cNat) (fun r => (r.stream? 4).elim [] fun t => t.me.scales) fun v r => r.updStream 4 fun t =>
      { t with me := t.me.setScales v }]
  | 11 => [part' (cList cCatch) Saved.catches fun v r => { r with catches := v }]
  | _ => []

/-- Whether feature i has state in an image (R154). -/
def Saved.live (r : Saved) (i : Nat) : Bool :=
  let on := fun (e : Nat) => (r.stream? e).isSome
  match i with
  | 0 => on 0
  | 1 => on 1 || (!r.queues.isEmpty && !on 2)
  | 2 => on 2
  | 3 => on 3
  | 4 => on 4
  | 5 => on 5 || r.barriers.any (· != {})
  | 6 => on 1
  | 7 => on 3
  | 8 => true
  | 9 => true
  | 10 => (r.stream? 4).any fun t => t.me.fp4
  | 11 => !r.catches.isEmpty
  | _ => false

/-! ### The records of R208 -/

/-- One record of the section for feature 6. -/
def stRecord (g : StReg) : List Byte :=
  let at_ := fun (f : Nat → Fib → Nat) (i : Nat) => ((mget none g.fibs i).map (f (g.levels.getD i 0))).getD 0
  let st := bitN g.valid * 2 ^ 63 + g.mode % 4 * 2 ^ 61 + bitN g.done * 2 ^ 60 + g.lvl % 16 * 2 ^ 56 + g.opA % 32 * 2 ^ 48
    + g.opB % 32 * 2 ^ 40
  toBytes 64 g.desc ++ (List.range 4).flatMap (fun i => toBytes 32 (g.levels.getD i 0))
    ++ (List.range 4).flatMap (fun i => toBytes 8 (at_ Fib.curPos i))
    ++ (List.range 4).flatMap (fun i => toBytes 8 (at_ Fib.endPos i))
    ++ toBytes 8 st
    ++ (if g.valid && g.mode == 0 then (denseCoords g.desc g.idx).flatMap (toBytes 8) else List.replicate 32 0)
    ++ List.replicate 24 0

/-- n consecutive little-endian values of w bytes from offset o. -/
def recVals (bs : List Byte) (o w n : Nat) : List Nat := (List.range n).map fun i => leBytes ((bs.drop (o + w * i)).take w)

/-- A fibre brought to the positions CUR and END of a record. -/
def Fib.moved (l cur fin : Nat) (f : Fib) : Fib :=
  match lvKind l with
  | 0 => { f with cur := cur - f.p * lvSize l, fin := fin - f.p * lvSize l }
  | 2 => { f with rank := cur - f.base, cnt := fin - f.base }
  | _ => { f with cur := cur, fin := fin }

/-- The index of dense coordinates, dim 0 fastest. -/
def denseIdx (d : Nat) (cs : List Nat) : Nat :=
  (List.range (dDims d)).foldr (fun i n => n * dSize d i + cs.getD i 0) 0

/-- A stream register from its record, over what the section for feature 1 gives beside it. -/
def stFrom (bs : List Byte) (g : StReg) : StReg :=
  let st := leBytes ((bs.drop 256).take 8)
  let d := leBytes (bs.take 64)
  let ls := (recVals bs 64 32 4).takeWhile (· != 0)
  let cur := recVals bs 192 8 4
  let fin := recVals bs 224 8 4
  let mode := fld st 61 2
  { g with
    valid := bit st 63, desc := d, levels := ls, mode := mode, done := bit st 60, lvl := fld st 56 4
    opA := fld st 48 5, opB := fld st 40 5
    idx := if bit st 63 && mode == 0 then denseIdx d (recVals bs 264 8 4) else g.idx
    fibs := g.fibs.map fun e => (e.1, e.2.map fun f => f.moved (ls.getD e.1 0) (cur.getD e.1 0) (fin.getD e.1 0)) }

def stBytes (t : Stream) : List Byte := (List.range 32).flatMap fun i => stRecord (t.sreg i)

def stRead (bs : List Byte) (t : Stream) : Stream :=
  (List.range 32).foldl (fun t i => t.setSreg i (stFrom ((bs.drop (320 * i)).take 320) (t.sreg i))) t

/-- The merge state of R208 at the start of the section for feature 1, 64 leaves of 24 bytes. -/
def leafBytes (m : Option Merge) : List Byte :=
  (List.range 64).flatMap fun i => match (m.elim [] Merge.leaves)[i]? with
    | none => List.replicate 24 0
    | some l => toBytes 8 (l.fib.curPos l.lrec) ++ toBytes 8 (l.fib.endPos l.lrec) ++ toBytes 4 l.scale ++ toBytes 4 1

def leafRead (bs : List Byte) (m : Merge) : Merge :=
  { m with leaves := ((List.range m.leaves.length).zip m.leaves).filterMap fun e =>
      let w := (bs.drop (24 * e.1)).take 24
      if bit (leBytes (w.drop 20)) 0 then
        some { e.2 with
          fib := e.2.fib.moved e.2.lrec (leBytes (w.take 8)) (leBytes ((w.drop 8).take 8)), scale := leBytes ((w.drop 16).take 4) }
      else none }

/-! ### Sections (R154) -/

/-- The bytes of section i. -/
def Saved.section' (r : Saved) (i : Nat) : List Byte :=
  if !r.live i then []
  else if i = 6 then stBytes ((r.stream? 1).getD {})
  else
    let body := packNums (encAll (secParts i) r)
    if i = 1 then leafBytes ((r.stream? 1).bind Stream.merge) ++ body else body

/-- What section i of an image adds to what the sections before it hold. -/
def readSection (i : Nat) (bs : List Byte) (r : Saved) : Saved :=
  if i = 6 then r.updStream 1 (stRead bs)
  else
    let body := if i = 1 then bs.drop 1536 else bs
    let r1 := (decAll (secParts i) (unpackNums body.length body) r).1
    if i = 1 then r1.updStream 1 fun t => { t with merge := t.merge.map (leafRead bs) } else r1

/-! ### The image (R153) -/

def imgMagic : Nat := 0x4C47435854494D47

/-- The features of this device (R154). -/
def featAll : Nat := 0xFFF

/-- A list of bytes padded with zeros to a multiple of n. -/
def padTo (n : Nat) (bs : List Byte) : List Byte := bs ++ List.replicate ((n - bs.length % n) % n) 0

/-- The directory: offset and length of each section, an absent one all zero. -/
def directory : Nat → List (List Byte) → List Byte
  | _, [] => []
  | o, x :: r => toBytes 7 (if x.isEmpty then 0 else o) ++ toBytes 7 x.length ++ directory (o + x.length) r

/-- The features that have state in an image, which are those whose state it carries. -/
def Saved.liveBits (r : Saved) : Nat := (List.range 16).foldl (fun m i => if r.live i then m ||| 2 ^ i else m) 0

/-- The 256-byte header. -/
def imgHeader (kind keyslot live : Nat) (secs : List (List Byte)) (body : List Byte) : List Byte :=
  let v := imgMagic + 2 * 2 ^ 64 + kind * 2 ^ 72 + keyslot * 2 ^ 80 + crc32c body * 2 ^ 96 + live * 2 ^ 128 + live * 2 ^ 192
  toBytes 32 v ++ directory 256 secs

/-- The key slot that encrypts a job's images: that of its lowest-numbered valid key-slot entry (R329), if it holds a key
(log 14). -/
def State.imageKey (s : State) (cid j : Nat) : Option (Nat × Nat) :=
  let b := (s.core cid).job j
  match (List.range 64).find? fun ch => (b.cap ch).valid && (b.cap ch).kind == 5 with
  | none => none
  | some ch =>
    let slot := fld (b.cap ch).lo 0 12
    (mget none (s.die (dieOf cid)).keys slot).map fun key => (slot, key)

/-- The bytes of an image of what job j has saved: a forced switch's body is encrypted under the job's key slot. -/
def State.imageOf (s : State) (cid j : Nat) (r : Saved) : List Byte :=
  let kind := if r.ckpt then 1 else 2
  let secs := (List.range 16).map r.section'
  let body := padTo 512 secs.flatten
  match (if r.ckpt then none else s.imageKey cid j) with
  | none => imgHeader kind 0xFFFF r.liveBits secs body ++ body
  | some (slot, key) => imgHeader kind slot r.liveBits secs body ++ xtsUnits true key 0 body

/-- What the plaintext of an image stands for: the sections of its live features (R155, step 3). Images of version 1 keep the same
layout (DESIGN CHOICE, log 14). -/
def readImage (h plain : List Byte) : Saved :=
  let v := leBytes (h.take 32)
  (List.range 12).foldl (fun r i =>
    let o := leBytes ((h.drop (32 + 14 * i)).take 7)
    let n := leBytes ((h.drop (39 + 14 * i)).take 7)
    if bit (fld v 128 64) i && n != 0 then readSection i ((plain.drop (o - 256)).take n) r else r) { ckpt := fld v 72 8 == 1 }

/-! ### What is saved (R106, R150, R154) -/

/-- A result of a job apart from where its semaphore window stands. -/
def Pending.rebase (p : Pending) (f : Nat → Nat) : Pending :=
  match p.dst with
  | .sem n a pc => { p with dst := .sem (f n) a pc }
  | .x _ _ => p | .p _ _ => p | .v _ _ => p | .q _ _ _ => p | .acc _ _ _ _ => p | .f _ _ => p | .sig .. => p | .hold _ => p
  | .none => p

/-- The state of job j as a forced switch saves it (R154). -/
def State.capture (s : State) (cid j : Nat) : Saved :=
  let c := s.core cid
  let b := c.job j
  let ks := c.jobKeys j
  let key := fun (k : Nat) => 4 * (k / 4)
  { job := { b with
      replay := {
        pend := b.replay.pend.map fun p => { (p.rebase fun n => n - b.semBase) with key := key p.key }
        ret := b.replay.ret.map fun r => { r with key := key r.key }
        flush := b.replay.flush.map fun f => { f with key := key f.key }
        fill := b.replay.fill.map fun f => { f with key := key f.key } }
      markers := b.markers.map fun m => { m with key := key m.key, tgt := key m.tgt } }
    streams := ks.foldl (fun m k => mset (key k) (c.stream k) m) []
    queues := (maskBits 16 b.qmask).foldl (fun m q => mput {} q (c.queue q) m) []
    sems := mrange 0 c.sems b.semBase b.semSize
    barriers := mrange {} c.barriers (4 * j) 4
    spad := mkeep (fun a => b.inRegions a 1) c.spad
    acc := c.acc, lane := c.lane, tenants := part 136 200 c.active
    catches := if ks.any (· / 4 == 3) then s.ring.catches.filter fun k => k.core == cid else []
    nextQ := c.nextQ }

/-- A range of a live-range table (R105): space, offset, length. -/
structure LiveRange where
  space : Nat
  off : Nat
  len : Nat
  deriving DecidableEq, Repr

/-- The entries of a map whose keys lie in one of some ranges, unit bytes a key. -/
def keepRanges {α : Type} (rs : List LiveRange) (space unit : Nat) (m : SMap α) : SMap α :=
  mkeep (fun a => rs.any fun r => r.space == space && r.off ≤ unit * a && unit * a < r.off + r.len) m

/-- What a checkpoint saves of that (R106): of each stream the address behind its rendezvous, x1 to x15 and p0 to p31. -/
def Saved.atCkpt (f : Saved) (rs : List LiveRange) : Saved :=
  { f with
    ckpt := true
    job := { f.job with tokens := [], markers := [], replay := {} }
    streams := f.streams.map fun e => (e.1, { pc := (e.2.pc + instrLen (engOf e.1)) % 2 ^ 48,
                                              x := mkeep (· < 16) e.2.x, p := mkeep (· < 32) e.2.p })
    queues := [], tenants := [], catches := []
    spad := keepRanges rs 0 1 f.spad
    acc := keepRanges rs 1 8 f.acc
    lane := keepRanges rs 2 1 f.lane }

/-! ### Writing images -/

/-- The addresses of an image's 4 KiB pieces. -/
def pieces (a n : Nat) : List Nat := (List.range ((n + 4095) / 4096)).map fun i => a + 4096 * i

/-- The sender of the lines that the hardware itself writes. Its key is no stream's, and it charges no job. -/
def imageKeyNo : Nat := 25
def imageSender (cid clk : Nat) : Sender := ⟨cid, imageKeyNo, 8, 0, 0, clk, clk⟩

/-- An image leaves for memory line by line, through the drain buffer of its writer (R49, R50), or, for the wick core, P(c); a piece
whose page is not mapped is left out. -/
def Core.drainImage (c : Core) (w : Sender) (pas : List (Option Nat)) (bs : List Byte) : Core :=
  (List.range (bs.length / 64)).foldl (fun c i =>
    match pas.getD (i / 64) none with
    | none => c
    | some pa =>
      let a := pa + 64 * (i % 64)
      let d := (bs.drop (64 * i)).take 64
      if w.key = 24 then
        (c.dropLines fun l => l == a / 64).post w (linePacket .write vcBulk a (2 ^ 64 - 1) d) (.write w.key) (a / 2 ^ 36) (some (a / 2 ^ 36)) none
      else c.drainLine w a (2 ^ 64 - 1) d) c

/-- Whether the lines of an image that the hardware itself writes are still under way. -/
def Core.imageUnderWay (c : Core) : Bool :=
  (c.db.any fun d => d.who.key == imageKeyNo) || c.reqs.any fun r => r.key == imageKeyNo

/-- The image of what job j has saved leaves for SAVE_BASE (R104, R150). The tables are read in one step (log 10). -/
def State.sendImage (s : State) (cid j : Nat) (r : Saved) : State :=
  let b := (s.core cid).job j
  let bs := s.imageOf cid j r
  let pas := (pieces (descSave b.desc) bs.length).map fun a => (s.xlatNow b.dtBase a true).toOption
  s.updCore cid fun c => c.drainImage (imageSender cid s.cycles) pas bs

/-! ### Reading images (R107, R155) -/

/-- Why an image is not restored. -/
inductive ImgErr where
  | malformed
  | feature
  | crc
  deriving DecidableEq, Repr

/-- The length of an image's body from its directory. -/
def bodyLen (h : List Byte) : Nat :=
  let ends := (List.range 16).map fun i =>
    let o := leBytes ((h.drop (32 + 14 * i)).take 7)
    let n := leBytes ((h.drop (39 + 14 * i)).take 7)
    if n = 0 then 256 else o + n
  (ends.foldl max 256 - 256 + 511) / 512 * 512

/-- The checks of a header (R155, steps 1 and 2). -/
def headerCheck (h : List Byte) : Except ImgErr Unit :=
  let v := leBytes (h.take 32)
  let kind := fld v 72 8
  let live := fld v 128 64
  let feats := fld v 192 64
  if fld v 0 64 != imgMagic || !(kind == 1 || kind == 2) || !(fld v 64 8 == 1 || fld v 64 8 == 2) then .error .malformed
  else if live &&& feats != live then .error .malformed
  else if live &&& featAll != live then .error .feature
  else .ok ()

/-- The plaintext of a body under its key slot, with the check of step 4. -/
def State.plainBody (s : State) (cid : Nat) (h body : List Byte) : Except ImgErr (List Byte) :=
  let v := leBytes (h.take 32)
  let slot := fld v 80 16
  let plain := if slot = 0xFFFF then some body
    else if 4096 ≤ slot then none
    else (mget none (s.die (dieOf cid)).keys slot).map fun key => xtsUnits false key 0 body
  match plain with
  | none => .error .crc
  | some p => if crc32c p = fld v 96 32 then .ok p else .error .crc

/-! ### Restoring (R107, R133, R151) -/

/-- The stream key that a saved key becomes. -/
def reKey (p : Place) (k : Nat) : Nat := (p.keys.find? fun x => x / 4 == k / 4).getD k

/-- Where a saved job would stand, with the section it would take (R93). -/
def State.restorePlace (s : State) (cid plane : Nat) (r : Saved) : Option (Place × SMap Word) :=
  let c := s.core cid
  match c.place r.mask r.job.semSize r.job.qmask, s.sectionFor cid plane with
  | some p, some sec => if c.regionsFree sec then some (p, sec) else none
  | _, _ => none

/-- The replay records of a saved job's streams in its new place. -/
def Replay.move (r : Replay) (pl : Place) : Replay :=
  let on := fun (k : Nat) => pl.keys.any fun x => x / 4 == k / 4
  { pend := (r.pend.filter fun p => on p.key).map fun p => { (p.rebase (· + pl.semBase)) with key := reKey pl p.key }
    ret := (r.ret.filter fun x => on x.key).map fun x => { x with key := reKey pl x.key, job := pl.slot }
    flush := (r.flush.filter fun x => on x.key).map fun x => { x with key := reKey pl x.key }
    fill := (r.fill.filter fun x => on x.key).map fun x => { x with key := reKey pl x.key } }

/-- The command that posted the expectation of barrier i of a saved job, if it is in the queue (R339). -/
def Saved.expOwner (r : Saved) (p : Place) (i : Nat) : Option (Nat × Nat) :=
  (r.stream? 5).bind fun t => (t.cmds.find? fun m => m.started && m.stage == 1 && fld (m.vals.getD 0 0) 0 2 == i
    && (match m.instr with
      | .xexp .. => true
      | _ => false)).map fun m => (reKey p 20, m.idx)

/-- A saved job placed on a core, its streams HELD and its storage restored. b is the job's record in its new place. -/
def Core.restore (c : Core) (r : Saved) (p : Place) (b : Job) : Core :=
  let keep := mkeep (fun a => !b.inRegions a 1) c.spad
  { c with
    spad := mbulk Memory.blank (mkeep (fun a => b.inRegions a 1) r.spad) keep
    acc := r.acc
    lane := r.lane
    sems := (List.range r.job.semSize).foldl (fun m i => mput 0 (p.semBase + i) (r.sems.getD i 0) m) c.sems
    barriers := (List.range 4).foldl (fun m i =>
      let x := r.barriers.getD i {}
      mput {} (4 * p.slot + i) { x with owner := if x.exp then r.expOwner p i else none } m) c.barriers
    queues := (maskBits 16 r.job.qmask).foldl (fun m q => mput {} q (mget {} r.queues q) m) c.queues
    streams := r.streams.foldl (fun m e => mput {} (reKey p e.1) { e.2 with st := .held, job := p.slot } m) c.streams
    active := if r.tenants.isEmpty then c.active else overlay 136 200 r.tenants c.active
    jobs := mput {} p.slot b c.jobs
    nextQ := max c.nextQ r.nextQ }

/-- The catches of code lines that an image carries go on (R154). -/
def State.restoreCatches (s : State) (cid : Nat) (r : Saved) : State :=
  let new := r.catches.filter fun k => !s.ring.catches.any fun x => x.core == cid && x.line == k.line
  { s with ring := { s.ring with catches := s.ring.catches ++ new.map fun k => { k with core := cid } } }

/-- Commands renumbered from 0 (R143), and what names one of them by its number. -/
def renumber (l : List Cmd) : List Cmd := ((List.range l.length).zip l).map fun e => { e.2 with idx := e.1 }

/-- The record of a restored job: that of the image in its new place, with a section and a state. -/
def Saved.newJob (r : Saved) (p : Place) (sec : SMap Word) (st : JobSt) : Job :=
  { r.job with
    st := st, semBase := p.semBase, sec := sec, grace := false, startClk := notStarted
    markers := r.job.markers.map fun m => { m with key := reKey p m.key, tgt := reKey p m.tgt }
    replay := r.job.replay.move p }

/-- The streams of a checkpoint image take what a job start gives them anew (R106, R256): ROOTT and the segment state. -/
def State.freshStreams (s : State) (cid j : Nat) : State :=
  let b := (s.core cid).job j
  ((s.core cid).jobKeys j).foldl (fun s k => s.updCore cid fun c => c.updStream k fun t =>
    { t with rootT := rootTOf s b.itBase, we := if k / 4 = 3 then s.startWe cid b else {} }) s

/-- The largest latency − r over the replay records (R151). -/
def Replay.lead (r : Replay) : Nat :=
  max ((r.pend.map fun p => p.lat - p.rem).foldl max 0) ((r.flush.map Flush.group).foldl max 0)

/-- A stream of a resumed job: it issues from clock u on, and its commands are counted anew (R143); retired is when its replayed
operations have retired (R14). -/
def Stream.resume (t : Stream) (u : Nat) (me : Bool) (retired : Nat) : Stream :=
  { t with
    st := .live, noIssue := u, ncmd := t.cmds.length, cmds := renumber t.cmds, retLeft := retired
    me := { t.me with ready := if me then u + 12 else 0 } }

/-- A HELD job starts at clock U = Q + 2 + W with its replay records re-issued (R151); its streams rejoin their groups, and
a nest waits as after MRST. Q is the present clock. -/
def State.resumeJob (s : State) (cid j : Nat) : State :=
  let q := s.cycles
  let c := s.core cid
  let rp := (c.job j).replay
  let u := q + 2 + rp.lead
  let d := u - 1 - q
  let ks := c.jobKeys j
  let rets := rp.ret.map fun x => { x with rem := x.rem + d }
  let nth := fun (k i : Nat) => ((c.stream k).cmds.filter fun x => x.idx < i).length
  let c1 : Core := { c with
    rb := []
    pending := c.pending ++ rp.pend.map fun p => { p with rem := p.rem + d }
    retires := c.retires ++ rets
    flushes := c.flushes ++ rp.flush.map fun f => { f with clk := u - 1 - f.group }
    fills := c.fills ++ rp.fill
    barriers := (List.range 4).foldl (fun m i =>
      let b := mget {} m (4 * j + i)
      mput {} (4 * j + i) { b with owner := b.owner.map fun o => (o.1, nth o.1 o.2) } m) c.barriers
    reissue := c.reissue ++ (rp.pend.filter fun p => 0 < p.lat).map (fun p => (p.key / 4, u - 1 + p.rem - p.lat))
      ++ rp.flush.map fun f => (3, u - 1 - f.group) }
  let c2 := ks.foldl (fun c k => c.updStream k fun t =>
    t.resume u (k == 16) (((rets.filter fun r => r.key == k).map Retire.rem).foldl max 0)) (c1.dropLines fun _ => true)
  let s1 := s.setCore cid (c2.updJob j fun b => { b with
    st := .running, startClk := u, replay := {}
    markers := b.markers.map fun m => if m.eng < 4 then m else { m with upto := nth m.tgt m.upto } })
  ks.foldl (fun s k =>
    let gs := ((s.core cid).stream k).groups
    let s2 := s.updCore cid fun c => c.updStream k fun t => { t with groups := [] }
    gs.foldl (fun s g => s.joinGroup cid k g) s2) s1

/-! ### The forced switch (R150) -/

/-- Matured and maturing tokens of a job stand in their FIFOs. -/
def Core.settleTokens (c : Core) (j : Nat) : Core :=
  let mine := c.maturing.filter fun m => m.job == j
  { mine.foldl (fun c m => c.updJob j fun b => b.setTok m.fifo (b.tok m.fifo + 1)) c with
    maturing := c.maturing.filter fun m => m.job != j }

/-- An LDG that awaits its reply has not been issued: its token goes back. -/
def Core.undoLoad (c : Core) (k : Nat) : Core :=
  match (c.stream k).wait with
  | .load .. => (c.unpop k).updStream k fun t => { t with wait := .none, owe := none }
  | .none => c | .head _ => c | .rdzv _ => c | .ckpt .. => c | .gbar .. => c | .post _ => c | .wseg .. => c

/-- The end of clock T, which is the clock before the present one: no stream of job j issues any more, and what has issued and not landed becomes replay records. The signals of
commands are still performed. -/
def Core.switchOut (c : Core) (j code : Nat) : Core :=
  let ks := c.jobKeys j
  let c0 := ks.foldl (fun c k => ((c.undoLoad k).unpop k).undoWseg k) c
  let c1 := c0.settleTokens j
  let mine := fun (k : Nat) => ks.contains k
  let late := fun (p : Pending) => mine p.key && !p.dst.isSig
  let rp : Replay := {
    pend := (c1.pending.filter late).map fun p => { p with rem := p.rem + 1 }
    ret := (c1.retires.filter fun r => mine r.key).map fun r => { r with rem := r.rem + 1 }
    flush := c1.flushes.filter fun f => mine f.key
    fill := (c1.fills.filter fun f => mine f.key).map fun f => { f with group := 0, started := false } }
  let c2 := { c1 with
    pending := c1.pending.filter fun p => !late p
    retires := c1.retires.filter fun r => !mine r.key
    flushes := c1.flushes.filter fun f => !mine f.key
    fills := c1.fills.filter fun f => !mine f.key
    pref := c1.pref.filter fun p => !mine p.key }
  let run := ks.contains 16 && c2.nest.isSome
  ks.foldl (fun c k => c.updStream k fun t => { t with st := .stopped, need := none })
    (c2.updJob j fun b => { b with st := .saved, switchCode := code, replay := rp, nestRun := run })

/-- A byte-barrier expectation that has been posted and waits for arrivals: it is saved with its barrier. -/
def Cmd.expects (m : Cmd) : Bool :=
  match m.instr with
  | .xexp .. => m.stage == 1 && !m.finished
  | _ => false

/-- Whether the image of a job that is being switched out can be written: started commands have completed with their signals, the
nest stands, and no MPOST waits for its answer. -/
def Core.switchReady (c : Core) (j : Nat) : Bool :=
  let b := c.job j
  b.switchCode != 0 && b.switchCode < 256 && !b.nestRun
    && (c.jobKeys j).all fun k =>
      (c.stream k).cmds.all (fun m => !m.started || (m.isNest && !m.finished) || m.expects)
        && !c.awaits k && !(c.pending.any fun p => p.key == k) && !(c.retires.any fun r => r.key == k)

/-- The image of a switched-out job leaves for SAVE_BASE, and its streams leave their groups (R21, R150). -/
def State.switchWrite (s : State) (cid j : Nat) : State :=
  let s1 := s.updCore cid fun c => c.settleTokens j
  let s2 := s1.sendImage cid j (s1.capture cid j)
  (((s.core cid).jobKeys j).foldl (fun s k => s.leaveAll cid k 0) s2).updCore cid fun c =>
    c.updJob j fun b => { b with switchCode := b.switchCode + 256 }

/-- The switchCode of a checkpoint whose image is under way. -/
def ckptCode : Nat := 512

/-- Once the image of a saved job has been written, its event is recorded, and a job pre-empted by the loader takes its resume
position; the others are left to the host (R90, R98). -/
def State.switchEnd (s : State) (cid j : Nat) : State :=
  s.updCore cid fun c =>
    let b := c.job j
    let c1 := c.updJob j fun b => { b with switchCode := 0 }
    let c2 := if b.byLoader then
        let q := descPrio b.desc
        { c1 with mbox := { c1.mbox with resume := mput [] q (descWithRes b.desc :: mget [] c1.mbox.resume q) c1.mbox.resume } }
      else { c1 with left := c1.left ++ [b.desc] }
    let ck := b.switchCode == ckptCode
    (c2.reconsider).event j (c2.jobEvent s.cycles j (if ck then 4 else 5) (if ck then 0 else b.switchCode % 256))

/-- Whether the image of a saved job has been written. -/
def Core.switchDone (c : Core) (j : Nat) : Bool := 256 ≤ (c.job j).switchCode && !c.imageUnderWay

end Sys2Proof.Machine
end

