-- ==== Sys2Proof/Machine/System.lean ====
section
/-!
DEFINITION. Sys2Proof/Machine/System.lean: the system range (R131 to R136): return from a local fault, context images,
translation invalidation, key slots, capabilities and tenant records.
-/

namespace Sys2Proof.Machine

/-! ### RFT (R132, R149) -/

def opcRft : Nat := 0xF0

/-- Whether a code is assigned (R138). -/
def causeAssigned (n : Nat) : Bool := 1 ≤ n && n ≤ 0x18

/-- ORIG of TRAP_ENGINE set to a cause (R143). -/
def withOrig (eng cause : Nat) : Nat := setFld eng 16 8 cause

/-- The trapped stream as it goes on after RFT (R132): at TRAP_PC, or behind it with SKIP; a command's fault and one part
way through a WHOOK leave it as it stood. A TRAP_PC that the handler has made unaligned is taken as it is (DESIGN CHOICE, log 97). -/
def Core.rftStream (c : Core) (skip : Bool) : Core :=
  let k := c.trapKey
  let t := c.stream k
  if c.trapCmd || t.we.hook.running then c
  else
    let pc0 := (c.job c.trapJob).trap.pc
    let pc := if skip then (pc0 + instrLen (engOf k)) % 2 ^ 48 else pc0
    if pc = t.pc then c else (c.unpop k).updStream k fun t => { t with pc := pc, wait := .none, need := none }

/-- RFT (R132, R149). -/
def execRft (h : Head) (skip : Bool) (s : State) : Host.Outcome State Fault Refusal :=
  runC s h fun c =>
    if s.cur.eng != .wick then .trap 0x03 opcRft
    else
      let j := c.trapJob
      let b := c.job j
      let n := b.trap.cause
      let r := { b.trap with eng := withOrig b.trap.eng c.trapCause }
      let c1 :=
        if n = c.trapCause then (c.rftStream skip).restoreTrap j
        else if b.st = .saved then c.dropFault.restoreTrap j
        else if n = 0x16 && descPre b.desc then
          -- a program-class trap raised before wins (R150)
          if b.st = .stopping then c.dropFault.restoreTrap j else (c.updJob j fun b => { b with trap := r }).switchOut j 0x16
        else if causeAssigned n then c.dropFault.recordFault s.cycles j r
        else c.dropFault.recordFault s.cycles j { b.trap with cause := 0x01, eng := b.trap.eng ||| hfailBit }
      .done c1.thawNext .gone 1

/-! ### Context images (R133) -/

/-- What the translation of an image's pieces gives. -/
inductive PRes where
  | ok (c : Core) (pas : List Nat)
  | trap (cause status : Nat)
  | wait (c : Core)
  deriving DecidableEq, Repr

/-- Translates the pieces of an image; none of them is taken while one is missing. -/
def Core.xlatPieces (c : Core) (k : Nat) (write : Bool) : List Nat → PRes
  | [] => .ok c []
  | a :: r =>
    if 2 ^ 48 ≤ a then .trap 0x0C 5
    else
      match c.xlatFor k a write with
      | .fault n => .trap n (faultStatus n a)
      | .wait c1 => .wait c1
      | .ok c1 pa =>
        match c1.xlatPieces k write r with
        | .ok c2 pas => .ok c2 (pa :: pas)
        | .trap x st => .trap x st
        | .wait c2 => .wait c2

/-- CTXSV (R133): a full image of a STOPPED job. The order of the checks is the model's, and the instruction retires once its lines
are in a drain buffer (DESIGN CHOICE, log 88 and log 102). -/
def execCtxsv (h : Head) (a b : Nat) (s : State) : Host.Outcome State Fault Refusal :=
  runI s h fun s1 =>
    let cid := s.cur.core
    let k := s.cur.key
    let c := s1.core cid
    let va := ((c.stream k).getX a).toNat
    let j := ((c.stream k).getX b).toNat
    if va % 4096 != 0 then .trap 0x07 (addrStatus va)
    else if 8 ≤ j then .trap 0x0C 3
    else if (c.job j).st != .stopped then .trap 0x0C 3
    else
      let bs := s1.imageOf cid j (s1.capture cid j)
      match c.xlatPieces k true (pieces va bs.length) with
      | .trap x st => .trap x st
      | .wait c1 => .stall (s1.setCore cid c1)
      | .ok c1 pas => .done (s1.setCore cid (c1.drainImage (c1.sender cid k s.cycles) (pas.map some) bs)) .seq 1

/-- The cause of an image that is not restored (R155). -/
def ImgErr.trap : ImgErr → Trap
  | .malformed => (0x0C, 3)
  | .feature => (0x17, 0)
  | .crc => (0x12, 4)

/-- The lines of n bytes of an image whose pieces stand at the given places. -/
def imageLines (pas : List Nat) (n : Nat) : List Nat :=
  (List.range ((n + 63) / 64)).map fun i => lineOf (pas.getD (i / 64) 0) + i % 64

/-- Reads lines through RB(c): those that are missing are asked for, and their bytes are there once all of them are. -/
def Core.readLines (c : Core) (w : Sender) : List Nat → Core × Option (List Byte)
  | [] => (c, some [])
  | l :: r =>
    match c.readLine w vcScalar l with
    | .wait c1 => ((c1.readLines w r).1, none)
    | .ok bs =>
      match c.readLines w r with
      | (c1, none) => (c1, none)
      | (c1, some more) => (c1, some (bs ++ more))

/-- The first n bytes of an image at a data address, read by stream k. -/
inductive IRes where
  | ok (c : Core) (bs : List Byte)
  | trap (cause status : Nat)
  | wait (c : Core)
  deriving DecidableEq, Repr

def Core.readImage (c : Core) (w : Sender) (va n : Nat) : IRes :=
  match c.xlatPieces w.key false (pieces va n) with
  | .trap x st => .trap x st
  | .wait c1 => .wait c1
  | .ok c1 pas =>
    match c1.readLines w (imageLines pas n) with
    | (c2, none) => .wait (c2.setNeed w.key va)
    | (c2, some bs) => .ok c2 (bs.take n)

/-- A job that an image holds takes job slot j, its streams HELD, or nothing where it does not fit. -/
def State.restoreHeld (s : State) (cid j : Nat) (r : Saved) : Option State :=
  (s.restorePlace cid (descPlane r.job.desc) r).map fun x =>
    let p := { x.1 with slot := j }
    let s1 := (s.updCore cid fun c => { (c.restore r p (r.newJob p x.2 .held)) with left := ldel (· == r.job.desc) c.left }).restoreCatches
      cid r
    if r.ckpt then s1.freshStreams cid j else s1

/-- CTXLD (R133, R155): the job becomes HELD, or 1 is answered where it does not fit. An address that is not 4 KiB aligned traps as
in CTXSV, and the order of the checks is the model's (DESIGN CHOICE, log 88). -/
def execCtxld (h : Head) (d a b : Nat) (s : State) : Host.Outcome State Fault Refusal :=
  runI s h fun s1 =>
    let cid := s.cur.core
    let k := s.cur.key
    let c := s1.core cid
    let w := c.sender cid k s.cycles
    let va := ((c.stream k).getX a).toNat
    let j := ((c.stream k).getX b).toNat
    let answer := fun (s2 : State) (v : Nat) => Res.done (s2.updCore cid fun c => c.setReg k d v) .seq 1
    if 8 ≤ j then .trap 0x0C 3
    else if (c.job j).st != .free then .trap 0x0C 3
    else if va % 4096 != 0 then .trap 0x07 (addrStatus va)
    else
      match c.readImage w va 256 with
      | .trap x st => .trap x st
      | .wait c1 => .stall (s1.setCore cid c1)
      | .ok c1 hd =>
        match headerCheck hd with
        | .error e => .trap e.trap.1 e.trap.2
        | .ok () =>
          match c1.readImage w va (256 + bodyLen hd) with
          | .trap x st => .trap x st
          | .wait c2 => .stall (s1.setCore cid c2)
          | .ok c2 bs =>
            match s1.plainBody cid hd (bs.drop 256) with
            | .error e => .trap e.trap.1 e.trap.2
            | .ok plain =>
              let s2 := s1.setCore cid c2
              match s2.restoreHeld cid j (readImage hd plain) with
              | none => answer s2 1
              | some s3 => answer s3 0

/-- RESUME (R133, R151): a job that CTXLD loaded starts. -/
def execResume (h : Head) (a : Nat) (s : State) : Host.Outcome State Fault Refusal :=
  runI s h fun s1 =>
    let cid := s.cur.core
    let c := s1.core cid
    let j := ((c.stream s.cur.key).getX a).toNat
    if 8 ≤ j then .trap 0x0C 3
    else if (c.job j).st != .held then .trap 0x0C 3
    else .done (s1.resumeJob cid j) .seq 1

/-! ### TLBI (R134) -/

/-- What an invalidation takes: data entries, instruction entries, and the keys of walks, those of data pages below 2^32. -/
structure Inval where
  d : Dtlb → Bool
  i : Itlb → Bool
  m : Nat → Nat → Bool

/-- Entries and walks of a core that an invalidation takes. -/
def Core.tlbi (c : Core) (v : Inval) : Core :=
  { c with
    dtlb := c.dtlb.filter fun e => !v.d e
    itlb := c.itlb.filter fun e => !v.i e
    misses := c.misses.filter fun e => !v.m e.dt e.page
    missWait := c.missWait.filter fun e => !v.m e.dt e.page }

/-- Walks of a die that are under way serve no access that comes after the invalidation. -/
def Die.closeWalks (d : Die) (v : Inval) : Die :=
  { d with walks := d.walks.map fun w => if v.m w.dt w.page then { w with joins := false } else w }

/-- The cores an invalidation reaches. -/
def tlbiCores (cid : Nat) (die : Bool) : List Nat :=
  if die then (List.range 16).map fun i => 16 * dieOf cid + i else [cid]

/-- A TLBI: f is told the core, the stream and the address. page says that the address has to be one of 48 bits. -/
def runTlbi (s : State) (h : Head) (a : Nat) (die page : Bool) (f : Core → Nat → Nat → Inval) : Host.Outcome State Fault Refusal :=
  runI s h fun s1 =>
    let cid := s.cur.core
    let k := s.cur.key
    let c := s1.core cid
    let va := ((c.stream k).getX a).toNat
    let v := f c k va
    if page && 2 ^ 48 ≤ va then .trap 0x0C 5
    else .done (((tlbiCores cid die).foldl (fun s o => s.updCore o fun c => c.tlbi v) s1).updDie (dieOf cid) fun d => d.closeWalks v) .seq 1

def execTlbiDataAll (h : Head) (a : Nat) (die : Bool) (s : State) : Host.Outcome State Fault Refusal :=
  runTlbi s h a die false fun _ _ _ => ⟨fun _ => true, fun _ => false, fun _ page => page < 2 ^ 32⟩

def execTlbiInstrAll (h : Head) (a : Nat) (die : Bool) (s : State) : Host.Outcome State Fault Refusal :=
  runTlbi s h a die false fun _ _ _ => ⟨fun _ => false, fun _ => true, fun _ page => 2 ^ 32 ≤ page⟩

/-- The page of the issuing stream's data space. A walk of its 2 MiB neighbourhood could bring a large page back, and is
discarded with it. -/
def execTlbiDataPage (h : Head) (a : Nat) (die : Bool) (s : State) : Host.Outcome State Fault Refusal :=
  runTlbi s h a die true fun x k va =>
    let dt := x.dtOf k
    ⟨fun e => e.dt == dt && (if e.large then e.page / 32 == va / 2 ^ 21 else e.page == va / 2 ^ 16), fun _ => false,
      fun t page => t == dt && page < 2 ^ 32 && page / 32 == va / 2 ^ 21⟩

/-- The page under the level-1 table of the issuing stream, or of the trapped one in the wick core. -/
def execTlbiInstrPage (h : Head) (a : Nat) (die : Bool) (s : State) : Host.Outcome State Fault Refusal :=
  runTlbi s h a die true fun x k va =>
    let root := (x.stream (if k = 24 then x.trapKey else k)).fetchRoot
    ⟨fun _ => false, fun e => e.root == root && e.page == va / 2 ^ 18, fun t page => t == root && page == codeKey va⟩

/-! ### Key slots, capabilities and tenants (R135, R136) -/

/-- n bytes of source material at an offset: the scratchpad for an SQ stream, its own memory for the wick core (R131). -/
def sysBytes (s : State) (c : Core) (a n : Nat) : Except Trap (List Byte) :=
  if s.cur.eng = .wick then
    if a % n != 0 then .error (0x07, addrStatus a)
    else if 2 ^ 16 < a + n then .error (0x0C, 5)
    else .ok (rdBytes c.wickMem a n)
  else
    match spadCheck (c.job (c.stream s.cur.key).job) a n n with
    | some t => .error t
    | none => .ok (c.spadRead a n)

/-- A KEYOP: its key slot is one of 4,096. -/
def runKeyop (s : State) (h : Head) (a : Nat) (go : State → Core → Nat → Res) : Host.Outcome State Fault Refusal :=
  runI s h fun s1 =>
    let c := s1.core s.cur.core
    let n := ((c.stream s.cur.key).getX a).toNat
    if 4096 ≤ n then .trap 0x0C 3 else go s1 c n

/-- A key slot of the core's die takes a value. -/
def State.setKey (s : State) (cid n : Nat) (v : Option Nat) : State :=
  s.updDie (dieOf cid) fun d => { d with keys := mput none n v d.keys }

def execKeyopLoad (h : Head) (_d a b : Nat) (s : State) : Host.Outcome State Fault Refusal :=
  runKeyop s h a fun s1 c n =>
    match sysBytes s c ((c.stream s.cur.key).getX b).toNat 64 with
    | .error t => .trap t.1 t.2
    | .ok bs => .done (s1.setKey s.cur.core n (some (leBytes bs))) .seq 1

def execKeyopDestroy (h : Head) (_d a _b : Nat) (s : State) : Host.Outcome State Fault Refusal :=
  runKeyop s h a fun s1 _ n => .done (s1.setKey s.cur.core n none) .seq 1

def execKeyopQuery (h : Head) (d a _b : Nat) (s : State) : Host.Outcome State Fault Refusal :=
  runKeyop s h a fun s1 c n =>
    let v := bitN (mget none (s1.die (dieOf s.cur.core)).keys n).isSome
    .done (s1.setCore s.cur.core (c.setReg s.cur.key d v)) .seq 1

/-- CAPW (R136): the entry has to keep the table of R308. -/
def execCapw (h : Head) (ch : Nat) (staged : Bool) (a b : Nat) (s : State) : Host.Outcome State Fault Refusal :=
  runC s h fun c =>
    let t := c.stream s.cur.key
    let j := (t.getX a).toNat
    match sysBytes s c (t.getX b).toNat 16 with
    | .error t => .trap t.1 t.2
    | .ok bs =>
      let e : Cap := ⟨leBytes (bs.drop 8), leBytes (bs.take 8)⟩
      let put := fun (m : SMap Word) => putAll [(8 + 2 * ch, word e.lo), (9 + 2 * ch, word e.hi)] m
      if staged then
        if j != 0 || !e.ok then .trap 0x0C 3 else .done { c with staged := put c.staged } .seq 1
      else if 8 ≤ j then .trap 0x0C 3
      else if (c.job j).st == .free || !e.ok then .trap 0x0C 3
      else .done (c.updJob j fun b => { b with sec := put b.sec }) .seq 1

/-- TNSET (R136, R269). -/
def execTnset (h : Head) (staged : Bool) (a b : Nat) (s : State) : Host.Outcome State Fault Refusal :=
  runC s h fun c =>
    let t := c.stream s.cur.key
    let i := (t.getX a).toNat
    match sysBytes s c (t.getX b).toNat 32 with
    | .error t => .trap t.1 t.2
    | .ok bs =>
      let put := fun (m : SMap Word) => putAll (dwordsAt (136 + 4 * i) bs) m
      if 16 ≤ i || !tenantOk (leBytes bs) then .trap 0x0C 3
      else .done (if staged then { c with staged := put c.staged } else { c with active := put c.active }) .seq 1

end Sys2Proof.Machine
end

