-- ==== Sys2Proof/Machine/Events.lean ====
section
/-!
DEFINITION. Sys2Proof/Machine/Events.lean: the events of streams, jobs, traps and commands within one core: retirement and
landing (R15, R181), heads, rendezvous and groups (R10, R22, R115), checkpoints (R104), stops (R140 to R148), walks (R204),
command steps (R306) and lane-store fills (R224). An event that is not due changes nothing (log 4).
-/

namespace Sys2Proof.Machine

/-! ### Retiring and landing (R13, R15, R181) -/

/-- The due retirements of an interlocked stream, in order: the first that is not due, or finds no room, holds those behind it
(R14). -/
def Core.retireSeq (c : Core) : List Retire → Core
  | [] => c
  | r :: rs =>
    if r.rem != 0 then c
    else
      let c1 := c.retireOne r
      if c1.retires.length = c.retires.length then c else c1.retireSeq rs

/-- The retirements of stream k that are due in this clock. -/
def Core.retireDue (c : Core) (k : Nat) : Core :=
  let mine := c.retires.filter fun r => r.key == k
  if exposed (engOf k) then (mine.filter fun r => r.rem == 0).foldl (fun c r => c.retireOne r) c else c.retireSeq mine

/-- Whether the landings of a stream of engine e wait for that engine's turn, where a hold of the engine shows (R182, R263). -/
def landsLate (e : Eng) : Bool := e == .va || e == .we

/-- INSTRUCTION_RETIRE: the instructions of stream k whose clock has come perform their pushes; those of VA and WE do so as their
results land. -/
def execInstructionRetire (cid k : Nat) (s : State) : Host.Outcome State Fault Refusal :=
  let c := s.core cid
  if c.frozen || landsLate (engOf k) then .next s else .next (s.setCore cid (c.retireDue k))

/-- What the addition of a result would overflow (R17, R123, R142): an SSIG traps precisely at its word, and a command's signal
against its job. -/
def Core.sigOverflow (c : Core) (clk : Nat) (p : Pending) : Core :=
  let t := c.stream p.key
  match p.dst with
  | .sem n a pc =>
    if 2 ^ 32 ≤ c.semCount n + a then
      let c1 := (c.recordTrap clk t.job ⟨0x11, pc, 0, 0, trapEng t.job p.key⟩).updStream p.key fun t =>
        { t with st := .stopped, pc := pc, wait := .none }
      { c1 with retires := c1.retires.filter fun x => x.key != p.key }
    else c
  | .sig n pc idx num =>
    if 2 ^ 32 ≤ c.semCount n + 1 then c.recordTrap clk t.job ⟨0x11, pc, idx, kindStatus 1 num, trapEng t.job p.key⟩ else c
  | .x _ _ | .p _ _ | .v _ _ | .q _ _ _ | .acc _ _ _ _ | .f _ _ | .hold _ | .none => c

/-- A result lands, and END and RDZV of its stream see it from the next clock (R110). -/
def Core.landNow (c : Core) (clk : Nat) (p : Pending) : Core :=
  ((c.sigOverflow clk p).landOne p).updStream p.key fun t => { t with landClk := clk + 1 }

/-- The results that are due in this clock and that p takes land. -/
def Core.landDue (c : Core) (clk : Nat) (p : Eng → Bool) : Core :=
  let due := fun (x : Pending) => x.rem == 0 && p (engOf x.key)
  (c.pending.filter due).foldl (fun c x => c.landNow clk x) { c with pending := c.pending.filter fun x => !due x }

/-- The landings and retirements of VA or WE in this clock, with what undoes them. -/
def Core.landEng (c : Core) (clk : Nat) (e : Eng) : Core :=
  let c1 : Core := { c with undo := some ⟨c.pending, c.retires, c.maturing, c.queues, c.streams⟩ }
  ((List.range (Machine.slotsOf e)).map (skey e)).foldl (fun c k => c.retireDue k) (c1.landDue clk (· == e))

/-- Whether VA or WE is held in this clock before its turn: STQ lines wait in VA's drain buffers (R182), or a WROW waits for the flush
path (R263). -/
def Core.heldEng (c : Core) (e : Eng) : Bool :=
  if e = .va then c.db.any fun d => d.who.key / 4 == 1 else c.weHeld

/-- The engine of core cid whose turn comes next, if its results land there. -/
def State.landTurn (s : State) (cid : Nat) : Option Eng :=
  match s.todo with
  | .issue c e _ :: _ => if c = cid && landsLate e then some e else none
  | _ => none

/-- RESULT_LANDS: the results of core c whose clock has come land: those of VA and WE before the engine's turn, unless it is held in
this clock, the others at the start of the clock. On a frozen core only the wick core's interlocks end. -/
def execResultLands (cid : Nat) (s : State) : Host.Outcome State Fault Refusal :=
  let c := s.core cid
  if c.frozen then .next (s.setCore cid { c with pending := c.pending.filter fun p => p.key != 24 || p.rem != 0 })
  else
    match s.landTurn cid with
    | none => .next (s.setCore cid (c.landDue s.cycles fun e => !landsLate e))
    | some e => .next (s.setCore cid (if c.heldEng e then c.holdEng e else c.landEng s.cycles e))

/-! ### Heads and rendezvous (R10, R115) -/

/-- The context of stream k of core c. -/
def ctxOf (cid k : Nat) (tried : List Nat) : Ctx := ⟨cid, engOf k, k % 4, tried⟩

/-- BLOCK_HEAD_SATISFIED: the head that stream k waits at takes its counts and tokens. -/
def execBlockHeadSatisfied (cid k : Nat) (s : State) : Host.Outcome State Fault Refusal :=
  if !s.headReady cid k then .next s
  else
    let s1 := { s with cur := ctxOf cid k (if s.cur.core = cid && s.cur.eng = engOf k then s.cur.tried else []) }
    match ((s.core cid).stream k).wait with
    | .head i => match i with
      | .blkh h sp => .next (runWord s1 8 h.tp h.pop h.push true (headBody s1 h.tp sp (.blkh h sp)))
      | .wwait h sem sc tc sy =>
        .next (runWord s1 32 h.tp false h.push true (headBody s1 h.tp (wwaitHead sem sc tc sy) (.wwait h sem sc tc sy)))
      | _ => .next s
    | .none => .next s
    | .rdzv _ => .next s
    | .ckpt _ _ => .next s
    | .gbar .. => .next s
    | .post _ => .next s
    | .wseg .. => .next s
    | .load .. => .next s

/-- The rendezvous number at which a stream waits. -/
def Stream.rdzvNo (t : Stream) : Option Nat :=
  match t.wait with
  | .rdzv n => some n
  | .none | .head _ | .ckpt _ _ | .gbar .. | .post _ | .wseg .. | .load .. => none

/-- The number at which every stream of job j waits, if there is one. -/
def Core.rdzvAll (c : Core) (j : Nat) : Option Nat :=
  match (c.jobKeys j).map fun k => (c.stream k).rdzvNo with
  | some n :: r => if r.all (· == some n) then some n else none
  | _ => none

/-- The streams of a job at RDZV n go on together, and push in the clock after (R15); at RDZV 0 they end (R10, R110), and the job with
them. -/
def State.releaseRdzv (s : State) (cid j n : Nat) : State :=
  ((s.core cid).jobKeys j).foldl (fun s k =>
    if n = 0 then s.endStream cid k else s.updCore cid fun c => c.endWait k 1) s

/-- RENDEZVOUS_RELEASE (R10): in the clock after the last arrival (DESIGN CHOICE, log 98). -/
def execRendezvousRelease (cid j : Nat) (s : State) : Host.Outcome State Fault Refusal :=
  let c := s.core cid
  let b := c.job j
  if c.frozen || !(b.st == .running || b.st == .yielding) then .next s
  else
    match c.rdzvAll j with
    | none => .next s
    | some n => .next (s.releaseRdzv cid j n)

/-- JOB_RETIRE: the job's last stream has ended (R11, R98). -/
def execJobRetire (cid j : Nat) (s : State) : Host.Outcome State Fault Refusal :=
  let c := s.core cid
  let b := c.job j
  if !(b.st == .running || b.st == .yielding) || !(c.jobKeys j).isEmpty then .next s
  else
    let ev := c.jobEvent s.cycles j 1 0
    .next (s.setCore cid (((c.updJob j fun b => { b with st := .retired }).event j ev).reconsider))

/-- Whether a marker has reached its head (R20). -/
def Core.markerDone (c : Core) (j : Nat) (m : Marker) : Bool :=
  let t := c.stream m.tgt
  t.st == .free || t.job != j
    || (if m.eng < 4 then m.upto == 0 && m.work == 0 && !m.hook else !(t.cmds.any fun x => x.idx < m.upto)
      && !(c.pending.any fun p => p.key == m.tgt && match p.dst with
        | .sig _ _ idx _ => idx < m.upto
        | _ => false))

/-- MARKER_REACHES_HEAD: the markers of SQ stream k whose work is done (R20, R125). -/
def execMarkerReachesHead (cid k : Nat) (s : State) : Host.Outcome State Fault Refusal :=
  let c := s.core cid
  let j := (c.stream k).job
  if c.frozen then .next s
  else .next (s.setCore cid (c.updJob j fun b => { b with
    markers := b.markers.filter fun m => !(m.key == k && c.markerDone j m) }))

/-! ### Groups (R22, R102) -/

/-- A GBAR of stream k of core cid whose phase of group g is past ends its wait: its number, its acquire, and the next word (R128). -/
def State.gbarEnd (s : State) (cid g k : Nat) : State :=
  let t := (s.core cid).stream k
  match t.wait with
  | .gbar d g1 ph acq sc =>
    if t.st == .live && g1 == g && phasePast (s.group g).phase ph then
      (if acq then s.acquireGroup cid g sc else s).updCore cid fun c => (c.setReg k d ph).endWait k 1
    else s
  | .none | .head _ | .rdzv _ | .ckpt _ _ | .post _ | .wseg .. | .load .. => s

/-- Whether the open phase of a group is complete. -/
def Group.complete (g : Group) : Bool := !g.members.isEmpty && g.expect.all g.arrived.contains

/-- The next phase of a group opens, and what the complete one released is what acquires follow (R60). -/
def Group.advance (g : Group) : Group :=
  { g with phase := (g.phase + 1) % 2 ^ 16, expect := g.members, arrived := [], vec := [], done := clockMax g.done g.vec }

/-- GROUP_PHASE_COMPLETE: the phase number advances and the next phase opens; streams that wait for a phase that is past go
on, except on a frozen core, where they go on after the thaw. -/
def execGroupPhaseComplete (g : Nat) (s : State) : Host.Outcome State Fault Refusal :=
  let gr := s.group g
  let s1 := if gr.complete then s.setGroup g gr.advance else s
  .next ((s1.cores.map Prod.fst).foldl (fun s cid =>
    if (s.core cid).frozen then s else [0, 1].foldl (fun s k => s.gbarEnd cid g k) s) s1)

/-! ### Watchdog and age (R10, R101) -/

/-- Whether a stream waits at a head or a rendezvous. -/
def Stream.watched (t : Stream) : Bool :=
  match t.wait with
  | .head _ | .rdzv _ | .ckpt _ _ => true
  | .none | .gbar .. | .post _ | .wseg .. | .load .. => false

/-- BLOCK_WATCHDOG_EXPIRY: cause 0x18 against the job (R10, R142). -/
def execBlockWatchdogExpiry (cid k : Nat) (s : State) : Host.Outcome State Fault Refusal :=
  let c := s.core cid
  let t := c.stream k
  if c.frozen || t.st != .live || !t.watched || t.waited < 2 ^ 24 then .next s
  else .next (s.setCore cid (c.takeTrap s.cycles k 0x18 0))

/-- AGE_PROMOTION (R101). -/
def execAgePromotion (cid k : Nat) (s : State) : Host.Outcome State Fault Refusal :=
  .next (s.updCore cid fun c => c.updStream k fun t => if 1024 ≤ t.age then { t with promoted := true } else t)

/-! ### Checkpoints (R104 to R106) -/

def opcCkpt : Nat := 0x4A

/-- Whether the conditions of a job's CKPT hold: every other live stream waits at RDZV n, and the command queues are empty with every
signal performed (R104). -/
def Core.ckptReady (c : Core) (j k n : Nat) : Bool :=
  (c.jobKeys j).all fun x => x == k || ((c.stream x).rdzvNo == some n && c.cmdsDone x)

/-- Entry of a live-range table, with its checks (R105). -/
def rangeCheck (b : Job) (e : Nat) : Except Trap LiveRange :=
  let sp := fld e 62 2
  let off := fld e 0 20
  let len := fld e 20 21
  let size := if sp = 1 then 2 ^ 20 else 2 ^ 19
  if sp = 3 || fld e 41 21 != 0 then .error (0x02, opcCkpt)
  else if off % 8 != 0 then .error (0x07, addrStatus off)
  else if len % 8 != 0 then .error (0x07, addrStatus len)
  else if size < off + len then .error (0x0C, 5)
  else if sp = 0 && len != 0 && !b.inRegions off len then .error (0x0E, kindStatus 3 0xFF)
  else .ok ⟨sp, off, len⟩

/-- The table's entries in order. -/
def rangesCheck (b : Job) (es : List Nat) : Except Trap (List LiveRange) := es.mapM (rangeCheck b)

/-- Reads n dwords at data address a for the sender's stream, line by line through RB(c). -/
def Core.readTable (c : Core) (w : Sender) (a n : Nat) : IRes :=
  let lines := (List.range ((a % 64 + 8 * n + 63) / 64)).map fun i => a / 64 * 64 + 64 * i
  match c.xlatPieces w.key false lines with
  | .trap x st => .trap x st
  | .wait c1 => .wait c1
  | .ok c1 pas =>
    match c1.readLines w (pas.map lineOf) with
    | (c2, none) => .wait (c2.setNeed w.key a)
    | (c2, some bs) => .ok c2 ((bs.drop (a % 64)).take (8 * n))

/-- A live-range table as read and checked: its entries, a trap, or what is still awaited. -/
inductive TRes where
  | ok (c : Core) (rs : List LiveRange)
  | trap (cause status : Nat)
  | wait (c : Core)
  deriving DecidableEq, Repr

/-- Reads and checks the live-range table at address a for a stream of a job (R105). -/
def Core.liveRanges (c : Core) (w : Sender) (b : Job) (a : Nat) : TRes :=
  if a % 8 != 0 then .trap 0x07 (addrStatus a)
  else
    match c.readTable w a 1 with
    | .trap x st => .trap x st
    | .wait c1 => .wait c1
    | .ok c1 hd =>
      let n := leBytes hd
      if 2 ^ 8 ≤ n then .trap 0x02 opcCkpt
      else
        match c1.readTable w (a + 8) n with
        | .trap x st => .trap x st
        | .wait c2 => .wait c2
        | .ok c2 bs =>
          match rangesCheck b ((List.range n).map fun i => leBytes ((bs.drop (8 * i)).take 8)) with
          | .error t => .trap t.1 t.2
          | .ok rs => .ok c2 rs

/-- A job yields at its checkpoint (R98, R104): its streams leave their groups, and the image leaves for SAVE_BASE. -/
def State.ckptSave (s : State) (cid j : Nat) (rs : List LiveRange) : State :=
  let s1 := s.sendImage cid j ((s.capture cid j).atCkpt rs)
  (((s.core cid).jobKeys j).foldl (fun s k => s.leaveAll cid k 0) s1).updCore cid fun c =>
    (c.stopStreams j).updJob j fun b => { b with st := .saved, switchCode := ckptCode }

/-- CKPT_CONDITIONS_MET: the table is read and checked, and the job releases its rendezvous or, with a request pending,
yields. -/
def execCkptConditionsMet (cid j : Nat) (s : State) : Host.Outcome State Fault Refusal :=
  let c := s.core cid
  let b := c.job j
  match c.jobStream j 0 with
  | none => .next s
  | some k =>
    match (c.stream k).wait with
    | .ckpt n a =>
      if c.frozen || !(b.st == .running || b.st == .yielding) || !c.ckptReady j k n then .next s
      else
        match c.liveRanges (c.sender cid k s.cycles) b a with
        | .trap x st => .next (s.setCore cid (c.takeTrap s.cycles k x st))
        | .wait c1 => .next (s.setCore cid c1)
        | .ok c1 rs =>
          let s1 := s.setCore cid c1
          if b.st == .yielding then .next (s1.ckptSave cid j rs) else .next (s1.releaseRdzv cid j n)
    | .none | .head _ | .rdzv _ | .gbar .. | .post _ | .wseg .. | .load .. => .next s

/-! ### Budget and stops (R86, R103, R140 to R142) -/

/-- The stream that cause 0x15 names: SQ, or the lowest engine's. -/
def Core.leadKey (c : Core) (j : Nat) : Nat := (c.jobKeys j).headD 0

/-- BUDGET_OVERRUN (R103): the budget ran out with the clock before, and no stream issues any more (R142). -/
def execBudgetOverrun (cid j : Nat) (s : State) : Host.Outcome State Fault Refusal :=
  let c := s.core cid
  let b := c.job j
  if c.frozen || b.st != .running || b.unlim || b.grace || b.remain != 0 || (c.jobKeys j).isEmpty then .next s
  else if descPre b.desc then .next (s.setCore cid (c.request j true false))
  else
    .next (s.setCore cid (c.recordTrap (s.cycles - 1) j (c.trapRecOf (c.leadKey j) 0x15 0)))

/-- GRACE_EXPIRY: the forced switch begins, its image leaves once what has started is done, and the job is left once its image is
written, as it is after a checkpoint (R103, R104, R150). -/
def execGraceExpiry (cid j : Nat) (s : State) : Host.Outcome State Fault Refusal :=
  let c := s.core cid
  let b := c.job j
  if c.frozen then .next s
  else
    let s1 :=
      if (b.st == .running || b.st == .yielding) && !b.unlim && b.grace && b.remain == 0 && !(c.jobKeys j).isEmpty then
        s.setCore cid (c.switchOut j (if b.overrun then 0x15 else 0x16))
      else s
    let s2 := if (s1.core cid).switchReady j then s1.switchWrite cid j else s1
    .next (if (s2.core cid).switchDone j then s2.switchEnd cid j else s2)

/-- PROGRAM_TRAP_STOP: what the job had issued and started is done, and it is STOPPED (R140). -/
def execProgramTrapStop (cid j : Nat) (s : State) : Host.Outcome State Fault Refusal :=
  let c := s.core cid
  let b := c.job j
  if b.st != .stopping || b.trapClk == some s.cycles || !c.jobQuiet j s.cycles then .next s
  else
    let c1 := (c.stopStreams j).updJob j fun b => { b with st := .stopped }
    .next (s.setCore cid (c1.event j (c1.jobEvent s.cycles j 2 b.trap.cause)))

/-- The cause that a need has met, of the local class (R139). -/
def Core.localCause (c : Core) (n : Option (Nat × Nat)) : Option Nat :=
  match n with
  | none => none
  | some x => ((c.misses.find? fun m => m.dt == x.1 && m.page == x.2).bind Miss.res).filter fun v => v == 0x08 || v == 0x0A

/-- What a started command of stream k waits for, with the address: a running nest does so in the clock in which its step would commit
(R376). -/
def Core.cmdNeeds (c : Core) (cid clk k : Nat) (m : Cmd) : Option ((Nat × Nat) × Nat) :=
  if k = 16 && m.isNest then (if m.finished then none else c.nestNeed cid clk) else m.need.map fun n => (n, m.needVa)

/-- A local fault of a stream or of one of its started commands: its record and whether a command raised it. -/
def Core.localFault (c : Core) (cid clk k : Nat) : Option (TrapRec × Bool) :=
  let t := c.stream k
  match (if t.st == .live then c.localCause t.need else none) with
  | some v => some (c.trapRecOf k v (addrStatus t.needVa), false)
  | none =>
    (t.cmds.filter Cmd.started).findSome? fun m => (c.cmdNeeds cid clk k m).bind fun n =>
      (c.localCause (some n.1)).map fun v => (c.cmdRec k m v (addrStatus n.2), true)

/-- Whether a walk of this core has ended in a cause of the local class. -/
def Core.heldPage (c : Core) : Bool := c.misses.any fun m => m.res == some 0x08 || m.res == some 0x0A

/-- LOCAL_FAULT_FREEZE: the fault of the lowest engine and slot freezes the core from this clock on (R141, R145, R146). A page that the
wick core itself cannot reach fails its handler (R148). -/
def execLocalFaultFreeze (cid : Nat) (s : State) : Host.Outcome State Fault Refusal :=
  let c := s.core cid
  if !c.heldPage then .next s
  else if c.frozen then
    match (if c.thaw then none else c.localCause (c.stream 24).need) with
    | none => .next s
    | some v => .next (s.setCore cid (c.takeTrap s.cycles 24 v 0))
  else
    match allKeys.findSome? fun k => (c.localFault cid s.cycles k).map fun r => (k, r) with
    | none => .next s
    | some (k, r, cmd) => .next (s.setCore cid (c.freeze s.cycles k r cmd))

/-- HANDLER_TIME_LIMIT: 2^24 clocks without RFT (R148). -/
def execHandlerTimeLimit (cid : Nat) (s : State) : Host.Outcome State Fault Refusal :=
  let c := s.core cid
  if c.frozen && !c.thaw && c.wickStart + 2 ^ 24 ≤ s.cycles then .next (s.setCore cid (c.takeTrap s.cycles 24 0x18 0))
  else .next s

/-! ### Walks and code lines (R204, R266) -/

/-- The result of walk id for one core: its buffer is filled and its entries are satisfied, or they hold the cause. -/
def Core.walkDone (c : Core) (id dt page : Nat) (w : Walk) : Core :=
  let mine := fun (m : Miss) => m.walk == some id
  let hold := fun (n : Nat) => { c with misses := c.misses.map fun m => if mine m then { m with res := some n } else m }
  if !c.misses.any mine then c
  else
    match w with
    | .cause n => hold n
    | .bad _ => hold 0x12
    | .leaf e large =>
      if page < 2 ^ 32 then
        let c1 := c.dtFill ⟨dt, page, large, e⟩
        { c1 with misses := c1.misses.filter fun m =>
            !(mine m || (large && m.dt == dt && m.page < 2 ^ 32 && m.page / 32 == page / 32)) }
      else
        let c1 := c.itFill ⟨dt, page - 2 ^ 32, e⟩
        { c1 with misses := c1.misses.filter fun m => !mine m }

/-- One finished walk of die d serves every core of the die that has joined it, and its walker is free (R204). -/
def State.walkEnd (s : State) (d : Nat) (w : Walker) (r : Walk) : State :=
  let s1 := s.updDie d fun x => { x with
    walks := x.walks.filter fun y => y.id != w.id, dtWalks := tally (w.page < 2 ^ 32) x.dtWalks }
  ((List.range 16).map fun i => 16 * d + i).foldl (fun s o => s.updCore o fun c => c.walkDone w.id w.dt w.page r) s1

/-- PAGE_WALK_COMPLETE: the walks of die d of a key that have ended. -/
def execPageWalkComplete (d dt page : Nat) (s : State) : Host.Outcome State Fault Refusal :=
  .next ((s.die d).walks.foldl (fun s w =>
    match w.res with
    | none => s
    | some r => if w.dt = dt && w.page = page then s.walkEnd d w r else s) s)

/-- MISS_QUEUE_ADMIT: the request that has waited longest takes a free entry, or joins one (R204). -/
def execMissQueueAdmit (cid : Nat) (s : State) : Host.Outcome State Fault Refusal :=
  let c := s.core cid
  match c.missWait with
  | [] => .next s
  | w :: r =>
    let data := w.page < 2 ^ 32
    if c.misses.any fun m => m.dt == w.dt && m.page == w.page then
      .next (s.setCore cid { c with missWait := r, dtJoins := tally data c.dtJoins })
    else if c.misses.length < 32 then
      .next (s.setCore cid { c with
        missWait := r, misses := c.misses ++ [{ dt := w.dt, page := w.page }], dtMisses := tally data c.dtMisses })
    else .next s

/-- The quarters of a code line that have come, if all four have. -/
def Core.codeWhole (c : Core) (line : Nat) : Option (List Byte) :=
  ((List.range 4).mapM fun q => mlook (4 * line + q) c.codeParts).map List.flatten

/-- CODE_LINE_ARRIVE: an absent line enters the code buffer once its four reads have been answered (R266). -/
def execCodeLineArrive (cid line : Nat) (s : State) : Host.Outcome State Fault Refusal :=
  let c := s.core cid
  match (if c.codeWant.contains line then c.codeWhole line else none) with
  | none => .next s
  | some bs => .next (s.setCore cid (c.codeFill line (leBytes bs)))

/-! ### Commands (R306) -/

/-- Whether the consumers of semaphores of this clock have been tested on core cid: the sequencer has had its turn. -/
def State.lateNow (s : State) (cid : Nat) : Bool := !s.todo.contains (.issue cid .sq [])

/-- COMMAND_START: a command of ME or XE starts (R306, R381). -/
def execCommandStart (cid k : Nat) (s : State) : Host.Outcome State Fault Refusal :=
  if (s.core cid).frozen || !(s.core cid).mayStart k then .next s
  else if k = 16 then .next (s.setCore cid ((s.core cid).startMe cid s.cycles))
  else .next (s.startXe cid k (s.lateNow cid))

/-- COMMAND_COMPLETE: one clock of work of a started command, with its completion, release and signal when it is done. -/
def execCommandComplete (cid k i : Nat) (s : State) : Host.Outcome State Fault Refusal :=
  if (s.core cid).frozen then .next s
  else if k = 16 then .next (s.setCore cid ((s.core cid).meClock cid s.cycles i))
  else .next (s.xeClock cid k i (s.lateNow cid))

/-! ### Lane-store fills (R202, R224) -/

/-- The bytes of a fill's next group, by lane-store place: 16 lanes of 16 columns. -/
def Core.fillGroup (c : Core) (f : Fill) : List (Nat × Byte) :=
  let g := geoOf f.geo
  let n := g.nc / 16
  let l := 16 * (f.group / n)
  let o := 16 * (f.group % n)
  (List.range 16).flatMap fun y => (List.range 16).map fun x =>
    (1024 * (g.c0 + o + y) + g.l0 + l + x, c.spadByte (f.src + (l + x) * f.stride + o + y))

/-- The rank of LLS among the writers of the lane store, below XE's (R202). -/
def rankLls : Nat := 1

/-- LLS_GROUP_WRITE: the fill that has started writes its next group; after the last it retires in the next clock, with its push
(R15). -/
def execLlsGroupWrite (cid : Nat) (s : State) : Host.Outcome State Fault Refusal :=
  let c := s.core cid
  match c.fills with
  | [] => .next s
  | f :: r =>
    let b := c.job (c.stream f.key).job
    if c.frozen || !f.started || s.cycles < b.startClk then .next s
    else
      let g := geoOf f.geo
      let c1 := c.laneWrite rankLls (c.fillGroup f)
      if f.group + 1 < g.nc / 16 * (g.nl / 16) then
        .next (s.setCore cid { c1 with fills := { f with group := f.group + 1 } :: r })
      else
        let c2 := { c1 with fills := r }
        .next (s.setCore cid (((c2.updStream f.key fun t => { t with landClk := s.cycles + 1 }).workEnds f.key).pushEnd
          f.key 3 f.partner))

/-- LLS_START: at the end of a clock the first fill starts, once the one before it has written its last byte. -/
def execLlsStart (cid : Nat) (s : State) : Host.Outcome State Fault Refusal :=
  let c := s.core cid
  match c.fills with
  | [] => .next s
  | f :: r => if c.frozen then .next s else .next (s.setCore cid { c with fills := { f with started := true } :: r })

end Sys2Proof.Machine
end

