-- ==== Sys2Proof/Machine/Packets.lean ====
section
/-!
DEFINITION. Sys2Proof/Machine/Packets.lean: the events of packets: the port and the outbound buffer (R52 to R54), routers
(R351 to R353), requests as AQ applies them (R54, R310, R319, R355), headers that cannot be trusted (R360), answers, and
requests that time out (R361). An event that is not due changes nothing (log 4).
-/

namespace Sys2Proof.Machine

/-! ### The core port (R50, R52, R354) -/

/-- Moves the packets of the drain buffers into P(c), each stream's in order, as tags allow; a line that is written leaves RB(c) (R52).
held are the streams one of whose packets had to stay. -/
def Core.acceptDb (c : Core) (clk : Nat) (held : List Nat) : List DbEnt → Core
  | [] => c
  | e :: r =>
    let stay : Core := { c with db := c.db ++ [e] }
    if held.contains e.who.key then stay.acceptDb clk held r
    else
      let w := { e.who with clk := clk }
      match e.slice with
      | none => (c.post w { e.pkt with tag := c.nextQ % 8 } e.purpose e.dest none e.link).acceptDb clk held r
      | some sl =>
        match c.freeTag sl with
        | none => stay.acceptDb clk (e.who.key :: held) r
        | some t =>
          (((c.setTag sl t true).dropLines fun l => l == sl * 2 ^ 30 + e.pkt.addr / 64).post w { e.pkt with tag := t } e.purpose e.dest
            (some sl) e.link).acceptDb clk held r

/-- The sender of a line read ahead; its number keeps it apart from what the stream itself waits for. -/
def Core.prefSender (c : Core) (cid clk : Nat) (l : Pref) : Sender := { c.sender cid l.key clk with pc := l.pc, cmd := 1 }

/-- One line that PRF reads ahead (R205, R223): looked up once, asked for, or kept for a later clock. Nothing is raised. -/
def Core.prefOne (c : Core) (cid clk : Nat) (l : Pref) : Core :=
  let dt := c.dtOf l.key
  let page := dataKey l.va
  let keep := fun (c : Core) => { c with pref := c.pref ++ [{ l with asked := true }] }
  if (c.stream l.key).st != .live then c
  else
    let c0 := c.countLookup !l.asked
    match c.dtFind dt l.va with
    | some e =>
      match leafAddr e.leaf e.large l.va false with
      | .error _ => c0
      | .ok pa =>
        if c.lineAsked l.key (lineOf pa) then c0
        else
          match c0.readLine (c.prefSender cid clk l) vcBulk (lineOf pa) with
          | .ok _ => c0
          | .wait c1 => if c.reqs.length < c1.reqs.length then c1 else keep c1
    | none =>
      match c0.askWalk (engOf l.key) dt page l.va !l.asked with
      | .fault _ => c0
      | .ok c1 _ => c1
      | .wait c1 => if c1.misses.any fun m => m.dt == dt && m.page == page && m.res.isSome then c1 else keep c1

/-- The stream whose next word stands in an absent code line. -/
def Core.lineWaiter (c : Core) (line : Nat) : Option Nat :=
  allKeys.find? fun k =>
    let t := c.stream k
    t.st == .live && ((c.itFind t.fetchRoot t.pc).map fun e => (fld e.leaf 0 22 * 2 ^ 18 + t.pc % 2 ^ 18) / 256) == some line

/-- The sender of the reads of a code line: the stream that waits for it, or none of a job. -/
def Core.codeSender (c : Core) (cid clk line : Nat) : Sender :=
  match c.lineWaiter line with
  | some k => c.sender cid k clk
  | none => ⟨cid, imageKeyNo, 8, 0, 0, clk, clk⟩

/-- One quarter of an absent code line is asked for, if it is not under way and a tag is free (R25, R350, R354). -/
def Core.codePart (c : Core) (cid clk part : Nat) : Core :=
  if (mlook part c.codeParts).isSome || c.reqs.any fun r => r.purpose == .code part then c
  else (c.sendLine (c.codeSender cid clk (part / 4)) .read vcScalar (64 * part) (2 ^ 64 - 1) [] (.code part)).getD c

/-- PORT_ACCEPT: the drain buffers, the lines read ahead and the reads of absent code lines enter P(c) (R52). -/
def execPortAccept (cid : Nat) (s : State) : Host.Outcome State Fault Refusal :=
  let c := s.core cid
  if c.frozen then .next s
  else
    let c1 := ({ c with db := [] } : Core).acceptDb s.cycles [] c.db
    let c2 := c.pref.foldl (fun c l => c.prefOne cid s.cycles l) { c1 with pref := [] }
    .next (s.setCore cid ((c.codeWant.flatMap fun l => (List.range 4).map (4 * l + ·)).foldl (fun c p => c.codePart cid s.cycles p) c2))

/-- OUTBOUND_STAMP: P(c) delivers to the outbound buffer of its die, in order (R52, R53). On a frozen core only the wick
core's packets go (R65, R146). -/
def execOutboundStamp (cid : Nat) (s : State) : Host.Outcome State Fault Refusal :=
  let c := s.core cid
  let go := fun (p : Packet) => !c.frozen || p.wick
  let s1 := s.setCore cid { c with port := c.port.filter fun p => !go p }
  .next ((c.port.filter go).foldl (fun s p => s.stamp (dieOf cid) cid 5 p) s1)

/-! ### Routers (R351 to R353) -/

/-- ROUTER_FLIT_FORWARD: one output of router r forwards up to 4 flits. -/
def execRouterFlitForward (r out : Nat) (s : State) : Host.Outcome State Fault Refusal := .next (s.forwardN r out 4)

/-- Head flits of router r that have waited 256 clocks are promoted (R353). -/
def State.promoteHeads (s : State) (r : Nat) : State :=
  let rt := s.router r
  s.setRouter r { rt with promoted := (List.range 24).foldl (fun m k =>
    if 256 ≤ mget 0 rt.waited k then mput false k true m else m) rt.promoted }

/-- ROUTER_PROMOTION. -/
def execRouterPromotion (r : Nat) (s : State) : Host.Outcome State Fault Refusal := .next (s.promoteHeads r)

/-- One clock of router r: flits of its own inputs enter free buffers (R351), promotions, then each output. -/
def State.routerTurn (s : State) (r : Nat) : State :=
  (List.range 6).foldl (fun s o => s.forwardN r o 4) ((s.setRouter r (s.router r).refill).promoteHeads r)

/-! ### Headers that cannot be trusted (R360, R362) -/

/-- Clocks since a packet's ISSUE, taken as the latest clock with those low bits. -/
def sinceIssue (clk issue : Nat) : Nat := (clk % 2 ^ 32 + 2 ^ 32 - issue % 2 ^ 32) % 2 ^ 32

/-- Whether a packet's header can be trusted. own says that the packet is for local storage of a job. -/
def State.trusts (s : State) (p : Packet) (own : Bool) : Bool :=
  let b := (s.core p.dest).job p.djslot
  p.crcOk && p.kind != .reserved
    && !(own && (b.st == .free || s.cycles < b.startClk + sinceIssue s.cycles p.issue))

/-- Counts a dropped packet against the router input it came in by. -/
def Core.countDrop (c : Core) (p : Packet) : Core :=
  { c with
    drops := mput 0 p.arrInput (min (2 ^ 32 - 1) (mget 0 c.drops p.arrInput + 1)) c.drops
    lastSrc := mput 0 p.arrInput (p.src % 256) c.lastSrc }

/-- Drops a packet without applying any of it. -/
def State.dropPacket (s : State) (p : Packet) : State :=
  ({ s with net := s.net.filter fun x => x.id != p.id } : State).updCore p.dest fun c => c.countDrop p

/-- What a packet of one kind goes through at AQ: it must be there, of the kind and admissible; one that is not trusted is
dropped. -/
def State.onPacket (s : State) (id : Nat) (kinds : List PKind) (own : Packet → Bool) (go : Packet → State → State) :
    Host.Outcome State Fault Refusal :=
  match s.packet id with
  | none => .next s
  | some p =>
    if !kinds.contains p.kind || p.space = 3 || !s.admissible p then .next s
    else if !s.trusts p (own p) then .next (s.dropPacket p)
    else .next (go p (s.applied p))

/-! ### Requests (R54, R355, R356) -/

/-- Bytes written to a core's scratchpad by a packet, which a read of this clock does not see yet (R24); none passes its
end. -/
def Core.packetWrite (c : Core) (a : Nat) (bs : List Byte) : Core := c.localWrite rankPacket 1 a (bs.take (2 ^ 19 - a))

/-- The bytes that a packet counts on a barrier of its job slot (R312). -/
def Core.packetArrive (c : Core) (clk : Nat) (p : Packet) (n : Nat) : Core :=
  match p.args with
  | [] => c
  | bb :: _ => c.arrive clk p.djslot bb n p.src false

/-- Whether a request is for local storage of a job. -/
def Packet.isOwn (p : Packet) : Bool := !p.slice && p.space != 1

/-- Where a packet for a slice goes. -/
def Packet.home (p : Packet) : Nat := p.destDie * 2 ^ 36 + p.addr

/-- Whether the packet is a write that covers a part of ECC word i of its line and that word holds an uncorrectable error: the
read of its read-modify-write fails (R356, R357). -/
def State.rmwFails (s : State) (p : Packet) (i : Nat) : Bool :=
  p.slice && p.space != 1 && fld p.mask (32 * i) 32 != 0 && fld p.mask (32 * i) 32 != 2 ^ 32 - 1 && s.badWord (p.home + 32 * i)

/-- Whether a write is answered by an error reply. -/
def State.writeFails (s : State) (p : Packet) : Bool := s.rmwFails p 0 || s.rmwFails p 1

/-- The bytes of its line that a write writes: none of an ECC word whose read fails. -/
def State.maskOf (s : State) (p : Packet) : Nat :=
  (if s.rmwFails p 0 then 0 else fld p.mask 0 32) + (if s.rmwFails p 1 then 0 else fld p.mask 32 32) * 2 ^ 32

/-- A write at its home: a slice, host memory, or local storage with its count. An ECC word written whole holds no error. -/
def State.writeHome (s : State) (p : Packet) : State :=
  if p.space = 1 then { s with hostMem := wrBytes s.hostMem p.addr p.data }
  else if p.slice then { s with
    mem := wrMasked s.mem p.home (s.maskOf p) 0 p.data
    bad := s.bad.filter fun w => !((List.range 2).any fun i => fld p.mask (32 * i) 32 == 2 ^ 32 - 1 && w == p.home / 32 + i) }
  else s.updCore p.dest fun c => (c.packetWrite p.addr p.data).packetArrive s.cycles p p.data.length

/-- APPLY_WRITE: the write and its acknowledgement, or an error reply (R357). -/
def execApplyWrite (id : Nat) (s : State) : Host.Outcome State Fault Refusal :=
  s.onPacket id [.write, .reserved] Packet.isOwn fun p s =>
    if s.writeFails p then ((s.writeHome p).countUncorr p.home).answer p .errorReply [] []
    else (s.writeHome p).answer p .writeAck [] []

/-- What a read finds at its home. -/
def State.readHome (s : State) (p : Packet) : List Byte :=
  if p.space = 1 then rdBytes s.hostMem p.addr (p.args.headD 0)
  else if p.slice then rdBytes s.mem p.home 64
  else rdBytes (s.core p.dest).spad p.addr 64

/-- Whether a read of a slice meets an uncorrectable error (R357). -/
def State.readFails (s : State) (p : Packet) : Bool :=
  p.slice && p.space != 1 && (s.badWord p.home || s.badWord (p.home + 32))

/-- APPLY_READ_REQUEST: the current contents as a reply, or an error reply (R357). -/
def execApplyReadRequest (id : Nat) (s : State) : Host.Outcome State Fault Refusal :=
  s.onPacket id [.read] Packet.isOwn fun p s =>
    if s.readFails p then (s.countUncorr p.home).answer p .errorReply [] [] else s.answer p .readReply (s.readHome p) []

/-- APPLY_REMOTE_SIGNAL (R17, R341): the answer is 0 for an increment, 1 for a semaphore beyond the window and 2 for an
overflow. -/
def execApplyRemoteSignal (id : Nat) (s : State) : Host.Outcome State Fault Refusal :=
  s.onPacket id [.signal] (fun _ => true) fun p s =>
    let c := s.core p.dest
    let amount := p.args.getD 1 0
    match (c.job p.djslot).sem (p.args.getD 0 0) with
    | none => s.answer p .signalReply [] [1]
    | some n =>
      if 2 ^ 32 ≤ c.semCount n + amount then s.answer p .signalReply [] [2]
      else (s.setCore p.dest (c.setSem n (c.semCount n + amount))).answer p .signalReply [] [0]

/-- One unit combined under a reduce code (R48, R310). -/
def reduceUnit (op old new : Nat) : Nat :=
  match op with
  | 0 => (old + new) % 2 ^ 32
  | 1 => (old + new) % 2 ^ 64
  | 2 => (fAdd ffF32 .rne old new).1
  | 3 => slotAdd (rawSlot old) (slotAcc new) ||| (if slotSat new then 2 ^ 56 else 0)
  | 4 => (fMinMax ffF32 true old new).1
  | 5 => (fMinMax ffF32 false old new).1
  | 6 => if sextN 32 old < sextN 32 new then new else old
  | 7 => if sextN 32 new < sextN 32 old then new else old
  | 8 => if sextN 64 old < sextN 64 new then new else old
  | 9 => if sextN 64 new < sextN 64 old then new else old
  | _ => old

/-- The units of a reduce packet combined into scratchpad contents, one at a time. -/
def reduceAll (op w : Nat) : List Byte → List Byte → List Byte
  | old, new =>
    (List.range (new.length / w)).flatMap fun i =>
      toBytes w (reduceUnit op (leBytes ((old.drop (w * i)).take w)) (leBytes ((new.drop (w * i)).take w)))

/-- APPLY_REDUCE (R310): combined with what the scratchpad holds, counted, and acknowledged. -/
def execApplyReduce (id : Nat) (s : State) : Host.Outcome State Fault Refusal :=
  s.onPacket id [.reduce] Packet.isOwn fun p s =>
    (s.updCore p.dest fun c =>
      let old := rdBytes c.spad p.addr p.data.length
      (c.packetWrite p.addr (reduceAll p.op (redUnit p.op) old p.data)).packetArrive s.cycles p p.data.length).answer
        p .writeAck [] []

/-- APPLY_ARRIVAL (R312, R313). -/
def execApplyArrival (id : Nat) (s : State) : Host.Outcome State Fault Refusal :=
  s.onPacket id [.arrival] (fun _ => true) fun p s =>
    (s.updCore p.dest fun c => c.packetArrive s.cycles p (p.args.getD 1 0)).answer p .writeAck [] []

/-- A part of a plane record that is not its last waits for the others (R349), which its sender and command tell. -/
def Packet.recordNo (p : Packet) : Nat := p.src % 256 * 2 ^ 64 + p.args.headD 0

/-- What a core makes of a part of a plane record: the record so far, and once it is whole its answer. -/
def Core.planePart (c : Core) (p : Packet) : Core × Option Nat :=
  let bs := (mlook p.recordNo c.planeParts).getD [] ++ p.data
  let rest := c.planeParts.filter fun e => e.1 != p.recordNo
  if p.args.getD 1 1 = 0 then ({ c with planeParts := (p.recordNo, bs) :: rest }, none)
  else
    let (c1, a) := ({ c with planeParts := rest } : Core).planeDiff bs
    (c1, some a)

/-- APPLY_PLANE_RECORD (R319): the answer is 0 applied, 1 held or 2 rolled back, which the die's error log notes; a part before the last
is acknowledged. -/
def execApplyPlaneRecord (id : Nat) (s : State) : Host.Outcome State Fault Refusal :=
  s.onPacket id [.plane] (fun _ => false) fun p s =>
    let (c, a) := (s.core p.dest).planePart p
    let s1 := s.setCore p.dest c
    match a with
    | none => s1.answer p .writeAck [] []
    | some a =>
      let s2 := if a = 2 then s1.updDie p.destDie fun d => { d with errlog := d.errlog ++ [(p.dest, 0x14)] } else s1
      s2.answer p .planeAnswer [] [a]

/-! ### Posted descriptors (R88, R126) -/

/-- Entries posted and not taken in queue q. -/
def Mbox.load (m : Mbox) (q : Nat) : Nat := (mget 0 m.tail q + 16 - mget 0 m.head q) % 16

/-- A descriptor written at TAIL of its queue; none where the queue is full. vf marks entries of virtual functions. -/
def Mbox.postDesc (m : Mbox) (d : Nat) : Option Mbox :=
  let q := descPrio d
  if 8 ≤ m.load q then none
  else
    let k := 8 * q + mget 0 m.tail q % 8
    some { m with
      entry := mput 0 k d m.entry, tail := mput 0 q ((mget 0 m.tail q + 1) % 16) m.tail, consider := true
      vf := m.vf.filter (· != k) }

/-- APPLY_DESCRIPTOR_POST (R126): the answer is 0 for a posted entry and 1 for a full queue. -/
def execApplyDescriptorPost (id : Nat) (s : State) : Host.Outcome State Fault Refusal :=
  s.onPacket id [.post] (fun _ => false) fun p s =>
    let c := s.core p.dest
    match c.mbox.postDesc (leBytes p.data) with
    | none => s.answer p .postAnswer [] [1]
    | some m => (s.setCore p.dest { c with mbox := m }).answer p .postAnswer [] [0]

/-! ### Answers (R354, R357, R361) -/

/-- The request that an answer belongs to. -/
def Core.reqOf (c : Core) (p : Packet) : Option Req := c.reqs.find? fun r => r.rid == p.rid

/-- A request's answer has come: its record goes, and its tag is free from the next clock (R354). -/
def Core.endReq (c : Core) (r : Req) : Core :=
  let c1 : Core := { c with reqs := c.reqs.filter fun x => x.rid != r.rid }
  match r.slice with
  | none => c1
  | some sl => { c1 with tagsDue := (16 * r.tag + sl) :: c1.tagsDue }

/-- What every answer goes through: one whose request is gone or has timed out is dropped and counted, and its tag is free
all the same (R354, R361). -/
def State.onAnswer (s : State) (id : Nat) (kinds : List PKind) (go : Packet → Req → Core → Core) :
    Host.Outcome State Fault Refusal :=
  s.onPacket id kinds (fun _ => false) fun p s => s.updCore p.dest fun c =>
    match c.reqOf p with
    | none => c.countDrop p
    | some r => if r.purpose = .late then (c.endReq r).countDrop p else go p r (c.endReq r)

/-- Bytes of a source line that belong to a transfer at offset pos, and where the reply holds them. -/
def Cmd.place (m : Cmd) (pos : Nat) (bs : List Byte) : List (Nat × Byte) :=
  let n := min (m.len - pos) (lineRest m.ws pos)
  let from_ := if bs.length = 64 && byLines m.ws m.capS && m.capS.kind != 3 then (epAddr m.ws + pos) % 64 else 0
  (List.range n).map fun i => (pos + i, bs.getD (from_ + i) 0)

/-- The LDG that waits for a request takes its datum, and retires in this clock (R15, R119). -/
def Core.loadDone (c : Core) (r : Req) (line : List Byte) : Core :=
  match (c.stream r.key).wait with
  | .load d size zext pa rid =>
    if rid != r.rid then c
    else
      let v := leBytes ((line.drop (pa % 64)).take (2 ^ size))
      let c1 := c.updStream r.key fun t => { t with popd := none, need := none }
      (c1.result r.key 1 (.x d (extend (2 ^ size) zext v)) 0).endWait r.key 0
  | .none | .head _ | .rdzv _ | .ckpt .. | .gbar .. | .post _ | .wseg .. => c

/-- READ_REPLY_ARRIVE: a page walker goes on (R204), a line enters RB(c), a quarter of a code line is kept, or a command takes its
bytes. -/
def execReadReplyArrive (id : Nat) (s : State) : Host.Outcome State Fault Refusal :=
  match (s.packet id).filter Packet.walk with
  | some _ => s.onPacket id [.readReply] (fun _ => false) fun p s => s.walkAnswer p.destDie p.rid (some p.data)
  | none => s.onAnswer id [.readReply] fun p r c =>
    match r.purpose with
    | .line l => { c with rb := mput [] l p.data c.rb }.loadDone r p.data
    | .stale => c.loadDone r p.data
    | .code part => if c.codeWant.contains (part / 4) then { c with codeParts := mset part p.data c.codeParts } else c
    | .cmd key idx pos => c.updCmd key idx fun m => { m with data := mbulk Memory.blank (m.place pos p.data) m.data }
    | .write _ | .signal .. | .plane .. | .post _ | .host | .late => c

/-- WRITE_ACK_ARRIVE. -/
def execWriteAckArrive (id : Nat) (s : State) : Host.Outcome State Fault Refusal :=
  s.onAnswer id [.writeAck] fun _ _ c => c

/-- SIGNAL_REPLY_ARRIVE (R341): XSIGR completes, or the sending job stops at it. -/
def execSignalReplyArrive (id : Nat) (s : State) : Host.Outcome State Fault Refusal :=
  s.onAnswer id [.signalReply] fun p r c =>
    match r.purpose with
    | .signal key idx =>
      match (c.stream key).cmd idx with
      | none => c
      | some m =>
        match p.args.headD 0 with
        | 0 => (c.updCmd key idx fun m => { m with finished := true, pos := s.cycles }).endXe s.cycles key idx false
        | 1 => c.cmdTrap s.cycles key m (0x0E, kindStatus 1 (fld (m.val 1) 0 8))
        | _ => c.cmdTrap s.cycles key m (0x11, 0)
    | .line _ | .code _ | .cmd .. | .write _ | .plane .. | .post _ | .host | .stale | .late => c

/-- PLANE_ANSWER_ARRIVE: the answer is kept with the XPLN, which completes once all have come (R342). -/
def execPlaneAnswerArrive (id : Nat) (s : State) : Host.Outcome State Fault Refusal :=
  s.onAnswer id [.planeAnswer] fun p r c =>
    match r.purpose with
    | .plane key idx => c.updCmd key idx fun m => { m with aux := m.aux ++ [p.args.headD 0] }
    | .line _ | .code _ | .cmd .. | .write _ | .signal .. | .post _ | .host | .stale | .late => c

/-- POST_ANSWER_ARRIVE: xD takes the answer, MPOST retires and the stream goes on (R15, R126). -/
def execPostAnswerArrive (id : Nat) (s : State) : Host.Outcome State Fault Refusal :=
  s.onAnswer id [.postAnswer] fun p r c =>
    match r.purpose with
    | .post key =>
      match (c.stream key).wait with
      | .post d => (c.setReg key d (p.args.headD 0)).endWait key 0
      | .none | .head _ | .rdzv _ | .ckpt .. | .gbar .. | .wseg .. | .load .. => c
    | .line _ | .code _ | .cmd .. | .write _ | .signal .. | .plane .. | .host | .stale | .late => c

/-- The record of a cause against the sender of a request (R142, R143). -/
def Req.record (r : Req) (cause status : Nat) : TrapRec :=
  ⟨cause, r.pc, if r.key = 16 || 20 ≤ r.key then r.cmd else 0, status, trapEng r.job r.key⟩

/-- A cause of R142 against the sender of a request, if the job that sent it still holds its slot; the wick core's handler
fails (R148). -/
def Core.chargeReq (c : Core) (clk : Nat) (r : Req) (cause status : Nat) : Core :=
  if r.key = 24 then if c.frozen && !c.thaw then c.takeTrap clk 24 cause status else c
  else if r.clk < (c.job r.job).startClk then c
  else c.recordTrap clk r.job (r.record cause status)

/-- TRAP_STATUS of cause 0x12 for device memory (R144). -/
def memStructure : Nat := 4

/-- The instruction or the command of ME that waits for a line stops precisely; a line that nothing waits for is given up. A command
meets the error when it asks for the line again, a running nest when its step would commit (R333, R376). -/
def Core.lineError (c : Core) (clk : Nat) (r : Req) (l : Nat) : Core :=
  let t := c.stream r.key
  if r.key = 16 && t.cmds.any (fun m => m.started && m.idx == r.cmd && m.pc == r.pc) then { c with rbErr := l :: c.rbErr }
  else if t.pc = r.pc && t.st == .live && (r.cmd == 0 || r.key == 16 || 20 ≤ r.key) then
    ((c.undoLoad r.key).undoWseg r.key).takeTrap clk r.key 0x12 memStructure
  else c

/-- A code line that could not be read is not held; a fetch from it meets cause 0x12 (R156, R266). -/
def Core.codeLost (c : Core) (line : Nat) : Core :=
  { c with
    codeWant := c.codeWant.filter (· != line), codeErr := line :: c.codeErr.filter (· != line)
    codeParts := c.codeParts.filter fun e => e.1 / 4 != line }

/-- ERROR_REPLY_ARRIVE (R357). -/
def execErrorReplyArrive (id : Nat) (s : State) : Host.Outcome State Fault Refusal :=
  match (s.packet id).filter Packet.walk with
  | some _ => s.onPacket id [.errorReply] (fun _ => false) fun p s => s.walkAnswer p.destDie p.rid none
  | none => s.onAnswer id [.errorReply] fun _ r c =>
    match r.purpose with
    | .line l => c.lineError s.cycles r l
    | .stale => c.lineError s.cycles r 0
    | .code part => c.codeLost (part / 4)
    | .cmd key idx pos => c.updCmd key idx fun m => m.failAt (0x12, addrStatus (epAddr m.ws + pos)) pos
    | .write _ => c.chargeReq s.cycles r 0x12 memStructure
    | .signal .. | .plane .. | .post _ | .host | .late => c

/-- TRAP_STATUS of cause 0x13 (R144). -/
def Req.lostStatus (r : Req) : Nat :=
  match r.link with
  | none => r.dest
  | some l => l * 2 ^ 9 + 2 ^ 8 + r.dest

/-- The command that waits for a lost answer goes no further. -/
def Core.giveUp (c : Core) (r : Req) : Core :=
  let gone := fun (key idx : Nat) => c.updStream key fun t => { t with cmds := t.cmds.filter fun m => m.idx != idx }
  match r.purpose with
  | .cmd key idx _ => gone key idx
  | .signal key idx => gone key idx
  | .plane key idx => gone key idx
  | .code part => { c with codeWant := c.codeWant.filter (· != part / 4), codeParts := c.codeParts.filter fun e => e.1 / 4 != part / 4 }
  | .line _ | .write _ | .post _ | .host | .stale | .late => c

/-- REQUEST_TIMEOUT (R361): cause 0x13 against the sending job. The record stays until a late answer frees its tag. -/
def execRequestTimeout (cid i : Nat) (s : State) : Host.Outcome State Fault Refusal :=
  let c := s.core cid
  match c.reqs.find? fun r => r.rid == i with
  | none => .next s
  | some r =>
    if r.purpose = .late || s.cycles < r.clk + 2 ^ 20 || (c.frozen && r.key != 24) then .next s
    else
      let c1 : Core := { c with reqs := c.reqs.map fun x => if x.rid = i then { x with purpose := .late } else x }
      .next (s.setCore cid ((c1.giveUp r).chargeReq s.cycles r 0x13 r.lostStatus))

/-- The application of a packet, by its kind. -/
def applyTurn (id : Nat) (s : State) : Host.Outcome State Fault Refusal :=
  match s.packet id with
  | none => .next s
  | some p =>
    match p.kind with
    | .read => execApplyReadRequest id s
    | .write => execApplyWrite id s
    | .reserved => execApplyWrite id s
    | .reduce => execApplyReduce id s
    | .signal => execApplyRemoteSignal id s
    | .arrival => execApplyArrival id s
    | .plane => execApplyPlaneRecord id s
    | .post => execApplyDescriptorPost id s
    | .readReply => execReadReplyArrive id s
    | .writeAck => execWriteAckArrive id s
    | .signalReply => execSignalReplyArrive id s
    | .planeAnswer => execPlaneAnswerArrive id s
    | .postAnswer => execPostAnswerArrive id s
    | .errorReply => execErrorReplyArrive id s

end Sys2Proof.Machine
end

