-- ==== Sys2Proof/Machine/Loader.lean ====
section
/-!
DEFINITION. Sys2Proof/Machine/Loader.lean: the boot mailbox and the loader (R87 to R99, R103, R107, R318): doorbells and
management commands, event records, and how a descriptor is refused, loaded, staged, restored and started. An event that is
not due changes nothing (log 4).
-/

namespace Sys2Proof.Machine

/-! ### The host's side of the mailbox (R87, R88, R90, R405) -/

/-- Whether host function fn may act on core c: the physical function on any, a virtual function on its own. Before READY a
host access is one to an unlisted offset (R409). -/
def State.hostMay (s : State) (fn c : Nat) : Bool := s.ready && !s.trip && (fn = 0 || s.fnOf c == fn)

/-- A DOORBELL write at one queue (R88). Refusals carry tag 0 (log 15). -/
def Core.doorbell (c : Core) (clk fn q v : Nat) : Core :=
  let m := c.mbox
  if v = 0 || 8 < v || 8 < m.load q + v then c.refuse clk 0 0x04 q
  else
    let t := mget 0 m.tail q
    let ks := (List.range v).map fun i => 8 * q + (t + i) % 8
    let vf := m.vf.filter fun k => !ks.contains k
    { c with mbox := { m with
        tail := mput 0 q ((t + v) % 16) m.tail, vf := if fn = 0 then vf else vf ++ ks, consider := true } }

/-- HOST_DOORBELL_WRITE. -/
def execHostDoorbellWrite (fn c q v : Nat) (s : State) : Host.Outcome State Fault Refusal :=
  .next (if 4 ≤ q || !s.hostMay fn c then s else s.updCore c fun x => x.doorbell s.cycles fn q v)

/-- EVENT_POP (R90): the oldest record goes, and held events take the freed place. -/
def execEventPop (c : Nat) (s : State) : Host.Outcome State Fault Refusal :=
  .next (if !s.ready then s else s.updCore c fun x =>
    let full := 16 ≤ x.mbox.fifo.length
    let x1 := ({ x with mbox := { x.mbox with fifo := x.mbox.fifo.tail } } : Core).admitEvents 16
    if full then x1.reconsider else x1)

/-! ### Descriptors (R89) -/

/-- Whether a descriptor of queue q keeps its layout. -/
def descLaid (d q : Nat) : Bool :=
  fld d 13 19 == 0 && fld d 112 16 == 0 && fld d 304 16 == 0 && fld d 336 48 == 0 && fld d 384 19 % 512 == 0
    && fld d 403 45 == 0 && fld d 448 12 == 0 && descPrio d == q

/-- The code a descriptor is refused with; malformed fields come first (log 16). -/
def State.descCode (s : State) (cid q d : Nat) (vf : Bool) : Option Nat :=
  let img := ((s.die (dieOf cid)).image (descImage d)).bits
  if !descLaid d q then some 0x02
  else if !imgValid img then some 0x01
  else if descMpriv d && (!imgPrivok img || vf) then some 0x03
  else if descPlane d != 0xFFFF && (s.planeRecord (dieOf cid) (descPlane d)).isNone then some 0x05
  else none

/-- The code of an image that is not restored (R107). -/
def ImgErr.code : ImgErr → Nat
  | .malformed => 0x07
  | .feature => 0x08
  | .crc => 0x09

/-- n bytes of memory whose 4 KiB pieces stand at the given places, none where a word of them holds an uncorrectable error. -/
def State.peekPieces (s : State) (pas : List Nat) (n : Nat) : Option (List Byte) :=
  if (imageLines pas n).any fun l => s.badRange (64 * l) 64 then none
  else some (((imageLines pas n).flatMap fun l => rdBytes s.mem (64 * l) 64).take n)

/-- The first n bytes of the image that a descriptor names, as the loader reads them in one step (log 10). A page that is not mapped
makes the image malformed (DESIGN CHOICE, log 14), and a word that cannot be read fails its check (R156). -/
def State.loaderRead (s : State) (d n : Nat) : Except ImgErr (List Byte) :=
  match (pieces (descSave d) n).mapM fun a => (s.xlatNow (descDt d) a false).toOption with
  | none => .error .malformed
  | some pas => (s.peekPieces pas n).elim (.error .crc) .ok

/-- The image that a descriptor with RES names, after the checks of R155. -/
def State.resImage (s : State) (cid d : Nat) : Except ImgErr Saved := do
  let hd ← s.loaderRead d 256
  headerCheck hd
  let bs ← s.loaderRead d (256 + bodyLen hd)
  let plain ← s.plainBody cid hd (bs.drop 256)
  return Machine.readImage hd plain

/-! ### What a head comes to (R93, R95) -/

/-- What the loader does with the head of a queue: refuses it, loads it, stages it, or leaves it. -/
inductive LAct where
  | refuse (code : Nat)
  | load (p : Place) (sec : SMap Word)
  | restore (p : Place) (sec : SMap Word) (r : Saved)
  | stage
  | block
  deriving DecidableEq, Repr

/-- Whether a head that does not fit may be staged: its regions are free and no job is staged. -/
def State.mayStage (s : State) (cid d : Nat) : LAct :=
  let c := s.core cid
  if c.stagedJob.isSome then .block
  else
    match s.sectionFor cid (descPlane d) with
    | some sec => if c.regionsFree sec then .stage else .block
    | none => .block

/-- The fit test of R93 for a fresh start. -/
def State.fit (s : State) (cid d : Nat) : Option (Place × SMap Word) :=
  let c := s.core cid
  let img := ((s.die (dieOf cid)).image (descImage d)).bits
  match c.place (imgMask img) (imgSems img) (imgQmask img), s.sectionFor cid (descPlane d) with
  | some p, some sec => if c.regionsFree sec then some (p, sec) else none
  | _, _ => none

/-- What the head d of queue q comes to. -/
def State.headAct (s : State) (cid q d : Nat) (vf : Bool) : LAct :=
  match s.descCode cid q d vf with
  | some code => .refuse code
  | none =>
    if descRes d then
      match s.resImage cid d with
      | .error e => .refuse e.code
      | .ok r =>
        match s.restorePlace cid (descPlane d) r with
        | some (p, sec) => .restore p sec r
        | none => s.mayStage cid d
    else
      match s.fit cid d with
      | some (p, sec) => .load p sec
      | none => s.mayStage cid d

/-- The head of queue q, and whether a virtual function posted it; a resume position comes first (R98). -/
def Mbox.headOf (m : Mbox) (q : Nat) : Option (Nat × Bool) :=
  match mget [] m.resume q with
  | d :: _ => some (d, false)
  | [] =>
    let k := 8 * q + mget 0 m.head q % 8
    if m.load q = 0 then none else some (mget 0 m.entry k, m.vf.contains k)

/-- The mailbox after the loader has taken the head of queue q. -/
def Mbox.take (m : Mbox) (q : Nat) : Mbox :=
  match mget [] m.resume q with
  | _ :: r => { m with resume := mput [] q r m.resume }
  | [] =>
    let k := 8 * q + mget 0 m.head q % 8
    { m with head := mput 0 q ((mget 0 m.head q + 1) % 16) m.head, vf := m.vf.filter (· != k) }

/-! ### Loading and staging (R94, R95, R107, R318) -/

/-- The plane of a job that starts (R318): unless a staged job holds the staged plane, the record is applied to it and it is
activated. -/
def State.installPlane (s : State) (cid plane : Nat) : State :=
  s.updCore cid fun c =>
    if c.stagedJob.isSome then c
    else
      match (if plane = 0xFFFF then none else s.planeRecord (dieOf cid) plane) with
      | none => c.activate
      | some r => (c.stage r).activate

/-- A fresh job takes its place and its code is prefetched (R94, steps 1 to 3). -/
def State.load (s : State) (cid d : Nat) (p : Place) (sec : SMap Word) : State :=
  let img := ((s.die (dieOf cid)).image (descImage d)).bits
  let s1 := (s.installPlane cid (descPlane d)).updCore cid fun c => c.claim p (newJob d img p.semBase sec)
  let (s2, ls) := s1.prefetchAll cid (descIt d) img
  s2.updCore cid fun c => c.updJob p.slot fun b => { b with lines := ls }

/-- A job that was left to the host has been taken up again. -/
def State.unleave (s : State) (d : Nat) : State :=
  { s with cores := s.cores.map fun e => (e.1, { e.2 with left := e.2.left.filter (· != d) }) }

/-- The record of a restored job; what a descriptor gives comes from the new one, its budget with it (R107; DESIGN CHOICE, log 96). -/
def Saved.resJob (r : Saved) (p : Place) (sec : SMap Word) (d : Nat) (priv : Bool) : Job :=
  { r.newJob p sec .loading with
    desc := d, priv := priv, unlim := descBudget d == 0, remain := descBudget d, tmap := descTmap d
    itBase := descIt d, dtBase := descDt d, resKind := if r.ckpt then 1 else 2 }

/-- A saved job takes its place (R107). -/
def State.loadSaved (s : State) (cid d : Nat) (p : Place) (sec : SMap Word) (r : Saved) : State :=
  (((s.installPlane cid (descPlane d)).updCore cid fun c =>
    c.restore r p (r.resJob p sec d (descMpriv d))).restoreCatches cid r).unleave r.job.desc

/-- A head is staged (R95): its plane record is applied, its regions are reserved and its code is prefetched. -/
def State.stageJob (s : State) (cid d : Nat) : State :=
  let img := ((s.die (dieOf cid)).image (descImage d)).bits
  (s.updCore cid fun c =>
    let c1 := match (if descPlane d = 0xFFFF then none else s.planeRecord (dieOf cid) (descPlane d)) with
      | none => c
      | some r => c.stage r
    { c1 with stagedJob := some d, planeSt := 2 }).prefetchAll cid (descIt d) img |>.1

/-- The loader pre-empts the lowest-priority pre-emptible RUNNING job for a head of queue q that would fit without it
(R103); of several the one in the lowest slot (log 16). -/
def State.preempts (s : State) (cid q d : Nat) (vf : Bool) : Option Nat :=
  let c := s.core cid
  let js := (List.range 8).filter fun j => (c.job j).st == .running && descPre (c.job j).desc && q < descPrio (c.job j).desc
  let low := (js.map fun j => descPrio (c.job j).desc).foldl max 0
  (js.find? fun j => descPrio (c.job j).desc == low).filter fun j =>
    match (s.setCore cid (c.freeJob j)).headAct cid q d vf with
    | .load _ _ => true
    | .restore _ _ _ => true
    | .refuse _ => false | .stage => false | .block => false

/-- Whether an earlier entry of queue q has been taken and has not started: it is staged, or still loading (R99). -/
def Core.unstarted (c : Core) (q : Nat) : Bool :=
  c.stagedJob.any (fun d => descPrio d == q)
    || (List.range 8).any fun j => (c.job j).st == .loading && !(c.job j).again && descPrio (c.job j).desc == q

/-- The loader's one action over the queues from q on, n of them left. Whether a waiting head pre-empts a job is tested here, when the
mailbox is considered (DESIGN CHOICE, log 99). -/
def State.consider (s : State) (cid q : Nat) : Nat → State
  | 0 => s.updCore cid fun c => { c with mbox := { c.mbox with consider := false } }
  | n + 1 =>
    match (if (s.core cid).unstarted q then none else (s.core cid).mbox.headOf q) with
    | none => s.consider cid (q + 1) n
    | some (d, vf) =>
      let taken := s.updCore cid fun c => { c with mbox := c.mbox.take q }
      match s.headAct cid q d vf with
      | .refuse code => taken.updCore cid fun c => c.refuse s.cycles (descTag d) code q
      | .load p sec => taken.load cid d p sec
      | .restore p sec r => taken.loadSaved cid d p sec r
      | .stage => taken.stageJob cid d
      | .block =>
        let s1 := match s.preempts cid q d vf with
          | none => s
          | some j => s.updCore cid fun c => c.request j false true
        s1.consider cid (q + 1) n

/-- Whether the loader of a core may start or refuse anything: the core is not frozen, its event FIFO is not full (R90), and the writes
that the loader's reads follow have been applied (log 10). -/
def State.loaderFree (s : State) (cid : Nat) : Bool :=
  let c := s.core cid
  !c.frozen && c.mbox.fifo.length < 16 && c.mbox.held.isEmpty && s.settled (dieOf cid)

/-- LOADER_CONSIDER (R93): one action in a clock, in the clock after a trigger. -/
def execLoaderConsider (c : Nat) (s : State) : Host.Outcome State Fault Refusal :=
  .next (if (s.core c).mbox.consider && s.loaderFree c then s.consider c 0 4 else s)

/-! ### Starting (R94, R95, R106, R107) -/

/-- The place of a job that RERUN starts again: its own slots, and free ones on the engines whose streams had ended (R94, R96). -/
def Core.rerunPlace (c : Core) (j mask : Nat) : Option Place :=
  let own := c.jobKeys j
  ((maskBits 6 mask).mapM fun e => (own.find? fun k => k / 4 == e).orElse fun _ => (c.freeSlot (engNo e)).map (skey (engNo e))).map
    fun ks => ⟨j, ks, (c.job j).semBase⟩

/-- A job whose loading is over starts by what it restores. A job that RERUN loads waits until the slots it lacks are free (DESIGN
CHOICE, log 103), and its image is read then. -/
def State.startLoaded (s : State) (cid j : Nat) : State :=
  let c := s.core cid
  let b := c.job j
  match b.resKind with
  | 0 =>
    match c.rerunPlace j b.engmask with
    | none => s
    | some p => (p.keys.foldl (fun s k => s.updCore cid fun c => c.updStream k fun t => { t with st := .held, job := j }) s).startJob cid j
  | 1 =>
    (s.freshStreams cid j).updCore cid fun c =>
      let c1 := (c.jobKeys j).foldl (fun c k => c.updStream k fun t => { t with st := .live }) { c with rb := [] }
      (c1.updJob j fun b => { b with st := .running, startClk := s.cycles }).reconsider.dropLines fun _ => true
  | 2 => (s.resumeJob cid j).updCore cid Core.reconsider
  | _ =>
    match s.resImage cid b.desc with
    | .error e =>
      s.updCore cid fun c => (c.stopStreams j).updJob j (fun b => { b with st := .stopped }) |>.refuse s.cycles (descTag b.desc) e.code
        (descPrio b.desc)
    | .ok r =>
      match c.rerunPlace j r.mask with
      | none => s
      | some p =>
        let n : Job := { r.resJob p b.sec b.desc b.priv with trap := b.trap, again := true }
        let gs := (c.jobKeys j).map fun k => (k, (c.stream k).groups)
        (s.updCore cid fun c =>
          gs.foldl (fun c g => c.updStream g.1 fun t => { t with groups := g.2 ++ t.groups.filter fun x => !g.2.contains x })
            (c.restore r p n)).restoreCatches cid r

/-- JOB_LOAD_DONE: the prefetch of a loading job ended in the clock before, and its streams start (R94); no job starts while the event
FIFO is full (R90). -/
def execJobLoadDone (c j : Nat) (s : State) : Host.Outcome State Fault Refusal :=
  let b := (s.core c).job j
  .next (if b.st == .loading && s.loaderFree c && s.prefetched c b.lines then s.startLoaded c j else s)

/-- A staged job takes its place and its plane, and starts. One with RES has its image read and checked again, and where that fails it is
refused and the staged plane dropped (DESIGN CHOICE, log 100). -/
def State.startStaged (s : State) (cid d : Nat) : State :=
  let c := s.core cid
  let sec := part 0 136 c.staged
  let img := ((s.die (dieOf cid)).image (descImage d)).bits
  let up := fun (c : Core) => ({ c with stagedJob := none } : Core).activate.reconsider
  if descRes d then
    match s.resImage cid d with
    | .error e => s.updCore cid fun c =>
      (({ c with stagedJob := none } : Core).dropStaged.refuse s.cycles (descTag d) e.code (descPrio d)).reconsider
    | .ok r =>
      match c.place r.mask r.job.semSize r.job.qmask with
      | none => s
      | some p =>
        -- 0xFFFF: the staged plane already holds the job's record
        ((s.updCore cid fun c => { c with stagedJob := none }).loadSaved cid (setFld d 320 16 0xFFFF) p sec r).updCore cid
          (fun c => (c.updJob p.slot fun b => { b with desc := d }).reconsider) |>.startLoaded cid p.slot
  else
    match c.place (imgMask img) (imgSems img) (imgQmask img) with
    | none => s
    | some p => ((s.updCore cid up).updCore cid fun c => c.claim p (newJob d img p.semBase sec)).startJob cid p.slot

/-- STAGED_JOB_START: the staged job starts in the clock after it fits (R95). -/
def execStagedJobStart (c : Nat) (s : State) : Host.Outcome State Fault Refusal :=
  let x := s.core c
  match x.stagedJob with
  | none => .next s
  | some d =>
    .next (if s.loaderFree c then s.startStaged c d else s)

/-! ### Management commands (R91, R96, R103) -/

/-- A refused MBOX_CMD write. -/
def Core.refuseCmd (c : Core) (clk : Nat) : Core := c.refuse clk 0 0x02 0xFF

/-- REMOVE: the streams of a stopped job leave their groups and the job is gone. -/
def State.remove (s : State) (cid j : Nat) : State :=
  let s1 := ((s.core cid).jobKeys j).foldl (fun s k => s.leaveAll cid k 0) s
  s1.updCore cid fun c =>
    let ev := c.jobEvent s.cycles j 6 0
    ((c.updJob j fun b => { b with st := .retired }).event j ev).reconsider

/-- A staged job whose reserved regions meet those of a job that is started again goes back to the head of its queue. -/
def Core.unstage (c : Core) (clk : Nat) (sec : SMap Word) : Core :=
  match c.stagedJob with
  | none => c
  | some d =>
    if !sectionsMeet sec (part 0 136 c.staged) then c
    else
      let q := descPrio d
      let c1 := ({ c with stagedJob := none } : Core).dropStaged
      ({ c1 with mbox := { c1.mbox with resume := mput [] q (d :: mget [] c1.mbox.resume q) c1.mbox.resume } }.refuse
        clk (descTag d) 0x06 q).reconsider

/-- RERUN: a stopped job is loaded again with its own section; its streams stay members of their groups (R96, R102). -/
def State.rerun (s : State) (cid j : Nat) : State :=
  let c := s.core cid
  let b := c.job j
  let d := b.desc
  let ks := c.jobKeys j
  let gs := ks.map fun k => (k, (c.stream k).groups)
  if descRes d then
    match s.resImage cid d with
    | .error e => s.updCore cid fun c => c.refuse s.cycles (descTag d) e.code (descPrio d)
    | .ok _ => s.updCore cid fun c =>
      ks.foldl (fun c k => c.updStream k fun t => { t with st := .held }) ((c.unstage s.cycles b.sec).updJob j fun b =>
        { b with st := .loading, resKind := 3, again := true, startClk := notStarted, lines := [] })
  else
    let img := ((s.die (dieOf cid)).image (descImage d)).bits
    let n : Job := { newJob d img b.semBase b.sec with
      trap := b.trap, qmask := b.qmask, semSize := b.semSize, engmask := b.engmask, priv := b.priv, again := true }
    let s1 := s.updCore cid fun c =>
      let c1 := c.unstage s.cycles b.sec
      let c2 := { c1 with
        queues := (maskBits 16 b.qmask).foldl (fun m q => mput {} q {} m) c1.queues
        retires := c1.retires.filter fun r => r.job != j
        maturing := c1.maturing.filter fun m => m.job != j }
      gs.foldl (fun c g => c.updStream g.1 fun t => { t with groups := g.2 }) (c2.claim ⟨j, ks, b.semBase⟩ n)
    let (s2, ls) := s1.prefetchAll cid (descIt d) img
    s2.updCore cid fun c => c.updJob j fun b => { b with lines := ls }

/-- A write of MBOX_CMD: command cmd for job slot j. -/
def State.mboxCommand (s : State) (cid cmd j : Nat) : State :=
  let c := s.core cid
  let b := c.job j
  let no := s.setCore cid (c.refuseCmd s.cycles)
  match cmd with
  | 1 => if b.st = .stopped then s.remove cid j else no
  | 2 => if b.st = .running && descPre b.desc then s.setCore cid (c.request j false false) else no
  | 3 => if b.st = .stopped then s.rerun cid j else no
  | _ => no

/-- MBOX_REMOVE, MBOX_PREEMPT and MBOX_RERUN (R91). -/
def execMboxRemove (c j : Nat) (s : State) : Host.Outcome State Fault Refusal :=
  .next (if s.ready && !s.trip then s.mboxCommand c 1 (j % 8) else s)

def execMboxPreempt (c j : Nat) (s : State) : Host.Outcome State Fault Refusal :=
  .next (if s.ready && !s.trip then s.mboxCommand c 2 (j % 8) else s)

def execMboxRerun (c j : Nat) (s : State) : Host.Outcome State Fault Refusal :=
  .next (if s.ready && !s.trip then s.mboxCommand c 3 (j % 8) else s)

end Sys2Proof.Machine
end

