-- ==== Sys2Proof/Machine/Portable.lean ====
section
/-!
DEFINITION. Sys2Proof/Machine/Portable.lean: the portable form (R171 to R173): its entries, what translation rejects, and a
translation. R172 gives the visible effect of the translated code and leaves its words to the device; the words here are the
model's choice, and they follow R83 (log 104). Only the sequencer, ME and XE take portable form (R158), so every value is in
an x register; a predicate is kept there as 0 or 1.
-/

namespace Sys2Proof.Machine

/-- A field of n bytes at offset o of a file. -/
def fileN (f : List Byte) (o n : Nat) : Nat := leBytes ((f.drop o).take n)

/-- An entry of a portable-form section (R171, R173). -/
structure CpfEnt where
  kind : Nat
  opc : Nat
  func : Nat
  ds : List Nat
  g : Nat
  imm : Nat
  deriving DecidableEq, Repr

/-- The entries of a portable-form section. -/
def cpfEnts (bs : List Byte) : List CpfEnt :=
  let v1 := fileN bs 0 2 == 1
  (List.range (fileN bs 4 4)).map fun i =>
    let o := 16 + (if v1 then 12 else 16) * i
    { kind := fileN bs o 1, opc := fileN bs (o + 1) 1, func := fileN bs (o + 2) 2
      ds := [fileN bs (o + 4) 2, fileN bs (o + 6) 2, if v1 then 0 else fileN bs (o + 8) 2]
      g := if v1 then 0 else fileN bs (o + 10) 2, imm := fileN bs (o + if v1 then 8 else 12) 4 }

/-- Whether an entry produces a value. -/
def CpfEnt.produces (e : CpfEnt) : Bool := [1, 2, 3, 5, 6].contains e.kind

/-- Whether an entry produces a predicate. -/
def CpfEnt.predicate (e : CpfEnt) : Bool := e.kind == 3 && [0x13, 0x14, 0x15].contains e.opc

/-- The entry that opens the function of entry i. -/
def funcOf (es : List CpfEnt) (i : Nat) : Nat :=
  ((List.range (i + 1)).reverse.find? fun k => (es[k]?).any fun e => e.kind == 0).getD 0

/-- The entries that distances of entry i name, its guard among them. -/
def cpfUses (es : List CpfEnt) (i : Nat) : List Nat :=
  match es[i]? with
  | some e => ((e.g :: e.ds).filter (· != 0)).map fun d => i - d
  | none => []

/-- Where an entry's value comes to be: a parameter stands in its register from its function's entry on. -/
def cpfDef (es : List CpfEnt) (k : Nat) : Nat := if (es[k]?).any fun e => e.kind == 1 then funcOf es k else k

/-- The last entry that uses the value of entry k, itself where none does. -/
def cpfLast (es : List CpfEnt) (k : Nat) : Nat :=
  (((List.range es.length).filter fun u => (cpfUses es u).contains k).getLast?).getD k

/-- The values live at entry i. -/
def cpfLive (es : List CpfEnt) (i : Nat) : List Nat :=
  (List.range es.length).filter fun k =>
    (es[k]?).any CpfEnt.produces && funcOf es k == funcOf es i && cpfDef es k < i && i ≤ cpfLast es k && cpfLast es k != k

/-! ### Registers for values -/

/-- x registers from x4 upward on the engines that take portable form. -/
def cpfRegs (eng : Nat) : Nat := if eng = 0 then 60 else 28

/-- A value in a register: the entry that produces it, where it comes to be, its last use, and the register. -/
structure CpfVal where
  ent : Nat
  born : Nat
  last : Nat
  reg : Nat
  deriving DecidableEq, Repr

/-- Whether a CALL lies within a value's life. -/
def cpfCrosses (es : List CpfEnt) (a b : Nat) : Bool :=
  (List.range es.length).any fun i => a < i && i < b && (es[i]?).any fun e => e.kind == 6

/-- A callee-saved register (R83). -/
def calleeSaved (r : Nat) : Bool := 16 ≤ r

/-- The registers a value may take, in order of preference. The sequencer saves what it must on its stack; ME and XE have no
store to the scratchpad, so there a value that lives across a CALL keeps to the callee-saved registers that no function
before it in the section has taken. -/
def cpfChoices (eng : Nat) (pool : List Nat) (cross : Bool) : List Nat :=
  let low := (List.range 12).map (4 + ·)
  let high := if eng = 0 then (List.range 48).map (16 + ·) else pool
  if eng = 0 then (if cross then high ++ low else low ++ high) else if cross then high else low ++ high

/-- A register for the value of entry k beside those already placed, none where no register is left. -/
def cpfPlace (eng : Nat) (es : List CpfEnt) (pool : List Nat) (vs : List CpfVal) (k : Nat) : Option (List CpfVal) :=
  let a := cpfDef es k
  let b := cpfLast es k
  if b = k then some vs
  else
    let free := fun (r : Nat) => !(vs.any fun v => v.reg == r && a < v.last && v.born < b)
    ((cpfChoices eng pool (cpfCrosses es a b)).find? free).map fun r => vs ++ [⟨k, a, b, r⟩]

/-- The values of the function that entry fn opens, its parameters first. -/
def cpfProducers (es : List CpfEnt) (fn : Nat) : List Nat :=
  let ks := (List.range es.length).filter fun k => (es[k]?).any CpfEnt.produces && funcOf es k == fn
  let par := fun (k : Nat) => (es[k]?).any fun e => e.kind == 1
  ks.filter par ++ ks.filter fun k => !par k

/-- The registers of a function's values; where one has none, the entry that produces it. -/
def cpfAlloc (eng : Nat) (es : List CpfEnt) (pool : List Nat) (fn : Nat) : Except Nat (List CpfVal) :=
  (cpfProducers es fn).foldlM (fun vs k =>
    match cpfPlace eng es pool vs k with
    | some r => .ok r
    | none => .error k) []

/-- Whether some entry of the function has the given kind. -/
def cpfHas (es : List CpfEnt) (fn kind : Nat) : Bool :=
  (List.range es.length).any fun i => funcOf es i == fn && (es[i]?).any fun e => e.kind == kind

/-- How a function is translated: its values' registers, the registers it saves on the stack at its entry, and, in ME and XE,
the register that keeps its return address over its calls. -/
structure CpfFn where
  fn : Nat
  vals : List CpfVal
  saved : List Nat
  link : Option Nat
  deriving DecidableEq, Repr

/-- The functions of a section in order; pool holds the callee-saved registers that no function of ME or XE has taken yet. -/
def cpfFns (eng : Nat) (es : List CpfEnt) : List Nat → List Nat → Except Nat (List CpfFn)
  | _, [] => .ok []
  | pool, fn :: r => do
    let keeps := cpfHas es fn 6 && cpfHas es fn 7
    let link := if keeps && eng != 0 then pool.head? else none
    if keeps && eng != 0 && link.isNone then .error fn
    else do
      let vs ← cpfAlloc eng es (if link.isSome then pool.tail else pool) fn
      let used := (vs.map CpfVal.reg).eraseDups.filter calleeSaved
      let saved := if eng = 0 && cpfHas es fn 7 then (if keeps then [1] else []) ++ used else []
      .ok (⟨fn, vs, saved, link⟩ :: (← cpfFns eng es (pool.filter fun x => !(link.toList ++ used).contains x) r))

/-- The register of the value that entry k produces; x0 where nothing uses it. -/
def CpfFn.reg (f : CpfFn) (k : Nat) : Nat := ((f.vals.find? fun v => v.ent == k).map CpfVal.reg).getD 0

/-! ### Words -/

/-- A head with no token and the given guard; 126 for none. -/
def cpfHead (g : Nat) : Head := ⟨7, false, false, g, false⟩

def cpfAlways : Head := cpfHead 126

/-- The operand fields of a native instruction (R66, R68): destination, A, B and C. -/
structure CpfOps where
  d : Nat
  a : Nat
  b : Nat
  c : Nat
  deriving DecidableEq, Repr

/-- A native immediate of n bits, where the field can hold it. -/
def cpfImm (n v : Nat) : Option Nat := if v < 2 ^ n || 2 ^ 32 - 2 ^ (n - 1) ≤ v then some (v % 2 ^ n) else none

/-- The native word of an OP or EFFECT entry: FUNC is the M bits, or bits 15 to 0 of the K form, whose upper bits it leaves 0.
None where FUNC or the immediate does not fit its field. -/
def cpfNative (eng : Nat) (e : CpfEnt) (h : Head) (o : CpfOps) : Option Nat :=
  let m := fun (n : Nat) => if e.func < 2 ^ n then some e.func else none
  if 0x40 ≤ e.opc && eng != 0 then
    some (e.opc * 2 ^ 56 + headBits h + o.a * 2 ^ 34 + o.b * 2 ^ 25 + e.func)
  else if e.opc == 0x0C || e.opc == 0x12 then do some (packU e.opc h ⟨o.d, ← cpfImm 20 e.imm, ← m 14⟩)
  else if [0x00, 0x02, 0x10, 0x13, 0x15].contains e.opc then do some (packR e.opc h ⟨o.d, o.a, o.b, o.c, ← m 7⟩)
  else do some (packI e.opc h ⟨o.d, o.a, ← cpfImm 12 e.imm, ← m 13⟩)

def cpfAddi (d a : Nat) (v : Int) : Nat := packI 0x11 cpfAlways ⟨d, a, uN 12 v, 0⟩

def cpfMov (d a : Nat) : List Nat := if d = a || d = 0 then [] else [cpfAddi d a 0]

/-- x(d) := v, in 1 + 2·n words of at most 11 bits each. -/
def cpfConst (d : Nat) (v : Int) : Nat → List Nat
  | 0 => [cpfAddi d 0 v]
  | n + 1 => cpfConst d (v / 2 ^ 11) n ++ [packI 0x11 cpfAlways ⟨d, d, 11, 4⟩, cpfAddi d d (v % 2 ^ 11)]

/-- p(n) := x(r) is not 0. -/
def cpfToP (n r : Nat) : Nat := packI 0x14 cpfAlways ⟨320 + n, r, 0, 1⟩

/-- x(r) := 1 or 0 as p(n) is set or not. -/
def cpfFromP (n r : Nat) : List Nat :=
  if r = 0 then [] else [cpfAddi r 0 1, packR 0x10 cpfAlways ⟨r, r, 0, 320 + n, 0x14⟩]

def cpfXor (d a : Nat) : Nat := packR 0x10 cpfAlways ⟨d, d, a, 0, 4⟩

/-- Moves made as if all at once: (to, from); a cycle is opened by an exchange. -/
def cpfMoves : Nat → List (Nat × Nat) → List Nat
  | 0, _ => []
  | fuel + 1, ms =>
    let ms := ms.filter fun m => m.1 != m.2
    match ms.find? fun m => !(ms.any fun q => q.2 == m.1) with
    | some m => cpfMov m.1 m.2 ++ cpfMoves fuel (ms.filter (· != m))
    | none =>
      match ms with
      | [] => []
      | (d, a) :: r =>
        [cpfXor d a, cpfXor a d, cpfXor d a]
          ++ cpfMoves fuel (r.map fun q => (q.1, if q.2 = d then a else if q.2 = a then d else q.2))

def cpfStore (r off : Nat) : Nat := packI 0x17 cpfAlways ⟨r, 2, off, 3⟩
def cpfLoad (r off : Nat) : Nat := packI 0x16 cpfAlways ⟨r, 2, off, 3⟩

/-- Caller-saved registers that hold a value over the call of entry i. -/
def CpfFn.kept (f : CpfFn) (i : Nat) : List Nat :=
  ((f.vals.filter fun v => v.born < i && i < v.last && !calleeSaved v.reg).map CpfVal.reg).eraseDups

/-- Bytes of a function's stack frame: what it saves at entry and the twelve caller-saved registers, 16-byte aligned. -/
def CpfFn.frame (f : CpfFn) (es : List CpfEnt) : Nat :=
  let calls := (List.range es.length).any fun i => funcOf es i == f.fn && (es[i]?).any (fun e => e.kind == 6) && !(f.kept i).isEmpty
  if f.saved.isEmpty && !calls then 0 else (8 * (f.saved.length + 12) + 15) / 16 * 16

/-- What stands before and after a function's entries: the frame, what it saves, and its parameters moved to their registers. -/
def CpfFn.enter (f : CpfFn) (es : List CpfEnt) : List Nat :=
  let ps := f.vals.filter fun v => (es[v.ent]?).any fun e => e.kind == 1
  (if f.frame es = 0 then [] else [cpfAddi 2 2 (-(f.frame es : Int))]) ++ f.saved.mapIdx (fun j r => cpfStore r (8 * j))
    ++ (f.link.map fun l => cpfMov l 1).getD []
    ++ cpfMoves (ps.length + 1) (ps.map fun v => (v.reg, 4 + ((es[v.ent]?).map CpfEnt.imm).getD 0))

def CpfFn.leave (f : CpfFn) (es : List CpfEnt) : List Nat :=
  f.saved.mapIdx (fun j r => cpfLoad r (8 * j)) ++ (if f.frame es = 0 then [] else [cpfAddi 2 2 (f.frame es)])
    ++ [packR 0x08 cpfAlways ⟨0, f.link.getD 1, 0, 0, 0⟩]

/-- The register of operand j of entry i; x0 for no operand. -/
def CpfFn.operand (f : CpfFn) (e : CpfEnt) (i j : Nat) : Nat :=
  let d := e.ds.getD j 0
  if d = 0 then 0 else f.reg (i - d)

/-- Whether operand j of entry i is a predicate. -/
def cpfIsP (es : List CpfEnt) (e : CpfEnt) (i j : Nat) : Bool :=
  e.ds.getD j 0 != 0 && (es[i - e.ds.getD j 0]?).any CpfEnt.predicate

/-- The operand field of operand j: its x register, or p(1 + j) where it is a predicate. -/
def CpfFn.field (f : CpfFn) (es : List CpfEnt) (e : CpfEnt) (i j : Nat) : Nat :=
  if cpfIsP es e i j then 321 + j else f.operand e i j

/-- The predicates that an entry reads, and its guard in p4, brought out of their registers. -/
def CpfFn.readP (f : CpfFn) (es : List CpfEnt) (e : CpfEnt) (i : Nat) : List Nat :=
  ((List.range 3).filter (cpfIsP es e i)).map (fun j => cpfToP (1 + j) (f.operand e i j))
    ++ if e.g = 0 then [] else [cpfToP 4 (f.reg (i - e.g))]

def cpfGuard (e : CpfEnt) : Head := if e.g = 0 then cpfAlways else cpfHead 4

/-- The native word of an OP or EFFECT entry with its registers in place: an OP's value goes to its own register, or to p0;
an EFFECT has D1 as its D field. -/
def CpfFn.word (f : CpfFn) (eng : Nat) (es : List CpfEnt) (e : CpfEnt) (i : Nat) : Option Nat :=
  let x := f.field es e i
  if e.kind = 3 then cpfNative eng e cpfAlways ⟨if e.predicate then 320 else f.reg i, x 0, x 1, x 2⟩
  else cpfNative eng e (cpfGuard e) ⟨x 0, x 1, x 2, 0⟩

/-- The call of S: arguments moved, S built in x12, the return address made to name the word after the JR, and the caller-saved
registers that hold values kept on the stack meanwhile. -/
def CpfFn.call (f : CpfFn) (es : List CpfEnt) (e : CpfEnt) (i : Nat) (sym : Int) : List Nat :=
  let kept := f.kept i
  let at_ := fun (j : Nat) => 8 * (f.saved.length + j)
  let args := (List.range 3).filter fun j => e.ds.getD j 0 != 0
  f.readP es e i ++ kept.mapIdx (fun j r => cpfStore r (at_ j))
    ++ cpfMoves 8 (args.map fun j => (4 + j, f.operand e i j)) ++ cpfConst 12 sym 5
    ++ [packJ 0x06 cpfAlways ⟨1, 1, 0⟩, cpfAddi 1 1 16, packR 0x08 (cpfGuard e) ⟨0, 12, 0, 0, 0⟩]
    ++ cpfMov (f.reg i) 4 ++ kept.mapIdx (fun j r => cpfLoad r (at_ j))

/-- The words of entry i (R172). sym is the loaded value of the symbol that a SYMADDR or CALL names. -/
def CpfFn.words (f : CpfFn) (eng : Nat) (es : List CpfEnt) (i : Nat) (e : CpfEnt) (sym : Int) : List Nat :=
  match e.kind with
  | 0 => f.enter es
  | 2 => if f.reg i = 0 then [] else cpfConst (f.reg i) (sextN 32 e.imm) 2
  | 3 => f.readP es e i ++ (f.word eng es e i).toList ++ if e.predicate then cpfFromP 0 (f.reg i) else []
  | 4 =>
    let writes := cpfIsP es e i 0 && [0x13, 0x14, 0x15].contains e.opc
    f.readP es e i ++ (f.word eng es e i).toList ++ if writes then cpfFromP 1 (f.operand e i 0) else []
  | 5 => if f.reg i = 0 then [] else cpfConst (f.reg i) sym 5
  | 6 => f.call es e i sym
  | 7 => (if e.ds.getD 0 0 = 0 then [] else cpfMov 4 (f.operand e i 0)) ++ f.leave es
  | 8 => [packR 0x02 cpfAlways ⟨0, 0, 0, 0, 0⟩]
  | _ => []

/-! ### Translation of a section (R172) -/

/-- Branches, loops, CALLG, the block head, which pops tokens, and the system range. -/
def cpfBanned (opc : Nat) : Bool := opc == 0x01 || (4 ≤ opc && opc ≤ 0x0B) || 0xF0 ≤ opc

def cpfEng (eng : Nat) : Eng := if eng = 0 then .sq else if eng = 4 then .me else .xe

/-- Whether R78 rejects the native word of an entry. -/
def cpfWordBad (eng : Nat) (es : List CpfEnt) (f : CpfFn) (i : Nat) (e : CpfEnt) : Bool :=
  match f.word eng es e i with
  | none => true
  | some w => match decodeWord (cpfEng eng) true w with
    | .ok _ => false
    | .error _ => true

/-- Whether entry i of a section is one that translation rejects before registers are given out. -/
def cpfBad (eng : Nat) (es : List CpfEnt) (i : Nat) : Bool :=
  match es[i]? with
  | none => true
  | some e =>
    let fn := funcOf es i
    let names := fun (d : Nat) (p : CpfEnt → Bool) => d == 0 || (fn + d < i && (es[i - d]?).any p)
    let params := ((es[fn]?).map CpfEnt.imm).getD 0
    8 < e.kind || !(e.ds.all fun d => names d CpfEnt.produces) || (e.g != 0 && !(e.kind == 4 || e.kind == 6))
      || !names e.g CpfEnt.predicate || (e.kind == 0 && 8 < e.imm) || (e.kind == 1 && params ≤ e.imm) || (i == 0 && e.kind != 0)
      || ((e.kind == 3 || e.kind == 4) && cpfBanned e.opc) || cpfRegs eng < (cpfLive es i).length

/-- How a section's functions are translated, or the first entry that translation rejects. -/
def cpfPlan (eng : Nat) (es : List CpfEnt) : Except Nat (List CpfFn) :=
  match (List.range es.length).find? (cpfBad eng es) with
  | some i => .error i
  | none => do
    let fns := (List.range es.length).filter fun k => (es[k]?).any fun e => e.kind == 0
    let fs ← cpfFns eng es ((List.range 16).map (16 + ·)) fns
    let bad := fun (i : Nat) => match es[i]?, fs.find? fun f => f.fn == funcOf es i with
      | some e, some f => (e.kind == 3 || e.kind == 4) && cpfWordBad eng es f i e
      | _, _ => true
    match (List.range es.length).find? bad with
    | some i => .error i
    | none => .ok fs

/-- The words of every entry in list order, given what each entry's symbol has been placed at; none for a section that
translation rejects. -/
def cpfWords (eng : Nat) (bs : List Byte) (sym : Nat → Int) : List (List Nat) :=
  let es := cpfEnts bs
  match cpfPlan eng es with
  | .error _ => []
  | .ok fs => es.mapIdx fun i e =>
    match fs.find? fun f => f.fn == funcOf es i with
    | some f => f.words eng es i e (sym i)
    | none => []

/-- Dwords of a section's code, which do not depend on where its symbols are placed. -/
def cpfSize (eng : Nat) (bs : List Byte) : Nat := ((cpfWords eng bs fun _ => 0).map List.length).sum

/-- Dwords before the code of entry i. -/
def cpfOffset (eng : Nat) (bs : List Byte) (i : Nat) : Nat := (((cpfWords eng bs fun _ => 0).take i).map List.length).sum

/-- The bytes of a section's code. -/
def cpfCode (eng : Nat) (bs : List Byte) (sym : Nat → Int) : List Byte := (cpfWords eng bs sym).flatten.flatMap (toBytes 8)

end Sys2Proof.Machine
end

