-- ==== Sys2Proof/Machine/Objects.lean ====
section
/-!
DEFINITION. Sys2Proof/Machine/Objects.lean: code objects and the image loader (R157 to R173): the checks of a LOAD in their
order, placement, symbols, the global offset table, portable-form sections, relocation, and the writes; UNLOAD. A command
reads the object in one step (log 10).
-/

namespace Sys2Proof.Machine

/-- A status code and the index that goes with it (R168). -/
abbrev IlErr := Nat × Nat

/-- Fails with a status unless b holds. -/
def need (b : Bool) (code index : Nat) : Except IlErr Unit := if b then .ok () else .error (code, index)

/-- The first element p holds of fails with the code and what ix says. -/
def noneOf {α : Type} (l : List α) (p : α → Bool) (code : Nat) (ix : α → Nat) : Except IlErr Unit :=
  match l.find? p with
  | some x => .error (code, ix x)
  | none => .ok ()

/-! ### Header and sections (R157, R158) -/

def cofMagic : Nat := 0x4C464F43
def noIndex : Nat := 0xFFFFFFFF

/-- What the loader takes from a header. -/
structure Cof where
  v1 : Bool
  flags : Nat
  nsec : Nat
  nsym : Nat
  nrel : Nat
  secoff : Nat
  symoff : Nat
  reloff : Nat
  stroff : Nat
  strsize : Nat
  prefCode : Nat
  prefData : Nat
  gpoff : Nat
  entries : List Nat
  qmask : Nat
  sems : Nat
  deriving DecidableEq, Repr

/-- The header as it stands. -/
def cofOf (f : List Byte) : Cof :=
  let v1 := fileN f 4 2 == 1
  { v1 := v1, flags := fileN f 6 2, nsec := fileN f 8 2, nsym := fileN f 12 4, nrel := fileN f 16 4, secoff := fileN f 20 4
    symoff := fileN f 24 4, reloff := fileN f 28 4, stroff := fileN f 32 4, strsize := fileN f 36 4
    prefCode := fileN f 40 8, prefData := fileN f 48 8, gpoff := fileN f 56 4
    entries := (List.range 6).map fun e => fileN f (60 + 4 * e) 4
    qmask := if v1 then 0xFFFF else fileN f 84 2, sems := if v1 then 64 else fileN f 86 1 }

/-- Bytes of a relocation record. -/
def Cof.relLen (h : Cof) : Nat := if h.v1 then 16 else 24

/-- The header and the tables it locates: first byte and length. -/
def Cof.tables (h : Cof) : List (Nat × Nat) :=
  [(0, 128), (h.secoff, 16 * h.nsec), (h.symoff, 24 * h.nsym), (h.reloff, h.relLen * h.nrel), (h.stroff, h.strsize)]

/-- Whether no two ranges of a list share a byte. -/
def apart : List (Nat × Nat) → Bool
  | [] => true
  | r :: rs => rs.all (fun x => !overlaps r.1 r.2 x.1 x.2) && apart rs

/-- A section table entry. -/
structure Sec where
  ix : Nat
  kind : Nat
  eng : Nat
  align : Nat
  foff : Nat
  size : Nat
  name : Nat
  rsv : Nat
  deriving DecidableEq, Repr

def secOf (f : List Byte) (h : Cof) (i : Nat) : Sec :=
  let o := h.secoff + 16 * i
  ⟨i, fileN f o 1, fileN f (o + 1) 1, fileN f (o + 2) 1, fileN f (o + 8) 4, fileN f (o + 12) 4, fileN f (o + 4) 4, fileN f (o + 3) 1⟩

/-- Whether a section-table entry keeps R158. -/
def Sec.laid (x : Sec) (f : List Byte) (h : Cof) : Bool :=
  1 ≤ x.kind && x.kind ≤ 7 && x.rsv == 0
    && (match x.kind with
        | 1 => [0, 1, 2, 4, 5].contains x.eng
        | 6 => [0, 4, 5].contains x.eng
        | _ => x.eng == 0)
    && 3 ≤ x.align && x.align ≤ 16 && (x.kind != 2 || 5 ≤ x.align)
    && x.name < h.strsize && ((f.drop (h.stroff + x.name)).take (h.strsize - x.name)).contains 0
    && x.foff + x.size ≤ f.length
    && (x.kind != 2 || x.size % 32 == 0) && (!(x.kind == 1 || x.kind == 5) || x.size % 8 == 0)

/-- Whether two sections may not stand in one object. -/
def Sec.twice (a b : Sec) : Bool :=
  let code := fun (x : Sec) => x.kind == 1 || x.kind == 6
  if code a && code b then a.eng == b.eng else a.kind == b.kind

/-- Header and sections checked (step 2 of R169). -/
def checkHeader (f : List Byte) : Except IlErr (Cof × List Sec) := do
  need (128 ≤ f.length) 0x02 0
  let h := cofOf f
  need (fileN f 0 4 == cofMagic && (fileN f 4 2 == 1 || fileN f 4 2 == 2)) 0x01 0
  need (h.flags < 4 && 1 ≤ h.nsec && h.nsec ≤ 64 && fileN f 10 2 == 0 && fileN f 87 41 == 0
    && (!h.v1 || fileN f 84 3 == 0) && h.prefCode % 2 ^ 18 == 0 && h.prefData % 2 ^ 16 == 0) 0x02 0
  need (h.tables.all (fun t => t.1 % 8 == 0 && t.1 + t.2 ≤ f.length) && apart h.tables) 0x02 0
  let ss := (List.range h.nsec).map (secOf f h)
  noneOf ss (fun x => !x.laid f h || (ss.take x.ix).any fun y => y.twice x) 0x02 Sec.ix
  need ((bit h.flags 0) == ss.any fun x => x.kind == 7) 0x02 0
  .ok (h, ss)

/-! ### Signature (R158, R406) -/

/-- Step 3 of R169: the signature over the file with the section's own contents taken as zero. -/
def checkSig (f : List Byte) (ss : List Sec) : Bool :=
  match ss.find? fun x => x.kind == 7 with
  | none => false
  | some x =>
    let sig := (f.drop x.foff).take x.size
    let plain := f.take x.foff ++ List.replicate x.size 0 ++ f.drop (x.foff + x.size)
    x.size == 2672 && fileN sig 0 1 < 5 && fileN sig 1 3 == 0
      && Config.signatureValid (fileN sig 0 1) (sha256 plain ++ sig.drop 4)

/-! ### Placement (R159) -/

/-- Whether a section goes into the code region, or into the data region. -/
def Sec.isCode (x : Sec) : Bool := x.kind == 1 || x.kind == 2 || x.kind == 6
def Sec.isData (x : Sec) : Bool := x.kind == 3 || x.kind == 4 || x.kind == 5

def Sec.bytes (x : Sec) (f : List Byte) : List Byte := (f.drop x.foff).take x.size

/-- The bytes a section takes where it is placed. -/
def Sec.placedSize (x : Sec) (f : List Byte) : Nat := if x.kind = 6 then 8 * cpfSize x.eng (x.bytes f) else x.size

/-- A placed section. -/
structure Placed where
  sec : Sec
  addr : Nat
  size : Nat
  deriving DecidableEq, Repr

/-- Sections placed in table order from the ends of the two regions. -/
def placeSecs (f : List Byte) (code data : Nat) : List Sec → Except IlErr (List Placed)
  | [] => .ok []
  | x :: r =>
    let up := fun (e : Nat) => (e + 2 ^ x.align - 1) / 2 ^ x.align * 2 ^ x.align
    let n := x.placedSize f
    if x.isCode then do
      need (up code + n ≤ 2 ^ 48) 0x02 x.ix
      .ok (⟨x, up code, n⟩ :: (← placeSecs f (up code + n) data r))
    else if x.isData then do
      need (up data + n ≤ 2 ^ 48) 0x02 x.ix
      .ok (⟨x, up data, n⟩ :: (← placeSecs f code (up data + n) r))
    else placeSecs f code data r

/-- Where a region's last section ends. -/
def regionEnd (base : Nat) (ps : List Placed) (p : Sec → Bool) : Nat :=
  (ps.filter fun x => p x.sec).foldl (fun e x => max e (x.addr + x.size)) base

/-! ### Pages (step 4 of R169) -/

/-- First addresses of the pages of a range, 2^w bytes each. -/
def pagesOf (w a e : Nat) : List Nat := if e ≤ a then [] else (List.range ((e - 1) / 2 ^ w + 1 - a / 2 ^ w)).map fun i => (a / 2 ^ w + i) * 2 ^ w

/-- Whether every page of a data range is mapped, and writable where write is set. -/
def State.dataMapped (s : State) (dt a e : Nat) (write : Bool) : Bool :=
  (pagesOf 12 a e).all fun p => (s.xlatNow dt p write).toBool

/-- The physical address of a code address, if its page is mapped as code. -/
def State.codeAddr (s : State) (root va : Nat) : Option Nat :=
  match walkCode s root va with
  | .leaf e _ => some (fld e 0 22 * 2 ^ 18 + va % 2 ^ 18)
  | .cause _ => none
  | .bad _ => none

def State.codeMapped (s : State) (root a e : Nat) : Bool := (pagesOf 18 a e).all fun p => (s.codeAddr root p).isSome

/-! ### Symbols (R161) -/

structure Sym where
  ix : Nat
  sec : Nat
  kind : Nat
  bind : Nat
  value : Nat
  got : Nat
  deriving DecidableEq, Repr

def symOf (f : List Byte) (h : Cof) (i : Nat) : Sym :=
  let o := h.symoff + 24 * i
  ⟨i, fileN f (o + 4) 2, fileN f (o + 6) 1, fileN f (o + 7) 1, fileN f (o + 8) 8, fileN f (o + 20) 4⟩

/-- The loaded value of a symbol, none where it is undefined or external or lies in a section that is not placed. -/
def symValue (f : List Byte) (ps : List Placed) (y : Sym) : Option Nat :=
  if y.bind = 2 || y.sec = 0xFFFF then none
  else if y.sec = 0xFFFE then some y.value
  else
    (ps.find? fun p => p.sec.ix == y.sec).bind fun p =>
      if p.sec.kind = 6 then
        let bs := p.sec.bytes f
        if ((cpfEnts bs)[y.value]?.map CpfEnt.kind) = some 0 then
          some (p.addr + 8 * cpfOffset p.sec.eng bs y.value)
        else none
      else some (p.addr + y.value)

/-! ### Relocation records (R164, R165, R173) -/

structure Rel where
  ix : Nat
  off : Nat
  sec : Nat
  typ : Nat
  sym : Nat
  add : Int
  rsv : Bool
  deriving DecidableEq, Repr

def relOf (f : List Byte) (h : Cof) (i : Nat) : Rel :=
  let o := h.reloff + h.relLen * i
  ⟨i, fileN f o 4, fileN f (o + 4) 2, fileN f (o + 6) 1, fileN f (o + 8) 4,
    if h.v1 then sextN 32 (fileN f (o + 12) 4) else sextN 64 (fileN f (o + 16) 8),
    fileN f (o + 7) 1 == 0 && (h.v1 || fileN f (o + 12) 4 == 0)⟩

/-! ### What a LOAD has worked out -/

structure LoadCtx where
  f : List Byte
  h : Cof
  secs : List Sec
  placed : List Placed
  syms : List Sym
  rels : List Rel
  gp : Nat
  deriving DecidableEq, Repr

def LoadCtx.value (x : LoadCtx) (i : Nat) : Option Nat := (x.syms[i]?).bind (symValue x.f x.placed)

def LoadCtx.at_ (x : LoadCtx) (sec : Nat) : Option Placed := x.placed.find? fun p => p.sec.ix == sec

def LoadCtx.got (x : LoadCtx) : Option Placed := x.placed.find? fun p => p.sec.kind == 5

/-- Symbols that a relocation, an entry field or a slot needs; those that portable-form entries name among them. -/
def LoadCtx.needed (x : LoadCtx) : List Nat :=
  (x.rels.map Rel.sym).filter (· != noIndex) ++ x.h.entries.filter (· != noIndex)
    ++ (x.syms.filter fun y => y.got != noIndex).map Sym.ix
    ++ (x.placed.filter fun p => p.sec.kind == 6).flatMap fun p =>
      ((cpfEnts (p.sec.bytes x.f)).filter fun e => e.kind == 5 || e.kind == 6).map CpfEnt.imm

/-- Whether an entry symbol lies in its engine's code: within its section, and where an instruction word, or for the weight
engine a bundle, can stand (R5). -/
def LoadCtx.entryOk (x : LoadCtx) (e sym : Nat) : Bool :=
  match (x.syms[sym]?).bind fun y => x.at_ y.sec, x.value sym with
  | some p, some v =>
    v % (if e = 3 then 32 else 8) == 0 && p.addr ≤ v && v < p.addr + p.size
      && if e = 3 then p.sec.kind == 2 else (p.sec.kind == 1 || p.sec.kind == 6) && p.sec.eng == e
  | _, _ => false

/-- Step 5: symbols and entries. -/
def LoadCtx.checkSyms (x : LoadCtx) : Except IlErr Unit := do
  noneOf x.syms (fun y => 2 < y.kind || 2 < y.bind || (x.h.nsec ≤ y.sec && y.sec < 0xFFFE)) 0x05 Sym.ix
  noneOf x.needed (fun i => (x.value i).isNone) 0x05 id
  noneOf ((List.range 6).zip x.h.entries) (fun e => e.2 != noIndex && !x.entryOk e.1 e.2) 0x05 Prod.snd

/-- Step 6: slots of the global offset table (R162). -/
def LoadCtx.checkGot (x : LoadCtx) : Except IlErr Unit :=
  let n := (x.got.map fun p => p.size / 8).getD 0
  noneOf (x.syms.filter fun y => y.got != noIndex)
    (fun y => n ≤ y.got || (x.syms.take y.ix).any fun z => z.got == y.got) 0x06 Sym.ix

/-- Step 7: portable-form sections. -/
def LoadCtx.checkCpf (x : LoadCtx) : Except IlErr Unit :=
  (x.placed.filter fun p => p.sec.kind == 6).foldlM (fun _ p => do
    let bs := p.sec.bytes x.f
    let v := fileN bs 0 2
    let n := fileN bs 4 4
    need ((v == 1 || v == 2) && fileN bs 2 2 == 0 && fileN bs 8 8 == 0
      && 16 + (if v = 1 then 12 else 16) * n ≤ bs.length) 0x0A 0
    match cpfPlan p.sec.eng (cpfEnts bs) with
    | .error i => .error (0x0A, i)
    | .ok _ => .ok ()) ()

/-- The code of a portable-form section (R172). -/
def LoadCtx.cpfBytes (x : LoadCtx) (p : Placed) : List Byte :=
  let es := cpfEnts (p.sec.bytes x.f)
  cpfCode p.sec.eng (p.sec.bytes x.f) fun i => match es[i]? with
    | some e => (((x.value e.imm).getD 0 : Nat) : Int)
    | none => 0

/-! ### Relocation (step 8) -/

/-- A field to write: section, byte offset of its dword, lowest bit, width and value. -/
structure Patch where
  sec : Nat
  off : Nat
  lo : Nat
  width : Nat
  value : Nat
  deriving DecidableEq, Repr

/-- A patch whose signed value has to fit its field. -/
def fit? (r : Rel) (lo w : Nat) (v : Int) (ok : Bool) : Except IlErr Patch := do
  need (ok && -(2 ^ (w - 1) : Int) ≤ v && v < 2 ^ (w - 1)) 0x08 r.ix
  .ok ⟨r.sec, r.off, lo, w, uI w v⟩

/-- What one record writes (R165). -/
def LoadCtx.reloc (x : LoadCtx) (r : Rel) : Except IlErr Patch := do
  let target := if r.typ = 1 then [3, 4, 5] else [1]
  match x.at_ r.sec with
  | none => .error (0x07, r.ix)
  | some p =>
    need (1 ≤ r.typ && r.typ ≤ 7 && r.rsv && target.contains p.sec.kind && r.off % 8 == 0 && r.off + 8 ≤ p.sec.size
      && !((x.rels.take r.ix).any fun q => q.sec == r.sec && q.off == r.off)) 0x07 r.ix
    let sv : Int := if r.sym = noIndex then 0 else ((x.value r.sym).getD 0 : Nat)
    let v := sv + r.add
    let gp : Int := x.gp
    match r.typ with
    | 1 => .ok ⟨r.sec, r.off, 0, 64, uI 64 v⟩
    | 2 => fit? r 14 20 ((v - gp + 0x800) / 2 ^ 12) true
    | 3 => .ok ⟨r.sec, r.off, 13, 12, uI 12 (v - gp)⟩
    | 4 =>
      match (x.syms[r.sym]?).map Sym.got, x.got with
      | some g, some t =>
        if g = noIndex then .error (0x06, r.ix) else fit? r 13 12 (8 * (g : Int) + t.addr - gp) (r.add == 0)
      | _, _ => .error (0x06, r.ix)
    | 5 => fit? r 14 20 ((v + 0x800) / 2 ^ 12) true
    | 6 => .ok ⟨r.sec, r.off, 13, 12, uI 12 v⟩
    | _ =>
      let d := v - (p.addr + r.off : Nat)
      fit? r 19 24 (d / 8) (p.addr ≤ sv && sv < (p.addr + p.size : Nat) && d % 8 == 0)

/-- A patch made to a section's bytes. -/
def Patch.apply (q : Patch) (bs : List Byte) : List Byte :=
  let w := setFld (fileN bs q.off 8) q.lo q.width q.value
  bs.take q.off ++ toBytes 8 w ++ bs.drop (q.off + 8)

/-- The bytes of a placed section after its slots and its relocated fields are written. -/
def LoadCtx.final (x : LoadCtx) (qs : List Patch) (p : Placed) : List Byte :=
  if p.sec.kind = 6 then x.cpfBytes p
  else
    let slots := if p.sec.kind = 5 then
        (x.syms.filter fun y => y.got != noIndex).map fun y => Patch.mk p.sec.ix (8 * y.got) 0 64 ((x.value y.ix).getD 0)
      else []
    (slots ++ qs.filter fun q => q.sec == p.sec.ix).foldl (fun bs q => q.apply bs) (p.sec.bytes x.f)

/-! ### LOAD and UNLOAD (R167 to R170) -/

/-- Bytes of the data space as the loader reads them; an unmapped byte reads as 0. -/
def State.readData (s : State) (dt a n : Nat) : List Byte :=
  (List.range n).map fun i => match s.xlatNow dt (a + i) false with
    | .ok pa => rdByte s.mem pa
    | .error _ => 0

/-- The eight steps of R169: everything worked out, with the patches, and nothing written. -/
def State.checkLoad (s : State) (x : Die) (handle : Nat) (verify : Bool) : Except IlErr (LoadCtx × List Patch) := do
  need (!bit (x.image handle).bits 0) 0x09 0
  need (s.dataMapped x.ilDt x.ilSrc (x.ilSrc + min x.ilLen 128) false) 0x04 0
  let f := s.readData x.ilDt x.ilSrc x.ilLen
  let (h, ss) ← checkHeader f
  need (!verify || checkSig f ss) 0x03 0
  let code := if x.ilCode = 2 ^ 64 - 1 then h.prefCode else x.ilCode
  let data := if x.ilData = 2 ^ 64 - 1 then h.prefData else x.ilData
  need (code % 2 ^ 18 == 0 && data % 2 ^ 16 == 0) 0x02 0
  let ps ← placeSecs f code data ss
  need (s.dataMapped x.ilDt x.ilSrc (x.ilSrc + x.ilLen) false
    && s.codeMapped (rootTOf s x.ilIt) code (regionEnd code ps Sec.isCode)
    && s.dataMapped x.ilDt data (regionEnd data ps Sec.isData) true) 0x04 0
  let c : LoadCtx := ⟨f, h, ss, ps, (List.range h.nsym).map (symOf f h), (List.range h.nrel).map (relOf f h), data + h.gpoff⟩
  c.checkSyms
  c.checkGot
  c.checkCpf
  let qs ← c.rels.mapM c.reloc
  .ok (c, qs)

/-- Bytes written through a translation, address by address. -/
def State.pokeVa (s : State) (xl : Nat → Option Nat) (a : Nat) (bs : List Byte) : State :=
  { s with mem := mbulk Memory.blank (((List.range bs.length).zip bs).filterMap fun e =>
      (xl (a + e.1)).map fun pa => (pa, e.2)) s.mem }

/-- The image entry of a load (R92, R169). -/
def LoadCtx.entry (x : LoadCtx) (signed : Bool) : Nat :=
  let e := fun (i : Nat) => let y := x.h.entries.getD i noIndex
    if y = noIndex then 0 else (x.value y).getD 0 % 2 ^ 64
  let mask := lsum ((List.range 6).map fun i => if x.h.entries.getD i noIndex = noIndex then 0 else 2 ^ i)
  1 + bitN signed * 2 + bitN (signed && bit x.h.flags 1) * 4 + mask * 2 ^ 32 + x.h.sems * 2 ^ 40 + x.h.qmask * 2 ^ 48
    + e 5 * 2 ^ 64 + packLanes 64 ((List.range 5).map e) * 2 ^ 128 + x.gp % 2 ^ 64 * 2 ^ 448

/-- Code translations and code lines of the code region leave every core of the die (R170). -/
def Core.dropCode (c : Core) (root a e : Nat) (lines : List Nat) : Core :=
  { c with
    itlb := c.itlb.filter fun t => !(t.root == root && a / 2 ^ 18 ≤ t.page && t.page * 2 ^ 18 < e)
    code := c.code.filter fun l => !lines.contains l.1 }

/-- IL_STATUS at the end of a command. -/
def ilStatusOf (e : IlErr) : Nat := e.2 % 2 ^ 32 * 2 ^ 8 + e.1

/-- The writes of a LOAD whose checks have passed: the sections with their slots and fields, then the image entry. -/
def State.doLoad (s : State) (d handle : Nat) (verify : Bool) (x : LoadCtx) (qs : List Patch) : State :=
  let die := s.die d
  let root := rootTOf s die.ilIt
  let write := fun (t : State) (p : Placed) =>
    let xl := fun (va : Nat) => if p.sec.isCode then s.codeAddr root va else (s.xlatNow die.ilDt va true).toOption
    t.pokeVa xl p.addr (x.final qs p)
  let s1 := x.placed.foldl write s
  let code := x.placed.filter fun p => p.sec.isCode
  let base := (code.map Placed.addr).foldl min (2 ^ 48)
  let fin := regionEnd 0 code Sec.isCode
  let lines := ((pagesOf 8 base fin).filterMap fun va => (s.codeAddr root va).map (· / 256))
  let s2 := (List.range 16).foldl (fun s i => s.updCore (16 * d + i) fun c => c.dropCode root base fin lines) s1
  s2.setDie d { die with
    images := mput {} handle ⟨x.entry verify, leBytes (sha256 x.f)⟩ die.images
    ilGp := x.gp % 2 ^ 64, ilStatus := 0 }

/-- Whether a command is running. -/
def Die.ilBusy (d : Die) : Bool := bit d.ilStatus 63

/-- OP of the command that is running; 0 for a malformed one (R167). -/
def Die.ilOp (d : Die) : Nat := if 2 ^ 11 ≤ d.ilCmd then 0 else fld d.ilCmd 8 2

/-- IL_LOAD: the LOAD of die d, or a malformed command, ends (R168, R169). The object, the tables and the regions are read
in one step once earlier writes have been applied (log 10). -/
def execIlLoad (d : Nat) (s : State) : Host.Outcome State Fault Refusal :=
  let x := s.die d
  if !x.ilBusy || x.ilOp = 2 then .next s
  else if x.ilOp != 1 then .next (s.setDie d { x with ilStatus := ilStatusOf (0x0B, 0) })
  else if !s.settled d then .next s
  else
    let h := fld x.ilCmd 0 8
    match s.checkLoad x h (bit x.ilCmd 10) with
    | .error e => .next (s.setDie d { x with ilStatus := ilStatusOf e })
    | .ok (c, qs) => .next (s.doLoad d h (bit x.ilCmd 10) c qs)

/-- Whether a job of a handle stands on a core: in a slot, staged, or left SAVED there (R98). -/
def Core.usesImage (c : Core) (h : Nat) : Bool :=
  ((List.range 8).any fun j => (c.job j).st != .free && (c.job j).st != .retired && descImage (c.job j).desc == h)
    || c.stagedJob.any (fun d => descImage d == h) || c.left.any fun d => descImage d == h

/-- IL_UNLOAD: VALID is cleared, or a job uses the handle (R170). -/
def execIlUnload (d : Nat) (s : State) : Host.Outcome State Fault Refusal :=
  let x := s.die d
  if !x.ilBusy || x.ilOp != 2 then .next s
  else
    let h := fld x.ilCmd 0 8
    if (List.range 16).any fun i => (s.core (16 * d + i)).usesImage h then
      .next (s.setDie d { x with ilStatus := ilStatusOf (0x09, 0) })
    else
      let e := x.image h
      .next (s.setDie d { x with images := mput {} h { e with bits := e.bits / 2 * 2 } x.images, ilStatus := 0 })

end Sys2Proof.Machine
end

