-- ==== Sys2Proof/Machine/Host.lean ====
section
/-!
DEFINITION. Sys2Proof/Machine/Host.lean: the host's side and bring-up: windows, partitions and BAR registers (R402 to R405),
the lantern (R407), module links (R363 to R367), BAR2, what BAR0 reads as, sensors and the safety trip (R411), and reset (R409). An event that is
not due changes nothing (log 4).
-/

namespace Sys2Proof.Machine

/-- Whether a write of the physical function reaches its register: after bring-up, and while no trip has fired. -/
def State.pfMay (s : State) (fn : Nat) : Bool := fn = 0 && s.ready && !s.trip

/-! ### Windows and partitions (R404, R405) -/

/-- A host window with one of its registers written, if the word keeps its layout. -/
def Window.write (w : Window) (reg v : Nat) : Option Window :=
  match reg with
  | 0 => if v % 2 ^ 12 = 0 then some { w with addr := v } else none
  | 1 => if v % 2 ^ 12 = 0 && 2 ^ 12 ≤ v && v ≤ 2 ^ 40 then some { w with size := v } else none
  | 2 => if fld v 5 58 = 0 && fld v 0 5 ≤ 16 then some { w with ctl := v } else none
  | _ => none

/-- HOST_WINDOW_WRITE. -/
def execHostWindowWrite (fn w reg v : Nat) (s : State) : Host.Outcome State Fault Refusal :=
  match (if s.pfMay fn && w < 64 then (mget {} s.windows w).write reg (v % 2 ^ 64) else none) with
  | none => .next s
  | some x => .next { s with windows := mput {} w x s.windows }

/-- Whether a core holds a job. -/
def Core.holdsJob (c : Core) : Bool := c.stagedJob.isSome || (List.range 8).any fun j => (c.job j).st != .free

/-- Whether the mask of partition v may become mask. -/
def State.partitionOk (s : State) (v mask : Nat) : Bool :=
  let old := mget 0 s.partitions v
  1 ≤ v && v ≤ 16
    && ((List.range 17).all fun u => u == v || (List.range 256).all fun c => !(bit mask c && bit (mget 0 s.partitions u) c))
    && (List.range 256).all fun c => bit old c == bit mask c || !(s.core c).holdsJob

/-- PARTITION_WRITE. -/
def execPartitionWrite (fn v mask : Nat) (s : State) : Host.Outcome State Fault Refusal :=
  let m := mask % 2 ^ 256
  .next (if s.pfMay fn && s.partitionOk v m then { s with partitions := mput 0 v m s.partitions } else s)

/-! ### The lantern (R407) -/

/-- The valid image entries of the module, as die, handle and hash. -/
def State.validImages (s : State) : List (Nat × Nat × Nat) :=
  (List.range 16).flatMap fun d => (List.range 256).filterMap fun h =>
    let e := (s.die d).image h
    if bit e.bits 0 then some (d, h, e.hash) else none

/-- Bytes written to device memory outside the cores; an ECC word written whole holds no error (log 10). -/
def State.poke (s : State) (a : Nat) (bs : List Byte) : State :=
  { s with
    mem := wrBytes s.mem a bs
    bad := s.bad.filter fun w => !(a ≤ 32 * w && 32 * w + 32 ≤ a + bs.length) }

/-- LSTAT at the end of a request. -/
def State.lanternEnd (s : State) (code : Nat) : State := { s with lstat := code }

/-- The report of an attestation: from byte 32 of the buffer on, with a signature of free bytes. -/
def attestReport (idx ctr : Nat) (es : List (Nat × Nat × Nat)) : List Byte :=
  toBytes 4 idx ++ toBytes 4 es.length ++ List.replicate 24 0
    ++ es.flatMap (fun e => toBytes 1 e.1 ++ toBytes 1 e.2.1 ++ List.replicate 6 0 ++ toBytes 32 e.2.2)
    ++ (List.range 2668).map fun i => Config.freeByte (4096 * ctr + i)

/-- LANTERN_ATTEST: the request in LCMD. -/
def execLanternAttest (s : State) : Host.Outcome State Fault Refusal :=
  let a := s.lcmd / 2 ^ 12 * 2 ^ 12
  let es := s.validImages
  if !bit s.lstat 63 then .next s
  else if s.lcmd % 2 ^ 12 != 1 then .next (s.lanternEnd 2)
  else if 32768 ≤ s.lanternIdx then .next (s.lanternEnd 1)
  else if 2 ^ 40 < a + 64 + 40 * es.length + 2668 then .next (s.lanternEnd 3)
  else
    let s1 := { s with lanternIdx := s.lanternIdx + 1, freeCtr := s.freeCtr + 1 }
    .next ((s1.poke (a + 32) (attestReport s.lanternIdx s.freeCtr es)).lanternEnd 0)

/-! ### Module identity and links (R363 to R367) -/

def State.link (s : State) (k : Nat) : MLink := mget {} s.links k
def State.setLink (s : State) (k : Nat) (l : MLink) : State := { s with links := mput {} k l s.links }

/-- MODULE_ID_WRITE. -/
def execModuleIdWrite (fn v : Nat) (s : State) : Host.Outcome State Fault Refusal :=
  .next (if s.pfMay fn && v < 2 ^ 8 && !(s.links.any fun e => e.2.up) then { s with moduleId := v } else s)

/-- A link counts n more dropped packets. -/
def MLink.drop (l : MLink) (n : Nat) : MLink := { l with drops := min (2 ^ 64 - 1) (l.drops + n) }

/-- A link goes down: what its transmit queue holds is dropped, and training has to begin anew (R367). -/
def MLink.down (l : MLink) : MLink :=
  { (l.drop l.lt.length) with up := false, training := false, lt := [], sent := 0, used := [] }

/-- LINK_ENABLE_WRITE: a write of LCTL. A write of 1 to a link that is not UP begins its training (R367). -/
def execLinkEnableWrite (fn k v : Nat) (s : State) : Host.Outcome State Fault Refusal :=
  if !s.pfMay fn || 8 ≤ k || 2 ≤ v then .next s
  else
    let l := s.link k
    .next (s.setLink k (if v = 1 then { l with enable := true, training := !l.up } else { l.down with enable := false }))

/-- LINK_TRAINED: training that has begun ends, with the peer's MODULE_ID and the lanes that work. -/
def execLinkTrained (k peer lanes : Nat) (s : State) : Host.Outcome State Fault Refusal :=
  let l := s.link k
  .next (if s.ready && l.enable && l.training && k < 8 && 1 ≤ lanes && lanes ≤ 16 then
    s.setLink k { l with up := true, training := false, peer := peer % 2 ^ 8, lanes := lanes } else s)

/-- LINK_TRAINING_LOSS: the device does not train the link again on its own. -/
def execLinkTrainingLoss (k : Nat) (s : State) : Host.Outcome State Fault Refusal :=
  .next (if (s.link k).up then s.setLink k (s.link k).down else s)

/-- The packet that the transmit queue of link k accepts next (R365). -/
def State.linkNext (s : State) (k : Nat) : Option Packet :=
  s.net.find? fun p => p.space == 3 && fld p.xmod 13 3 == k && s.admissible p

/-- The next flit of the packet at the head of LT(k), where the lanes can still carry it in this clock and the receiver has a
buffer free on its channel (R351, R363); the packet has gone with its last flit. Packets go in acceptance order, so one channel
at a time has a flit to send and the weights of R352 have nothing to choose between (log 106). -/
def MLink.sendFlit (l : MLink) : MLink :=
  match l.lt with
  | [] => l
  | q :: r =>
    let n := mget 0 l.used q.vc
    if l.room < 64 || 64 ≤ n then l
    else
      let l1 := { l with room := l.room - 64, used := mput 0 q.vc (n + 1) l.used, tx := (l.tx + 1) % 2 ^ 64 }
      if l.sent < q.len then { l1 with sent := l.sent + 1 } else { l1 with sent := 0, lt := r, out := l.out ++ [q] }

/-- What a link sends in a clock: at most the 500 bytes of sixteen lanes and what was left over of a flit. -/
def MLink.send (l : MLink) : MLink := (List.range 8).foldl (fun l _ => l.sendFlit) l

/-- What a link's lanes carry in the next clock: 400 GB/s over sixteen of them (R363), and at most a part of a flit from this
clock; and the buffers that the receiver has freed, n of each channel at most. -/
def MLink.endClock (l : MLink) (n : Nat) : MLink :=
  { l with
    room := (if l.lt.isEmpty then 0 else l.room % 64) + 500 * l.lanes / 16
    used := (List.range 4).foldl (fun u v => mput 0 v (mget 0 u v - n) u) l.used }

/-- LINK_TRANSMIT_ACCEPT: LT(k) accepts the packet that may enter, and the link sends; while it is down the packet is dropped. -/
def execLinkTransmitAccept (k : Nat) (s : State) : Host.Outcome State Fault Refusal :=
  let l := s.link k
  match s.linkNext k with
  | none => .next (if l.lt.isEmpty then s else s.setLink k l.send)
  | some p =>
    let s1 : State := { s with net := s.net.filter fun x => x.id != p.id }
    .next (s1.setLink k (if l.up then { l with lt := l.lt ++ [p] }.send else l.drop 1))

/-- LINK_RECEIVE: the packet that arrives next at LR(k) is stamped as one of its die, or dropped; its flits have been received
either way. -/
def execLinkReceive (k : Nat) (s : State) : Host.Outcome State Fault Refusal :=
  let l := s.link k
  match l.inq with
  | [] => .next s
  | p :: r =>
    let l1 := { l with inq := r, rx := (l.rx + p.len + 1) % 2 ^ 64 }
    if !l.up || !p.crcOk then .next (s.setLink k (l1.drop 1))
    else
      let q := { p with
        space := 2, dest := p.args.headD 0 % 256, args := p.args.tail, src := p.src % 256, slice := false, linkIn := k
        issue := s.cycles % 2 ^ 32 }
      .next ((s.setLink k l1).stamp (linkDie k) (16 * linkDie k) 5 q)

/-! ### BAR2 (R50, R402, R403) -/

/-- The packets of a host access to n bytes at physical address a: one for every line, with the bytes of a write. -/
def bar2Packets (l a n : Nat) (w : Option (List Byte)) : List Packet :=
  let lines := if n = 0 then [] else (List.range ((a + n - 1) / 64 + 1 - a / 64)).map (· + a / 64)
  lines.map fun i =>
    let lo := max a (64 * i)
    let m := min (a + n) (64 * i + 64) - lo
    let p := { blankPacket with
      dest := portCore (64 * i), src := 256 + l, vc := 1, addr := 64 * i % 2 ^ 36, slice := true }
    match w with
    | none => { p with kind := .read }
    | some bs => { p with
        kind := .write, mask := maskAt (lo % 64) m, data := lineData (lo % 64) ((bs.drop (lo - a)).take m) }

/-- HOST_BAR2_ACCESS: an access of the physical function through link l enters at the die that ends the link. -/
def execHostBar2Access (l a n : Nat) (w : Option (List Byte)) (s : State) : Host.Outcome State Fault Refusal :=
  if 2 ^ 40 < a + n then .fault .noSuchAddress
  else if !s.ready || s.trip then .next s
  else
    let r := hostRouter l
    .next ((bar2Packets l a n w).foldl (fun s p => s.stamp (dieOf r) r 5 { p with issue := s.cycles % 2 ^ 32 }) s)

/-! ### Registers without an event of their own (R87, R166, R403) -/

/-- A write of an image loader's register; while a command runs it is discarded (R166). -/
def Die.ilWrite (d : Die) (reg v : Nat) : Die :=
  if d.ilBusy then d
  else
    match reg with
    | 0x00 => { d with ilSrc := v }
    | 0x08 => { d with ilLen := v }
    | 0x10 => { d with ilDt := v }
    | 0x18 => { d with ilIt := v }
    | 0x20 => { d with ilCode := v }
    | 0x28 => { d with ilData := v }
    | 0x30 => { d with ilCmd := v, ilStatus := 2 ^ 63 }
    | _ => d

/-- A write into a mailbox window (R87, R91). -/
def State.mboxWrite (s : State) (fn c off v : Nat) : State :=
  if !s.hostMay fn c then s
  else if off < 0x800 then
    s.updCore c fun x =>
      let k := off / 64
      { x with mbox := { x.mbox with entry := mput 0 k (setFld (mget 0 x.mbox.entry k) (8 * (off % 64)) 64 v) x.mbox.entry } }
  else if off < 0x820 then s.updCore c fun x => x.doorbell s.cycles fn (off / 8 % 4) v
  else if off = 0x840 then
    if v / 2 ^ 11 != 0 || fld v 4 4 != 0 then s.updCore c fun x => x.refuseCmd s.cycles
    else s.mboxCommand c (fld v 0 4) (fld v 8 3)
  else s

/-- A partition's mask with one of its dwords written. -/
def State.partitionDword (s : State) (v i w : Nat) : Nat := setFld (mget 0 s.partitions v) (64 * i) 64 w

/-- REGISTER_WRITE: a write of one dword of BAR0. Offsets that no register has, misaligned ones among them, discard it. -/
def execRegisterWrite (fn off v : Nat) (s : State) : Host.Outcome State Fault Refusal :=
  let w := v % 2 ^ 64
  let page := off / 2 ^ 20
  let o := off % 2 ^ 20
  if off % 8 != 0 || !s.ready || s.trip then .next s
  else
    match page with
    | 1 => .next (s.mboxWrite fn (o / 0x1000) (o % 0x1000) w)
    | 4 => .next (if fn = 0 && o < 0x1000 then s.updDie (o / 0x100) fun d => d.ilWrite (o % 0x100) w else s)
    | 7 => execHostWindowWrite fn (o / 0x20) (o % 0x20 / 8) w s
    | 8 => if o % 0x40 < 32 then execPartitionWrite fn (o / 0x40) (s.partitionDword (o / 0x40) (o % 0x40 / 8) w) s else .next s
    | 9 => .next (if fn = 0 && o = 0 && !bit s.lstat 63 then { s with lcmd := w, lstat := 2 ^ 63 } else s)
    | 12 =>
      if o = 0 then execModuleIdWrite fn w s
      else if 0x100 ≤ o && o < 0x300 && o % 0x40 = 0 then execLinkEnableWrite fn ((o - 0x100) / 0x40) w s
      else .next s
    | _ => .next s

/-! ### Temperature (R411) -/

/-- SENSOR_UPDATE: a die's hottest sensor, every 2^16 clocks. -/
def execSensorUpdate (d v : Nat) (s : State) : Host.Outcome State Fault Refusal :=
  .next (if s.cycles % 2 ^ 16 = 0 && d < 16 then s.updDie d fun x => { x with temp := sextN 16 v } else s)

/-- 105 °C in units of 0.125 °C. -/
def tripTemp : Int := 840

/-- The lowest-numbered die whose sensor has reached the threshold. -/
def State.hotDie (s : State) : Option Nat := (List.range 16).find? fun d => tripTemp ≤ (s.die d).temp

/-- SAFETY_TRIP: every core clock stops at the end of this clock. -/
def execSafetyTrip (s : State) : Host.Outcome State Fault Refusal :=
  match s.hotDie with
  | none => .next s
  | some d => .next (if s.trip then s else { s with trip := true, tripDie := d, todo := [] })

/-! ### Reset and bring-up (R402, R409) -/

/-- The module with every register and SRAM at its reset value. What is outside the reset stays: device memory and host
memory (log 17), the lantern's index (R407), what bring-up will find, inputs that have not arrived, and the model's own
counters. -/
def State.cleared (s : State) : State :=
  { State.reset with
    mem := s.mem, hostMem := s.hostMem, bad := s.bad, soft := s.soft, lanternIdx := s.lanternIdx, bring := s.bring, agenda := s.agenda, todo := []
    nextId := s.nextId, freeCtr := s.freeCtr, power := s.power, levels := s.levels }

/-- Bring-up stops with a failure. -/
def State.failBoot (s : State) (step code : Nat) : State := { s with bootStep := step, bootFail := code }

/-- Step 4: the wick image stands in every core's wick memory. -/
def State.loadWick (s : State) : State :=
  (List.range 256).foldl (fun s c => s.updCore c fun x => { x with wickMem := s.bring.wickImage }) s

/-- Step 5: plane tables and arbiter weights. -/
def State.setTables (s : State) : State :=
  (List.range 16).foldl (fun s d => s.updDie d fun x => { x with
    planeBase := mget 0 s.bring.planeBase d, planeCount := mget 0 s.bring.planeCount d, weights := s.bring.weights }) s

/-- RESET: the bring-up steps in order. -/
def execReset (s : State) : Host.Outcome State Fault Refusal :=
  let z := { s.cleared with bifur := s.bring.strap % 4 }
  if 2 ≤ s.bring.strap % 4 then .next (z.failBoot 0 0x01)
  else if !s.bring.bootOk then .next (z.failBoot 0 0x02)
  else if !s.bring.trainOk then .next (z.failBoot 1 0x03)
  else if !s.bring.wickOk then .next (z.failBoot 3 0x04)
  else .next { z.loadWick.setTables with bootStep := 6, ready := true }

/-! ### What a host read of BAR0 returns (R403) -/

/-- BOOTSTAT (R409). -/
def State.bootstat (s : State) : Nat :=
  bitN s.ready * 2 ^ 63 + bitN s.trip * 2 ^ 62 + s.tripDie % 16 * 2 ^ 58 + s.bifur % 4 * 2 ^ 56 + s.bootStep % 2 ^ 8 * 2 ^ 40
    + s.bootFail % 2 ^ 8 * 2 ^ 32

/-- An event record as 16 bytes (R90). -/
def Event.bits (e : Event) : Nat :=
  e.tag % 2 ^ 32 + e.kind % 2 ^ 8 * 2 ^ 32 + e.code % 2 ^ 8 * 2 ^ 40 + e.slot % 2 ^ 8 * 2 ^ 48 + e.count % 2 ^ 8 * 2 ^ 56
    + e.cycles % 2 ^ 64 * 2 ^ 64

/-- The mailbox window (R87): HEAD and TAIL of a queue, and the oldest event record, all zeros with none. -/
def Mbox.read (m : Mbox) (o : Nat) : Nat :=
  if 0x800 ≤ o && o < 0x820 then mget 0 m.head (o / 8 % 4) % 16 + mget 0 m.tail (o / 8 % 4) % 16 * 2 ^ 4
  else if o = 0x880 || o = 0x888 then (m.fifo.head?.elim 0 Event.bits) / 2 ^ (8 * (o - 0x880)) % 2 ^ 64
  else 0

/-- The trap record of a job slot (R143). -/
def TrapRec.read (r : TrapRec) (o : Nat) : Nat :=
  match o with
  | 0x00 => r.cause | 0x08 => r.pc | 0x10 => r.cmd | 0x18 => r.status | 0x20 => r.eng | _ => 0

/-- The block of an image loader (R166). -/
def Die.ilRead (d : Die) (o : Nat) : Nat :=
  match o with
  | 0x00 => d.ilSrc | 0x08 => d.ilLen | 0x10 => d.ilDt | 0x18 => d.ilIt | 0x20 => d.ilCode | 0x28 => d.ilData
  | 0x38 => d.ilStatus | 0x40 => d.ilGp | _ => 0

/-- The translation counters of a core (R206). -/
def Core.dtRead (c : Core) (o : Nat) : Nat :=
  match o with
  | 0x00 => c.dtLookups | 0x08 => c.dtMisses | 0x10 => c.dtJoins | 0x18 => c.dtFull | _ => 0

/-- The drop counter of router input k (R362). -/
def Core.dropRead (c : Core) (k : Nat) : Nat :=
  if k < 6 then mget 0 c.drops k % 2 ^ 32 * 2 ^ 32 + mget 0 c.lastSrc k % 2 ^ 8 * 2 ^ 24 else 0

/-- The registers of a host window (R404). -/
def Window.read (w : Window) (reg : Nat) : Nat :=
  match reg with
  | 0 => w.addr | 1 => w.size | 2 => w.ctl | _ => 0

/-- The block of a module link (R367). -/
def MLink.read (l : MLink) (o : Nat) : Nat :=
  match o with
  | 0x00 => bitN l.enable
  | 0x08 => bitN l.up * 2 ^ 63 + l.peer % 2 ^ 8 * 2 ^ 8 + l.lanes % 2 ^ 5
  | 0x10 => l.drops | 0x18 => l.tx | 0x20 => l.rx | _ => 0

/-- The error counters of a die (R410). -/
def Die.errRead (d : Die) (k : Nat) : Nat :=
  if k < 7 then mget 0 d.corr k % 2 ^ 32 * 2 ^ 32 + mget 0 d.uncorr k % 2 ^ 32 else 0

/-- What the blocks of BAR0 hold of a core: its mailbox, trap records and counters, all that a virtual function sees, of its
own cores (R405). -/
def State.coreRead (s : State) (page o : Nat) : Option (Nat × Nat) :=
  match page with
  | 1 => some (o / 0x1000, (s.core (o / 0x1000)).mbox.read (o % 0x1000))
  | 2 => some (o / 0x400, ((s.core (o / 0x400)).job (o % 0x400 / 0x80)).trap.read (o % 0x80))
  | 5 => if o < 0x4000 then some (o / 0x40, (s.core (o / 0x40)).dtRead (o % 0x40)) else none
  | 6 => if o < 0x4000 then some (o / 0x40, (s.core (o / 0x40)).dropRead (o % 0x40 / 8)) else none
  | _ => none

/-- The dword that function fn reads at an offset of BAR0 (R403); EVENT_POP is the read's effect at the event register. Before
READY every read is one of an unlisted offset (R409). -/
def State.bar0Read (s : State) (fn off : Nat) : Nat :=
  let page := off / 2 ^ 20
  let o := off % 2 ^ 20
  if off % 8 != 0 || !s.ready then 0
  else
    match s.coreRead page o with
    | some (c, v) => if c < 256 && (fn = 0 || s.fnOf c == fn) then v else 0
    | none =>
      if fn != 0 then 0
      else
        match page with
        | 0 => if o = 0 then s.bootstat else 0
        | 3 => if o = 0 then featAll else 0
        | 4 => if o < 0x1000 then (s.die (o / 0x100)).ilRead (o % 0x100) else 0
        | 5 => if 0x4000 ≤ o && o < 0x4080 then (s.die ((o - 0x4000) / 8)).dtWalks else 0
        | 7 => if o < 0x800 then (mget {} s.windows (o / 0x20)).read (o % 0x20 / 8) else 0
        | 8 => if o % 0x40 < 32 then mget 0 s.partitions (o / 0x40) / 2 ^ (64 * (o % 0x40 / 8)) % 2 ^ 64 else 0
        | 9 => if o = 0 then s.lcmd else if o = 8 then s.lstat else 0
        | 10 => if o < 0x1000 then (s.die (o / 0x100)).errRead (o % 0x100 / 8) else 0
        | 11 => if o < 0x80 then uI 16 (s.die (o / 8)).temp else if o = 0x80 then s.power else 0
        | 12 =>
          if o = 0 then s.moduleId
          else if 0x100 ≤ o && o < 0x300 then (s.link ((o - 0x100) / 0x40)).read (o % 0x40) else 0
        | _ => 0

end Sys2Proof.Machine
end

