-- ==== Sys2Proof/Machine/Vector.lean ====
section
/-!
DEFINITION. Sys2Proof/Machine/Vector.lean: the execute-half instructions of VE (R229 to R251) over 128 lanes: element-wise
operations, conversions, packing, moves, reductions, the accumulator store, LOOPQ and VQLEN.
-/

namespace Sys2Proof.Machine

/-! ### Elements -/

/-- Results element by element; instructions with fewer sources repeat the first. -/
def zipEls (f : Nat → Nat → Nat → Nat × Nat) : List Nat → List Nat → List Nat → List (Nat × Nat)
  | a :: as, b :: bs, c :: cs => f a b c :: zipEls f as bs cs
  | [], _, _ => []
  | _ :: _, [], _ => []
  | _ :: _, _ :: _, [] => []

/-- Flags ORed together (R41). -/
def orAll (l : List Nat) : Nat := l.foldl (· ||| ·) 0

/-- A vector instruction's result before it is written: lanes, VCNT of a pushed entry, flags. -/
structure VOut where
  lanes : List Nat
  n : Nat
  flags : Nat
  deriving DecidableEq, Repr

/-- A vector instruction: queue checks, sources read and popped, one result that lands lat clocks later (R229). -/
def runV (s : State) (h : Head) (lat : Nat) (d : VDst) (srcs : List VSrc) (f : Stream → VIn → VOut) :
    Host.Outcome State Fault Refusal :=
  runC s h fun c =>
    let k := s.cur.key
    match c.vcheck k srcs (VDst.push? d) with
    | some (x, st) => .trap x st
    | none =>
      let o := f (c.stream k) (c.vread k srcs)
      .done ((c.vpop srcs).vwrite k lat d o.lanes o.n o.flags) .seq lat

/-- How an instruction reads its elements: the half and whole format of a floating one, and for an integer one whether it
is signed. -/
structure ElMode where
  flt : Option (FFmt × FFmt)
  sgn : Bool
  deriving DecidableEq, Repr

/-- Reading of a floating instruction (R230). -/
def fltMode (f : VFmt) : ElMode := ⟨some (halfFmt f.esz f.fmt, opFmt f), false⟩

/-- Reading of an integer instruction (R71). -/
def intMode (f : VFmt) : ElMode := ⟨none, f.fmt == 0⟩

/-- Source i under modifier m. -/
def VIn.els (v : VIn) (md : ElMode) (esz i m : Nat) : List Nat × Nat := modAll md.flt md.sgn esz m (v.arg i)

/-- Element-wise results over up to three sources, packed back into lanes. ns is the number of sources, f the modifiers
of A and B. -/
def elemOut (md : ElMode) (f : VFmt) (ns : Nat) (op : Nat → Nat → Nat → Nat × Nat) (v : VIn) : VOut :=
  let a := v.els md f.esz 0 f.amod
  let b := if 2 ≤ ns then v.els md f.esz 1 f.bmod else a
  let c := if 3 ≤ ns then v.els md f.esz 2 0 else a
  let rs := zipEls op a.1 b.1 c.1
  ⟨toLanes (elemW f.esz) (lanesN f.esz) (rs.map Prod.fst), v.n, orAll (a.2 :: b.2 :: c.2 :: rs.map Prod.snd)⟩

/-- The rounding mode of a rounding field (R230). -/
def Stream.rmOr (t : Stream) (r : Option Rm) : Rm := r.getD t.rm

/-! ### Floating arithmetic (R233 to R235) -/

/-- A two-operand floating instruction of latency 4. -/
def runF2 (s : State) (h : Head) (d : VDst) (a b : VSrc) (f : VFmt) (op : Stream → Nat → Nat → Nat × Nat) :
    Host.Outcome State Fault Refusal :=
  runV s h 4 d [a, b] fun t => elemOut (fltMode f) f 2 fun x y _ => op t x y

/-- A fused instruction of latency 4. -/
def runF3 (s : State) (h : Head) (d : VDst) (a b c : VSrc) (f : VFmt) (negP negC : Bool) :
    Host.Outcome State Fault Refusal :=
  runV s h 4 d [a, b, c] fun t => elemOut (fltMode f) f 3 fun x y z => fFma (opFmt f) t.rm negP negC x y z

/-- A function of one FP32 operand, of latency 12. -/
def runF1 (s : State) (h : Head) (d : VDst) (a : VSrc) (f : VFmt) (op : Nat → Nat × Nat) :
    Host.Outcome State Fault Refusal :=
  runV s h 12 d [a] fun _ => elemOut (fltMode f) f 1 fun x _ _ => op x

def execVfadd (h : Head) (d : VDst) (a b : VSrc) (r : Option Rm) (f : VFmt) (s : State) :
    Host.Outcome State Fault Refusal := runF2 s h d a b f fun t => fAdd (opFmt f) (t.rmOr r)
def execVfsub (h : Head) (d : VDst) (a b : VSrc) (r : Option Rm) (f : VFmt) (s : State) :
    Host.Outcome State Fault Refusal := runF2 s h d a b f fun t => fSub (opFmt f) (t.rmOr r)
def execVfmul (h : Head) (d : VDst) (a b : VSrc) (r : Option Rm) (f : VFmt) (s : State) :
    Host.Outcome State Fault Refusal := runF2 s h d a b f fun t => fMul (opFmt f) (t.rmOr r)
def execVfma (h : Head) (d : VDst) (a b c : VSrc) (f : VFmt) (s : State) : Host.Outcome State Fault Refusal :=
  runF3 s h d a b c f false false
def execVfms (h : Head) (d : VDst) (a b c : VSrc) (f : VFmt) (s : State) : Host.Outcome State Fault Refusal :=
  runF3 s h d a b c f false true
def execVfnma (h : Head) (d : VDst) (a b c : VSrc) (f : VFmt) (s : State) : Host.Outcome State Fault Refusal :=
  runF3 s h d a b c f true false
def execVfmin (h : Head) (d : VDst) (a b : VSrc) (f : VFmt) (s : State) : Host.Outcome State Fault Refusal :=
  runF2 s h d a b f fun _ => fMinMax (opFmt f) false
def execVfmax (h : Head) (d : VDst) (a b : VSrc) (f : VFmt) (s : State) : Host.Outcome State Fault Refusal :=
  runF2 s h d a b f fun _ => fMinMax (opFmt f) true

/-- A compare (R234): op answers the truth of a pair and its flags. -/
def runCmp (s : State) (h : Head) (d : CmpDst) (a b : VSrc) (f : VFmt) (md : ElMode) (lat : Nat)
    (op : Nat → Nat → Bool × Nat) : Host.Outcome State Fault Refusal :=
  let ones := 2 ^ elemW f.esz - 1
  let outs := elemOut md f 2 fun x y _ => let r := op x y; (if r.1 then ones else 0, r.2)
  let red := fun (p : Nat) (all : Bool) => runC s h fun c =>
    let k := s.cur.key
    match c.vcheck k [a, b] none with
    | some (x, st) => .trap x st
    | none =>
      let v := c.vread k [a, b]
      let o := outs v
      let es := (o.lanes.take v.n).flatMap (unpackLanes (elemW f.esz) (lanesN f.esz))
      let r := if all then es.all (· != 0) else es.any (· != 0)
      .done ((c.vpop [a, b]).result k lat (.p p r) o.flags) .seq lat
  match d with
  | .mask d => runV s h lat d [a, b] fun _ => outs
  | .any p => red p false
  | .all p => red p true

def execVfcmp (h : Head) (d : CmpDst) (c : VCond) (a b : VSrc) (f : VFmt) (s : State) :
    Host.Outcome State Fault Refusal := runCmp s h d a b f (fltMode f) 2 (fCmp (opFmt f) c)
def execVlog2 (h : Head) (d : VDst) (a : VSrc) (f : VFmt) (s : State) : Host.Outcome State Fault Refusal :=
  runF1 s h d a f fLog2
def execVexp2 (h : Head) (d : VDst) (a : VSrc) (f : VFmt) (s : State) : Host.Outcome State Fault Refusal :=
  runF1 s h d a f fExp2
def execVrcp (h : Head) (d : VDst) (a : VSrc) (f : VFmt) (s : State) : Host.Outcome State Fault Refusal :=
  runF1 s h d a f fRcp
def execVrsq (h : Head) (d : VDst) (a : VSrc) (f : VFmt) (s : State) : Host.Outcome State Fault Refusal :=
  runF1 s h d a f fRsq

/-! ### Conversion, scaling and packing (R236 to R238) -/

/-- Signed integer formats. -/
def Fmt.sgn : Fmt → Bool
  | .i8 => true | .i4 => true | .i16 => true | .i32 => true | .i64 => true
  | .u8 => false | .u4 => false | .u16 => false | .u32 => false
  | .f32 => false | .bf16 => false | .f16 => false | .e4m3 => false | .e5m2 => false | .e2m1 => false | .pw2 => false

/-- How VCVT reads its source (R236). -/
def cvtMode (src : Fmt) : ElMode :=
  if src.isFlt then ⟨some (if src = .f32 then ffF16 else ffE4m3, ffOf src), false⟩ else ⟨none, Fmt.sgn src⟩

/-- An integer narrowed to w bits (R42): clamped with SAT, else wrapped. -/
def narrowI (sgn : Bool) (w : Nat) (sat : Bool) (v : Int) : Nat × Nat :=
  let x := clampI (intLo sgn w) (intHi sgn w) v
  if sat then (uI w x, if x = v then 0 else fSAT) else (uI w v, 0)

/-- One element converted (R42). -/
def cvtElem (t : Stream) (src : Fmt) (toInt : Bool) (rm : Rm) (f : VFmt) (x : Nat) : Nat × Nat :=
  let w := elemW f.esz
  let dsg := f.fmt == 0
  if src.isFlt then
    if toInt then let (r, fl) := ((ffOf src).dec x).toInt dsg w rm; (uI w r, fl)
    else (opFmt f).enc rm (!t.f8ns) ((ffOf src).dec x)
  else
    let v : Int := if Fmt.sgn src then sextN src.bits x else x
    if toInt then narrowI dsg w f.sat v else (opFmt f).enc rm (!t.f8ns) (.ofInt v)

/-- VCVT (R236): bmod is the part. -/
def cvtOut (t : Stream) (src : Fmt) (toInt : Bool) (rm : Rm) (f : VFmt) (v : VIn) : VOut :=
  let ns := 32 / src.bits
  let nd := lanesN f.esz
  let a := modAll (cvtMode src).flt (cvtMode src).sgn (Nat.log2 ns) f.amod (v.arg 0)
  let f0 : VFmt := { f with amod := 0, bmod := 0 }
  let m := 128 * nd
  let es := if ns ≤ nd then a.1 else (a.1.drop (f.bmod * m)).take m
  let rs := es.map (cvtElem t src toInt rm f0)
  let outs := rs.map Prod.fst ++ List.replicate (m - es.length) 0
  let n := if ns ≤ nd then (v.n * ns + nd - 1) / nd else min 128 ((v.n * ns - f.bmod * m + nd - 1) / nd)
  ⟨toLanes (elemW f.esz) nd outs, n, orAll (a.2 :: rs.map Prod.snd)⟩

def execVcvt (h : Head) (d : VDst) (a : VSrc) (src : Fmt) (toInt : Bool) (r : Option Rm) (f : VFmt) (s : State) :
    Host.Outcome State Fault Refusal :=
  runV s h 4 d [a] fun t => cvtOut t src toInt (t.rmOr r) f

/-- VSCL (R237): A·2^k rounded once. Past ±2^12 every k gives what ±2^12 gives, in every format. -/
def sclElem (fm : FFmt) (rm : Rm) (w a k : Nat) : Nat × Nat :=
  fm.enc rm true ((fm.dec a).scale (clampI (-(2 ^ 12)) (2 ^ 12) (sextN w k)))

def execVscl (h : Head) (d : VDst) (a b : VSrc) (r : Option Rm) (f : VFmt) (s : State) :
    Host.Outcome State Fault Refusal :=
  runV s h 4 d [a, b] fun t v =>
    let fa : VFmt := { f with bmod := 0 }
    let x := v.els (fltMode fa) f.esz 0 f.amod
    let k := v.els ⟨none, true⟩ f.esz 1 f.bmod
    let rs := zipEls (fun p q _ => sclElem (opFmt fa) (t.rmOr r) (elemW f.esz) p q) x.1 k.1 x.1
    ⟨toLanes (elemW f.esz) (lanesN f.esz) (rs.map Prod.fst), v.n, orAll (x.2 :: rs.map Prod.snd)⟩

/-- The target of VPKS. -/
def pksFmt (f : VFmt) : Fmt := if f.esz = 3 then .e2m1 else if f.fmt = 0 then .e4m3 else .e5m2

/-- VPKS (R238): four blocks of 32 lanes packed under R43. -/
def pksOut (rm : Rm) (f : VFmt) (v : VIn) : VOut :=
  let n := lanesN f.esz
  let a := (modAll (some (ffF16, ffF32)) false 0 f.amod (v.arg 0)).1
  let bs := (List.range 4).map fun b => packBlock (pksFmt f) rm (((a.drop (32 * b)).take 32).map ffF32.dec)
  let ls := toLanes (elemW f.esz) n (bs.flatMap fun b => b.2.1)
  ⟨ls ++ List.replicate (127 - 128 / n) 0 ++ [packLanes 8 (bs.map Prod.fst)], 128, orAll (bs.map fun b => b.2.2)⟩

def execVpks (h : Head) (d : VDst) (a : VSrc) (r : Option Rm) (f : VFmt) (s : State) :
    Host.Outcome State Fault Refusal :=
  runV s h 8 d [a] fun t => pksOut (t.rmOr r) f

/-! ### Integer arithmetic and logic (R239) -/

/-- An integer instruction of latency lat over two or three sources. -/
def runInt (s : State) (h : Head) (lat : Nat) (d : VDst) (srcs : List VSrc) (f : VFmt)
    (op : Nat → Nat → Nat → Nat × Nat) : Host.Outcome State Fault Refusal :=
  runV s h lat d srcs fun _ => elemOut (intMode f) f srcs.length op

/-- An element as the integer its format gives it. -/
def intEl (f : VFmt) (x : Nat) : Int := if f.fmt = 0 then sextN (elemW f.esz) x else x

/-- An exact integer result, wrapped, or clamped where sat says so (R239). -/
def intRes (f : VFmt) (sat : Bool) (v : Int) : Nat × Nat := narrowI (f.fmt == 0) (elemW f.esz) sat v

/-- A shift count at or past the width (R239). -/
def shiftBig (f : VFmt) (n : Nat) : Bool := elemW f.esz ≤ n

def execVadd (h : Head) (d : VDst) (a b : VSrc) (f : VFmt) (s : State) : Host.Outcome State Fault Refusal :=
  runInt s h 2 d [a, b] f fun x y _ => intRes f false (intEl f x + intEl f y)
def execVsub (h : Head) (d : VDst) (a b : VSrc) (f : VFmt) (s : State) : Host.Outcome State Fault Refusal :=
  runInt s h 2 d [a, b] f fun x y _ => intRes f false (intEl f x - intEl f y)
def execVmul (h : Head) (d : VDst) (a b : VSrc) (f : VFmt) (s : State) : Host.Outcome State Fault Refusal :=
  runInt s h 2 d [a, b] f fun x y _ => intRes f f.sat (intEl f x * intEl f y)
def execVmulh (h : Head) (d : VDst) (a b : VSrc) (f : VFmt) (s : State) : Host.Outcome State Fault Refusal :=
  runInt s h 2 d [a, b] f fun x y _ => intRes f false (intEl f x * intEl f y / 2 ^ elemW f.esz)
def execVmad (h : Head) (d : VDst) (a b c : VSrc) (f : VFmt) (s : State) : Host.Outcome State Fault Refusal :=
  runInt s h 2 d [a, b, c] f fun x y z => intRes f f.sat (intEl f x * intEl f y + intEl f z)
def execVand (h : Head) (d : VDst) (a b : VSrc) (f : VFmt) (s : State) : Host.Outcome State Fault Refusal :=
  runInt s h 2 d [a, b] f fun x y _ => (x &&& y, 0)
def execVor (h : Head) (d : VDst) (a b : VSrc) (f : VFmt) (s : State) : Host.Outcome State Fault Refusal :=
  runInt s h 2 d [a, b] f fun x y _ => (x ||| y, 0)
def execVxor (h : Head) (d : VDst) (a b : VSrc) (f : VFmt) (s : State) : Host.Outcome State Fault Refusal :=
  runInt s h 2 d [a, b] f fun x y _ => (x ^^^ y, 0)
def execVshl (h : Head) (d : VDst) (a b : VSrc) (f : VFmt) (s : State) : Host.Outcome State Fault Refusal :=
  runInt s h 2 d [a, b] f fun x y _ => if shiftBig f y then (0, 0) else (x * 2 ^ y % 2 ^ elemW f.esz, 0)
def execVshr (h : Head) (d : VDst) (a b : VSrc) (f : VFmt) (s : State) : Host.Outcome State Fault Refusal :=
  runInt s h 2 d [a, b] f fun x y _ => if shiftBig f y then (0, 0) else (x / 2 ^ y, 0)
def execVsra (h : Head) (d : VDst) (a b : VSrc) (f : VFmt) (s : State) : Host.Outcome State Fault Refusal :=
  runInt s h 2 d [a, b] f fun x y _ =>
    let w := elemW f.esz
    (uI w (sextN w x / 2 ^ (if shiftBig f y then w - 1 else y)), 0)
def execVmin (h : Head) (d : VDst) (a b : VSrc) (f : VFmt) (s : State) : Host.Outcome State Fault Refusal :=
  runInt s h 2 d [a, b] f fun x y _ => (if intEl f x ≤ intEl f y then x else y, 0)
def execVmax (h : Head) (d : VDst) (a b : VSrc) (f : VFmt) (s : State) : Host.Outcome State Fault Refusal :=
  runInt s h 2 d [a, b] f fun x y _ => (if intEl f y ≤ intEl f x then x else y, 0)
def execVadds (h : Head) (d : VDst) (a b : VSrc) (f : VFmt) (s : State) : Host.Outcome State Fault Refusal :=
  runInt s h 2 d [a, b] f fun x y _ => intRes f true (intEl f x + intEl f y)
def execVsubs (h : Head) (d : VDst) (a b : VSrc) (f : VFmt) (s : State) : Host.Outcome State Fault Refusal :=
  runInt s h 2 d [a, b] f fun x y _ => intRes f true (intEl f x - intEl f y)

/-- An integer comparison (R234); un and ord are never decoded for VCMP. -/
def intCmp (c : VCond) (x y : Int) : Bool :=
  match c with
  | .eq => x == y | .ne => x != y | .lt => x < y | .le => x ≤ y | .gt => y < x | .ge => y ≤ x
  | .un => false | .ord => true

def execVcmp (h : Head) (d : CmpDst) (c : VCond) (a b : VSrc) (f : VFmt) (s : State) :
    Host.Outcome State Fault Refusal :=
  runCmp s h d a b f (intMode f) 2 fun x y => (intCmp c (intEl f x) (intEl f y), 0)

/-! ### Moving, selecting and permuting (R240 to R246) -/

def execVsel (h : Head) (d : VDst) (a b c : VSrc) (f : VFmt) (s : State) : Host.Outcome State Fault Refusal :=
  runInt s h 2 d [a, b, c] f fun x y z => (if z != 0 then x else y, 0)
def execVmov (h : Head) (d : VDst) (a : VSrc) (f : VFmt) (s : State) : Host.Outcome State Fault Refusal :=
  runInt s h 2 d [a] f fun x _ _ => (x, 0)

/-- The same value in every lane, VCNT 128. -/
def splat (v flags : Nat) : VOut := ⟨List.replicate 128 (v % 2 ^ 32), 128, flags⟩

/-- VLI (R241): the low bits of the immediate in every element. -/
def execVli (h : Head) (d : VDst) (imm esz : Nat) (s : State) : Host.Outcome State Fault Refusal :=
  runV s h 2 d [] fun _ _ => splat (packLanes (elemW esz) (List.replicate (lanesN esz) imm)) 0

def execVbcst (h : Head) (d : VDst) (a : VSrc) (k : Nat) (_ : VFmt) (s : State) : Host.Outcome State Fault Refusal :=
  runV s h 2 d [a] fun _ v => splat ((v.arg 0).getD k 0) 0
def execVbcstX (h : Head) (d : VDst) (a : Nat) (_ : VFmt) (s : State) : Host.Outcome State Fault Refusal :=
  runV s h 2 d [] fun t _ => splat (t.getX a).toNat 0
def execVperm (h : Head) (d : VDst) (a b : VSrc) (_ : VFmt) (s : State) : Host.Outcome State Fault Refusal :=
  runV s h 3 d [a, b] fun _ v => ⟨(v.arg 1).map fun i => (v.arg 0).getD i 0, v.n, 0⟩
def execVrot (h : Head) (d : VDst) (a : VSrc) (k : Nat) (_ : VFmt) (s : State) : Host.Outcome State Fault Refusal :=
  runV s h 3 d [a] fun _ v => ⟨(v.arg 0).drop k ++ (v.arg 0).take k, v.n, 0⟩
def execVlane (h : Head) (d : VDst) (a : Nat) (_ : VFmt) (s : State) : Host.Outcome State Fault Refusal :=
  runV s h 2 d [] fun t _ => ⟨(List.range 128).map fun i => ((t.getX a).toNat + i) % 2 ^ 32, 128, 0⟩

/-- H of R245. -/
def hashLane (a b : Nat) : Nat :=
  let m := 2 ^ 32
  let h := a ^^^ b * 0x9E3779B9 % m
  let h := h ^^^ h / 2 ^ 16
  let h := h * 0x85EBCA6B % m
  let h := h ^^^ h / 2 ^ 13
  let h := h * 0xC2B2AE35 % m
  h ^^^ h / 2 ^ 16

def execVhash (h : Head) (d : VDst) (a b : VSrc) (f : VFmt) (s : State) : Host.Outcome State Fault Refusal :=
  runInt s h 3 d [a, b] f fun x y _ => (hashLane x y, 0)

/-- A result that goes to a scalar register or predicate. -/
def runVs (s : State) (h : Head) (lat : Nat) (srcs : List VSrc) (f : Stream → VIn → Land) :
    Host.Outcome State Fault Refusal :=
  runC s h fun c =>
    let k := s.cur.key
    match c.vcheck k srcs none with
    | some (x, st) => .trap x st
    | none => .done ((c.vpop srcs).result k lat (f (c.stream k) (c.vread k srcs)) 0) .seq lat

def execVext (h : Head) (d : Nat) (a : VSrc) (k e : Nat) (f : VFmt) (s : State) : Host.Outcome State Fault Refusal :=
  runVs s h 2 [a] fun _ v =>
    let w := elemW f.esz
    .x d (BitVec.ofInt 64 (intEl f (fld ((v.arg 0).getD k 0) (w * e) w)))

/-! ### Reductions (R47, R247, R248) -/

/-- One level of the pairwise tree (R47), each node with its flags; an absent node changes nothing. -/
def pairUp (f : Nat → Nat → Nat × Nat) : List (Option (Nat × Nat)) → List (Option (Nat × Nat))
  | some a :: some b :: r => (let x := f a.1 b.1; some (x.1, x.2 ||| a.2 ||| b.2)) :: pairUp f r
  | some a :: none :: r => some a :: pairUp f r
  | none :: b :: r => b :: pairUp f r
  | [a] => [a]
  | [] => []

/-- n levels of the tree. -/
def redTree (f : Nat → Nat → Nat × Nat) : Nat → List (Option (Nat × Nat)) → Option (Nat × Nat)
  | 0, l => l.head?.join
  | n + 1, l => redTree f n (pairUp f l)

/-- A reduction over the elements of lanes 0 to N − 1, each first mapped by g. -/
def reduce (md : ElMode) (f : VFmt) (g : Nat → Nat × Nat) (op : Nat → Nat → Nat × Nat) (v : VIn) : Option (Nat × Nat) :=
  let a := v.els md f.esz 0 f.amod
  let m := v.n * lanesN f.esz
  let es := (a.1.take m).map fun x => some (g x)
  (redTree op (7 + f.esz) (es ++ List.replicate (a.1.length - m) none)).map fun r => (r.1, r.2 ||| a.2)

/-- VRADD (R247). -/
def execVradd (h : Head) (d : VDst) (a : VSrc) (f : VFmt) (s : State) : Host.Outcome State Fault Refusal :=
  runV s h 8 d [a] fun _ v =>
    let sg := f.fmt == 0
    let val := fun (x : Nat) => if sg then sextN 32 x else (x : Int)
    let r := (reduce (intMode f) f (fun x => (uI 32 (intEl f x), 0)) (fun x y => narrowI sg 32 f.sat (val x + val y)) v).getD
      (0, 0)
    splat r.1 r.2

/-- VRFADD (R247): a sum of FP32 values; over no lane it is −0. -/
def execVrfadd (h : Head) (d : VDst) (a : VSrc) (r : Option Rm) (f : VFmt) (s : State) :
    Host.Outcome State Fault Refusal :=
  runV s h 8 d [a] fun t v =>
    let q := (reduce (fltMode f) f (widenF (opFmt f) ffF32) (fAdd ffF32 (t.rmOr r)) v).getD (ffF32.sign, 0)
    splat q.1 q.2

/-- VRMAX (R247). -/
def execVrmax (h : Head) (d : VDst) (a : VSrc) (mn flt : Bool) (f : VFmt) (s : State) :
    Host.Outcome State Fault Refusal :=
  runV s h 8 d [a] fun _ v =>
    if flt then
      match reduce (fltMode f) f (fun x => (x, 0)) (fMinMax (opFmt f) (!mn)) v with
      | none => splat ffF32.canon 0
      | some r => let w := widenF (opFmt f) ffF32 r.1; splat w.1 (r.2 ||| w.2)
    else
      let sg := f.fmt == 0
      let w := elemW f.esz
      let pick := fun x y =>
        let le := decide (intEl f x ≤ intEl f y)
        (if mn then (if le then x else y) else (if le then y else x), 0)
      match reduce (intMode f) f (fun x => (x, 0)) pick v with
      | none => splat (uI 32 (if mn then intHi sg w else intLo sg w)) 0
      | some r => splat (uI 32 (intEl f r.1)) 0

/-- Order of two FP32 codes that are not NaN, −0 below +0 (R248). -/
def f32Before (a b : Nat) : Bool :=
  let key := fun (x : Nat) => if x < 2 ^ 31 then (x : Int) else -((x % 2 ^ 31 : Nat) : Int) - 1
  key a < key b

/-- The best lane so far, as value and index. big looks for the largest. -/
def bestLane (big : Bool) (best : Option (Nat × Nat)) (v i : Nat) : Option (Nat × Nat) :=
  if (ffF32.dec v).isNan then best
  else
    match best with
    | none => some (v, i)
    | some (w, j) =>
      let up := if big then f32Before w v else f32Before v w
      if up || (v == w && i < j) then some (v, i) else best

/-- VRMAXI and VRMINI (R248). -/
def runMaxi (s : State) (h : Head) (d : VDst) (a b : VSrc) (p : Option Nat) (f : VFmt) (big : Bool) :
    Host.Outcome State Fault Refusal :=
  runC s h fun c =>
    let k := s.cur.key
    match c.vcheck k [a, b] (VDst.push? d) with
    | some (x, st) => .trap x st
    | none =>
      let v := c.vread k [a, b]
      let x := v.els (fltMode f) f.esz 0 f.amod
      let xs := x.1.take v.n
      let best := (xs.zip (v.arg 1)).foldl (fun q e => bestLane big q e.1 e.2) none
      let fl := x.2 ||| (if xs.any fun e => (ffF32.dec e).isSnan then fNV else 0)
      let r := best.getD (ffF32.canon, 2 ^ 32 - 1)
      let c1 := (c.vpop [a, b]).vwrite k 8 d (r.1 :: r.2 :: List.replicate 126 0) 2 fl
      .done (match p with
        | none => c1
        | some n => c1.result k 8 (.p n best.isNone) 0) .seq 8

def execVrmaxi (h : Head) (d : VDst) (a b : VSrc) (p : Option Nat) (f : VFmt) (s : State) :
    Host.Outcome State Fault Refusal := runMaxi s h d a b p f true
def execVrmini (h : Head) (d : VDst) (a b : VSrc) (p : Option Nat) (f : VFmt) (s : State) :
    Host.Outcome State Fault Refusal := runMaxi s h d a b p f false

/-! ### The accumulator store (R249) -/

/-- Slots of the accumulator store (R170). -/
def accSlots : Nat := 131072

/-- VACR: n slots from the index in xA, turned into lanes with their flags. -/
def runVacr (s : State) (h : Head) (d : VDst) (a n : Nat) (f : Stream → List Nat → List Nat × Nat) :
    Host.Outcome State Fault Refusal :=
  runC s h fun c =>
    let k := s.cur.key
    match c.vcheck k [] (VDst.push? d) with
    | some (x, st) => .trap x st
    | none =>
      let base := ((c.stream k).getX a).toNat
      if accSlots < base + n then .trap 0x0C 5
      else
        let r := f (c.stream k) ((List.range n).map fun i => c.accRead .ve (base + i))
        .done (c.vwrite k 8 d r.1 128 r.2) .seq 8

def execVacrF32 (h : Head) (d : VDst) (a : Nat) (l : Int) (s : State) : Host.Outcome State Fault Refusal :=
  runVacr s h d a 128 fun t vs =>
    let rs := vs.map fun v =>
      let r := ffF32.enc t.rm true (.ofScaled (slotAcc v) l)
      (r.1, r.2 ||| (if slotSat v then fSAT else 0))
    (rs.map Prod.fst, orAll (rs.map Prod.snd))

def execVacrRaw (h : Head) (d : VDst) (a : Nat) (_ : Int) (s : State) : Host.Outcome State Fault Refusal :=
  runVacr s h d a 64 fun _ vs => (vs.flatMap fun v => [v % 2 ^ 32, v / 2 ^ 32], 0)

/-- VACW: the written slots land two clocks after issue. f answers the values, whether each clamped, and the flags. -/
def runVacw (s : State) (h : Head) (d : Nat) (a : VSrc) (mode : Nat)
    (f : Stream → VIn → List (Int × Bool) × Nat) : Host.Outcome State Fault Refusal :=
  runC s h fun c =>
    let k := s.cur.key
    match c.vcheck k [a] none with
    | some (x, st) => .trap x st
    | none =>
      let base := ((c.stream k).getX d).toNat
      let r := f (c.stream k) (c.vread k [a])
      if r.1 != [] && accSlots < base + r.1.length then .trap 0x0C 5
      else
        let c1 := (c.vpop [a]).result k 2 .none r.2
        let put := fun (q : Core × Nat) (v : Int × Bool) => (q.1.result k 2 (.acc q.2 mode v.1 v.2) 0, q.2 + 1)
        .done (r.1.foldl put (c1, base)).1 .seq 2

/-- The converted lanes 0 to N − 1 (R42, R249). A lane that clamps, an infinity among them, sets SAT and, as it is not
representable, IX. -/
def vacwVals (l : Int) (t : Stream) (v : VIn) : List (Int × Bool) × Nat :=
  let rs := ((v.arg 0).take v.n).map fun x => (ffF32.dec x).toFx t.rm l
  (rs.map fun r => (r.1, accClamps r.1), orAll (rs.map fun r => r.2 ||| (if accClamps r.1 then fSAT ||| fIX else 0)))

def execVacwF32 (h : Head) (d : Nat) (a : VSrc) (l : Int) (s : State) : Host.Outcome State Fault Refusal :=
  runVacw s h d a 0 (vacwVals l)
def execVacwAdd (h : Head) (d : Nat) (a : VSrc) (l : Int) (s : State) : Host.Outcome State Fault Refusal :=
  runVacw s h d a 1 (vacwVals l)
def execVacwRaw (h : Head) (d : Nat) (a : VSrc) (_ : Int) (s : State) : Host.Outcome State Fault Refusal :=
  runVacw s h d a 2 fun _ v =>
    ((List.range (v.n / 2)).map fun j =>
      (((v.arg 0).getD (2 * j) 0 + 2 ^ 32 * (v.arg 0).getD (2 * j + 1) 0 : Nat), false), 0)

/-! ### Loops and queue tests (R250, R251) -/

/-- LOOPQ (R250): the iterations of a head entry, none where k does not fit it. -/
def loopqCount (e : QEnt) (k : Nat) : Option Nat :=
  match e with
  | .vec _ n => some ((n + k - 1) / k)
  | .sca v => if k = 1 then some v.toNat else none

def execLoopq (h : Head) (q : Nat) (peek : Bool) (off k : Nat) (s : State) : Host.Outcome State Fault Refusal :=
  runC s h fun c =>
    let src := if peek then VSrc.peek q else VSrc.pop q
    match c.vcheck s.cur.key [src] none with
    | some (x, st) => .trap x st
    | none =>
      match (c.queue q).head.bind fun e => loopqCount e k with
      | none => .trap 0x0C 3
      | some n => loopBody s n off 0 (c.vpop [src])

/-- A test of queue q (R251). -/
def runQlen (s : State) (h : Head) (p q : Nat) (f : Queue → Bool) : Host.Outcome State Fault Refusal :=
  runC s h fun c =>
    let k := s.cur.key
    if !bit (c.job (c.stream k).job).qmask q then .trap 0x0E (kindStatus 2 q)
    else .done (c.result k 2 (.p p (f (c.queue q))) 0) .seq 2

def execVqlen (h : Head) (p q n : Nat) (s : State) : Host.Outcome State Fault Refusal :=
  runQlen s h p q fun x => if q < 8 then n ≤ x.presentN else n ≤ x.freeN

/-- Whether the head is a vector entry without lanes. -/
def QEnt.isEmptyVec : QEnt → Bool
  | .vec _ n => n == 0
  | .sca _ => false

def execVqlenZero (h : Head) (p q : Nat) (s : State) : Host.Outcome State Fault Refusal :=
  runQlen s h p q fun x => x.head.any QEnt.isEmptyVec

end Sys2Proof.Machine
end

