-- ==== Sys2Proof/Machine/Dispatch.lean ====
section
/-!
DEFINITION. Sys2Proof/Machine/Dispatch.lean: one arm per constructor of Instr, each one call of its meaning.
-/

namespace Sys2Proof.Machine

/-- What an instruction or machine event does in a state. -/
def exec (i : Instr) (s : State) : Host.Outcome State Fault Refusal :=
  match i with
  | .nop a1 => Sys2Proof.Machine.execNop a1 s
  | .endS a1 => Sys2Proof.Machine.execEndS a1 s
  | .rdzv a1 a2 => Sys2Proof.Machine.execRdzv a1 a2 s
  | .br a1 a2 a3 => Sys2Proof.Machine.execBr a1 a2 a3 s
  | .brc a1 a2 a3 a4 a5 => Sys2Proof.Machine.execBrc a1 a2 a3 a4 a5 s
  | .call a1 a2 a3 => Sys2Proof.Machine.execCall a1 a2 a3 s
  | .callg a1 a2 a3 a4 => Sys2Proof.Machine.execCallg a1 a2 a3 a4 s
  | .jr a1 a2 => Sys2Proof.Machine.execJr a1 a2 s
  | .loop a1 a2 a3 => Sys2Proof.Machine.execLoop a1 a2 a3 s
  | .loopi a1 a2 a3 => Sys2Proof.Machine.execLoopi a1 a2 a3 s
  | .looph a1 a2 a3 a4 => Sys2Proof.Machine.execLooph a1 a2 a3 a4 s
  | .trap a1 a2 => Sys2Proof.Machine.execTrap a1 a2 s
  | .csrr a1 a2 a3 => Sys2Proof.Machine.execCsrr a1 a2 a3 s
  | .csrw a1 a2 a3 => Sys2Proof.Machine.execCsrw a1 a2 a3 s
  | .add a1 a2 a3 a4 => Sys2Proof.Machine.execAdd a1 a2 a3 a4 s
  | .sub a1 a2 a3 a4 => Sys2Proof.Machine.execSub a1 a2 a3 a4 s
  | .and a1 a2 a3 a4 => Sys2Proof.Machine.execAnd a1 a2 a3 a4 s
  | .or a1 a2 a3 a4 => Sys2Proof.Machine.execOr a1 a2 a3 a4 s
  | .xor a1 a2 a3 a4 => Sys2Proof.Machine.execXor a1 a2 a3 a4 s
  | .andn a1 a2 a3 a4 => Sys2Proof.Machine.execAndn a1 a2 a3 a4 s
  | .shl a1 a2 a3 a4 => Sys2Proof.Machine.execShl a1 a2 a3 a4 s
  | .shr a1 a2 a3 a4 => Sys2Proof.Machine.execShr a1 a2 a3 a4 s
  | .sra a1 a2 a3 a4 => Sys2Proof.Machine.execSra a1 a2 a3 a4 s
  | .mul a1 a2 a3 a4 => Sys2Proof.Machine.execMul a1 a2 a3 a4 s
  | .mulh a1 a2 a3 a4 => Sys2Proof.Machine.execMulh a1 a2 a3 a4 s
  | .mulhu a1 a2 a3 a4 => Sys2Proof.Machine.execMulhu a1 a2 a3 a4 s
  | .min a1 a2 a3 a4 => Sys2Proof.Machine.execMin a1 a2 a3 a4 s
  | .max a1 a2 a3 a4 => Sys2Proof.Machine.execMax a1 a2 a3 a4 s
  | .minu a1 a2 a3 a4 => Sys2Proof.Machine.execMinu a1 a2 a3 a4 s
  | .maxu a1 a2 a3 a4 => Sys2Proof.Machine.execMaxu a1 a2 a3 a4 s
  | .slt a1 a2 a3 a4 => Sys2Proof.Machine.execSlt a1 a2 a3 a4 s
  | .sltu a1 a2 a3 a4 => Sys2Proof.Machine.execSltu a1 a2 a3 a4 s
  | .clz a1 a2 a3 => Sys2Proof.Machine.execClz a1 a2 a3 s
  | .popc a1 a2 a3 => Sys2Proof.Machine.execPopc a1 a2 a3 s
  | .sel a1 a2 a3 a4 a5 => Sys2Proof.Machine.execSel a1 a2 a3 a4 a5 s
  | .addi a1 a2 a3 a4 => Sys2Proof.Machine.execAddi a1 a2 a3 a4 s
  | .andi a1 a2 a3 a4 => Sys2Proof.Machine.execAndi a1 a2 a3 a4 s
  | .ori a1 a2 a3 a4 => Sys2Proof.Machine.execOri a1 a2 a3 a4 s
  | .xori a1 a2 a3 a4 => Sys2Proof.Machine.execXori a1 a2 a3 a4 s
  | .shli a1 a2 a3 a4 => Sys2Proof.Machine.execShli a1 a2 a3 a4 s
  | .shri a1 a2 a3 a4 => Sys2Proof.Machine.execShri a1 a2 a3 a4 s
  | .srai a1 a2 a3 a4 => Sys2Proof.Machine.execSrai a1 a2 a3 a4 s
  | .slti a1 a2 a3 a4 => Sys2Proof.Machine.execSlti a1 a2 a3 a4 s
  | .sltiu a1 a2 a3 a4 => Sys2Proof.Machine.execSltiu a1 a2 a3 a4 s
  | .lih a1 a2 a3 => Sys2Proof.Machine.execLih a1 a2 a3 s
  | .cmp a1 a2 a3 a4 a5 => Sys2Proof.Machine.execCmp a1 a2 a3 a4 a5 s
  | .cmpi a1 a2 a3 a4 a5 => Sys2Proof.Machine.execCmpi a1 a2 a3 a4 a5 s
  | .pand a1 a2 a3 a4 => Sys2Proof.Machine.execPand a1 a2 a3 a4 s
  | .por a1 a2 a3 a4 => Sys2Proof.Machine.execPor a1 a2 a3 a4 s
  | .pxor a1 a2 a3 a4 => Sys2Proof.Machine.execPxor a1 a2 a3 a4 s
  | .pandn a1 a2 a3 a4 => Sys2Proof.Machine.execPandn a1 a2 a3 a4 s
  | .pmov a1 a2 a3 => Sys2Proof.Machine.execPmov a1 a2 a3 s
  | .pseti a1 a2 a3 => Sys2Proof.Machine.execPseti a1 a2 a3 s
  | .ld a1 a2 a3 a4 a5 a6 => Sys2Proof.Machine.execLd a1 a2 a3 a4 a5 a6 s
  | .st a1 a2 a3 a4 a5 => Sys2Proof.Machine.execSt a1 a2 a3 a4 a5 s
  | .ldg a1 a2 a3 a4 a5 a6 => Sys2Proof.Machine.execLdg a1 a2 a3 a4 a5 a6 s
  | .stg a1 a2 a3 a4 a5 => Sys2Proof.Machine.execStg a1 a2 a3 a4 a5 s
  | .blkh a1 a2 => Sys2Proof.Machine.execBlkh a1 a2 s
  | .ssig a1 a2 a3 a4 => Sys2Proof.Machine.execSsig a1 a2 a3 a4 s
  | .sset a1 a2 a3 => Sys2Proof.Machine.execSset a1 a2 a3 s
  | .sget a1 a2 a3 => Sys2Proof.Machine.execSget a1 a2 a3 s
  | .mark a1 a2 a3 => Sys2Proof.Machine.execMark a1 a2 a3 s
  | .mjoin a1 a2 => Sys2Proof.Machine.execMjoin a1 a2 s
  | .mpost a1 a2 a3 a4 => Sys2Proof.Machine.execMpost a1 a2 a3 a4 s
  | .gjoin a1 a2 => Sys2Proof.Machine.execGjoin a1 a2 s
  | .gleave a1 a2 => Sys2Proof.Machine.execGleave a1 a2 s
  | .garv a1 a2 a3 a4 => Sys2Proof.Machine.execGarv a1 a2 a3 a4 s
  | .gbar a1 a2 a3 a4 => Sys2Proof.Machine.execGbar a1 a2 a3 a4 s
  | .ckpt a1 a2 a3 => Sys2Proof.Machine.execCkpt a1 a2 a3 s
  | .planeQuery a1 a2 a3 => Sys2Proof.Machine.execPlaneQuery a1 a2 a3 s
  | .planeStage a1 a2 a3 => Sys2Proof.Machine.execPlaneStage a1 a2 a3 s
  | .planeDrop a1 a2 a3 => Sys2Proof.Machine.execPlaneDrop a1 a2 a3 s
  | .rft a1 a2 => Sys2Proof.Machine.execRft a1 a2 s
  | .resume a1 a2 => Sys2Proof.Machine.execResume a1 a2 s
  | .ctxsv a1 a2 a3 => Sys2Proof.Machine.execCtxsv a1 a2 a3 s
  | .ctxld a1 a2 a3 a4 => Sys2Proof.Machine.execCtxld a1 a2 a3 a4 s
  | .tlbiDataAll a1 a2 a3 => Sys2Proof.Machine.execTlbiDataAll a1 a2 a3 s
  | .tlbiDataPage a1 a2 a3 => Sys2Proof.Machine.execTlbiDataPage a1 a2 a3 s
  | .tlbiInstrAll a1 a2 a3 => Sys2Proof.Machine.execTlbiInstrAll a1 a2 a3 s
  | .tlbiInstrPage a1 a2 a3 => Sys2Proof.Machine.execTlbiInstrPage a1 a2 a3 s
  | .keyopLoad a1 a2 a3 a4 => Sys2Proof.Machine.execKeyopLoad a1 a2 a3 a4 s
  | .keyopDestroy a1 a2 a3 a4 => Sys2Proof.Machine.execKeyopDestroy a1 a2 a3 a4 s
  | .keyopQuery a1 a2 a3 a4 => Sys2Proof.Machine.execKeyopQuery a1 a2 a3 a4 s
  | .capw a1 a2 a3 a4 a5 => Sys2Proof.Machine.execCapw a1 a2 a3 a4 a5 s
  | .tnset a1 a2 a3 a4 => Sys2Proof.Machine.execTnset a1 a2 a3 a4 s
  | .sdef a1 a2 a3 a4 => Sys2Proof.Machine.execSdef a1 a2 a3 a4 s
  | .slvl a1 a2 a3 a4 => Sys2Proof.Machine.execSlvl a1 a2 a3 a4 s
  | .sfib a1 a2 a3 a4 => Sys2Proof.Machine.execSfib a1 a2 a3 a4 s
  | .sint a1 a2 a3 a4 => Sys2Proof.Machine.execSint a1 a2 a3 a4 s
  | .suni a1 a2 a3 a4 => Sys2Proof.Machine.execSuni a1 a2 a3 a4 s
  | .sskip a1 a2 a3 => Sys2Proof.Machine.execSskip a1 a2 a3 s
  | .spos a1 a2 a3 a4 => Sys2Proof.Machine.execSpos a1 a2 a3 a4 s
  | .scrd a1 a2 a3 a4 => Sys2Proof.Machine.execScrd a1 a2 a3 a4 s
  | .ldq a1 a2 a3 a4 a5 a6 a7 a8 => Sys2Proof.Machine.execLdq a1 a2 a3 a4 a5 a6 a7 a8 s
  | .ldqc a1 a2 a3 a4 a5 a6 => Sys2Proof.Machine.execLdqc a1 a2 a3 a4 a5 a6 s
  | .ldqa a1 a2 a3 a4 a5 a6 a7 => Sys2Proof.Machine.execLdqa a1 a2 a3 a4 a5 a6 a7 s
  | .stq a1 a2 a3 a4 a5 a6 a7 => Sys2Proof.Machine.execStq a1 a2 a3 a4 a5 a6 a7 s
  | .lls a1 a2 a3 a4 => Sys2Proof.Machine.execLls a1 a2 a3 a4 s
  | .mrgb a1 a2 a3 a4 => Sys2Proof.Machine.execMrgb a1 a2 a3 a4 s
  | .mrgi a1 a2 a3 => Sys2Proof.Machine.execMrgi a1 a2 a3 s
  | .mrge a1 a2 a3 => Sys2Proof.Machine.execMrge a1 a2 a3 s
  | .bfxp a1 a2 a3 a4 a5 => Sys2Proof.Machine.execBfxp a1 a2 a3 a4 a5 s
  | .bfxpSet a1 a2 a3 => Sys2Proof.Machine.execBfxpSet a1 a2 a3 s
  | .loopt a1 a2 a3 a4 => Sys2Proof.Machine.execLoopt a1 a2 a3 a4 s
  | .prf a1 a2 a3 => Sys2Proof.Machine.execPrf a1 a2 a3 s
  | .srel a1 a2 => Sys2Proof.Machine.execSrel a1 a2 s
  | .vfadd a1 a2 a3 a4 a5 a6 => Sys2Proof.Machine.execVfadd a1 a2 a3 a4 a5 a6 s
  | .vfsub a1 a2 a3 a4 a5 a6 => Sys2Proof.Machine.execVfsub a1 a2 a3 a4 a5 a6 s
  | .vfmul a1 a2 a3 a4 a5 a6 => Sys2Proof.Machine.execVfmul a1 a2 a3 a4 a5 a6 s
  | .vfma a1 a2 a3 a4 a5 a6 => Sys2Proof.Machine.execVfma a1 a2 a3 a4 a5 a6 s
  | .vfms a1 a2 a3 a4 a5 a6 => Sys2Proof.Machine.execVfms a1 a2 a3 a4 a5 a6 s
  | .vfnma a1 a2 a3 a4 a5 a6 => Sys2Proof.Machine.execVfnma a1 a2 a3 a4 a5 a6 s
  | .vfmin a1 a2 a3 a4 a5 => Sys2Proof.Machine.execVfmin a1 a2 a3 a4 a5 s
  | .vfmax a1 a2 a3 a4 a5 => Sys2Proof.Machine.execVfmax a1 a2 a3 a4 a5 s
  | .vfcmp a1 a2 a3 a4 a5 a6 => Sys2Proof.Machine.execVfcmp a1 a2 a3 a4 a5 a6 s
  | .vlog2 a1 a2 a3 a4 => Sys2Proof.Machine.execVlog2 a1 a2 a3 a4 s
  | .vexp2 a1 a2 a3 a4 => Sys2Proof.Machine.execVexp2 a1 a2 a3 a4 s
  | .vrcp a1 a2 a3 a4 => Sys2Proof.Machine.execVrcp a1 a2 a3 a4 s
  | .vrsq a1 a2 a3 a4 => Sys2Proof.Machine.execVrsq a1 a2 a3 a4 s
  | .vcvt a1 a2 a3 a4 a5 a6 a7 => Sys2Proof.Machine.execVcvt a1 a2 a3 a4 a5 a6 a7 s
  | .vscl a1 a2 a3 a4 a5 a6 => Sys2Proof.Machine.execVscl a1 a2 a3 a4 a5 a6 s
  | .vpks a1 a2 a3 a4 a5 => Sys2Proof.Machine.execVpks a1 a2 a3 a4 a5 s
  | .vadd a1 a2 a3 a4 a5 => Sys2Proof.Machine.execVadd a1 a2 a3 a4 a5 s
  | .vsub a1 a2 a3 a4 a5 => Sys2Proof.Machine.execVsub a1 a2 a3 a4 a5 s
  | .vmul a1 a2 a3 a4 a5 => Sys2Proof.Machine.execVmul a1 a2 a3 a4 a5 s
  | .vmulh a1 a2 a3 a4 a5 => Sys2Proof.Machine.execVmulh a1 a2 a3 a4 a5 s
  | .vmad a1 a2 a3 a4 a5 a6 => Sys2Proof.Machine.execVmad a1 a2 a3 a4 a5 a6 s
  | .vand a1 a2 a3 a4 a5 => Sys2Proof.Machine.execVand a1 a2 a3 a4 a5 s
  | .vor a1 a2 a3 a4 a5 => Sys2Proof.Machine.execVor a1 a2 a3 a4 a5 s
  | .vxor a1 a2 a3 a4 a5 => Sys2Proof.Machine.execVxor a1 a2 a3 a4 a5 s
  | .vshl a1 a2 a3 a4 a5 => Sys2Proof.Machine.execVshl a1 a2 a3 a4 a5 s
  | .vshr a1 a2 a3 a4 a5 => Sys2Proof.Machine.execVshr a1 a2 a3 a4 a5 s
  | .vsra a1 a2 a3 a4 a5 => Sys2Proof.Machine.execVsra a1 a2 a3 a4 a5 s
  | .vmin a1 a2 a3 a4 a5 => Sys2Proof.Machine.execVmin a1 a2 a3 a4 a5 s
  | .vmax a1 a2 a3 a4 a5 => Sys2Proof.Machine.execVmax a1 a2 a3 a4 a5 s
  | .vadds a1 a2 a3 a4 a5 => Sys2Proof.Machine.execVadds a1 a2 a3 a4 a5 s
  | .vsubs a1 a2 a3 a4 a5 => Sys2Proof.Machine.execVsubs a1 a2 a3 a4 a5 s
  | .vcmp a1 a2 a3 a4 a5 a6 => Sys2Proof.Machine.execVcmp a1 a2 a3 a4 a5 a6 s
  | .vsel a1 a2 a3 a4 a5 a6 => Sys2Proof.Machine.execVsel a1 a2 a3 a4 a5 a6 s
  | .vmov a1 a2 a3 a4 => Sys2Proof.Machine.execVmov a1 a2 a3 a4 s
  | .vli a1 a2 a3 a4 => Sys2Proof.Machine.execVli a1 a2 a3 a4 s
  | .vbcst a1 a2 a3 a4 a5 => Sys2Proof.Machine.execVbcst a1 a2 a3 a4 a5 s
  | .vbcstX a1 a2 a3 a4 => Sys2Proof.Machine.execVbcstX a1 a2 a3 a4 s
  | .vperm a1 a2 a3 a4 a5 => Sys2Proof.Machine.execVperm a1 a2 a3 a4 a5 s
  | .vrot a1 a2 a3 a4 a5 => Sys2Proof.Machine.execVrot a1 a2 a3 a4 a5 s
  | .vlane a1 a2 a3 a4 => Sys2Proof.Machine.execVlane a1 a2 a3 a4 s
  | .vhash a1 a2 a3 a4 a5 => Sys2Proof.Machine.execVhash a1 a2 a3 a4 a5 s
  | .vradd a1 a2 a3 a4 => Sys2Proof.Machine.execVradd a1 a2 a3 a4 s
  | .vrmax a1 a2 a3 a4 a5 a6 => Sys2Proof.Machine.execVrmax a1 a2 a3 a4 a5 a6 s
  | .vrmaxi a1 a2 a3 a4 a5 a6 => Sys2Proof.Machine.execVrmaxi a1 a2 a3 a4 a5 a6 s
  | .vrmini a1 a2 a3 a4 a5 a6 => Sys2Proof.Machine.execVrmini a1 a2 a3 a4 a5 a6 s
  | .vrfadd a1 a2 a3 a4 a5 => Sys2Proof.Machine.execVrfadd a1 a2 a3 a4 a5 s
  | .vext a1 a2 a3 a4 a5 a6 => Sys2Proof.Machine.execVext a1 a2 a3 a4 a5 a6 s
  | .vacrF32 a1 a2 a3 a4 => Sys2Proof.Machine.execVacrF32 a1 a2 a3 a4 s
  | .vacrRaw a1 a2 a3 a4 => Sys2Proof.Machine.execVacrRaw a1 a2 a3 a4 s
  | .vacwF32 a1 a2 a3 a4 => Sys2Proof.Machine.execVacwF32 a1 a2 a3 a4 s
  | .vacwAdd a1 a2 a3 a4 => Sys2Proof.Machine.execVacwAdd a1 a2 a3 a4 s
  | .vacwRaw a1 a2 a3 a4 => Sys2Proof.Machine.execVacwRaw a1 a2 a3 a4 s
  | .loopq a1 a2 a3 a4 a5 => Sys2Proof.Machine.execLoopq a1 a2 a3 a4 a5 s
  | .vqlen a1 a2 a3 a4 => Sys2Proof.Machine.execVqlen a1 a2 a3 a4 s
  | .vqlenZero a1 a2 a3 => Sys2Proof.Machine.execVqlenZero a1 a2 a3 s
  | .wnop a1 => Sys2Proof.Machine.execWnop a1 s
  | .wt a1 a2 a3 a4 => Sys2Proof.Machine.execWt a1 a2 a3 a4 s
  | .wg a1 a2 a3 a4 a5 => Sys2Proof.Machine.execWg a1 a2 a3 a4 a5 s
  | .wf a1 a2 a3 a4 => Sys2Proof.Machine.execWf a1 a2 a3 a4 s
  | .wtf a1 a2 a3 a4 => Sys2Proof.Machine.execWtf a1 a2 a3 a4 s
  | .wrow a1 a2 a3 a4 => Sys2Proof.Machine.execWrow a1 a2 a3 a4 s
  | .wsegFull a1 a2 a3 a4 a5 a6 => Sys2Proof.Machine.execWsegFull a1 a2 a3 a4 a5 a6 s
  | .wsegKeep a1 => Sys2Proof.Machine.execWsegKeep a1 s
  | .whook a1 a2 => Sys2Proof.Machine.execWhook a1 a2 s
  | .wret a1 => Sys2Proof.Machine.execWret a1 s
  | .wjmp a1 a2 => Sys2Proof.Machine.execWjmp a1 a2 s
  | .wjmpLink a1 a2 => Sys2Proof.Machine.execWjmpLink a1 a2 s
  | .wjmpRet a1 => Sys2Proof.Machine.execWjmpRet a1 s
  | .wend a1 => Sys2Proof.Machine.execWend a1 s
  | .wwait a1 a2 a3 a4 a5 => Sys2Proof.Machine.execWwait a1 a2 a3 a4 a5 s
  | .wlink a1 a2 => Sys2Proof.Machine.execWlink a1 a2 s
  | .wrdzv a1 a2 => Sys2Proof.Machine.execWrdzv a1 a2 s
  | .mtw a1 a2 a3 => Sys2Proof.Machine.execMtw a1 a2 a3 s
  | .mtws a1 a2 a3 a4 => Sys2Proof.Machine.execMtws a1 a2 a3 a4 s
  | .mgo a1 a2 a3 => Sys2Proof.Machine.execMgo a1 a2 a3 s
  | .mdrn a1 a2 a3 a4 => Sys2Proof.Machine.execMdrn a1 a2 a3 a4 s
  | .mbyp a1 a2 a3 => Sys2Proof.Machine.execMbyp a1 a2 a3 s
  | .mrqt a1 a2 a3 a4 => Sys2Proof.Machine.execMrqt a1 a2 a3 a4 s
  | .mzero a1 a2 a3 => Sys2Proof.Machine.execMzero a1 a2 a3 s
  | .midx a1 a2 a3 a4 => Sys2Proof.Machine.execMidx a1 a2 a3 a4 s
  | .mnms a1 a2 a3 a4 => Sys2Proof.Machine.execMnms a1 a2 a3 a4 s
  | .mrpr a1 a2 a3 a4 => Sys2Proof.Machine.execMrpr a1 a2 a3 a4 s
  | .mrst a1 a2 a3 a4 => Sys2Proof.Machine.execMrst a1 a2 a3 a4 s
  | .xcp a1 a2 a3 a4 => Sys2Proof.Machine.execXcp a1 a2 a3 a4 s
  | .xcpg a1 a2 a3 a4 => Sys2Proof.Machine.execXcpg a1 a2 a3 a4 s
  | .xred a1 a2 a3 a4 => Sys2Proof.Machine.execXred a1 a2 a3 a4 s
  | .xexp a1 a2 a3 a4 => Sys2Proof.Machine.execXexp a1 a2 a3 a4 s
  | .xarv a1 a2 a3 a4 => Sys2Proof.Machine.execXarv a1 a2 a3 a4 s
  | .xstep a1 a2 a3 => Sys2Proof.Machine.execXstep a1 a2 a3 s
  | .xpln a1 a2 a3 a4 => Sys2Proof.Machine.execXpln a1 a2 a3 a4 s
  | .xbrd a1 a2 a3 a4 => Sys2Proof.Machine.execXbrd a1 a2 a3 a4 s
  | .xalt a1 a2 a3 a4 => Sys2Proof.Machine.execXalt a1 a2 a3 a4 s
  | .xrep a1 a2 a3 a4 => Sys2Proof.Machine.execXrep a1 a2 a3 a4 s
  | .xdrp a1 a2 a3 a4 => Sys2Proof.Machine.execXdrp a1 a2 a3 a4 s
  | .xsigr a1 a2 a3 a4 => Sys2Proof.Machine.execXsigr a1 a2 a3 a4 s
  | .xkeyEnc a1 a2 a3 a4 => Sys2Proof.Machine.execXkeyEnc a1 a2 a3 a4 s
  | .xkeyDec a1 a2 a3 a4 => Sys2Proof.Machine.execXkeyDec a1 a2 a3 a4 s
  | .xqryRing a1 a2 a3 => Sys2Proof.Machine.execXqryRing a1 a2 a3 s
  | .xqryPeek a1 a2 a3 a4 => Sys2Proof.Machine.execXqryPeek a1 a2 a3 a4 s
  | .instructionRetire a1 a2 => Sys2Proof.Machine.execInstructionRetire a1 a2 s
  | .resultLands a1 => Sys2Proof.Machine.execResultLands a1 s
  | .blockHeadSatisfied a1 a2 => Sys2Proof.Machine.execBlockHeadSatisfied a1 a2 s
  | .rendezvousRelease a1 a2 => Sys2Proof.Machine.execRendezvousRelease a1 a2 s
  | .jobRetire a1 a2 => Sys2Proof.Machine.execJobRetire a1 a2 s
  | .markerReachesHead a1 a2 => Sys2Proof.Machine.execMarkerReachesHead a1 a2 s
  | .groupPhaseComplete a1 => Sys2Proof.Machine.execGroupPhaseComplete a1 s
  | .blockWatchdogExpiry a1 a2 => Sys2Proof.Machine.execBlockWatchdogExpiry a1 a2 s
  | .agePromotion a1 a2 => Sys2Proof.Machine.execAgePromotion a1 a2 s
  | .ckptConditionsMet a1 a2 => Sys2Proof.Machine.execCkptConditionsMet a1 a2 s
  | .loaderConsider a1 => Sys2Proof.Machine.execLoaderConsider a1 s
  | .jobLoadDone a1 a2 => Sys2Proof.Machine.execJobLoadDone a1 a2 s
  | .stagedJobStart a1 => Sys2Proof.Machine.execStagedJobStart a1 s
  | .budgetOverrun a1 a2 => Sys2Proof.Machine.execBudgetOverrun a1 a2 s
  | .graceExpiry a1 a2 => Sys2Proof.Machine.execGraceExpiry a1 a2 s
  | .programTrapStop a1 a2 => Sys2Proof.Machine.execProgramTrapStop a1 a2 s
  | .localFaultFreeze a1 => Sys2Proof.Machine.execLocalFaultFreeze a1 s
  | .handlerTimeLimit a1 => Sys2Proof.Machine.execHandlerTimeLimit a1 s
  | .pageWalkComplete a1 a2 a3 => Sys2Proof.Machine.execPageWalkComplete a1 a2 a3 s
  | .missQueueAdmit a1 => Sys2Proof.Machine.execMissQueueAdmit a1 s
  | .codeLineArrive a1 a2 => Sys2Proof.Machine.execCodeLineArrive a1 a2 s
  | .commandStart a1 a2 => Sys2Proof.Machine.execCommandStart a1 a2 s
  | .commandComplete a1 a2 a3 => Sys2Proof.Machine.execCommandComplete a1 a2 a3 s
  | .nestStepCommit a1 => Sys2Proof.Machine.execNestStepCommit a1 s
  | .flushGroupWrite a1 => Sys2Proof.Machine.execFlushGroupWrite a1 s
  | .wsegReadsComplete a1 a2 => Sys2Proof.Machine.execWsegReadsComplete a1 a2 s
  | .llsGroupWrite a1 => Sys2Proof.Machine.execLlsGroupWrite a1 s
  | .llsStart a1 => Sys2Proof.Machine.execLlsStart a1 s
  | .portAccept a1 => Sys2Proof.Machine.execPortAccept a1 s
  | .outboundStamp a1 => Sys2Proof.Machine.execOutboundStamp a1 s
  | .requestTimeout a1 a2 => Sys2Proof.Machine.execRequestTimeout a1 a2 s
  | .slotWindowSend a1 a2 => Sys2Proof.Machine.execSlotWindowSend a1 a2 s
  | .carouselPassage a1 => Sys2Proof.Machine.execCarouselPassage a1 s
  | .carouselWeCatch a1 => Sys2Proof.Machine.execCarouselWeCatch a1 s
  | .ilLoad a1 => Sys2Proof.Machine.execIlLoad a1 s
  | .ilUnload a1 => Sys2Proof.Machine.execIlUnload a1 s
  | .linkTransmitAccept a1 => Sys2Proof.Machine.execLinkTransmitAccept a1 s
  | .linkReceive a1 => Sys2Proof.Machine.execLinkReceive a1 s
  | .applyWrite a1 => Sys2Proof.Machine.execApplyWrite a1 s
  | .applyReadRequest a1 => Sys2Proof.Machine.execApplyReadRequest a1 s
  | .applyRemoteSignal a1 => Sys2Proof.Machine.execApplyRemoteSignal a1 s
  | .applyReduce a1 => Sys2Proof.Machine.execApplyReduce a1 s
  | .applyArrival a1 => Sys2Proof.Machine.execApplyArrival a1 s
  | .applyPlaneRecord a1 => Sys2Proof.Machine.execApplyPlaneRecord a1 s
  | .applyDescriptorPost a1 => Sys2Proof.Machine.execApplyDescriptorPost a1 s
  | .readReplyArrive a1 => Sys2Proof.Machine.execReadReplyArrive a1 s
  | .writeAckArrive a1 => Sys2Proof.Machine.execWriteAckArrive a1 s
  | .signalReplyArrive a1 => Sys2Proof.Machine.execSignalReplyArrive a1 s
  | .planeAnswerArrive a1 => Sys2Proof.Machine.execPlaneAnswerArrive a1 s
  | .postAnswerArrive a1 => Sys2Proof.Machine.execPostAnswerArrive a1 s
  | .errorReplyArrive a1 => Sys2Proof.Machine.execErrorReplyArrive a1 s
  | .routerPromotion a1 => Sys2Proof.Machine.execRouterPromotion a1 s
  | .routerFlitForward a1 a2 => Sys2Proof.Machine.execRouterFlitForward a1 a2 s
  | .hostDoorbellWrite a1 a2 a3 a4 => Sys2Proof.Machine.execHostDoorbellWrite a1 a2 a3 a4 s
  | .mboxRemove a1 a2 => Sys2Proof.Machine.execMboxRemove a1 a2 s
  | .mboxPreempt a1 a2 => Sys2Proof.Machine.execMboxPreempt a1 a2 s
  | .mboxRerun a1 a2 => Sys2Proof.Machine.execMboxRerun a1 a2 s
  | .eventPop a1 => Sys2Proof.Machine.execEventPop a1 s
  | .carouselChangeRequest a1 => Sys2Proof.Machine.execCarouselChangeRequest a1 s
  | .hostWindowWrite a1 a2 a3 a4 => Sys2Proof.Machine.execHostWindowWrite a1 a2 a3 a4 s
  | .partitionWrite a1 a2 a3 => Sys2Proof.Machine.execPartitionWrite a1 a2 a3 s
  | .moduleIdWrite a1 a2 => Sys2Proof.Machine.execModuleIdWrite a1 a2 s
  | .linkEnableWrite a1 a2 a3 => Sys2Proof.Machine.execLinkEnableWrite a1 a2 a3 s
  | .linkTrained a1 a2 a3 => Sys2Proof.Machine.execLinkTrained a1 a2 a3 s
  | .linkTrainingLoss a1 => Sys2Proof.Machine.execLinkTrainingLoss a1 s
  | .hostBar2Access a1 a2 a3 a4 => Sys2Proof.Machine.execHostBar2Access a1 a2 a3 a4 s
  | .registerWrite a1 a2 a3 => Sys2Proof.Machine.execRegisterWrite a1 a2 a3 s
  | .sensorUpdate a1 a2 => Sys2Proof.Machine.execSensorUpdate a1 a2 s
  | .carouselChangeEffect => Sys2Proof.Machine.execCarouselChangeEffect s
  | .lanternAttest => Sys2Proof.Machine.execLanternAttest s
  | .safetyTrip => Sys2Proof.Machine.execSafetyTrip s
  | .reset => Sys2Proof.Machine.execReset s

end Sys2Proof.Machine
end

