-- ==== Sys2Proof/Machine/Clock.lean ====
section
/-!
DEFINITION. Sys2Proof/Machine/Clock.lean: the end of a clock, where counters advance, and the micro-steps of the next one, in
the order in which they are taken (log 4): what the loader does about the clock before, commands of the host, what falls due at
the start of the clock, the engines' issue, and what happens at its end.
-/

namespace Sys2Proof.Machine

/-! ### Counters at the end of a clock -/

/-- The pages that something on a core waits for: streams, commands, and lines that are to be read ahead. -/
def Core.needs (c : Core) : List (Nat × Nat) :=
  (c.streams.flatMap fun e => e.2.need.toList ++ e.2.cmds.filterMap Cmd.need)
    ++ (c.pref.map fun p => (c.dtOf p.key, dataKey p.va)) ++ c.looked.map fun l => (c.dtOf l.1, dataKey (64 * l.2))

/-- Whether the clock counts for stream k: not where VA is held by data or WE by the flush path (R182, R263). -/
def Core.counts (c : Core) (k : Nat) : Bool := !c.held (engOf k)

/-- A stream at the end of a clock: its age (R101), its watchdog (R10, R115), and what a job that is stopping takes from it
(R140). -/
def Stream.tick (t : Stream) (frozen counts : Bool) (job : JobSt) : Stream :=
  { t with
    st := if job = .stopping && t.st = .live then .stopped else t.st
    age := if !frozen && counts && t.ready && !t.issued then t.age + 1 else t.age
    waited := if !frozen && t.st = .live && t.watched then t.waited + 1 else t.waited
    retLeft := if frozen then t.retLeft else t.retLeft - 1
    merge := if frozen || !counts then t.merge else t.merge.map fun m => { m with busy := m.busy - 1 }
    issued := false, stalled := false, ready := false, landFlags := 0 }

/-- One clock less for what is in flight: results, retirements, and what markers wait for (R15, R20, R181). -/
def Core.tickCounters (c : Core) : Core :=
  { c with
    pending := c.pending.map fun p => if c.counts p.key then { p with rem := p.rem - 1 } else p
    retires := c.retires.map fun r => if c.counts r.key then { r with rem := r.rem - 1 } else r
    jobs := c.jobs.map fun e => (e.1, { e.2 with markers := e.2.markers.map fun m =>
      if m.eng < 4 && (c.counts m.tgt : Bool) then { m with upto := m.upto - 1 } else m }) }

/-- On a frozen core only the wick core's interlocks run down (R145, R146). -/
def Core.tickWick (c : Core) : Core :=
  { c with pending := c.pending.map fun p => if p.key = 24 then { p with rem := p.rem - 1 } else p }

/-- Pushed tokens that have matured stand in their FIFOs (R13). -/
def Core.mature (c : Core) : Core :=
  let ms := c.maturing.map fun m => { m with rem := m.rem - 1 }
  (ms.filter fun m => m.rem == 0).foldl (fun c m => c.updJob m.job fun b => b.setTok m.fifo (b.tok m.fifo + 1))
    { c with maturing := ms.filter fun m => m.rem != 0 }

/-- BUDGET at the end of a clock (R86). -/
def Core.spendBudget (c : Core) : Core :=
  { c with jobs := c.jobs.map fun e =>
      if e.2.unlim || e.2.remain = 0 || (c.jobKeys e.1).isEmpty then e else (e.1, { e.2 with remain := e.2.remain - 1 }) }

/-- A command after d clocks in which its core stood still from clock f on: what it counts from its start goes on where it was.
The ring has not stood still, and its commands keep their clocks (R322). -/
def Cmd.shift (m : Cmd) (f d : Nat) : Cmd :=
  if !m.started then m
  else if ringKind m.instr = 0 then { m with at_ := m.at_ + d, pos := if m.finished && f ≤ m.pos then m.pos + d else m.pos }
  else { m with pos := if m.finished && ringKind m.instr != 1 && f ≤ m.pos then m.pos + d else m.pos }

/-- The clocks that a core has fixed ahead, after it stood still for d clocks from clock f on (R145, R151). -/
def Core.shift (c : Core) (f d : Nat) : Core :=
  let sh := fun (v : Nat) => if f ≤ v then v + d else v
  { c with
    streams := c.streams.map fun e => (e.1, if e.1 = 24 then e.2 else { e.2 with
      noIssue := sh e.2.noIssue, landClk := sh e.2.landClk, cmds := e.2.cmds.map fun m => m.shift f d
      me := { e.2.me with ready := sh e.2.me.ready } })
    bubble := c.bubble.map fun e => (e.1, sh e.2)
    reissue := c.reissue.map fun r => (r.1, sh r.2)
    flushes := c.flushes.map fun x => { x with clk := sh x.clk }
    jobs := c.jobs.map fun e => (e.1, { e.2 with startClk := sh e.2.startClk }) }

/-- Pre-emption requests that reached the frozen core take effect (R152). -/
def Core.takeAsked (c : Core) : Core :=
  (c.jobs.filter fun e => e.2.asked).foldl (fun c e => (c.updJob e.1 fun b => { b with asked := false }).request e.1 false false) c

/-- The core goes on in clock clk after RFT: the walks that froze it are made again, and a nest waits 12 clocks (R132, R147,
R149). -/
def Core.thawed (c : Core) (clk : Nat) : Core :=
  let c0 := c.shift (c.wickStart - 1) (clk - (c.wickStart - 1))
  let c1 := ({ c0 with
    frozen := false, thaw := false
    misses := c0.misses.filter fun m => m.res != some 0x08 && m.res != some 0x0A } : Core).takeAsked
  if c.trapCmd && c.trapKey = 16 && c.nest.isSome then
    { (c1.dropLines fun _ => true).updStream 16 (fun t => { t with me := { t.me with ready := clk + 12 } }) with
      rb := [], rbErr := [], looked := c1.looked.filter fun l => l.1 != 16 }
  else c1

/-- Tags that answers of this clock have freed can be taken from the next (R354). -/
def Core.freeTags (c : Core) : Core :=
  { c.tagsDue.foldl (fun c n => c.setTag (n % 16) (n / 16) false) c with tagsDue := [] }

/-- A core at the end of clock clk. -/
def Core.endClock (c : Core) (clk : Nat) : Core :=
  let c1 : Core := { c.freeTags with
    streams := c.streams.map fun e => (e.1, e.2.tick c.frozen (c.counts e.1) (c.job e.2.job).st)
    prev := [], prevAcc := [], accVe := [], prevLane := [], undo := none, semStart := c.sems
    dtFull := tally (!c.missWait.isEmpty) c.dtFull
    missWait := c.missWait.map fun w => { w with fresh := false }
    looked := c.looked.filter fun l => (c.stream l.1).cmds.any Cmd.started
    misses := c.misses.filter fun m => m.res.isNone || c.needs.contains (m.dt, m.page) }
  if c.frozen then
    let c2 := { c1.tickWick with vaHeld := false }
    if c.thaw then c2.thawed (clk + 1) else c2
  else
    { c1.tickCounters.mature.spendBudget with
      queues := c.queues.map fun e => (e.1, e.2.tick)
      reissue := c.reissue.filter fun r => clk < r.2
      vaHeld := false, weHeld := c.weHeld && c.flushing }

/-- A router at the end of a clock: head flits that were ready and stayed have waited (R353). -/
def Router.endClock (rt : Router) (clk : Nat) : Router :=
  { rt with waited := (List.range 24).foldl (fun m k =>
      match (mget [] rt.buf k).head? with
      | some f => if f.i = 0 && f.at_ ≤ clk then mput 0 k (mget 0 rt.waited k + 1) m else m
      | none => m) rt.waited }

/-- Asks for the page of an address that a stream fetches ahead; a walk that gives no translation leaves no trace (R266). -/
def Core.aheadWalk (c : Core) (root va : Nat) : Core :=
  if c.misses.length < 32 && c.missWait.isEmpty then
    match c.askWalk .we root (codeKey va) va false with
    | .wait c1 => c1
    | .ok c1 _ => c1
    | .fault _ => c
  else c

/-- Fetches the first line that core cid's code buffer lacks among n lines from address va on, translating through the level-1
table root (R266). -/
def State.ahead (cid root : Nat) : Nat → Nat → State → State
  | 0, _, s => s
  | n + 1, va, s =>
    let c := s.core cid
    if 2 ^ 48 ≤ va then s
    else
      match c.itFind root va with
      | none => s.setCore cid (c.aheadWalk root va)
      | some e =>
        let line := (fld e.leaf 0 22 * 2 ^ 18 + va % 2 ^ 18) / 256
        if tilePast e.leaf va || c.codeErr.contains line then s
        else if (c.codeLine line).isSome || c.codeWant.contains line
            || s.ring.catches.any (fun k => k.core == cid && k.lines.contains line) then s.ahead cid root n (va + 256)
        else s.wantLine cid e.leaf va line

/-- One line that each live stream of WE fetches ahead in a clock, up to 128 bundles past its PC (R266). -/
def State.weAhead (s : State) : State :=
  s.cores.foldl (fun s e =>
    if e.2.frozen then s
    else
      [12, 13].foldl (fun s k =>
        let t := (s.core e.1).stream k
        if t.st != .live then s else s.ahead e.1 t.fetchRoot 16 (t.pc / 256 * 256 + 256)) s) s

/-- A soft error comes to light: a corrected one is counted; one that its code cannot correct is counted and stops the stream that
reads the data (R156, R410). -/
def State.softError (s : State) (e : Soft) : State :=
  let count := fun (m : SMap Nat) => mput 0 e.struct (min (2 ^ 32 - 1) (mget 0 m e.struct + 1)) m
  let s1 := s.updDie (dieOf e.core) fun d =>
    if e.fatal then { d with uncorr := count d.uncorr } else { d with corr := count d.corr }
  if e.fatal && ((s.core e.core).stream e.key).st == .live then
    s1.updCore e.core fun c => c.takeTrap s.cycles e.key 0x12 e.struct
  else s1

/-- The soft errors of this clock. -/
def State.softErrors (s : State) : State :=
  (s.soft.filter fun e => e.clk ≤ s.cycles).foldl State.softError { s with soft := s.soft.filter fun e => s.cycles < e.clk }

/-- The module at the end of a clock. -/
def State.endClock (s : State) : State :=
  let s := s.softErrors.weAhead.takeWalks
  let n := Config.freeNat (s.freeCtr + 3)
  { s with
    cycles := s.cycles + 1
    cores := s.cores.map fun e => (e.1, e.2.endClock s.cycles)
    routers := s.routers.map fun e => (e.1, e.2.endClock s.cycles)
    links := s.links.map fun e => (e.1, e.2.endClock n)
    ring := { s.ring with rc := s.ring.rc + 1, catches := s.ring.catches.map fun k => { k with left := k.left - 1 } } }

/-! ### The micro-steps of a clock -/

/-- Whether an event is one that comes from outside the module. -/
def isInput : Instr → Bool
  | .hostDoorbellWrite .. | .mboxRemove .. | .mboxPreempt .. | .mboxRerun .. | .eventPop .. | .hostWindowWrite ..
  | .partitionWrite .. | .moduleIdWrite .. | .linkEnableWrite .. | .linkTrained .. | .linkTrainingLoss .. | .hostBar2Access ..
  | .registerWrite .. | .sensorUpdate .. | .reset => true
  | _ => false

/-- Inputs that still count after the safety trip (R411). -/
def tripInput : Instr → Bool
  | .eventPop .. | .reset => true
  | _ => false

/-- The keys of a core's streams of XE, and of ME and XE. -/
def xeKeys : List Nat := [20, 21, 22, 23]
def cmdKeys : List Nat := 16 :: xeKeys

/-- What the loader of core i does about the clock before (R93 to R95), and the jobs whose last stream ended in it (R11). -/
def Core.dueLoader (c : Core) (i : Nat) : List Instr :=
  let js := c.jobs.map Prod.fst
  .loaderConsider i :: js.map (Instr.jobLoadDone i) ++ [.stagedJobStart i] ++ js.map (Instr.jobRetire i)

/-- What falls due for the jobs and streams of core i at the start of a clock. -/
def Core.dueFirst (c : Core) (i : Nat) : List Instr :=
  let js := c.jobs.map Prod.fst
  js.map (Instr.budgetOverrun i) ++ (js.filter fun j => (c.job j).grace || (c.job j).switchCode != 0).map (Instr.graceExpiry i)
    ++ [.resultLands i] ++ ((c.retires.map Retire.key).eraseDups.map (Instr.instructionRetire i))
    ++ ((c.jobs.flatMap fun e => e.2.markers.map Marker.key).eraseDups.map (Instr.markerReachesHead i))

/-- What the exchange steps of core i send as their windows open, into OB(d) (R315). -/
def Core.dueWindows (_c : Core) (i : Nat) : List Instr := xeKeys.map (Instr.slotWindowSend i) ++ [.outboundStamp i]

/-- Started commands of core i, each with one clock of work. -/
def Core.dueCommands (c : Core) (i : Nat) : List Instr :=
  cmdKeys.flatMap fun k => ((c.stream k).cmds.filter Cmd.started).map fun m => .commandComplete i k m.idx

/-- Whether a command is an arrival at a barrier that waits for no semaphore: it arrives as soon as the commands before it have
completed (R312, R313). -/
def Cmd.arrives (m : Cmd) : Bool :=
  match m.instr with
  | .xarv _ k _ _ => k.wait.isNone
  | _ => false

/-- Whether a command is a barrier expectation, which is posted in the clock in which it starts (R339). -/
def Cmd.isExp (m : Cmd) : Bool :=
  match m.instr with
  | .xexp .. => true
  | _ => false

/-- The streams of XE whose next command p takes. -/
def Core.xeNext (c : Core) (p : Cmd → Bool) : List Nat := xeKeys.filter fun k => (c.stream k).nextCmd.any p

/-- Waits, stops and walks of core i. -/
def Core.dueNext (c : Core) (i clk : Nat) : List Instr :=
  let js := c.jobs.map Prod.fst
  let ks := c.streams.map Prod.fst
  js.map (Instr.rendezvousRelease i)
    ++ (js.filter fun j => (c.jobKeys j).any fun k => match (c.stream k).wait with
        | .ckpt _ _ => true
        | _ => false).map (Instr.ckptConditionsMet i)
    ++ js.map (Instr.programTrapStop i)
    ++ c.missWait.map (fun _ => .missQueueAdmit i) ++ c.codeWant.map (Instr.codeLineArrive i)
    ++ (ks.filter fun k => match (c.stream k).wait with
        | .wseg .. => true
        | _ => false).map (Instr.wsegReadsComplete i)
    ++ (ks.filter fun k => 2 ^ 24 ≤ (c.stream k).waited).map (Instr.blockWatchdogExpiry i)
    ++ (ks.filter fun k => 1024 ≤ (c.stream k).age).map (Instr.agePromotion i)
    ++ [.handlerTimeLimit i]
    ++ (c.reqs.filter fun r => r.clk + 2 ^ 20 ≤ clk).map (fun r => .requestTimeout i r.rid)
    ++ [.nestStepCommit i]

/-- The issue of core i's engines in the order in which their effects are seen, with the starts of commands (R24, R100). The results
of VA and WE land at their turns, where a hold of the engine shows (R182, R263). -/
def Core.dueIssue (c : Core) (i : Nat) : List Turn :=
  let turn := fun (e : Eng) => Turn.issue i e []
  if c.frozen then [turn .wick]
  else
    [turn .sq, .event (.resultLands i), turn .va, turn .ve, .event (.resultLands i), turn .we]
      ++ (if (c.stream 16).nextCmd.isSome then [.event (.commandStart i 16)] else []) ++ [turn .me]
      ++ ((c.xeNext fun _ => true).map fun k => .event (.commandStart i k))
      ++ ((c.xeNext Cmd.isExp).flatMap fun k =>
        (c.stream k).nextCmd.toList.map fun m => .event (.commandComplete i k m.idx))
      ++ [turn .xe, turn .wick]

/-- What core i does at the end of a clock. -/
def Core.dueLast (_c : Core) (i : Nat) : List Instr := [.flushGroupWrite i, .llsStart i, .portAccept i, .outboundStamp i]

/-- Whether a packet is applied at the end of a clock: plane records, which go after a PLANE instruction of the same clock
(R319). -/
def Packet.late (p : Packet) : Bool := p.kind == .plane

/-- The packets that have arrived, in an order that a free value turns; a request to a slice may wait longer, as another
free value says (R54, R355). -/
def State.arrivals (s : State) : List Packet :=
  let ps := s.net.filter fun p => p.arrived && p.space != 3
  let r := Config.freeNat s.freeCtr
  let d := Config.freeNat (s.freeCtr + 1)
  let n := r % max 1 ps.length
  let turned := ps.drop n ++ ps.take n
  (((List.range turned.length).zip turned).filter fun e => !(e.2.slice && bit d e.1)).map Prod.snd

/-- The walks that the walkers complete. -/
def State.dueWalks (s : State) : List Instr :=
  (s.dies.flatMap fun e => (e.2.walks.filter fun w => w.res.isSome).map fun w => Instr.pageWalkComplete e.1 w.dt w.page).eraseDups

/-- Whether an image loader's command ends in this clock is free. -/
def State.dueLoads (s : State) : List Instr :=
  let d := Config.freeNat (s.freeCtr + 2)
  (s.dies.filter fun e => e.2.ilBusy && bit d e.1).flatMap fun e => [.ilLoad e.1, .ilUnload e.1]

/-- Roslor's jobs. -/
def State.dueRoslor (s : State) : List Turn :=
  s.cores.flatMap fun e => (e.2.jobs.filter fun j => s.isRoslor (dieOf e.1) (descImage j.2.desc)).map fun j => Turn.roslor e.1 j.1

/-- What the carousel does in a clock. -/
def State.dueRing (s : State) : List Instr :=
  (if s.ring.rc % 4 = 0 then (List.range 16).map Instr.carouselPassage else [])
    ++ ((s.ring.catches.map Catch.core).eraseDups.map Instr.carouselWeCatch)
    ++ if s.ring.pvalid then [.carouselChangeEffect] else []

/-- What the module links do in a clock. -/
def State.dueLinks (s : State) : List Instr :=
  (s.net.filter fun p => p.arrived && p.space == 3).map (fun p => Instr.linkTransmitAccept (fld p.xmod 13 3))
    ++ (s.links.filter fun e => !e.2.lt.isEmpty).map (fun e => .linkTransmitAccept e.1)
    ++ (s.links.filter fun e => !e.2.inq.isEmpty).map fun e => .linkReceive e.1

/-- The micro-steps of the clock that begins. -/
def State.plan (s : State) : List Turn :=
  let cs := s.cores
  let ps := s.arrivals
  let ev := fun (l : List Instr) => l.map Turn.event
  let each := fun (f : Core → Nat → List Instr) => ev (cs.flatMap fun e => f e.2 e.1)
  ev (.lanternAttest :: s.dueLoads) ++ each Core.dueLoader ++ ev (s.agenda.filter isInput)
    ++ ev s.dueWalks ++ each (fun _ i => [.localFaultFreeze i]) ++ each Core.dueFirst
    ++ each Core.dueWindows ++ (s.routers.map fun e => Turn.router e.1) ++ ev s.dueRing ++ each (fun _ i => [.llsGroupWrite i])
    ++ each Core.dueCommands ++ each (fun c i => (c.xeNext Cmd.arrives).map (Instr.commandStart i))
    ++ ((ps.filter fun p => !p.late).map fun p => Turn.packet p.id)
    ++ each (fun c i => c.dueNext i s.cycles) ++ ev (s.groups.map fun e => .groupPhaseComplete e.1)
    ++ s.dueRoslor ++ (cs.flatMap fun e => e.2.dueIssue e.1)
    ++ ((ps.filter Packet.late).map fun p => Turn.packet p.id) ++ each Core.dueLast ++ ev s.dueLinks
    ++ ev (if s.hotDie.isSome then [.safetyTrip] else [])

/-- The next clock; after the safety trip nothing moves but what the host does to BAR0 and reset (R411). -/
def State.newClock (s : State) : State :=
  if s.trip then { s with todo := (s.agenda.filter tripInput).map .event, agenda := [] }
  else
    let s1 := s.endClock
    { s1 with todo := s1.plan, agenda := [], freeCtr := s.freeCtr + 4 }

/-! ### Streams that could issue (R97, R101) -/

/-- Whether stream slot i of an engine would issue, or trap, if the engine chose it now. -/
def State.wouldIssue (s : State) (cid : Nat) (e : Eng) (i : Nat) : Bool :=
  let done := fun (s : State) =>
    let t := (s.core cid).stream (skey e i)
    t.issued || t.st != .live
  match s.tryStream cid e i (List.range (slotsOf e)) with
  | .idle s1 => done s1
  | .run x s1 => match exec x s1 with
    | .next s2 => done s2
    | .fault _ => true
    | .refused _ => true

/-- At an engine's first turn of a clock, where not every stream that may issue will: which of them are ELIGIBLE, so that the age of
those that do not issue advances (R101). -/
def State.markReady (s : State) (cid : Nat) (e : Eng) : State :=
  let ks := (List.range (slotsOf e)).filter fun i => s.eligible cid (skey e i)
  if ks.length < 2 && !(s.candidates cid e []).isEmpty then s
  else (ks.filter (s.wouldIssue cid e)).foldl (fun s1 i => s1.updCore cid fun c => c.updStream (skey e i) fun t =>
    { t with ready := true }) s

end Sys2Proof.Machine
end

