-- ==== Sys2Proof/Machine/Roslor.lean ====
section
/-!
DEFINITION. Sys2Proof/Machine/Roslor.lean: the Roslor firmware as a job of the module (R274 to R283, R303, R304): the command
block, COMPILE at every level, PATCH, ADAPT, and the publication of their pages. What the spec fixes of the firmware is what a
command reads and writes; its own words are not modelled (log 18).
-/

namespace Sys2Proof.Machine

/-! ### The command (R274) -/

/-- A command block. ok says that its layout holds. -/
structure RosCmd where
  op : Nat
  level : Nat
  flags : Nat
  slack : Nat
  segrows : Nat
  segtp : Nat
  segsem : Nat
  src : Nat
  root : Nat
  codeva : Nat
  hooks : Nat
  nhooks : Nat
  npool : Nat
  pool : Nat
  out : Nat
  ok : Bool
  deriving DecidableEq, Repr

/-- The command block at a device physical address. SEGTP may name no engine that a push of WE cannot reach (log 18). -/
def rosCmd (m : Memory) (a : Nat) : RosCmd :=
  let f := fun (o n : Nat) => rdLe m (a + o) n
  let op := f 0 1
  let rows := f 4 2
  let tp := f 6 1
  { op := op, level := f 1 1, flags := f 2 1, slack := f 3 1, segrows := if rows = 0 then 128 else rows, segtp := tp
    segsem := f 7 1, src := f 8 8, root := f 16 8, codeva := f 24 8, hooks := f 32 8, nhooks := f 40 4, npool := f 44 4
    pool := f 48 8, out := f 56 8
    ok := 1 ≤ op && op ≤ 3 && f 1 1 ≤ (if op = 1 then 3 else 0) && f 2 1 < 4 && f 3 1 < 8 && rows ≤ 128
      && tp < 8 && tp != 3 && tp != 6 && (rdBytes m (a + 64) 64).all (· == 0)
      && (op == 2 || (f 24 8 % 2 ^ 18 == 0 && f 24 8 < 2 ^ 48)) }

def RosCmd.transpose (c : RosCmd) : Bool := bit c.flags 0

/-- A command's failure: STATUS and INDEX (R277). -/
abbrev RosErr := Nat × Nat

/-! ### Weight images and hook tables (R275, R276) -/

/-- A weight image: mode, columns, and each row's exponent with its stored entries as (column, code). -/
structure WImage where
  mode : WMode
  cols : Nat
  rows : List (Int × List (Nat × Nat))
  deriving DecidableEq, Repr

/-- Whether columns strictly ascend below n. -/
def ascends (n : Nat) : List Nat → Bool
  | [] => true
  | [a] => a < n
  | a :: b :: r => a < b && ascends n (b :: r)

/-- Row i of an image whose arrays lie at the given addresses. -/
def rosRow (m : Memory) (rp ci cd rx nrows n nnz i : Nat) : Except RosErr (Int × List (Nat × Nat)) :=
  let lo := rdLe m (rp + 4 * i) 4
  let hi := rdLe m (rp + 4 * (i + 1)) 4
  let e := sextN 8 (rdLe m (rx + i) 1)
  let es := (List.range (min hi nnz - lo)).map fun k => (rdLe m (ci + 2 * (lo + k)) 2, rdLe m (cd + lo + k) 1)
  if (i == 0 && lo != 0) || hi < lo || (i + 1 == nrows && hi != nnz) || e < -64 || 63 < e || !ascends n (es.map Prod.fst) then
    .error (2, i)
  else .ok (e, es)

/-- The weight image at a device physical address. -/
def rosImage (m : Memory) (a : Nat) : Except RosErr WImage :=
  let f := fun (o n : Nat) => rdLe m (a + o) n
  let r := f 8 4
  let n := f 12 4
  if f 0 4 != 0x53574C52 || f 4 2 != 1 || 2 ≤ f 6 1 || f 7 1 != 0 || f 20 4 != 0 || f 56 8 != 0
      || r = 0 || 2 ^ 20 < r || n = 0 || 512 < n then .error (2, 0)
  else
    match (List.range r).mapM (rosRow m (f 24 8) (f 32 8) (f 40 8) (f 48 8) r n (f 16 4)) with
    | .error e => .error e
    | .ok rows => .ok ⟨if f 6 1 = 0 then .i8 else .pw2, n, rows⟩

/-- The start hook and the hooks of rows, from a table of n entries for a matrix of the given rows. -/
structure RosHooks where
  start : Option Nat
  rows : List (Nat × Nat)
  deriving DecidableEq, Repr

/-- Entries i on of a hook table; last is one past the last row named. -/
def rosHooksFrom (m : Memory) (a rows : Nat) : Nat → Nat → Nat → Except RosErr RosHooks
  | 0, _, _ => .ok ⟨none, []⟩
  | n + 1, i, last =>
    let v := rdLe m (a + 8 * i) 8
    let r := fld v 0 32
    let h := fld v 32 12
    if 2 ^ 44 ≤ v then .error (5, i)
    else if r = 2 ^ 32 - 1 then
      if i != 0 then .error (5, i)
      else match rosHooksFrom m a rows n (i + 1) last with
        | .error e => .error e
        | .ok x => .ok { x with start := some h }
    else if r < last || rows ≤ r then .error (5, i)
    else match rosHooksFrom m a rows n (i + 1) (r + 1) with
      | .error e => .error e
      | .ok x => .ok { x with rows := (r, h) :: x.rows }

def rosHooks (m : Memory) (c : RosCmd) (rows : Nat) : Except RosErr RosHooks := rosHooksFrom m c.hooks rows c.nhooks 0 0

/-! ### Bundles of a row (R278 to R280) -/

/-- A term of compiled code: column, shift and code. -/
structure RosTerm where
  col : Nat
  sh : Nat
  code : Nat
  deriving DecidableEq, Repr

def noTok : WHead := ⟨7, false, false⟩

/-- A nonzero code as it is written: PW2 codes in canonical form (R35, R278). -/
def rosCode (m : WMode) (code : Nat) : Option Nat :=
  match m with
  | .i8 => if code = 0 then none else some code
  | .pw2 => if pw2Units code = 0 then none else some ((pw2Canon (pw2Units code)).getD code)

/-- Terms laid out bank by bank (R278): bundle b holds in slot j the b-th of bank j's terms, with n bundles more than the
largest bank count. -/
def bankSlots (n : Nat) (ts : List (Nat × Nat)) : List WSlots :=
  let banks := (List.range 16).map fun j => (ts.filter fun t => t.1 % 16 == j).mergeSort fun a b => a.1 ≤ b.1
  let most := (banks.map List.length).foldl max 0
  (List.range (most + n)).map fun b => banks.map fun bk => (bk[b]?).map fun t => ⟨t.1 / 16, t.2⟩

/-- WT bundles of one shift. -/
def wtBundles (m : WMode) (sh n : Nat) (ts : List RosTerm) : List Instr :=
  (bankSlots n (ts.map fun t => (t.col, t.code))).map fun sl => .wt noTok m sh sl

def nullBundle (m : WMode) : Instr := .wt noTok m 0 (List.replicate 16 none)

/-- The term bundles of a row at level 0. tr says that the code is transposed: one group for each shift, and the slack behind
them (R279). -/
def levelZero (m : WMode) (tr : Bool) (slack : Nat) (ts : List RosTerm) : List Instr :=
  if tr then
    ((List.range 32).flatMap fun d => wtBundles m d 0 (ts.filter fun t => t.sh == d)) ++ List.replicate slack (nullBundle m)
  else wtBundles m 0 slack ts

/-- The term bundles of a row with the terms that share a code and a shift gathered into WG bundles (R280). -/
def gathered (m : WMode) (ts : List RosTerm) : List Instr :=
  let keys := (ts.map fun t => (t.sh, t.code)).eraseDups
  let group := fun (k : Nat × Nat) => ts.filter fun t => t.sh == k.1 && t.code == k.2
  let wide := keys.filter fun k => 2 ≤ (group k).length
  let rest := ts.filter fun t => !wide.contains (t.sh, t.code)
  (wide.flatMap fun k => (bankSlots 0 ((group k).map fun t => (t.col, 0))).map fun sl => Instr.wg noTok m k.2 k.1 sl)
    ++ levelZero m true 0 rest

/-- A factor as a sum of signed columns. -/
abbrev Factors := SMap (List (Nat × Int))

/-- The products that a bundle adds to its row, as column and value, and the factors behind it; none for a bundle that no
level may use in a row: these levels reserve no slack, so a bundle without a term is none of theirs. -/
def bundleProducts (level : Nat) (fs : Factors) (i : Instr) : Option (List (Nat × Int) × Factors) :=
  match i with
  | .wt h m d sl =>
    if h = noTok && !(validSlots sl).isEmpty then some ((slotCols sl).map fun p => (p.1, weightVal m p.2 d), fs) else none
  | .wg h m code d sl =>
    if h = noTok && 1 ≤ level && !(validSlots sl).isEmpty then some ((slotCols sl).map fun p => (p.1, weightVal m code d), fs) else none
  | .wf h acc k sl =>
    if h = noTok && 2 ≤ level && !acc && k < 16 && (slotCols sl).all fun p => p.2 == 1 || p.2 == 255 then
      some ([], mput [] k ((slotCols sl).map fun p => (p.1, sextN 8 p.2)) fs)
    else none
  | .wtf h m d sl =>
    if h = noTok && 2 ≤ level && !(validSlots sl).isEmpty then
      some ((validSlots sl).flatMap fun p =>
        (mget [] fs p.2.off).map fun e => (e.1, e.2 * weightVal m p.2.code d), fs)
    else none
  | _ => none

/-- Whether a bundle uses a factor that the bundle before it builds, and so would read what the factor held before (R291). -/
def tooSoon : Instr → Instr → Bool
  | .wf _ _ k _, .wtf _ _ _ sl => (validSlots sl).any fun p => p.2.off == k
  | _, _ => false

/-- The products of a row's bundles in order. -/
def rowProducts (level : Nat) : Factors → List Instr → Option (List (Nat × Int) × Factors)
  | fs, [] => some ([], fs)
  | fs, i :: r =>
    match (if r.head?.any (tooSoon i) then none else bundleProducts level fs i) with
    | none => none
    | some (p, fs1) =>
      match rowProducts level fs1 r with
      | none => none
      | some (q, fs2) => some (p ++ q, fs2)

/-- The term bundles of a row at levels 1 to 3 are the compiler's choice among those with the row's products: a free value
where it is one of them, else terms gathered by code (log 18). -/
def chosenRow (m : WMode) (level seed i : Nat) (fs : Factors) (ts : List RosTerm) : List Instr × Factors :=
  let own := (Config.roslorWords seed i).filterMap fun w => match decodeWord .we false w with
    | .ok x => some x
    | .error _ => none
  let want := ts.map fun t => (t.col, weightVal m t.code t.sh)
  match rowProducts level fs own with
  | some (p, fs1) => if p.isPerm want then (own, fs1) else (gathered m ts, fs)
  | none => (gathered m ts, fs)

/-! ### COMPILE (R278 to R280, R303) -/

/-- The rows that are compiled: En and the terms of each, those of W or, with TRANSPOSE, of its columns. -/
def rosRows (c : RosCmd) (w : WImage) : Except RosErr (List (Int × List RosTerm)) :=
  let keep := fun (es : List (Nat × Nat)) => es.filterMap fun e => (rosCode w.mode e.2).map fun x => (e.1, x)
  if !c.transpose then .ok (w.rows.map fun r => (r.1, (keep r.2).map fun e => ⟨e.1, 0, e.2⟩))
  else if 512 < w.rows.length then .error (2, 512)
  else
    let rows := (List.range w.rows.length).zip (w.rows.map fun r => (r.1, keep r.2))
    (List.range w.cols).mapM fun col =>
      let es := rows.filterMap fun r => (r.2.2.find? fun e => e.1 == col).map fun e => (r.1, r.2.1, e.2)
      let en := ((es.map fun e => e.2.1).min?).getD 0
      if es.any fun e => 31 < e.2.1 - en then .error (4, col)
      else .ok (en, es.map fun e => ⟨e.1, (e.2.1 - en).toNat, e.2.2⟩)

/-- A row's code: opening WROW, term bundles, hook and closing WROW. -/
def rowCode (en : Int) (bs : List Instr) (hook : Option Nat) (f : WFlush) : List Instr :=
  [.wrow noTok .none true en] ++ bs ++ (hook.toList.map fun n => .whook noTok n) ++ [.wrow noTok f false 0]

/-- What stands between two segments. -/
def segCode (c : RosCmd) : List Instr :=
  .wsegKeep (if c.segtp = 7 then noTok else ⟨c.segtp, false, true⟩)
    :: (if c.segsem = 0xFF then [] else [.wwait noTok c.segsem 1 0 none])

/-- The code of rows i on, one list for each row with the boundary behind it. -/
def rosBody (c : RosCmd) (m : WMode) (hk : RosHooks) (seed n : Nat) :
    Nat → Factors → List (Int × List RosTerm) → List (List Instr)
  | _, _, [] => []
  | i, fs, (en, ts) :: r =>
    let f := if bit c.flags 1 then WFlush.add else WFlush.replace
    let (bs, fs1) := if c.level = 0 then (levelZero m c.transpose c.slack ts, fs) else chosenRow m c.level seed i fs ts
    let ends := (i + 1) % c.segrows == 0 && i + 1 != n
    (rowCode en bs (mlook i hk.rows) f ++ if ends then segCode c else [])
      :: rosBody c m hk seed n (i + 1) (if ends && c.level < 3 then [] else fs1) r

/-- Bundles placed one after another from an address. -/
def placed (a : Nat) (is : List Instr) : List (Nat × List Byte) :=
  ((List.range is.length).zip is).map fun p => (a + 32 * p.1, encodeBytes .we p.2)

/-- The next 256 KiB boundary at or past an address. -/
def pageUp (a : Nat) : Nat := (a + 2 ^ 18 - 1) / 2 ^ 18 * 2 ^ 18

/-- Addresses of the rows of a body that begins at a, by row. -/
def rowLocs : Nat → Nat → List (List Instr) → List (Nat × Nat)
  | _, _, [] => []
  | i, a, r :: rs => (i, a) :: rowLocs (i + 1) (a + 32 * r.length) rs

/-- COMPILE. -/
def rosCompile (m : Memory) (c : RosCmd) (seed : Nat) : Except RosErr RosOut :=
  match rosImage m c.src with
  | .error e => .error e
  | .ok w =>
    match rosRows c w with
    | .error e => .error e
    | .ok rows =>
      match rosHooks m c rows.length with
      | .error e => .error e
      | .ok hk =>
        let start := hk.start.toList.map fun n => Instr.whook noTok n
        let body := rosBody c w.mode hk seed rows.length 0 [] rows
        let is := start ++ body.flatten ++ [.wend noTok]
        .ok ⟨placed c.codeva is, c.codeva, rows.length, is.length, pageUp (c.codeva + 32 * is.length), 0, 0,
          rowLocs 0 (c.codeva + 32 * start.length) body⟩

/-! ### An instruction space (R264, R282) -/

/-- The NEXT of a table entry, if it is valid. -/
def nextOf (e : Nat) : Option Nat := if bit e 63 then some (fld e 0 27 * 2 ^ 13) else none

/-- Entry i of a table. -/
def entryOf (m : Memory) (t : Option Nat) (i : Nat) : Nat := t.elim 0 fun a => rdLe m (a + 8 * i) 8

/-- The level-2 table of level-1 entry k, and the leaf table of level-2 entry k (numbered through the space). -/
def levelTwo (m : Memory) (l1 k : Nat) : Option Nat := nextOf (entryOf m (some l1) k)
def leafTable (m : Memory) (l1 k : Nat) : Option Nat := nextOf (entryOf m (levelTwo m l1 (k / 1024)) (k % 1024))

/-- The physical page of virtual page vp, if it is mapped. -/
def pageOf (m : Memory) (l1 vp : Nat) : Option Nat :=
  let e := entryOf m (leafTable m l1 (vp / 1024)) (vp % 1024)
  if bit e 63 then some (fld e 0 22 * 2 ^ 18) else none

/-- The 32 bytes of a bundle at a virtual address, through what has been rewritten. -/
def bundleAt (m : Memory) (l1 : Nat) (new : List (Nat × List Byte)) (va : Nat) : Except DecodeErr Instr :=
  decode .we false ((mlook va new).getD
    ((pageOf m l1 (va / 2 ^ 18)).elim [] fun p => rdBytes m (p + va % 2 ^ 18) 32))

/-- n bytes of memory copied, or cleared where there is nothing to copy. -/
def copyMem (m : Memory) (src : Option Nat) (dst n : Nat) : Memory :=
  let m1 := mkeep (fun a => !(dst ≤ a && a < dst + n)) m
  match src with
  | none => m1
  | some a =>
    mbulk Memory.blank ((mkeep (fun x => a ≤ x && x < a + n) m).map fun e => (e.1 - a + dst, e.2)) m1

/-- Memory after a publication, the new level-1 table, the pool pages taken and the pages no longer mapped. -/
structure RosPub where
  mem : Memory
  l1 : Nat
  used : Nat
  retired : List Nat
  deriving DecidableEq, Repr

/-- Copy-on-write of every page and table that new code changes (R282): code pages take the front of the pool in ascending
order, then the tables, 32 to a page, level 2, leaves, level 1 (log 18). -/
def publish (m : Memory) (c : RosCmd) (l1 : Nat) (code : List (Nat × List Byte)) : Except RosErr RosPub :=
  let vps := (code.map fun e => e.1 / 2 ^ 18).eraseDups.mergeSort
  let k1s := (vps.map (· / 2 ^ 20)).eraseDups
  let k2s := (vps.map (· / 2 ^ 10)).eraseDups
  let need := vps.length + (1 + k1s.length + k2s.length + 31) / 32
  if c.npool < need then .error (3, 0)
  else
    let page := fun (i : Nat) => rdLe m (c.pool + 8 * i) 8 % 2 ^ 40 / 2 ^ 18 * 2 ^ 18
    let tab := fun (i : Nat) => page (vps.length + i / 32) + 8192 * (i % 32)
    let at1 := fun k => tab (k1s.idxOf k)
    let at2 := fun k => tab (k1s.length + k2s.idxOf k)
    let top := tab (k1s.length + k2s.length)
    let m1 := k1s.foldl (fun x k => copyMem x (levelTwo m l1 k) (at1 k) 8192) (copyMem m (some l1) top 8192)
    let m2 := k2s.foldl (fun x k => copyMem x (leafTable m l1 k) (at2 k) 8192) m1
    let m3 := k1s.foldl (fun x k => wrLe x (top + 8 * k) 8 (2 ^ 63 + at1 k / 2 ^ 13)) m2
    let m4 := k2s.foldl (fun x k => wrLe x (at1 (k / 1024) + 8 * (k % 1024)) 8 (2 ^ 63 + at2 k / 2 ^ 13)) m3
    let m5 := ((List.range vps.length).zip vps).foldl (fun x p =>
      wrLe (copyMem x (pageOf m l1 p.2) (page p.1) (2 ^ 18)) (at2 (p.2 / 1024) + 8 * (p.2 % 1024)) 8
        (3 * 2 ^ 62 + page p.1 / 2 ^ 18)) m4
    let m6 := code.foldl (fun x e => wrBytes x (page (vps.idxOf (e.1 / 2 ^ 18)) + e.1 % 2 ^ 18) e.2) m5
    .ok ⟨m6, top, need, vps.filterMap (pageOf m l1)⟩

/-- Whether none of the pages of new code is mapped yet. -/
def unmapped (m : Memory) (l1 : Nat) (code : List (Nat × List Byte)) : Bool :=
  code.all fun e => (pageOf m l1 (e.1 / 2 ^ 18)).isNone

/-! ### PATCH (R281, R303) -/

/-- A row of compiled code: En, the term bundles with their addresses, the hook, the flush of its closing WROW, and the address
behind it. -/
structure RosRowCode where
  en : Int
  terms : List (Nat × Instr)
  hook : Option Nat
  flush : WFlush
  next : Nat
  deriving DecidableEq, Repr

/-- The bundles of a row behind its opening WROW, at most fuel of them. -/
def rowTail (at_ : Nat → Except DecodeErr Instr) (en : Int) : Nat → Nat → Option RosRowCode
  | 0, _ => none
  | n + 1, a =>
    match at_ a with
    | .error _ => none
    | .ok i =>
      let more := fun (f : RosRowCode → RosRowCode) => (rowTail at_ en n (a + 32)).map f
      match i with
      | .wt _ _ _ _ => more fun r => { r with terms := (a, i) :: r.terms }
      | .wg _ _ _ _ _ => more fun r => { r with terms := (a, i) :: r.terms }
      | .wf _ _ _ _ => more fun r => { r with terms := (a, i) :: r.terms }
      | .wtf _ _ _ _ => more fun r => { r with terms := (a, i) :: r.terms }
      | .whook _ h => more fun r => { r with hook := some h }
      | .wrow _ f o _ => if o then none else some ⟨en, [], none, f, a + 32⟩
      | _ => none

/-- The row whose opening WROW stands at an address. -/
def rowAt (at_ : Nat → Except DecodeErr Instr) (a : Nat) : Option RosRowCode :=
  match at_ a with
  | .ok (.wrow _ .none true en) => rowTail at_ en 8192 (a + 32)
  | _ => none

/-- Whether a bundle is one of those that only levels 1 to 3 write. -/
def isHigher : Instr → Bool
  | .wg _ _ _ _ _ => true | .wf _ _ _ _ => true | .wtf _ _ _ _ => true
  | _ => false

/-- The mode of a term bundle. -/
def modeOf : Instr → Option WMode
  | .wt _ m _ _ => some m | .wg _ m _ _ _ => some m | .wtf _ m _ _ => some m
  | _ => none

/-- A code with the sign of its value changed. -/
def negCode (m : WMode) (code : Nat) : Nat :=
  match m with
  | .i8 => uI 8 (-(sextN 8 code))
  | .pw2 => (pw2Canon (-(pw2Units code))).getD code

/-- The terms that a bundle holds, and the factors behind it. -/
def bundleTerms (fs : Factors) (i : Instr) : List RosTerm × Factors :=
  match i with
  | .wt _ _ d sl => ((slotCols sl).map fun p => ⟨p.1, d, p.2⟩, fs)
  | .wg _ _ code d sl => ((slotCols sl).map fun p => ⟨p.1, d, code⟩, fs)
  | .wf _ _ k sl => ([], mput [] k ((slotCols sl).map fun p => (p.1, sextN 8 p.2)) fs)
  | .wtf _ m d sl =>
    ((validSlots sl).flatMap fun p => (mget [] fs p.2.off).map fun e =>
      ⟨e.1, d, if e.2 = 1 then p.2.code else negCode m p.2.code⟩, fs)
  | _ => ([], fs)

/-- The terms of bundles in order, from given factors. -/
def allTerms : Factors → List Instr → List RosTerm
  | _, [] => []
  | fs, i :: r =>
    let x := bundleTerms fs i
    x.1 ++ allTerms x.2 r

/-- The factors behind bundles in order. -/
def factorsAfter (is : List Instr) : Factors := is.foldl (fun fs i => (bundleTerms fs i).2) []

/-- A patch list: compiled row, column of the row, code; a later entry overrides an earlier one, and an entry of zeros ends the
list (log 18). With TRANSPOSE, coordinates of W change places. -/
def patchList (m : Memory) (a rows : Nat) (tr : Bool) : Nat → Nat → Except RosErr (List (Nat × Nat × Nat))
  | 0, _ => .ok []
  | n + 1, i =>
    let v := rdLe m (a + 8 * i) 8
    let r := fld v 0 32
    let col := fld v 32 16
    let (x, y) := if tr then (col, r) else (r, col)
    if v = 0 then .ok []
    else if 2 ^ 56 ≤ v || rows ≤ x || 512 ≤ y then .error (6, i)
    else
      match patchList m a rows tr n (i + 1) with
      | .error e => .error e
      | .ok l => .ok (if l.any fun e => e.1 == x && e.2.1 == y then l else (x, y, fld v 48 8) :: l)

/-- What a slot holds for a column, in a WT. -/
def slotOf? (i : Instr) (col : Nat) : Option WSlot :=
  match i with
  | .wt _ _ _ sl => ((sl[col % 16]?).join).filter fun t => t.off == col / 16
  | _ => none

/-- A WT with a slot replaced. -/
def setSlot (i : Instr) (j : Nat) (v : Option WSlot) : Instr :=
  match i with
  | .wt h m d sl => .wt h m d (sl.set j v)
  | _ => i

/-- Whether slot j of a WT of shift d is null. -/
def nullSlot (d j : Nat) (i : Instr) : Bool :=
  match i with
  | .wt _ _ e sl => e == d && ((sl[j]?).join).isNone && j < sl.length
  | _ => false

/-- One patched coordinate in a row's bundles; false where the row overflows. -/
def patchOne (col d : Nat) (code : Option Nat) (ts : List (Nat × Instr)) : List (Nat × Instr) × Bool :=
  let has := fun (e : Nat × Instr) => (slotOf? e.2 col).isSome
  let put := fun (v : Option Nat) (e : Nat × Instr) => (e.1, setSlot e.2 (col % 16) (v.map fun x => ⟨col / 16, x⟩))
  if ts.any has then (lupd has (put code) ts, true)
  else
    match code with
    | none => (ts, true)
    | some _ =>
      let free := fun (e : Nat × Instr) => nullSlot d (col % 16) e.2
      if ts.any free then (lupd free (put code) ts, true) else (ts, false)

/-- What PATCH knows of a compilation: its main code, whether it is one of levels 1 to 3 (R281), and its mode. -/
structure RosMain where
  entry : Nat
  code : List (Nat × Instr)
  higher : Bool
  mode : WMode
  deriving DecidableEq, Repr

/-- The state of a PATCH: bundles rewritten, where the next overflow copy goes, and the locators it has moved. -/
structure RosPatch where
  new : List (Nat × Instr)
  ovfl : Nat
  locs : List (Nat × Nat)
  deriving DecidableEq, Repr

/-- The target of a plain WJMP at an address. -/
def jmpTo? (a : Nat) (i : Instr) : Option Nat :=
  match i with
  | .wjmp _ off => some ((a : Int) + 32 * off).toNat
  | _ => none

/-- A WJMP from one address to another. -/
def jmpFrom (a b : Nat) : Instr := .wjmp noTok (((b : Int) - a) / 32)

/-- The exponent of row r of W as the compiled code of its transpose shows it: any column's En plus the shift of r's term. -/
def rowExp (rows : List RosRowCode) (r : Nat) : Option Int :=
  rows.findSome? fun x => x.terms.findSome? fun e => match e.2 with
    | .wt _ _ d _ => (slotOf? e.2 r).map fun _ => x.en + d
    | _ => none

/-- The shift of a new term of column col in a row: 0, or with TRANSPOSE the one that its row of W has elsewhere in the code;
where the code shows none, a free value (log 18). -/
def newShift (c : RosCmd) (seed : Nat) (all : List RosRowCode) (x : RosRowCode) (col : Nat) : Int :=
  if !c.transpose then 0
  else
    match rowExp all col with
    | some e => e - x.en
    | none => ((Config.freeNat (seed + col) % 32 : Nat) : Int)

/-- Coordinates of one row applied in ascending column order; the terms that found no slot are left over. -/
def patchCols (c : RosCmd) (m : WMode) (shift : Nat → Int) :
    List (Nat × Nat) → List (Nat × Instr) → Option (List (Nat × Instr) × List RosTerm)
  | [], ts => some (ts, [])
  | (col, raw) :: r, ts =>
    let d := shift col
    let code := rosCode m raw
    let has := ts.any fun e => (slotOf? e.2 col).isSome
    if !has && code.isSome && (d < 0 || 31 < d) then none
    else
      let (ts1, ok) := patchOne col d.toNat code ts
      match patchCols c m shift r ts1 with
      | none => none
      | some (ts2, left) => some (ts2, if ok then left else ⟨col, d.toNat, code.getD 0⟩ :: left)

/-- One touched row. -/
def patchRow (c : RosCmd) (mc : RosMain) (seed : Nat) (all : List RosRowCode) (loc : Nat) (x : RosRowCode)
    (after : Except DecodeErr Instr) (row : Nat) (cs : List (Nat × Nat)) (p : RosPatch) : Except RosErr RosPatch :=
  let m := (x.terms.findSome? fun e => modeOf e.2).getD mc.mode
  let copy := !(mc.code.any fun e => e.1 == loc)
  let cont := if copy then (match after with
      | .ok i => (jmpTo? x.next i).getD x.next
      | .error _ => x.next) else x.next
  let shift := newShift c seed all x
  -- every touched row of levels 1 to 3 overflows, one that stands in a copy already among them
  let old : Option (Option (List RosTerm)) := if mc.higher then
      let before := if copy then [] else factorsAfter ((mc.code.filter fun e => e.1 < loc).map Prod.snd)
      let ts := allTerms before (x.terms.map Prod.snd)
      if cs.any fun e => !(ts.any fun t => t.col == e.1) && (rosCode m e.2).isSome && (shift e.1 < 0 || 31 < shift e.1) then
        some none
      else some <| some ((ts.filter fun t => !(cs.any fun e => e.1 == t.col))
        ++ cs.filterMap fun e => (rosCode m e.2).map fun k => ⟨e.1, (((ts.find? fun t => t.col == e.1).map fun t => t.sh).getD
          (shift e.1).toNat), k⟩)
    else none
  let made : Option (List (Nat × Instr) × Option (List RosTerm)) :=
    match old with
      | some ts => ts.map fun y => (x.terms, some y)
      | none => (patchCols c m shift cs x.terms).map fun r =>
        (r.1, if r.2.isEmpty then none else some (allTerms [] (r.1.map Prod.snd) ++ r.2))
  match made with
  | none => .error (4, row)
  | some (ts, none) =>
    .ok { p with new := p.new ++ (ts.filter fun e => !(x.terms.contains e)) }
  | some (_, some ts) =>
    let is := rowCode x.en (levelZero m c.transpose c.slack ts) x.hook x.flush
    let size := 32 * (is.length + 1)
    let a := if p.ovfl % 2 ^ 18 != 0 && 2 ^ 18 < p.ovfl % 2 ^ 18 + size then pageUp p.ovfl else p.ovfl
    let orig := if copy then (mc.code.find? fun e => jmpTo? e.1 e.2 == some loc).map Prod.fst else some loc
    match orig with
    | none => .error (8, row)
    | some o =>
      let bs := is ++ [jmpFrom (a + 32 * is.length) cont]
      .ok ⟨p.new ++ ((List.range bs.length).zip bs).map (fun e => (a + 32 * e.1, e.2)) ++ [(o, jmpFrom o a)],
        a + size, p.locs ++ [(row, a)]⟩

/-- The touched rows in ascending order. -/
def patchRows (c : RosCmd) (mc : RosMain) (seed : Nat) (at_ : Nat → Except DecodeErr Instr) (all : List RosRowCode)
    (loc : Nat → Nat) (es : List (Nat × Nat × Nat)) : List Nat → RosPatch → Except RosErr RosPatch
  | [], p => .ok p
  | r :: rs, p =>
    match rowAt at_ (loc r) with
    | none => .error (8, r)
    | some x =>
      let cs := ((es.filter fun e => e.1 == r).map Prod.snd).mergeSort fun a b => a.1 ≤ b.1
      match patchRow c mc seed all (loc r) x (at_ x.next) r cs p with
      | .error e => .error e
      | .ok p1 => patchRows c mc seed at_ all loc es rs p1

/-- PATCH of the compilation whose record OUT names, of the given level where Roslor knows it. -/
def rosPatch (m : Memory) (c : RosCmd) (level l1 seed : Nat) : Except RosErr RosOut :=
  let entry := rdLe m (c.out + 8) 8
  let rows := rdLe m (c.out + 16) 4
  let n := rdLe m (c.out + 20) 4
  let at_ := bundleAt m l1 []
  if (pageOf m l1 (entry / 2 ^ 18)).isNone then .error (8, 0)
  else
    match ((List.range n).mapM fun i => match at_ (entry + 32 * i) with
        | .ok x => some (entry + 32 * i, x)
        | .error _ => none) with
    | none => .error (8, 0)
    | some code =>
      match patchList m c.src rows c.transpose (2 ^ 22) 0 with
      | .error e => .error e
      | .ok es =>
        let mc : RosMain := ⟨entry, code, 0 < level || code.any fun e => isHigher e.2, (code.findSome? fun e => modeOf e.2).getD .i8⟩
        let loc := fun (r : Nat) => rdLe m (c.out + 64 + 8 * r) 8
        let all := (List.range rows).filterMap fun r => rowAt at_ (loc r)
        let rs := (es.map Prod.fst).eraseDups.mergeSort
        match patchRows c mc seed at_ all loc es rs ⟨[], rdLe m (c.out + 24) 8, []⟩ with
        | .error e => .error e
        | .ok p =>
          .ok ⟨p.new.map fun e => (e.1, encodeBytes .we e.2), entry, rows, n, p.ovfl, 0, 0, p.locs⟩

/-! ### ADAPT (R283, R304) -/

/-- The WF bundles that build factor k from INT8 coefficients; a rank without any gets one that clears it (log 18). -/
def wfBundles (k : Nat) (vs : List (Nat × Nat)) : List Instr :=
  let sls := bankSlots 0 vs
  let sls := if sls.isEmpty then [List.replicate 16 none] else sls
  ((List.range sls.length).zip sls).map fun p => .wf noTok (p.1 != 0) k p.2

/-- The WTFs of a row from its r codes and shifts: each slot with the code as U has it. -/
def wtfBundles (m : WMode) (us : List (Nat × Nat)) : List Instr :=
  let ds := (us.map Prod.snd).eraseDups.mergeSort
  ds.map fun d => .wtf noTok m d ((List.range 16).map fun k => match us[k]? with
    | some u => if u.2 = d then some ⟨16 + k, u.1⟩ else none
    | none => none)

/-- ADAPT. -/
def rosAdapt (m : Memory) (c : RosCmd) : Except RosErr RosOut :=
  let f := fun (o n : Nat) => rdLe m (c.src + o) n
  let r := f 0 1
  let mode := if f 1 1 = 0 then WMode.i8 else .pw2
  let start := f 2 2
  let n := f 4 4
  let rows := f 8 4
  if r = 0 || 16 < r || 2 ≤ f 1 1 || 4096 ≤ start || n = 0 || 512 < n || rows = 0 || 2 ^ 20 < rows then .error (1, 0)
  else
    match rosHooks m c rows with
    | .error e => .error e
    | .ok hk =>
      let u := fun (i : Nat) => (List.range r).map fun k =>
        let a := f 24 8 + 2 * (i * r + k)
        (rdLe m a 1, rdLe m (a + 1) 1)
      match hk.rows.find? fun h => (u h.1).any fun x => 31 < x.2 with
      | some h => .error (1, h.1)
      | none =>
        let nh := ((start :: hk.rows.map Prod.snd).foldl max 0) + 1
        let vlen := (8 * nh + 31) / 32 * 32
        let v := fun (k : Nat) => (List.range n).filterMap fun x =>
          let b := rdLe m (f 16 8 + k * n + x) 1
          if b = 0 then none else some (x, b)
        let first := [Instr.wlink noTok start] ++ ((List.range r).flatMap fun k => wfBundles (16 + k) (v k)) ++ [.wret noTok]
        let parts := hk.rows.map fun h => (h.2, [Instr.wlink noTok h.2] ++ wtfBundles mode (u h.1) ++ [.wret noTok])
        let locs := rowLocs 0 (c.codeva + vlen) (first :: parts.map Prod.snd)
        let at_ := fun (h : Nat) =>
          if h = start then c.codeva + vlen
          else ((List.range parts.length).zip parts).findSome? (fun p => if p.2.1 = h then mlook (p.1 + 1) locs else none)
            |>.getD 0
        let vec := (List.range (vlen / 32)).map fun i =>
          (c.codeva + 32 * i, (List.range 4).flatMap fun j => toBytes 8 (if 4 * i + j < nh then at_ (4 * i + j) else 0))
        let is := first ++ parts.flatMap Prod.snd
        .ok ⟨vec ++ placed (c.codeva + vlen) is, c.codeva + vlen, 0, is.length, 0, c.codeva, nh, []⟩

/-! ### The command as a whole (R277, R282) -/

/-- What a command works out from what it reads: the level-1 table it found, a failure, and what it will publish. -/
def rosRead (s : State) (c : RosCmd) (seed left : Nat) : RosRun :=
  let fail := fun (l1 : Nat) (e : RosErr) => RosRun.mk l1 e ⟨[], 0, 0, 0, 0, 0, 0, []⟩ left
  match (if c.ok then codeRoot s c.root else none) with
  | none => fail 0 (1, 0)
  | some l1 =>
    match (if c.op = 1 then rosCompile s.mem c seed
        else if c.op = 2 then rosPatch s.mem c (mget 0 s.levels c.out) l1 seed else rosAdapt s.mem c) with
    | .error e => fail l1 e
    | .ok o => if c.op != 2 && !unmapped s.mem l1 o.code then fail l1 (7, 0) else ⟨l1, (0, 0), o, left⟩

/-- A command's output on device memory: the publication, the root record in one write, and the output record; a command that
fails writes STATUS, INDEX and USED alone. The publication goes by the tables that the command read, so of two commands that
overlap on one ROOT the later publication stands whole and holds nothing of the other (R282). -/
def rosWrite (m : Memory) (c : RosCmd) (x : RosRun) : Memory :=
  let o := x.out
  let fail := fun (e : RosErr) => wrLe (wrLe (wrLe m c.out 4 e.1) (c.out + 4) 4 e.2) (c.out + 32) 4 0
  if x.err != (0, 0) then fail x.err
  else
    match (if o.code.isEmpty then .ok ⟨m, x.l1, 0, []⟩ else publish m c x.l1 o.code) with
    | .error e => fail e
    | .ok p =>
      let m1 := wrLe p.mem c.root 8 p.l1
      let w := fun (x : Memory) (f : Nat × Nat × Nat) => wrLe x (c.out + f.1) f.2.1 f.2.2
      let m2 := [(0, 4, 0), (4, 4, 0), (8, 8, o.entry), (16, 4, o.rows), (20, 4, o.bundles), (24, 8, o.ovfl),
        (32, 4, p.used), (36, 4, p.retired.length)].foldl w m1
      let m3 := if c.op = 2 then m2
        else [(40, 8, o.hookvec), (48, 2, o.nhook), (50, 8, 0), (58, 6, 0)].foldl w m2
      let m4 := o.locs.foldl (fun x l => wrLe x (c.out + 64 + 8 * l.1) 8 l.2) m3
      ((List.range p.retired.length).zip p.retired).foldl
        (fun x e => wrLe x (c.out + 64 + 8 * (o.rows + e.1)) 8 e.2) m4

/-- Whether job j of a core is Roslor's, and its streams run. -/
def State.roslorRuns (s : State) (cid j : Nat) : Bool :=
  let c := s.core cid
  let b := c.job j
  !c.frozen && (b.st == .running || b.st == .yielding) && s.isRoslor (dieOf cid) (descImage b.desc) && !(c.jobKeys j).isEmpty

/-- The turn of a Roslor job (R274): it reads its command and all that the command works on once that is settled, takes a free
number of clocks (log 18), and then publishes, writes its record and ends its streams. -/
def State.roslorTurn (s : State) (cid j : Nat) : State :=
  let b := (s.core cid).job j
  let c := rosCmd s.mem (descArg b.desc)
  let put := fun (s : State) (r : Option RosRun) => s.updCore cid fun c => c.updJob j fun b => { b with ros := r }
  if !s.roslorRuns cid j then s
  else
    match b.ros with
    | none =>
      if !s.settled (dieOf cid) then s
      else put { s with freeCtr := s.freeCtr + 512 } (some (rosRead s c s.freeCtr (Config.freeNat (s.freeCtr + 511))))
    | some x =>
      if x.left != 0 then put s (some { x with left := x.left - 1 })
      else
        let s1 : State := { put s none with
          mem := rosWrite s.mem c x
          levels := if c.op = 1 && x.err == (0, 0) then mput 0 c.out c.level s.levels else s.levels }
        ((s.core cid).jobKeys j).foldl (fun s k => s.endStream cid k) s1

end Sys2Proof.Machine
end

