-- ==== Sys2Proof/Machine/Step.lean ====
section
/-!
DEFINITION. Sys2Proof/Machine/Step.lean: one step takes the next micro-step of the present clock (log 4): an event, an
engine's turn to issue, a packet or a router; with none left the clock ends and the next one's micro-steps are laid out.
-/

namespace Sys2Proof.Machine

/-- The end of engine e's turn on core c. -/
def endTurn (c : Nat) (e : Eng) : Host.Outcome State Fault Refusal → Host.Outcome State Fault Refusal
  | .next s => .next (s.settleHold c e)
  | .fault r => .fault r
  | .refused r => .refused r

/-- One step of the module. -/
def step (s : State) : Host.Outcome State Fault Refusal :=
  match s.todo with
  | [] => .next s.newClock
  | .event i :: r => exec i { s with todo := r }
  | .packet id :: r => applyTurn id { s with todo := r }
  | .router n :: r => .next (({ s with todo := r } : State).routerTurn n)
  | .roslor c j :: r => .next (({ s with todo := r } : State).roslorTurn c j)
  | .issue c e tried :: r =>
    let s0 : State := { s with todo := r }
    match (if tried.isEmpty then s0.markReady c e else s0).issueTurn c e tried with
    | .idle s1 => endTurn c e (.next s1)
    | .run i s1 => endTurn c e (exec i s1)

/-- The bytes of the table's word w for engine e, as they stand in memory. -/
def tableBytes (e : Eng) (w : Nat) : List Byte := if e = .we then toBytes 32 w else toBytes 8 w

/-- The module with one instruction where an engine of core 0 fetches next (log 5): for the wick core in its memory with
the core frozen, else a running privileged job in slot 0 with a stream at address 0, its translation and its code buffer
line, and that engine's turn as the next micro-step. -/
def State.withFetchWord (s : State) (nbits w : Nat) : State :=
  let e := (tableEng nbits w).getD .sq
  let k := skey e 0
  let c := s.core 0
  let t : Stream := { st := .live, job := 0, pc := 0, rootT := 1 }
  let c1 := { (c.setStream k t) with bubble := [], vaHeld := false, weHeld := false, undo := none, reissue := [], db := [], retires := [] }
  let c2 :=
    if e = .wick then
      { c1 with frozen := true, thaw := false, wickStart := 0, wickMem := wrBytes c1.wickMem 0 (tableBytes e w) }
    else
      { (c1.setJob 0 { st := .running, engmask := 2 ^ e.num, priv := true }) with
        frozen := false, thaw := false, itlb := [⟨1, 0, 2 ^ 63 + 2 ^ 62⟩], code := [(0, leBytes (tableBytes e w))] }
  { (s.setCore 0 c2) with todo := [.issue 0 e [1, 2, 3]] }

end Sys2Proof.Machine
end

