-- ==== Sys2Proof/Safety.lean ====
section
/-!
DEFINITION. Sys2Proof/Safety.lean: what a statement says of a step: that an instruction answers a next state, which core and
stream it acts for, how it ends, and what it leaves alone.
-/

namespace Sys2Proof.Machine

/-- An instruction answers a next state of which P holds. -/
def Completes (i : Instr) (s : State) (P : State → Prop) : Prop := ∃ t, exec i s = .next t ∧ P t

/-- The core that a step acts for. -/
def State.here (s : State) : Core := s.core s.cur.core

/-- The stream that a step acts for. -/
def State.self (s : State) : Stream := s.here.stream s.cur.key

/-- t differs from s in core cid alone, and that core is c. -/
structure CoreStep (s t : State) (cid : Nat) (c : Core) : Prop where
  core : t.core cid = c
  others : ∀ j, j ≠ cid → t.core j = s.core j
  rest : { t with cores := s.cores } = s

/-! ### Issue (R14, R67) -/

/-- A word with head h issues in s: its guard holds, and its tokens are there; c is the core with the popped token taken. -/
def Issues (s : State) (h : Head) (c : Core) : Prop :=
  s.self.guardTrue h = true ∧ (s.here.unpop s.cur.key).tokens s.cur.key h.tp h.pop h.push = .ok c

/-- A weight-code bundle with head h issues in s; c is the core with the popped token taken. -/
def IssuesB (s : State) (h : WHead) (c : Core) : Prop :=
  (s.here.unpop s.cur.key).tokens s.cur.key h.tp h.pop h.push = .ok c

/-- A bundle issues that does not stand at an adapter's entry (R294). -/
def IssuesWe (s : State) (h : WHead) (c : Core) : Prop :=
  let k := (c.stream s.cur.key).we.hook
  IssuesB s h c ∧ (k.act && k.entry) = false

/-- The core when a word with head h has issued and left core c. -/
def State.issued (s : State) (h : Head) (c : Core) (f : Flow) (lat : Nat) : Core :=
  c.finish s.cycles s.self.job s.cur 8 h.tp h.push f lat

/-- The core when a bundle with head h has issued and left core c. -/
def State.issuedB (s : State) (h : WHead) (c : Core) (f : Flow) (lat : Nat) : Core :=
  c.finish s.cycles s.self.job s.cur 32 h.tp h.push f lat

/-- The word i with head h issues, retires after lat clocks and leaves its core as c; nothing else of the module changes. -/
def Runs (i : Instr) (h : Head) (s : State) (c : Core) (f : Flow) (lat : Nat) : Prop :=
  Completes i s fun t => CoreStep s t s.cur.core (s.issued h c f lat)

/-- The bundle i with head h issues, retires after lat clocks and leaves its core as c. -/
def RunsB (i : Instr) (h : WHead) (s : State) (c : Core) (f : Flow) (lat : Nat) : Prop :=
  Completes i s fun t => CoreStep s t s.cur.core (s.issuedB h c f lat)

/-- The word i with head h issues and leaves the module as s1. -/
def Acts (i : Instr) (h : Head) (s s1 : State) (f : Flow) (lat : Nat) : Prop :=
  Completes i s fun t => t = s1.updCore s.cur.core fun c => s.issued h c f lat

/-- The bundle i with head h issues and leaves the module as s1. -/
def ActsB (i : Instr) (h : WHead) (s s1 : State) (f : Flow) (lat : Nat) : Prop :=
  Completes i s fun t => t = s1.updCore s.cur.core fun c => s.issuedB h c f lat

/-- The instruction i traps (R140): its stream's core takes the trap, as it stood before the instruction. -/
def Traps (i : Instr) (s : State) (cause status : Nat) : Prop :=
  Completes i s fun t => t = s.setCore s.cur.core ((s.here.unpop s.cur.key).takeTrap s.cycles s.cur.key cause status)

/-! ### Fetching (R78, R100) -/

/-- The module at the turn of engine e of core cid, r being the turns after it: the first turn of a clock has noted which streams
are ELIGIBLE (R101). -/
def State.atTurn (s : State) (cid : Nat) (e : Eng) (tried : List Nat) (r : List Turn) : State :=
  if tried = [] then ({ s with todo := r } : State).markReady cid e else { s with todo := r }

/-- The next micro-step of s is the turn of engine e of core cid, which chooses the stream of slot; nothing waits, and the
bytes at its pc are bs. s1 is the module with that stream as the step's own. -/
structure Fetches (s : State) (cid : Nat) (e : Eng) (slot : Nat) (bs : List Byte) (s1 : State) : Prop where
  turn : ∃ tried r, s.todo = .issue cid e tried :: r ∧ (s.atTurn cid e tried r).choose cid e tried = some slot
    ∧ s1 = { s.atTurn cid e tried r with cur := ⟨cid, e, slot, tried⟩ }
  free : ((s1.core cid).stream (skey e slot)).wait = .none
  bytes : s1.fetch cid (skey e slot) = .ok bs

/-- A step in which the fetched word of a stream traps (R78): nothing but its core changes, where the engine's results that were
due in this clock land too unless the engine is held (R182, R263). -/
def FetchTraps (s s1 : State) (cid : Nat) (e : Eng) (slot cause op : Nat) : Prop :=
  step s = .next ((s1.setCore cid ((s1.core cid).takeTrap s1.cycles (skey e slot) cause op)).settleHold cid e)

/-! ### Shapes of scalar instructions (R108, R116 to R118) -/

/-- A two-source ALU instruction whose destination takes f of its sources, lat clocks after issue where it is interlocked. -/
def AluTwo (mk : Head → Opnd → Opnd → Opnd → Instr) (lat : Nat) (f : Word → Word → Word) : Prop :=
  ∀ (s : State) (h : Head) (d a b : Opnd) (c : Core), Issues s h c → c.opndCheck s.cur.key [a, b] (some d) = none →
    let l := comLat s.cur.eng lat 1
    Runs (mk h d a b) h s
      ((c.opndPop [a, b]).opndWrite s.cur.key l d (f (c.opndVal s.cur.key a) (c.opndVal s.cur.key b)) 0) .seq l

/-- A one-source ALU instruction; α is what else its word holds. -/
def AluOne {α : Type} (mk : Head → Opnd → Opnd → α → Instr) (f : Word → α → Word) : Prop :=
  ∀ (s : State) (h : Head) (d a : Opnd) (i : α) (c : Core), Issues s h c → c.opndCheck s.cur.key [a] (some d) = none →
    let l := comLat s.cur.eng 1 1
    Runs (mk h d a i) h s ((c.opndPop [a]).opndWrite s.cur.key l d (f (c.opndVal s.cur.key a) i) 0) .seq l

/-- A predicate instruction that sets pD to f of two predicates of its stream. -/
def PredTwo (mk : Head → Nat → Nat → Nat → Instr) (f : Bool → Bool → Bool) : Prop :=
  ∀ (s : State) (h : Head) (d a b : Nat) (c : Core), Issues s h c →
    let t := c.stream s.cur.key
    let l := comLat s.cur.eng 1 1
    Runs (mk h d a b) h s (c.result s.cur.key l (.p d (f (t.getP a) (t.getP b))) 0) .seq l

/-- A comparison of scalars (R118). -/
def CondSpec (c : Cond) (x y : Word) : Prop :=
  match c with
  | .eq => x = y
  | .ne => x ≠ y
  | .lt => x.toInt < y.toInt
  | .ge => y.toInt ≤ x.toInt
  | .ltu => x.toNat < y.toNat
  | .geu => y.toNat ≤ x.toNat

/-! ### Shapes of vector instructions (R229) -/

/-- A vector instruction reads its sources, pops the queues among them and writes one result that lands lat clocks later. -/
def VecRuns (i : Instr) (h : Head) (s : State) (lat : Nat) (d : VDst) (srcs : List VSrc) (out : Stream → VIn → VOut) : Prop :=
  ∀ c : Core, Issues s h c → c.vcheck s.cur.key srcs (VDst.push? d) = none →
    let o := out (c.stream s.cur.key) (c.vread s.cur.key srcs)
    Runs i h s ((c.vpop srcs).vwrite s.cur.key lat d o.lanes o.n o.flags) .seq lat

/-- An element-wise vector instruction: op takes the elements at one place of up to three sources to a code and its flags. -/
def VecEls (i : Instr) (h : Head) (s : State) (lat : Nat) (d : VDst) (srcs : List VSrc) (f : VFmt) (md : ElMode)
    (op : Stream → Nat → Nat → Nat → Nat × Nat) : Prop :=
  VecRuns i h s lat d srcs fun t => elemOut md f srcs.length (op t)

/-- A vector instruction whose result goes to a scalar register or a predicate. -/
def VecScalar (i : Instr) (h : Head) (s : State) (lat : Nat) (srcs : List VSrc) (out : Stream → VIn → Land) (fl : VIn → Nat) :
    Prop :=
  ∀ c : Core, Issues s h c → c.vcheck s.cur.key srcs none = none →
    let v := c.vread s.cur.key srcs
    Runs i h s ((c.vpop srcs).result s.cur.key lat (out (c.stream s.cur.key) v) (fl v)) .seq lat

/-! ### Commands of ME and XE (R306, R383) -/

/-- A command whose semaphores lie in its job's window, whose queue has room and whose operand values v pass the checks enters
its stream's queue; ok says of the job and of v what they are charged and keep. -/
def Queues (i : Instr) (h : Head) (kc : KCtl) (regs : List Nat)
    (ok : State → Core → Job → List Nat → Job × List Nat → Prop) : Prop :=
  ∀ (s : State) (c : Core) (r : Job × List Nat), Issues s h c →
    let t := c.stream s.cur.key
    let b := c.job t.job
    semCheck b kc = none → t.cmds.length < 16 → ok s c b (regs.map fun n => (t.getX n).toNat) r →
    Runs i h s ((c.setJob t.job r.1).enqueue s.cycles s.cur.key i r.2) .seq 1

/-- A command whose operand values are bad traps with cause 0x0C and subcode 3. -/
def Rejects (i : Instr) (h : Head) (kc : KCtl) (regs : List Nat) (bad : List Nat → Prop) : Prop :=
  ∀ (s : State) (c : Core), Issues s h c →
    let t := c.stream s.cur.key
    semCheck (c.job t.job) kc = none → t.cmds.length < 16 → bad (regs.map fun n => (t.getX n).toNat) → Traps i s 0x0C 3

/-- Both ends of a transfer pass their checks, in order, the first charge before the second check; r is the job charged and
what the command keeps. -/
def State.Transfers (s : State) (b : Job) (wd ws n unit : Nat) (dk sk : List Nat) (perm : Cap → Bool) (extra : List Nat)
    (r : Job × List Nat) : Prop :=
  ∃ cd cs : Cap, s.endCheck s.cur.core b wd n unit dk perm = .ok cd
    ∧ let b1 := if epSpace wd = 4 then b.charge (epCh wd) n else b
      s.endCheck s.cur.core b1 ws n unit sk Cap.send = .ok cs
      ∧ r = (if epSpace ws = 4 then b1.charge (epCh ws) n else b1, [wd, ws, n, cd.hi, cd.lo, cs.hi, cs.lo] ++ extra)

/-! ### Frames -/

/-- What an instruction that works on registers alone leaves as it was: memories, scratchpad, wick memory, accumulators, lane
store, semaphores, barriers, special registers of jobs, other cores, and vectors, flags and loops' registers of streams. -/
structure Keeps (s t : State) (cid : Nat) : Prop where
  mem : ∀ a, rdByte t.mem a = rdByte s.mem a
  hostMem : ∀ a, rdByte t.hostMem a = rdByte s.hostMem a
  others : ∀ j, j ≠ cid → t.core j = s.core j
  spad : ∀ a, rdByte (t.core cid).spad a = rdByte (s.core cid).spad a
  wickMem : ∀ a, rdByte (t.core cid).wickMem a = rdByte (s.core cid).wickMem a
  acc : ∀ n, mget 0 (t.core cid).acc n = mget 0 (s.core cid).acc n
  lane : ∀ n, rdByte (t.core cid).lane n = rdByte (s.core cid).lane n
  sems : ∀ n, (t.core cid).semCount n = (s.core cid).semCount n
  barriers : (t.core cid).barriers = (s.core cid).barriers
  tables : ∀ j, ((t.core cid).job j).itBase = ((s.core cid).job j).itBase
    ∧ ((t.core cid).job j).dtBase = ((s.core cid).job j).dtBase ∧ ((t.core cid).job j).tmap = ((s.core cid).job j).tmap
  budget : ∀ j, ((t.core cid).job j).remain = ((s.core cid).job j).remain
  dies : t.dies = s.dies
  groups : t.groups = s.groups
  ring : t.ring = s.ring
  vectors : ∀ k n, ((t.core cid).stream k).getV n = ((s.core cid).stream k).getV n
  flags : ∀ k, ((t.core cid).stream k).flags = ((s.core cid).stream k).flags

/-- The scalar registers of a core's streams but those that x names are as they were. -/
def KeepsX (s t : State) (cid : Nat) (x : Nat → Nat → Prop) : Prop :=
  ∀ k n, ¬ x k n → ((t.core cid).stream k).getX n = ((s.core cid).stream k).getX n

/-- The predicates of a core's streams but those that p names are as they were. -/
def KeepsP (s t : State) (cid : Nat) (p : Nat → Nat → Prop) : Prop :=
  ∀ k n, ¬ p k n → ((t.core cid).stream k).getP n = ((s.core cid).stream k).getP n

/-- Instructions whose one destination is the scalar operand d. -/
inductive ScalarOp : Opnd → Instr → Prop where
  | add (h d a b) : ScalarOp d (.add h d a b)
  | sub (h d a b) : ScalarOp d (.sub h d a b)
  | and (h d a b) : ScalarOp d (.and h d a b)
  | or (h d a b) : ScalarOp d (.or h d a b)
  | xor (h d a b) : ScalarOp d (.xor h d a b)
  | andn (h d a b) : ScalarOp d (.andn h d a b)
  | shl (h d a b) : ScalarOp d (.shl h d a b)
  | shr (h d a b) : ScalarOp d (.shr h d a b)
  | sra (h d a b) : ScalarOp d (.sra h d a b)
  | mul (h d a b) : ScalarOp d (.mul h d a b)
  | mulh (h d a b) : ScalarOp d (.mulh h d a b)
  | mulhu (h d a b) : ScalarOp d (.mulhu h d a b)
  | min (h d a b) : ScalarOp d (.min h d a b)
  | max (h d a b) : ScalarOp d (.max h d a b)
  | minu (h d a b) : ScalarOp d (.minu h d a b)
  | maxu (h d a b) : ScalarOp d (.maxu h d a b)
  | slt (h d a b) : ScalarOp d (.slt h d a b)
  | sltu (h d a b) : ScalarOp d (.sltu h d a b)
  | clz (h d a) : ScalarOp d (.clz h d a)
  | popc (h d a) : ScalarOp d (.popc h d a)
  | sel (h d a b p) : ScalarOp d (.sel h d a b p)
  | addi (h d a i) : ScalarOp d (.addi h d a i)
  | andi (h d a i) : ScalarOp d (.andi h d a i)
  | ori (h d a i) : ScalarOp d (.ori h d a i)
  | xori (h d a i) : ScalarOp d (.xori h d a i)
  | shli (h d a n) : ScalarOp d (.shli h d a n)
  | shri (h d a n) : ScalarOp d (.shri h d a n)
  | srai (h d a n) : ScalarOp d (.srai h d a n)
  | slti (h d a i) : ScalarOp d (.slti h d a i)
  | sltiu (h d a i) : ScalarOp d (.sltiu h d a i)
  | lih (h d i) : ScalarOp d (.lih h d i)
  | ld (h d a i n z) : ScalarOp d (.ld h d a i n z)
  | csrr (h d n) : ScalarOp d (.csrr h d n)
  | sget (h r n) : ScalarOp (.x r) (.sget h r n)

/-- Instructions whose one destination is the predicate p. -/
inductive PredOp : Nat → Instr → Prop where
  | cmp (h c p a b) : PredOp p (.cmp h c p a b)
  | cmpi (h c p a i) : PredOp p (.cmpi h c p a i)
  | pand (h p a b) : PredOp p (.pand h p a b)
  | por (h p a b) : PredOp p (.por h p a b)
  | pxor (h p a b) : PredOp p (.pxor h p a b)
  | pandn (h p a b) : PredOp p (.pandn h p a b)
  | pmov (h p a) : PredOp p (.pmov h p a)
  | pseti (h p v) : PredOp p (.pseti h p v)
  | vqlen (h p q n) : PredOp p (.vqlen h p q n)
  | vqlenZero (h p q) : PredOp p (.vqlenZero h p q)

/-- Instructions that change no register but the pc and the loop stack. -/
inductive FlowOp : Instr → Prop where
  | nop (h) : FlowOp (.nop h)
  | br (h x o) : FlowOp (.br h x o)
  | brc (h z x p o) : FlowOp (.brc h z x p o)
  | jr (h a) : FlowOp (.jr h a)
  | loop (h a o) : FlowOp (.loop h a o)
  | loopi (h n o) : FlowOp (.loopi h n o)
  | looph (h a o w) : FlowOp (.looph h a o w)

/-- Vector, stream and weight-code instructions whose results land later (R13, R181): all of VA, VE and WE but those that
store, end or move their stream. -/
inductive LandsLater : Instr → Prop where
  | sdef (h d a i) : LandsLater (.sdef h d a i)
  | slvl (h d a i) : LandsLater (.slvl h d a i)
  | srel (h a) : LandsLater (.srel h a)
  | sfib (h a b l) : LandsLater (.sfib h a b l)
  | sint (h d a b) : LandsLater (.sint h d a b)
  | suni (h d a b) : LandsLater (.suni h d a b)
  | sskip (h a b) : LandsLater (.sskip h a b)
  | spos (h d a x) : LandsLater (.spos h d a x)
  | scrd (h d a n) : LandsLater (.scrd h d a n)
  | ldq (h q a b p w k x) : LandsLater (.ldq h q a b p w k x)
  | ldqc (h q a b p k) : LandsLater (.ldqc h q a b p k)
  | ldqa (h q a b p k x) : LandsLater (.ldqa h q a b p k x)
  | prf (h a b) : LandsLater (.prf h a b)
  | lls (h a b c) : LandsLater (.lls h a b c)
  | mrgb (h q r i) : LandsLater (.mrgb h q r i)
  | mrgi (h a b) : LandsLater (.mrgi h a b)
  | mrge (h b p) : LandsLater (.mrge h b p)
  | bfxpSet (h a b) : LandsLater (.bfxpSet h a b)
  | bfxp (h q a b n) : LandsLater (.bfxp h q a b n)
  | loopt (h a o k) : LandsLater (.loopt h a o k)
  | vfadd (h d a b r f) : LandsLater (.vfadd h d a b r f)
  | vfsub (h d a b r f) : LandsLater (.vfsub h d a b r f)
  | vfmul (h d a b r f) : LandsLater (.vfmul h d a b r f)
  | vfma (h d a b c f) : LandsLater (.vfma h d a b c f)
  | vfms (h d a b c f) : LandsLater (.vfms h d a b c f)
  | vfnma (h d a b c f) : LandsLater (.vfnma h d a b c f)
  | vmad (h d a b c f) : LandsLater (.vmad h d a b c f)
  | vsel (h d a b c f) : LandsLater (.vsel h d a b c f)
  | vfmin (h d a b f) : LandsLater (.vfmin h d a b f)
  | vfmax (h d a b f) : LandsLater (.vfmax h d a b f)
  | vadd (h d a b f) : LandsLater (.vadd h d a b f)
  | vsub (h d a b f) : LandsLater (.vsub h d a b f)
  | vmul (h d a b f) : LandsLater (.vmul h d a b f)
  | vmulh (h d a b f) : LandsLater (.vmulh h d a b f)
  | vadds (h d a b f) : LandsLater (.vadds h d a b f)
  | vsubs (h d a b f) : LandsLater (.vsubs h d a b f)
  | vand (h d a b f) : LandsLater (.vand h d a b f)
  | vor (h d a b f) : LandsLater (.vor h d a b f)
  | vxor (h d a b f) : LandsLater (.vxor h d a b f)
  | vshl (h d a b f) : LandsLater (.vshl h d a b f)
  | vshr (h d a b f) : LandsLater (.vshr h d a b f)
  | vsra (h d a b f) : LandsLater (.vsra h d a b f)
  | vmin (h d a b f) : LandsLater (.vmin h d a b f)
  | vmax (h d a b f) : LandsLater (.vmax h d a b f)
  | vhash (h d a b f) : LandsLater (.vhash h d a b f)
  | vperm (h d a b f) : LandsLater (.vperm h d a b f)
  | vlog2 (h d a f) : LandsLater (.vlog2 h d a f)
  | vexp2 (h d a f) : LandsLater (.vexp2 h d a f)
  | vrcp (h d a f) : LandsLater (.vrcp h d a f)
  | vrsq (h d a f) : LandsLater (.vrsq h d a f)
  | vmov (h d a f) : LandsLater (.vmov h d a f)
  | vradd (h d a f) : LandsLater (.vradd h d a f)
  | vfcmp (h d c a b f) : LandsLater (.vfcmp h d c a b f)
  | vcmp (h d c a b f) : LandsLater (.vcmp h d c a b f)
  | vcvt (h d a s i r f) : LandsLater (.vcvt h d a s i r f)
  | vpks (h d a r f) : LandsLater (.vpks h d a r f)
  | vscl (h d a b r f) : LandsLater (.vscl h d a b r f)
  | vli (h d n e) : LandsLater (.vli h d n e)
  | vbcst (h d a k f) : LandsLater (.vbcst h d a k f)
  | vbcstX (h d n f) : LandsLater (.vbcstX h d n f)
  | vrot (h d a k f) : LandsLater (.vrot h d a k f)
  | vlane (h d n f) : LandsLater (.vlane h d n f)
  | vext (h x a k e f) : LandsLater (.vext h x a k e f)
  | vrfadd (h d a r f) : LandsLater (.vrfadd h d a r f)
  | vrmax (h d a m b f) : LandsLater (.vrmax h d a m b f)
  | vrmaxi (h d a b p f) : LandsLater (.vrmaxi h d a b p f)
  | vrmini (h d a b p f) : LandsLater (.vrmini h d a b p f)
  | vacrF32 (h d x l) : LandsLater (.vacrF32 h d x l)
  | vacrRaw (h d x l) : LandsLater (.vacrRaw h d x l)
  | vacwF32 (h x a l) : LandsLater (.vacwF32 h x a l)
  | vacwAdd (h x a l) : LandsLater (.vacwAdd h x a l)
  | vacwRaw (h x a l) : LandsLater (.vacwRaw h x a l)
  | loopq (h q k o n) : LandsLater (.loopq h q k o n)
  | wnop (h) : LandsLater (.wnop h)
  | wt (h m d s) : LandsLater (.wt h m d s)
  | wg (h m c d s) : LandsLater (.wg h m c d s)
  | wtf (h m d s) : LandsLater (.wtf h m d s)
  | wf (h a k s) : LandsLater (.wf h a k s)
  | wrow (h f o e) : LandsLater (.wrow h f o e)

/-- Instructions of ME and XE that only enter a command in their stream's queue, or write the shadow nest table, as they
issue (R306, R383). -/
inductive CommandOp : Instr → Prop where
  | mtw (h a b) : CommandOp (.mtw h a b)
  | mtws (h k d b) : CommandOp (.mtws h k d b)
  | mnms (h k d b) : CommandOp (.mnms h k d b)
  | mdrn (h k d b) : CommandOp (.mdrn h k d b)
  | mbyp (h k b) : CommandOp (.mbyp h k b)
  | mzero (h k b) : CommandOp (.mzero h k b)
  | mrqt (h k d b) : CommandOp (.mrqt h k d b)
  | midx (h k d b) : CommandOp (.midx h k d b)
  | mgo (h k x) : CommandOp (.mgo h k x)
  | mrpr (h k b x) : CommandOp (.mrpr h k b x)
  | mrst (h k b x) : CommandOp (.mrst h k b x)
  | xcp (h k a b) : CommandOp (.xcp h k a b)
  | xcpg (h k a b) : CommandOp (.xcpg h k a b)
  | xred (h k a b) : CommandOp (.xred h k a b)
  | xkeyEnc (h k a b) : CommandOp (.xkeyEnc h k a b)
  | xkeyDec (h k a b) : CommandOp (.xkeyDec h k a b)
  | xexp (h k a b) : CommandOp (.xexp h k a b)
  | xarv (h k a b) : CommandOp (.xarv h k a b)
  | xsigr (h k a b) : CommandOp (.xsigr h k a b)
  | xpln (h k a b) : CommandOp (.xpln h k a b)
  | xbrd (h k a b) : CommandOp (.xbrd h k a b)
  | xalt (h k a b) : CommandOp (.xalt h k a b)
  | xrep (h k a b) : CommandOp (.xrep h k a b)
  | xdrp (h k a b) : CommandOp (.xdrp h k a b)
  | xqryPeek (h k a b) : CommandOp (.xqryPeek h k a b)
  | xstep (h k a) : CommandOp (.xstep h k a)
  | xqryRing (h k b) : CommandOp (.xqryRing h k b)

/-! ### Invariants -/

/-- Device memory and host memory are in canonical form. -/
def State.memOk (s : State) : Prop := Memory.wf s.mem = true ∧ Memory.wf s.hostMem = true

end Sys2Proof.Machine
end

