-- ==== Sys2Proof/Certificates/Slice0/Obligations.lean ====
section
/-!
DEFINITION. Sys2Proof/Certificates/Slice0/Obligations.lean: the statements for the provers.
-/

open Sys2Proof Sys2Proof.Machine

/-- R78, R97, R100: when the bytes at the chosen stream's pc decode to an instruction that no interlock holds, its engine's
turn is exec of that instruction, with the stream and its engine as the step's own; exec moves the stream on. Around exec the step
marks, before the engine's first turn of a clock, streams that could issue, which changes nothing but those marks; and behind it the
results of an engine that the instruction held go back to where they were (R182, R263). -/
def Obligations.StepRunsDecodedInstruction : Prop :=
  (∀ (s s1 : State) (cid slot : Nat) (e : Eng) (bs : List Byte) (i : Instr), Fetches s cid e slot bs s1 →
     decode e ((s1.core cid).privileged (skey e slot)) bs = .ok i → (s1.core cid).interlocked (skey e slot) i = false →
     step s = endTurn cid e (exec i s1))
    ∧ (∀ (s : State) (cid : Nat) (e : Eng), endTurn cid e (.next s) = .next (if (s.core cid).held e
        then s.updCore cid fun c => c.unland e else s))
    ∧ (∀ (cid : Nat) (e : Eng) (o : Host.Outcome State Fault Refusal), (∀ s, o ≠ .next s) → endTurn cid e o = o)
    ∧ ∀ (s : State) (cid : Nat) (e : Eng), ({ s.markReady cid e with cores := s.cores } : State) = s
        ∧ (∀ j, j ≠ cid → (s.markReady cid e).core j = s.core j)
        ∧ ({ (s.markReady cid e).core cid with streams := (s.core cid).streams } : Core) = s.core cid
        ∧ ∀ k, ∃ b, ((s.markReady cid e).core cid).stream k = { (s.core cid).stream k with ready := b }

/-- R78, R144: a word that does not decode traps with cause 0x01, 0x02 or 0x03, and TRAP_STATUS holds its opcode byte. -/
def Obligations.UndecodableWordsTrap : Prop :=
  ∀ (s s1 : State) (cid slot : Nat) (e : Eng) (bs : List Byte) (er : DecodeErr), Fetches s cid e slot bs s1 →
    decode e ((s1.core cid).privileged (skey e slot)) bs = .error er →
    FetchTraps s s1 cid e slot (match er with | .illegal => 0x01 | .reserved => 0x02 | .privileged => 0x03)
      (if e = .we then wordOf e bs / 2 ^ 248 % 2 ^ 8 else wordOf e bs / 2 ^ 56 % 2 ^ 8)

/-- The other micro-steps: events run exec, packets are applied, routers and Roslor jobs take their turns, and with none left
the clock ends (the order of micro-steps is the model's own, log 4). -/
def Obligations.StepTakesTheNextTurn : Prop :=
  (∀ (s : State) (i : Instr) (r : List Turn), s.todo = .event i :: r → step s = exec i { s with todo := r })
    ∧ (∀ (s : State) (n : Nat) (r : List Turn), s.todo = .packet n :: r → step s = applyTurn n { s with todo := r })
    ∧ (∀ (s : State) (n : Nat) (r : List Turn), s.todo = .router n :: r →
        step s = .next (({ s with todo := r } : State).routerTurn n))
    ∧ (∀ (s : State) (c j : Nat) (r : List Turn), s.todo = .roslor c j :: r →
        step s = .next (({ s with todo := r } : State).roslorTurn c j))
    ∧ (∀ s : State, s.todo = [] → s.trip = false →
        ∃ t, step s = .next t ∧ t.cycles = s.cycles + 1 ∧ t.mem = s.mem ∧ t.trip = false)
    ∧ ∀ s : State, s.todo = [] → s.trip = true →
        ∃ t, step s = .next t ∧ t.cycles = s.cycles ∧ t.cores = s.cores ∧ t.mem = s.mem ∧ t.net = s.net

/-- R76: the system opcodes are those of its list; they are legal in SQ and the wick core alone, raise cause 0x03 in an SQ
stream without privilege, and the wick core always holds privilege. -/
def Obligations.SystemOpcodes : Prop :=
  (∀ (s s1 : State) (cid slot : Nat) (e : Eng) (bs : List Byte), Fetches s cid e slot bs s1 → e ≠ .we → bs.length = 8 →
      let op := leBytes bs / 2 ^ 56
      0xF0 ≤ op →
      (e ≠ .sq → e ≠ .wick → FetchTraps s s1 cid e slot 0x01 op)
        ∧ (0xF8 ≤ op → FetchTraps s s1 cid e slot 0x01 op)
        ∧ (e = .sq → op ≤ 0xF7 → (s1.core cid).privileged (skey e slot) = false → FetchTraps s s1 cid e slot 0x03 op))
    ∧ (∀ c : Core, c.privileged (skey .wick 0) = true)
    ∧ ∀ (e : Eng) (priv : Bool) (bs : List Byte) (i : Instr), e ≠ .we → bs.length = 8 → decode e priv bs = .ok i →
        let op := leBytes bs / 2 ^ 56
        match i with
        | .rft _ _ => op = 0xF0
        | .resume _ _ => op = 0xF1
        | .ctxsv _ _ _ => op = 0xF2
        | .ctxld _ _ _ _ => op = 0xF3
        | .tlbiDataAll _ _ _ => op = 0xF4
        | .tlbiDataPage _ _ _ => op = 0xF4
        | .tlbiInstrAll _ _ _ => op = 0xF4
        | .tlbiInstrPage _ _ _ => op = 0xF4
        | .keyopLoad _ _ _ _ => op = 0xF5
        | .keyopDestroy _ _ _ _ => op = 0xF5
        | .keyopQuery _ _ _ _ => op = 0xF5
        | .capw _ _ _ _ _ => op = 0xF6
        | .tnset _ _ _ _ => op = 0xF7
        | _ => op < 0xF0

/-- R77: the WE opcodes are those of its list, and every other one raises cause 0x01. -/
def Obligations.WeightOpcodes : Prop :=
  (∀ (s s1 : State) (cid slot : Nat) (bs : List Byte), Fetches s cid .we slot bs s1 → bs.length = 32 →
      let op := wordOf .we bs / 2 ^ 248
      0x0E ≤ op → FetchTraps s s1 cid .we slot 0x01 op)
    ∧ ∀ (priv : Bool) (bs : List Byte) (i : Instr), bs.length = 32 → decode .we priv bs = .ok i →
        wordOf .we bs / 2 ^ 248 = match i with
          | .wnop _ => 0x00
          | .wt _ _ _ _ => 0x01
          | .wg _ _ _ _ _ => 0x02
          | .wf _ _ _ _ => 0x03
          | .wtf _ _ _ _ => 0x04
          | .wrow _ _ _ _ => 0x05
          | .wsegFull _ _ _ _ _ _ => 0x06
          | .wsegKeep _ => 0x06
          | .whook _ _ => 0x07
          | .wret _ => 0x08
          | .wjmp _ _ => 0x09
          | .wjmpLink _ _ => 0x09
          | .wjmpRet _ => 0x09
          | .wend _ => 0x0A
          | .wwait _ _ _ _ _ => 0x0B
          | .wlink _ _ => 0x0C
          | .wrdzv _ _ => 0x0D
          | _ => 0x0E

/-- Words written out from the spec's encodings (R66, R68, R73) decode to the instructions they stand for, one or more for
each engine. -/
def Obligations.DecodesSpecWords : Prop :=
  let h : Head := ⟨7, false, false, 126, false⟩
  decodeWord .sq false 0x11E7E01C0E080000 = .ok (.addi h (.x 7) (.x 7) 64)
    ∧ decodeWord .sq false 0x12E7E01D00000000 = .ok (.lih h (.x 7) 0x40000)
    ∧ decodeWord .sq false 0x18E7E0100B000003 = .ok (.ldg h 4 5 (-2048) 3 false)
    ∧ decodeWord .va false 0x104838140C070000 = .ok (.add ⟨2, false, true, 3, true⟩ (.x 5) (.x 6) (.x 7))
    ∧ decodeWord .va false 0x48E7E3088A06A481 = .ok (.ldq h 2 ⟨5, false⟩ 6 (some 9) true false false)
    ∧ decodeWord .ve false 0x40E7E0222E180202 = .ok (.vfadd h (.v 4) (.rot 5) (.peek 3) none ⟨1, 1, 0, 0, false⟩)
    ∧ decodeWord .me false 0x43E7E10C12000AB4 = .ok (.mdrn h ⟨none, some 5, ⟨false, true, .device⟩⟩ 3 9)
    ∧ decodeWord .xe false 0x42E7E020120008B4 = .ok (.xred h ⟨none, some 4, ⟨false, true, .device⟩⟩ 8 9)
    ∧ decodeWord .we false (0x09E0000000000000 * 2 ^ 192 + 0x0000000008003FF9) = .ok (.wjmp ⟨7, false, false⟩ 8185)

/-- R66, R68, R73, R78: decoding the encoding of a well-formed instruction gives it back, in the engine that accepts it, and
the word that an instruction is read from is the encoding of that instruction. -/
def Obligations.DecodeAndEncodeAgree : Prop :=
  (∀ (e : Eng) (priv : Bool) (i : Instr), i.wellFormed e = true → (e = .sq → priv = true) →
      decode e priv (encodeBytes e i) = .ok i)
    ∧ ∀ (e : Eng) (priv : Bool) (bs : List Byte) (i : Instr), decode e priv bs = .ok i →
        i.wellFormed e = true ∧ encodeBytes e i = bs.take (instrLen e)

/-- R67: an instruction whose guard is false issues and retires as a NOP: it takes and pushes its tokens, and nothing else. -/
def Obligations.FalseGuardActsAsNop : Prop :=
  ∀ (s : State) (i : Instr) (h : Head) (c : Core), i.head = some h → s.self.guardTrue h = false →
    (s.here.unpop s.cur.key).tokens s.cur.key h.tp h.pop h.push = .ok c → Runs i h s c .seq 1

/-- R116: every two-source ALU instruction gives its destination the value its entry states. -/
def Obligations.TwoSourceResults : Prop :=
  AluTwo .add 1 (fun x y => BitVec.ofNat 64 (x.toNat + y.toNat))
    ∧ AluTwo .sub 1 (fun x y => BitVec.ofInt 64 (x.toInt - y.toInt))
    ∧ AluTwo .and 1 (fun x y => x &&& y)
    ∧ AluTwo .or 1 (fun x y => x ||| y)
    ∧ AluTwo .xor 1 (fun x y => x ^^^ y)
    ∧ AluTwo .andn 1 (fun x y => x &&& ~~~y)
    ∧ AluTwo .shl 1 (fun x y => BitVec.ofNat 64 (x.toNat * 2 ^ (y.toNat % 64)))
    ∧ AluTwo .shr 1 (fun x y => BitVec.ofNat 64 (x.toNat / 2 ^ (y.toNat % 64)))
    ∧ AluTwo .sra 1 (fun x y => BitVec.ofInt 64 (x.toInt / 2 ^ (y.toNat % 64)))
    ∧ AluTwo .mul 3 (fun x y => BitVec.ofNat 64 (x.toNat * y.toNat))
    ∧ AluTwo .mulh 3 (fun x y => BitVec.ofInt 64 (x.toInt * y.toInt / 2 ^ 64))
    ∧ AluTwo .mulhu 3 (fun x y => BitVec.ofNat 64 (x.toNat * y.toNat / 2 ^ 64))
    ∧ AluTwo .min 1 (fun x y => BitVec.ofInt 64 (min x.toInt y.toInt))
    ∧ AluTwo .max 1 (fun x y => BitVec.ofInt 64 (max x.toInt y.toInt))
    ∧ AluTwo .minu 1 (fun x y => BitVec.ofNat 64 (min x.toNat y.toNat))
    ∧ AluTwo .maxu 1 (fun x y => BitVec.ofNat 64 (max x.toNat y.toNat))
    ∧ AluTwo .slt 1 (fun x y => if x.toInt < y.toInt then 1 else 0)
    ∧ AluTwo .sltu 1 (fun x y => if x.toNat < y.toNat then 1 else 0)

/-- R116, R117: the one-source, immediate and select forms. R118: comparisons and predicate logic. -/
def Obligations.OneSourceAndPredicateResults : Prop :=
  (AluOne .addi (fun x i => BitVec.ofInt 64 (x.toInt + i))
     ∧ AluOne .andi (fun x i => x &&& BitVec.ofInt 64 i)
     ∧ AluOne .ori (fun x i => x ||| BitVec.ofInt 64 i)
     ∧ AluOne .xori (fun x i => x ^^^ BitVec.ofInt 64 i)
     ∧ AluOne .shli (fun x n => BitVec.ofNat 64 (x.toNat * 2 ^ n))
     ∧ AluOne .shri (fun x n => BitVec.ofNat 64 (x.toNat / 2 ^ n))
     ∧ AluOne .srai (fun x n => BitVec.ofInt 64 (x.toInt / 2 ^ n))
     ∧ AluOne .slti (fun x i => if x.toInt < (BitVec.ofInt 64 i).toInt then 1 else 0)
     ∧ AluOne .sltiu (fun x i => if x.toNat < (BitVec.ofInt 64 i).toNat then 1 else 0)
     ∧ AluOne (fun h d a (_ : Unit) => .clz h d a)
         (fun x _ => if x = 0 then 64 else BitVec.ofNat 64 (63 - Nat.log2 x.toNat))
     ∧ AluOne (fun h d a (_ : Unit) => .popc h d a)
         (fun x _ => BitVec.ofNat 64 ((List.range 64).countP fun i => x.getLsbD i))
     ∧ (∀ (s : State) (h : Head) (d a b : Opnd) (p : Nat) (c : Core), Issues s h c →
         c.opndCheck s.cur.key [a, b] (some d) = none →
         let l := comLat s.cur.eng 1 1
         Runs (.sel h d a b p) h s ((c.opndPop [a, b]).opndWrite s.cur.key l d
           (if (c.stream s.cur.key).getP p then c.opndVal s.cur.key a else c.opndVal s.cur.key b) 0) .seq l)
     ∧ ∀ (s : State) (h : Head) (d : Opnd) (i : Int) (c : Core), Issues s h c → c.opndCheck s.cur.key [] (some d) = none →
         let l := comLat s.cur.eng 1 1
         Runs (.lih h d i) h s (c.opndWrite s.cur.key l d (BitVec.ofInt 64 (4096 * i)) 0) .seq l)
    ∧ ((∀ (s : State) (h : Head) (cd : Cond) (p : Nat) (a b : Opnd) (c : Core), Issues s h c →
            c.opndCheck s.cur.key [a, b] none = none →
            ∃ v, (v = true ↔ CondSpec cd (c.opndVal s.cur.key a) (c.opndVal s.cur.key b)) ∧
              let l := comLat s.cur.eng 1 1
              Runs (.cmp h cd p a b) h s ((c.opndPop [a, b]).result s.cur.key l (.p p v) 0) .seq l)
          ∧ (∀ (s : State) (h : Head) (cd : Cond) (p : Nat) (a : Opnd) (i : Int) (c : Core), Issues s h c →
              c.opndCheck s.cur.key [a] none = none →
              ∃ v, (v = true ↔ CondSpec cd (c.opndVal s.cur.key a) (BitVec.ofInt 64 i)) ∧
                let l := comLat s.cur.eng 1 1
                Runs (.cmpi h cd p a i) h s ((c.opndPop [a]).result s.cur.key l (.p p v) 0) .seq l)
          ∧ PredTwo .pand (fun x y => x && y)
          ∧ PredTwo .por (fun x y => x || y)
          ∧ PredTwo .pxor (fun x y => x ^^ y)
          ∧ PredTwo .pandn (fun x y => x && !y)
          ∧ PredTwo (fun h d a _ => .pmov h d a) (fun x _ => x)
          ∧ PredTwo (fun h d _ _ => .pseti h d true) (fun _ _ => true)
          ∧ PredTwo (fun h d _ _ => .pseti h d false) (fun _ _ => false))

/-- R110: NOP does nothing; END ends the stream, and RDZV waits, once the stream's work has finished; the block before an RDZV ends
with it (R180). -/
def Obligations.EndingResults : Prop :=
  (∀ (s : State) (h : Head) (c : Core), Issues s h c → Runs (.nop h) h s c .seq 1)
    ∧ (∀ (s : State) (h : Head) (c : Core), Issues s h c → c.workDone s.cur.key s.cycles = true →
        Completes (.endS h) s fun t => t = ((s.setCore s.cur.core c).endStream s.cur.core s.cur.key).updCore s.cur.core
            (fun x => s.issued h x .gone 1)
          ∧ (t.core s.cur.core).stream s.cur.key = {})
    ∧ ∀ (s : State) (h : Head) (n : Nat) (c : Core), Issues s h c →
        (c.returnCredit s.cur.key).workDone s.cur.key s.cycles = true →
        Runs (.rdzv h n) h s (c.returnCredit s.cur.key) (.wait (.rdzv n)) 1

/-- R111: branches, calls and register jumps go to their targets; a link register takes the address of the word behind. R111:
a target at or above 2^48 traps with cause 0x0B, else one that is no multiple of 8 with cause 0x07. -/
def Obligations.TransferResults : Prop :=
  ((∀ (s : State) (h : Head) (x : Bool) (off : Int) (c : Core) (a : Nat), Issues s h c →
       ((c.stream s.cur.key).pc : Int) + 8 * off = a → a < 2 ^ 48 → a % 8 = 0 →
       Runs (.br h x off) h s (c.exitLoop s.cur.key x) (.jump a) 1
         ∧ (∀ (z : Bool) (p : Nat), (c.stream s.cur.key).getP p = !z →
             Runs (.brc h z x p off) h s (c.exitLoop s.cur.key x) (.jump a) 1)
         ∧ ∀ d : Nat, let l := comLat s.cur.eng 1 1
             Runs (.call h d off) h s
               (c.result s.cur.key l (.x d (BitVec.ofNat 64 ((c.stream s.cur.key).pc + 8))) 0) (.jump a) l)
     ∧ (∀ (s : State) (h : Head) (x z : Bool) (p : Nat) (off : Int) (c : Core), Issues s h c →
         (c.stream s.cur.key).getP p = z → Runs (.brc h z x p off) h s c .seq 1)
     ∧ (∀ (s : State) (h : Head) (a : Nat) (c : Core), Issues s h c →
         let v := ((c.stream s.cur.key).getX a).toNat
         v < 2 ^ 48 → v % 8 = 0 → Runs (.jr h a) h s c (.jump v) 1)
     ∧ ∀ (s : State) (h : Head) (d a : Nat) (imm : Int) (c c1 : Core) (v : Nat), Issues s h c →
         c.readData (c.sender s.cur.core s.cur.key s.cycles) (addrOf c s.cur.key a imm) 8 = .ok v c1 →
         v < 2 ^ 48 → v % 8 = 0 → let l := comLat s.cur.eng 1 1
         Runs (.callg h d a imm) h s ((c1.returnCredit s.cur.key).result s.cur.key l
           (.x d (BitVec.ofNat 64 ((c.stream s.cur.key).pc + 8))) 0) (.jump v) l)
    ∧ (∀ (s : State) (h : Head) (c : Core), Issues s h c →
          (∀ (a : Nat), let v := ((c.stream s.cur.key).getX a).toNat
            (2 ^ 48 ≤ v → Traps (.jr h a) s 0x0B (addrStatus v)) ∧ (v < 2 ^ 48 → v % 8 ≠ 0 → Traps (.jr h a) s 0x07 (addrStatus v)))
          ∧ ∀ (x : Bool) (off : Int), immOk 24 off = true → (c.stream s.cur.key).pc < 2 ^ 48 →
            let a := ((c.stream s.cur.key).pc : Int) + 8 * off
            (a < 0 ∨ 2 ^ 48 ≤ a) → Traps (.br h x off) s 0x0B (addrStatus (a % 2 ^ 64).toNat))

/-- R112, R113: a loop instruction with a count of 0 skips its body; otherwise it pushes an entry, and a fifth entry traps. -/
def Obligations.LoopResults : Prop :=
  ∀ (s : State) (h : Head) (c : Core), Issues s h c → ∀ (mk : Instr) (n off w : Nat),
    (mk = .loopi h n off ∧ w = 0
      ∨ (∃ a, mk = .loop h a off ∧ n = ((c.stream s.cur.key).getX a).toNat ∧ w = 0)
      ∨ ∃ a, mk = .looph h a off w ∧ n = ((c.stream s.cur.key).getX a).toNat) →
    let t := c.stream s.cur.key
    let fin := (t.pc + 8 * off) % 2 ^ 48
    (n = 0 → Runs mk h s c (.skip ((fin + 8) % 2 ^ 48)) 1)
      ∧ (n ≠ 0 → t.loops.length < 4 →
          Runs mk h s (c.setStream s.cur.key { t with loops := ⟨(t.pc + 8) % 2 ^ 48, fin, n, w, 0⟩ :: t.loops }) .seq 1)
      ∧ (n ≠ 0 → 4 ≤ t.loops.length → Traps mk s 0x0C 4)

/-- R121: TRAP is opcode 0x0C; it stops the job with cause 0x01 and a status of bit 31 and its code; in the wick core the
handler ends and the trapped job stops with that record. -/
def Obligations.TrapResults : Prop :=
  ∀ (s : State) (h : Head) (code : Nat) (c : Core), Issues s h c →
    encode (.trap h code) = 0x0C * 2 ^ 56 + headBits h + code * 2 ^ 14
      ∧ (s.cur.eng ≠ .wick → Traps (.trap h code) s 0x01 (2 ^ 31 + code))
      ∧ (s.cur.eng = .wick →
          Runs (.trap h code) h s ((c.dropFault.recordFault s.cycles c.trapJob
            { (c.job c.trapJob).trap with cause := 0x01, status := 2 ^ 31 + code }).thawNext) .gone 1)

/-- R79, R120: CSRR reads the register that its number names where the stream may read it; else it traps with cause 0x03.
R79, R120: CSRW takes the low fields of a register that the stream may write; a reserved bit traps with cause 0x02, a
register that it may not write with cause 0x03. -/
def Obligations.ControlRegisterResults : Prop :=
  (∀ (s : State) (h : Head) (d : Opnd) (n : Nat) (c : Core), Issues s h c →
     (csrReadOk c s.cur.key n = false → Traps (.csrr h d n) s 0x03 0x0D)
       ∧ (csrReadOk c s.cur.key n = true → c.opndCheck s.cur.key [] (some d) = none → let l := comLat s.cur.eng 1 1
           Runs (.csrr h d n) h s
             (c.opndWrite s.cur.key l d (BitVec.ofNat 64 (csrValue s s.cur.core s.cur.key n)) 0) .seq l)
       ∧ csrReadOk c s.cur.key n = (if n ∈ [0x020, 0x021, 0x022, 0x023, 0x024, 0x040, 0x041] then c.privileged s.cur.key
           else if n = 0x070 then decide (s.cur.key = 16 ∨ s.cur.key < 2) else true))
    ∧ (∀ (s : State) (h : Head) (a : Opnd) (n : Nat) (c : Core), Issues s h c → c.opndCheck s.cur.key [a] none = none →
          let k := s.cur.key
          let v := (c.opndVal k a).toNat
          let c1 := c.opndPop [a]
          let upd := fun f => c1.updJob (c1.jobOf k) f
          (2 ^ 10 ≤ v → Traps (.csrw h a 0x010) s 0x02 0x0E)
            ∧ (v < 2 ^ 10 → Runs (.csrw h a 0x010) h s (c1.updStream k fun t => (t.setFpstat v).orFlags t.landFlags) .seq 1)
            ∧ (c.privileged k = false → n ≠ 0x010 → Traps (.csrw h a n) s 0x03 0x0E)
            ∧ (c.privileged k = true →
                (v < 2 ^ 8 → Runs (.csrw h a 0x020) h s (upd fun b => { b with trap := { b.trap with cause := v } }) .seq 1)
                  ∧ (2 ^ 8 ≤ v → Traps (.csrw h a 0x020) s 0x02 0x0E)
                  ∧ (v < 2 ^ 48 →
                      Runs (.csrw h a 0x021) h s (upd fun b => { b with trap := { b.trap with pc := v } }) .seq 1
                        ∧ Runs (.csrw h a 0x022) h s (upd fun b => { b with trap := { b.trap with cmd := v } }) .seq 1)
                  ∧ (2 ^ 48 ≤ v → Traps (.csrw h a 0x021) s 0x02 0x0E ∧ Traps (.csrw h a 0x022) s 0x02 0x0E)
                  ∧ Runs (.csrw h a 0x023) h s (upd fun b => { b with trap := { b.trap with status := v } }) .seq 1
                  ∧ (v < 2 ^ 32 → v / 2 ^ 11 % 2 ^ 3 = 0 → v / 2 ^ 2 % 2 ^ 3 = 0 →
                      Runs (.csrw h a 0x024) h s (upd fun b => { b with trap := { b.trap with eng := v } }) .seq 1)
                  ∧ ((2 ^ 32 ≤ v ∨ v / 2 ^ 11 % 2 ^ 3 ≠ 0 ∨ v / 2 ^ 2 % 2 ^ 3 ≠ 0) → Traps (.csrw h a 0x024) s 0x02 0x0E)
                  ∧ (v / 2 ^ 48 % 2 ^ 14 = 0 → Runs (.csrw h a 0x030) h s
                      (upd fun b => { b with unlim := bit v 63, grace := bit v 62, remain := v % 2 ^ 48 }) .seq 1)
                  ∧ (v / 2 ^ 48 % 2 ^ 14 ≠ 0 → Traps (.csrw h a 0x030) s 0x02 0x0E)
                  ∧ Runs (.csrw h a 0x040) h s (upd fun b => { b with itBase := v }) .seq 1
                  ∧ Runs (.csrw h a 0x041) h s (upd fun b => { b with dtBase := v }) .seq 1
                  ∧ Runs (.csrw h a 0x042) h s (upd fun b => { b with tmap := v }) .seq 1
                  ∧ (n ∉ [0x010, 0x020, 0x021, 0x022, 0x023, 0x024, 0x030, 0x040, 0x041, 0x042, 0x060] →
                      Traps (.csrw h a n) s 0x03 0x0E)
                  ∧ ((2 ^ 12 ≤ v ∨ v / 2 ^ 3 % 2 ^ 5 ≠ 0 ∨ 6 ≤ v / 2 ^ 8 % 8) → Traps (.csrw h a 0x060) s 0x02 0x0E)
                  ∧ (v < 2 ^ 12 → v / 2 ^ 3 % 2 ^ 5 = 0 → v / 2 ^ 8 % 8 < 6 →
                      Acts (.csrw h a 0x060) h s
                        { s.setCore s.cur.core c1 with ring := { s.ring with pvalid := bit v 11, pend := v / 2 ^ 8 % 8 } } .seq 1)))

/-- R8: CORE_ID, STREAM_ID and DIE_ID read as their maps say, for core e of die d; in the wick core STREAM_ID is that of the
stream whose trap it handles; and CSRW to any of them raises cause 0x03. -/
def Obligations.PositionRegisters : Prop :=
  ∀ (s : State) (h : Head) (o : Opnd) (c : Core) (d e p : Nat), Issues s h c → c.opndCheck s.cur.key [] (some o) = none →
    s.cur.core = 16 * d + e → d < 16 → e < 16 → p < 16 →
    [0, 1, 2, 3, 7, 6, 5, 9, 10, 11, 15, 14, 13, 12, 8, 4].getD p 0 = d →
    let k := if s.cur.key = 24 then c.trapKey else s.cur.key
    let l := comLat s.cur.eng 1 1
    let reads := fun (n v : Nat) =>
      Runs (.csrr h o n) h s (c.opndWrite s.cur.key l o (BitVec.ofNat 64 v) 0) .seq l
    reads 0x002 ((4 * (d / 4) + e / 4) * 2 ^ 20 + (4 * (d % 4) + e % 4) * 2 ^ 16 + d * 2 ^ 4 + e)
      ∧ reads 0x001 ((16 * d + e) * 2 ^ 8 + k / 4 * 2 ^ 5 + k % 4)
      ∧ reads 0x003 (p * 2 ^ 12 + d / 4 * 2 ^ 10 + d % 4 * 2 ^ 8 + d)
      ∧ ∀ n ∈ [0x001, 0x002, 0x003], ∀ a : Opnd, Traps (.csrw h a n) s 0x03 0x0E

/-- R119: LD reads its bytes little-endian and extends them, from the scratchpad or from the wick core's memory; its checks.
R119: ST stores the low bytes of xD, in the scratchpad or in the wick core's memory; its checks. -/
def Obligations.LoadAndStoreResults : Prop :=
  (∀ (s : State) (h : Head) (d a : Opnd) (imm : Int) (size : Nat) (z : Bool) (c : Core), Issues s h c →
     c.opndCheck s.cur.key [a] (some d) = none →
     let k := s.cur.key
     let n := 2 ^ size
     let ad := (c.opndVal k a + BitVec.ofInt 64 imm).toNat
     (memCheck s c ad n = none → let l := comLat s.cur.eng 6 6
       let v := leBytes (if s.cur.eng = .wick then rdBytes c.wickMem ad n else (List.range n).map fun i => c.spadByte (ad + i))
       Runs (.ld h d a imm size z) h s ((c.opndPop [a]).opndWrite k l d
         (if z then BitVec.ofNat 64 v else BitVec.ofInt 64 (sextN (8 * n) (v % 2 ^ (8 * n)))) 0) .seq l)
       ∧ (s.cur.eng ≠ .wick →
           (ad % n ≠ 0 → Traps (.ld h d a imm size z) s 0x07 (addrStatus ad))
             ∧ (ad % n = 0 → 2 ^ 19 ≤ ad → Traps (.ld h d a imm size z) s 0x0C 5)
             ∧ (ad % n = 0 → ad < 2 ^ 19 → (c.job (c.stream k).job).inRegions ad n = false →
                 Traps (.ld h d a imm size z) s 0x0E 0x3FF)))
    ∧ (∀ (s : State) (h : Head) (d : Nat) (a : Opnd) (imm : Int) (size : Nat) (c : Core), Issues s h c →
          c.opndCheck s.cur.key [a] none = none →
          let k := s.cur.key
          let n := 2 ^ size
          let ad := (c.opndVal k a + BitVec.ofInt 64 imm).toNat
          (memCheck s c ad n = none →
            let bs := toBytes n ((c.stream k).getX d).toNat
            let c1 := c.opndPop [a]
            Runs (.st h d a imm size) h s
              (if s.cur.eng = .wick then { c1 with wickMem := wrBytes c1.wickMem ad bs } else c1.spadWrite s.cur.eng.num ad bs) .seq 1)
            ∧ (s.cur.eng ≠ .wick →
                (ad % n ≠ 0 → Traps (.st h d a imm size) s 0x07 (addrStatus ad))
                  ∧ (ad % n = 0 → 2 ^ 19 ≤ ad → Traps (.st h d a imm size) s 0x0C 5)
                  ∧ (ad % n = 0 → ad < 2 ^ 19 → (c.job (c.stream k).job).inRegions ad n = false →
                      Traps (.st h d a imm size) s 0x0E 0x3FF)))

/-- R119: LDG takes the datum of a line that its core holds, or waits for the reply to the read it has sent, and retires in the clock
in which it has the datum (R15); STG hands its bytes to the core port; both check their addresses first. -/
def Obligations.DeviceAccessResults : Prop :=
  ∀ (s : State) (h : Head) (d a : Nat) (imm : Int) (size : Nat) (c : Core), Issues s h c →
    let k := s.cur.key
    let n := 2 ^ size
    let ad := addrOf c k a imm
    (∀ (z : Bool) (v : Nat) (c1 : Core), c.readData (c.sender s.cur.core k s.cycles) ad n = .ok v c1 →
      Runs (.ldg h d a imm size z) h s (c1.result k 1 (.x d
        (if z then BitVec.ofNat 64 v else BitVec.ofInt 64 (sextN (8 * n) (v % 2 ^ (8 * n))))) 0) .seq 0)
      ∧ (∀ (z : Bool) (pa : Nat) (c1 : Core), c.readData (c.sender s.cur.core k s.cycles) ad n = .sent c1 pa →
          Runs (.ldg h d a imm size z) h s (c1.updStream k fun t => { t with popd := if h.pop then some h.tp else none })
            (.wait (.load d size z pa (c1.nextQ - 1))) 0)
      ∧ (∀ (v : Nat) (c1 : Core),
          c.writeData (c.sender s.cur.core k s.cycles) ad n ((c.stream k).getX d).toNat = .ok v c1 →
          Runs (.stg h d a imm size) h s c1 .seq 1)
      ∧ (ad % n ≠ 0 → (∀ z, Traps (.ldg h d a imm size z) s 0x07 (addrStatus ad)) ∧ Traps (.stg h d a imm size) s 0x07 (addrStatus ad))
      ∧ (ad % n = 0 → 2 ^ 48 ≤ ad → (∀ z, Traps (.ldg h d a imm size z) s 0x0C 5) ∧ Traps (.stg h d a imm size) s 0x0C 5)

/-- R114, R115: a head whose conditions all hold takes its counts and tokens and its stream goes on; one that names a
semaphore outside the job's window traps, and one that is not satisfied leaves the stream waiting at it. -/
def Obligations.HeadResults : Prop :=
  ∀ (s : State) (h : Head) (sp : HeadSpec) (c : Core), Issues s h c →
    (∀ c1, headTest (s.setCore s.cur.core c) s.cur.core s.cur.key h.tp sp = .ok c1 →
        Acts (.blkh h sp) h s ((s.setCore s.cur.core c).passHead s.cur.core (c.stream s.cur.key) sp c1) .seq 1
          ∧ (¬(sp.greg ≠ 0 ∧ sp.sync.acq = true ∧ sp.sync.scope ∈ [.die, .device, .system]) → Runs (.blkh h sp) h s c1 .seq 1))
      ∧ (sp.scnt ≠ 0 → (c.job (c.stream s.cur.key).job).semSize ≤ sp.sem → s.cur.key ≠ 24 →
          Traps (.blkh h sp) s 0x0E (2 ^ 8 + sp.sem % 2 ^ 8))
      ∧ (headTest (s.setCore s.cur.core c) s.cur.core s.cur.key h.tp sp = .unsat →
          Completes (.blkh h sp) s fun t => ((t.core s.cur.core).stream s.cur.key).wait = .head (.blkh h sp)
            ∧ ((t.core s.cur.core).stream s.cur.key).pc = s.self.pc)

/-- R123, R124: SSIG's addition lands in the clock after issue, with its release before and its acquire behind; SSET replaces
the count, SGET reads it as it stood when the clock began; a semaphore outside the job's window traps. R125: MARK places one
marker for each engine of its mask where the job has a stream, unless eight stand there; MJOIN goes on when no marker of its
slot stands. -/
def Obligations.SemaphoreAndMarkerResults : Prop :=
  (∀ (s : State) (h : Head) (n a d : Nat) (c : Core), Issues s h c →
     let k := s.cur.key
     let b := c.job (c.jobOf k)
     let v := ((c.stream k).getX a).toNat
     (b.semSize ≤ n → (∀ m sy, Traps (.ssig h n m sy) s 0x0E (2 ^ 8 + n % 2 ^ 8))
         ∧ Traps (.sset h n a) s 0x0E (2 ^ 8 + n % 2 ^ 8) ∧ Traps (.sget h d n) s 0x0E (2 ^ 8 + n % 2 ^ 8))
       ∧ (n < b.semSize →
           (∀ (m : Nat) (sy : Sync), (sy.rel = true → c.released k s.cycles sy.scope = true) →
             let c1 := if sy.acq then c.acquire s.cur.core sy.scope else c
             Runs (.ssig h n m sy) h s { c1 with pending := c1.pending ++ [⟨k, 1, .sem (b.semBase + n) m (c.stream k).pc, 0, 1⟩] }
               .seq 1)
           ∧ (v < 2 ^ 32 → Runs (.sset h n a) h s (c.setSem (b.semBase + n) v) .seq 1)
           ∧ (2 ^ 32 ≤ v → Traps (.sset h n a) s 0x11 0)
           ∧ Runs (.sget h d n) h s
               (c.result k 1 (.x d (BitVec.ofNat 64 (mget 0 c.semStart (b.semBase + n)))) 0) .seq 1))
    ∧ (∀ (s : State) (h : Head) (j m : Nat) (c : Core), Issues s h c →
          let k := s.cur.key
          let b := c.job (c.jobOf k)
          let ms := ((List.range 6).filter (bit m)).filterMap (c.marker k j)
          ((∀ x ∈ ms, (b.markers.filter fun y => y.eng == x.eng).length < 8) →
              Runs (.mark h j m) h s (c.updJob (c.jobOf k) fun b => { b with markers := b.markers ++ ms }) .seq 1)
            ∧ ((∀ x ∈ b.markers, ¬(x.key = k ∧ x.join = j)) → Runs (.mjoin h j) h s c .seq 1))

/-- R21, R127: GJOIN makes its stream a member of its channel's group, the first one opening a phase with it; GLEAVE takes it
out of the group, which goes on without it; a ninth membership and a channel of no group trap. R22, R128: GARV and GBAR
arrive at the open phase of a group of which their stream is a member, once, after their release, which carries what their die's
packets follow (R60); GARV answers the phase's number, GBAR waits for the phase. -/
def Obligations.GroupResults : Prop :=
  (∀ (s : State) (h : Head) (ch : Nat) (c : Core), Issues s h c →
     let k := s.cur.key
     let cid := s.cur.core
     let e := (c.job (c.jobOf k)).cap ch
     let g := e.lo % 2 ^ 12
     let s1 := s.setCore cid c
     ((e.valid = false ∨ e.kind ≠ 1) → Traps (.gjoin h ch) s 0x0E (ch % 2 ^ 8) ∧ Traps (.gleave h ch) s 0x0E (ch % 2 ^ 8))
       ∧ (e.valid = true → e.kind = 1 →
           (g ∈ (c.stream k).groups → Acts (.gjoin h ch) h s s1 .seq 1)
             ∧ (g ∉ (c.stream k).groups → 8 ≤ (c.stream k).groups.length → Traps (.gjoin h ch) s 0x0E (ch % 2 ^ 8))
             ∧ (g ∉ (c.stream k).groups → (c.stream k).groups.length < 8 →
                 Acts (.gjoin h ch) h s (s1.joinGroup cid k g) .seq 1
                   ∧ (s1.joinGroup cid k g).group g = (if (s.group g).members = [] then { members := [(cid, k)], expect := [(cid, k)] }
                       else { s.group g with members := (s.group g).members ++ [(cid, k)] })
                   ∧ ((s1.joinGroup cid k g).core cid).stream k
                       = { c.stream k with groups := (c.stream k).groups ++ [g] })
             ∧ Acts (.gleave h ch) h s (s1.leaveGroup cid k g (c.stream k).pc) .seq 1
             ∧ ((cid, k) ∈ (s.group g).members → (s.group g).members.filter (· != (cid, k)) ≠ [] →
                 (s1.leaveGroup cid k g (c.stream k).pc).group g = { s.group g with
                   members := (s.group g).members.filter (· != (cid, k)), expect := (s.group g).expect.filter (· != (cid, k)),
                   arrived := (s.group g).arrived.filter (· != (cid, k)) })))
    ∧ (∀ (s : State) (h : Head) (d ch : Nat) (sy : Sync) (c : Core), Issues s h c →
          let k := s.cur.key
          let cid := s.cur.core
          let e := (c.job (c.jobOf k)).cap ch
          let g := e.lo % 2 ^ 12
          let s1 := s.setCore cid c
          let s2 := s1.setGroup g { s.group g with
            arrived := (s.group g).arrived ++ [(cid, k)]
            vec := if sy.rel = true ∧ sy.scope ∈ [.die, .device, .system]
              then clockMax (s.group g).vec (s.die (cid / 16)).clock else (s.group g).vec }
          e.valid = true → e.kind = 1 →
          (g ∉ (c.stream k).groups → Traps (.garv h d ch sy) s 0x0E (ch % 2 ^ 8) ∧ Traps (.gbar h d ch sy) s 0x0E (ch % 2 ^ 8))
            ∧ (g ∈ (c.stream k).groups → (sy.rel = true → c.released k s.cycles sy.scope = true) → (cid, k) ∉ (s.group g).arrived →
                Acts (.garv h d ch sy) h s ((s2.updCore cid fun c => if sy.acq then c.acquire cid sy.scope else c).updCore cid
                    fun c => c.result k 1 (.x d (BitVec.ofNat 64 (s.group g).phase)) 0) .seq 1
                  ∧ Acts (.gbar h d ch sy) h s s2 (.wait (.gbar d g (s.group g).phase sy.acq sy.scope)) 1))

/-- R126, R129, R130: MPOST sends the descriptor at xA through its channel and waits for the answer; CKPT waits at its
rendezvous; PLANE answers for the staged plane. -/
def Obligations.PostAndPlaneResults : Prop :=
  ∀ (s : State) (h : Head) (c : Core), Issues s h c →
    let k := s.cur.key
    (∀ (d a ch : Nat) (cp : Cap), let off := ((c.stream k).getX a).toNat
        mpostCheck c (c.job (c.jobOf k)) off ch = .ok cp → c.released k s.cycles .device = true →
        let c1 := c.updJob (c.jobOf k) fun b => b.charge ch 64
        Runs (.mpost h d a ch) h s
          (c1.post (c.sender s.cur.core k s.cycles)
            (sysPacket .post cp.coreNo cp.jslot c.nextQ (c.spadRead off 64) []) (.post k) (dieOf cp.coreNo) none none)
          (.wait (.post d)) 1)
      ∧ (∀ (a n : Nat), Runs (.ckpt h a n) h s c (.wait (.ckpt n ((c.stream k).getX a).toNat)) 1)
      ∧ ∀ (d a : Nat), let v := ((c.stream k).getX a).toNat
        (v < 2 ^ 16 → Runs (.planeQuery h d a) h s (c.result k 1 (.x d (BitVec.ofNat 64 c.planeWord)) 0) .seq 1)
          ∧ (c.privileged k = false → Traps (.planeStage h d a) s 0x03 0x4B ∧ Traps (.planeDrop h d a) s 0x03 0x4B)
          ∧ (c.privileged k = true → v < 2 ^ 16 →
              (c.planeSt = 2 → Runs (.planeStage h d a) h s (c.result k 1 (.x d 1) 0) .seq 1
                ∧ Runs (.planeDrop h d a) h s (c.result k 1 (.x d 1) 0) .seq 1)
              ∧ (c.planeSt ≠ 2 →
                  (s.planeBad (dieOf s.cur.core) v = true → Traps (.planeStage h d a) s 0x12 4)
                  ∧ (s.planeBad (dieOf s.cur.core) v = false → s.planeRecord (dieOf s.cur.core) v = none →
                      Runs (.planeStage h d a) h s (c.result k 1 (.x d 2) 0) .seq 1)
                  ∧ (∀ r, s.planeRecord (dieOf s.cur.core) v = some r →
                      Runs (.planeStage h d a) h s (({ c with
                        staged := applyRecord r.1 r.2 c.staged, planeSt := 1, rbLast := false } : Core).result k 1 (.x d 0) 0) .seq 1)
                  ∧ Runs (.planeDrop h d a) h s
                      (({ c with staged := c.active, planeSt := 0 } : Core).result k 1 (.x d 0) 0) .seq 1))

/-- R132, R149: RFT ends the handler and thaws the core in the next clock: with TRAP_CAUSE as it was the stream goes on at
TRAP_PC, or behind it with SKIP; cause 0x16 of a job with PRE switches the job out unless a trap has stopped it already (R150);
another assigned cause stops the job in the program class with ORIG the first one, and one that is not assigned stops it with cause
0x01 and HFAIL; outside the wick core RFT traps. R132: after RFT the trapped stream stands at TRAP_PC, or one instruction behind it,
and the core thaws in the next clock. -/
def Obligations.ReturnFromFault : Prop :=
  (∀ (s : State) (h : Head) (skip : Bool) (c : Core), Issues s h c →
     let b := c.job c.trapJob
     (s.cur.eng ≠ .wick → Traps (.rft h skip) s 0x03 0xF0)
       ∧ (s.cur.eng = .wick →
           let orig := { b.trap with eng := setFld b.trap.eng 16 8 c.trapCause }
           (b.trap.cause = c.trapCause → Runs (.rft h skip) h s ((c.rftStream skip).restoreTrap c.trapJob).thawNext .gone 1)
           ∧ (b.trap.cause ≠ c.trapCause → b.st = .saved →
               Runs (.rft h skip) h s (c.dropFault.restoreTrap c.trapJob).thawNext .gone 1)
           ∧ (b.trap.cause ≠ c.trapCause → b.st ≠ .saved → b.trap.cause = 0x16 → descPre b.desc = true →
               (b.st = .stopping → Runs (.rft h skip) h s (c.dropFault.restoreTrap c.trapJob).thawNext .gone 1)
               ∧ (b.st ≠ .stopping → Runs (.rft h skip) h s
                   ((c.updJob c.trapJob fun b => { b with trap := orig }).switchOut c.trapJob 0x16).thawNext .gone 1))
           ∧ (b.trap.cause ≠ c.trapCause → b.st ≠ .saved → ¬(b.trap.cause = 0x16 ∧ descPre b.desc = true) →
               (1 ≤ b.trap.cause → b.trap.cause ≤ 0x18 →
                 Runs (.rft h skip) h s (c.dropFault.recordFault s.cycles c.trapJob orig).thawNext .gone 1)
               ∧ ((b.trap.cause = 0 ∨ 0x18 < b.trap.cause) →
                 Runs (.rft h skip) h s (c.dropFault.recordFault s.cycles c.trapJob
                   { b.trap with cause := 0x01, eng := b.trap.eng ||| 2 ^ 15 }).thawNext .gone 1))))
    ∧ (∀ (c : Core) (skip : Bool), c.trapKey ≠ 24 → c.trapCmd = false → (c.stream c.trapKey).we.hook.running = false →
          let pc0 := (c.job c.trapJob).trap.pc
          let d := (c.rftStream skip).thawNext
          d.thaw = true ∧ (d.stream c.trapKey).pc = (if skip then (pc0 + instrLen (engOf c.trapKey)) % 2 ^ 48 else pc0)
            ∧ (∀ n, (d.stream c.trapKey).getX n = (c.stream c.trapKey).getX n) ∧ (d.stream 24).st = .stopped)

/-- R133, R155: RESUME starts a HELD job; CTXSV puts the lines of the image of a STOPPED job into the drain buffer; CTXLD reads an
image through the core's port, and makes its job HELD or answers 1; what the image fails traps; a job slot that is none, or in
another state, traps with cause 0x0C. -/
def Obligations.ContextResults : Prop :=
  ∀ (s : State) (h : Head) (c : Core), Issues s h c →
    let k := s.cur.key
    let cid := s.cur.core
    let s1 := s.setCore cid c
    (∀ a : Nat, let j := ((c.stream k).getX a).toNat
        (j < 8 → (c.job j).st = .held → Acts (.resume h a) h s (s1.resumeJob cid j) .seq 1)
          ∧ ((8 ≤ j ∨ (c.job j).st ≠ .held) → Traps (.resume h a) s 0x0C 3))
      ∧ (∀ a b : Nat, let va := ((c.stream k).getX a).toNat
          let j := ((c.stream k).getX b).toNat
          (∀ c1 pas, va % 4096 = 0 → j < 8 → (c.job j).st = .stopped → let bs := s1.imageOf cid j (s1.capture cid j)
              c.xlatPieces k true (pieces va bs.length) = .ok c1 pas →
              Runs (.ctxsv h a b) h s (c1.drainImage (c1.sender cid k s.cycles) (pas.map some) bs) .seq 1)
            ∧ (va % 4096 ≠ 0 → Traps (.ctxsv h a b) s 0x07 (addrStatus va))
            ∧ (va % 4096 = 0 → (8 ≤ j ∨ (c.job j).st ≠ .stopped) → Traps (.ctxsv h a b) s 0x0C 3))
      ∧ ∀ d a b : Nat, let va := ((c.stream k).getX a).toNat
        let j := ((c.stream k).getX b).toNat
        ((8 ≤ j ∨ (c.job j).st ≠ .free) → Traps (.ctxld h d a b) s 0x0C 3)
          ∧ (j < 8 → (c.job j).st = .free → va % 4096 ≠ 0 → Traps (.ctxld h d a b) s 0x07 (addrStatus va))
          ∧ ∀ c1 hd, j < 8 → (c.job j).st = .free → va % 4096 = 0 → let w := c.sender cid k s.cycles
            c.readImage w va 256 = .ok c1 hd →
            (∀ e : ImgErr, headerCheck hd = .error e → Traps (.ctxld h d a b) s e.trap.1 e.trap.2)
              ∧ ∀ c2 bs, headerCheck hd = .ok () → c1.readImage w va (256 + bodyLen hd) = .ok c2 bs →
                (∀ e : ImgErr, s1.plainBody cid hd (bs.drop 256) = .error e → Traps (.ctxld h d a b) s e.trap.1 e.trap.2)
                  ∧ ∀ body, s1.plainBody cid hd (bs.drop 256) = .ok body → let s2 := s1.setCore cid c2
                    (s2.restoreHeld cid j (Sys2Proof.Machine.readImage hd body) = none →
                        Acts (.ctxld h d a b) h s (s2.updCore cid fun c => c.result k 1 (.x d 1) 0) .seq 1)
                      ∧ ∀ s3, s2.restoreHeld cid j (Sys2Proof.Machine.readImage hd body) = some s3 →
                        Acts (.ctxld h d a b) h s (s3.updCore cid fun c => c.result k 1 (.x d 0) 0) .seq 1

/-- R134: what each TLBI takes out of the translation buffers of its core, or of every core of its die. R135, R136: the key
slots of the die, and capability and tenant records written from 16 and 32 bytes of source material. -/
def Obligations.TranslationAndTableResults : Prop :=
  (∀ (s : State) (h : Head) (a : Nat) (die : Bool) (c : Core), Issues s h c →
     let k := s.cur.key
     let cid := s.cur.core
     let va := ((c.stream k).getX a).toNat
     let o := if die then (List.range 16).map (16 * (cid / 16) + ·) else [cid]
     let each := fun (f : Core → Core) (t : State) => ∀ j ∈ o, j ≠ cid → t.core j = f (s.core j)
     (∃ t, Acts (.tlbiDataAll h a die) h s t .seq 1 ∧ (t.core cid).dtlb = [] ∧ (t.core cid).itlb = c.itlb
         ∧ each (fun c => { c with dtlb := [], misses := c.misses.filter fun e => 2 ^ 32 ≤ e.page,
                                   missWait := c.missWait.filter fun e => 2 ^ 32 ≤ e.page }) t)
       ∧ (∃ t, Acts (.tlbiInstrAll h a die) h s t .seq 1 ∧ (t.core cid).itlb = [] ∧ (t.core cid).dtlb = c.dtlb
           ∧ each (fun c => { c with itlb := [], misses := c.misses.filter fun e => e.page < 2 ^ 32,
                                     missWait := c.missWait.filter fun e => e.page < 2 ^ 32 }) t)
       ∧ (va < 2 ^ 48 → ∃ t, Acts (.tlbiDataPage h a die) h s t .seq 1 ∧ (t.core cid).itlb = c.itlb
           ∧ ∀ j ∈ o, ∀ e ∈ (t.core j).dtlb, ¬(e.dt = c.dtOf k ∧
               (if e.large then e.page / 32 = va / 2 ^ 21 else e.page = va / 2 ^ 16)))
       ∧ (va < 2 ^ 48 → ∃ t, Acts (.tlbiInstrPage h a die) h s t .seq 1 ∧ (t.core cid).dtlb = c.dtlb
           ∧ ∀ j ∈ o, ∀ e ∈ (t.core j).itlb,
               ¬(e.root = (c.stream (if k = 24 then c.trapKey else k)).fetchRoot ∧ e.page = va / 2 ^ 18))
       ∧ (2 ^ 48 ≤ va → Traps (.tlbiDataPage h a die) s 0x0C 5 ∧ Traps (.tlbiInstrPage h a die) s 0x0C 5))
    ∧ (∀ (s : State) (h : Head) (a b d : Nat) (c : Core), Issues s h c →
          let k := s.cur.key
          let cid := s.cur.core
          let s1 := s.setCore cid c
          let n := ((c.stream k).getX a).toNat
          let v := ((c.stream k).getX b).toNat
          (n < 4096 →
              (∀ bs, sysBytes s c v 64 = .ok bs → ∃ t, Acts (.keyopLoad h d a b) h s t .seq 1
                  ∧ mget none (t.die (cid / 16)).keys n = some (leBytes bs)
                  ∧ ∀ m, m ≠ n → mget none (t.die (cid / 16)).keys m = mget none (s.die (cid / 16)).keys m)
              ∧ (∃ t, Acts (.keyopDestroy h d a b) h s t .seq 1 ∧ mget none (t.die (cid / 16)).keys n = none
                  ∧ ∀ m, m ≠ n → mget none (t.die (cid / 16)).keys m = mget none (s.die (cid / 16)).keys m)
              ∧ Acts (.keyopQuery h d a b) h s (s1.setCore cid (c.result k 1
                  (.x d (if (mget none (s.die (cid / 16)).keys n).isSome then 1 else 0)) 0)) .seq 1)
            ∧ (4096 ≤ n → Traps (.keyopLoad h d a b) s 0x0C 3 ∧ Traps (.keyopDestroy h d a b) s 0x0C 3
                ∧ Traps (.keyopQuery h d a b) s 0x0C 3)
            ∧ (∀ bs ch, sysBytes s c v 16 = .ok bs → let e : Cap := ⟨leBytes (bs.drop 8), leBytes (bs.take 8)⟩
                let put := fun m => mput 0 (9 + 2 * ch) (BitVec.ofNat 64 e.hi) (mput 0 (8 + 2 * ch) (BitVec.ofNat 64 e.lo) m)
                (e.ok = true → n < 8 → (c.job n).st ≠ .free → Runs (.capw h ch false a b) h s
                    (c.updJob n fun b => { b with sec := put b.sec }) .seq 1)
                  ∧ (e.ok = true → n = 0 → Runs (.capw h ch true a b) h s { c with staged := put c.staged } .seq 1)
                  ∧ (e.ok = false → n < 8 → Traps (.capw h ch false a b) s 0x0C 3 ∧ Traps (.capw h ch true a b) s 0x0C 3))
            ∧ ∀ bs, sysBytes s c v 32 = .ok bs →
                (n < 16 → tenantOk (leBytes bs) = true →
                  Runs (.tnset h false a b) h s { c with active := putAll (dwordsAt (136 + 4 * n) bs) c.active } .seq 1
                    ∧ Runs (.tnset h true a b) h s { c with staged := putAll (dwordsAt (136 + 4 * n) bs) c.staged } .seq 1)
                ∧ ((16 ≤ n ∨ tenantOk (leBytes bs) = false) →
                    Traps (.tnset h false a b) s 0x0C 3 ∧ Traps (.tnset h true a b) s 0x0C 3))

/-- R213, R214: SDEF and SLVL read a record from the job's regions and check it, SREL empties a register and unbinds what it
bound. R215: SFIB starts a dense stream at an index, or a fibre of a level under a parent position, in range. -/
def Obligations.StreamRegisterResults : Prop :=
  (∀ (s : State) (h : Head) (c : Core), Issues s h c →
     let k := s.cur.key
     let t := c.stream k
     let b := c.job t.job
     (∀ (d a : Nat) (imm : Int), let ad := addrOf c k a imm
         let rec64 := leBytes (c.spadRead ad 64)
         let rec32 := leBytes (c.spadRead ad 32)
         (ad % 64 ≠ 0 → Traps (.sdef h d a imm) s 0x07 (addrStatus ad))
           ∧ (ad % 64 = 0 → b.inRegions ad 64 = false → Traps (.sdef h d a imm) s 0x0E 0x3FF)
           ∧ (ad % 64 = 0 → b.inRegions ad 64 = true → ((t.sreg d).tied = true ∨ descOk rec64 = false) →
               Traps (.sdef h d a imm) s 0x0D 0)
           ∧ (ad % 64 = 0 → b.inRegions ad 64 = true → (t.sreg d).tied = false → descOk rec64 = true →
               Runs (.sdef h d a imm) h s
                 (c.updStream k fun t => t.setSreg d { valid := true, desc := rec64, done := false }) .seq 1)
           ∧ (ad % 32 = 0 → b.inRegions ad 32 = true →
               ((t.sreg d).tied = true ∨ (t.sreg d).valid = false ∨ dDims (t.sreg d).desc ≠ 1 ∨ 4 ≤ (t.sreg d).levels.length
                 ∨ levelOk rec32 = false) → Traps (.slvl h d a imm) s 0x0D 0)
           ∧ (ad % 32 = 0 → b.inRegions ad 32 = true → (t.sreg d).tied = false → (t.sreg d).valid = true →
               dDims (t.sreg d).desc = 1 → (t.sreg d).levels.length < 4 → levelOk rec32 = true →
               Runs (.slvl h d a imm) h s (c.updStream k fun u => u.setSreg d
                 { t.sreg d with levels := (t.sreg d).levels ++ [rec32], mode := 1, done := false }) .seq 1))
       ∧ ∀ (a : StOpnd) (n : Nat), StOpnd.idx a t = .ok n →
           ((t.sreg n).bound.isSome = true → Traps (.srel h a) s 0x0D 0)
             ∧ ((t.sreg n).bound = none →
                 Runs (.srel h a) h s (c.updStream k fun u => (u.unbindOps (t.sreg n)).setSreg n {}) .seq 1))
    ∧ (∀ (s : State) (h : Head) (c : Core) (a : StOpnd) (b lvl n : Nat), Issues s h c →
          let k := s.cur.key
          let t := c.stream k
          let g := t.sreg n
          let p := (t.getX b).toNat
          StOpnd.idx a t = .ok n →
          ((g.valid = false ∨ g.tied = true) → Traps (.sfib h a b lvl) s 0x0D 0)
            ∧ (g.valid = true → g.tied = false → g.mode = 0 → lvl = 0 →
                (p < dTotal g.desc → Runs (.sfib h a b lvl) h s
                    (c.updStream k fun t => t.setSreg n { g with idx := p, done := false }) .seq 1)
                ∧ (dTotal g.desc ≤ p → Traps (.sfib h a b lvl) s 0x0C 1))
            ∧ (g.valid = true → g.tied = false → g.mode ≠ 0 → lvl < g.levels.length →
                (positions g.levels lvl ≤ p → Traps (.sfib h a b lvl) s 0x0C 1)
                ∧ ∀ f e, p < positions g.levels lvl → (s.rdr c).fibre (dSpace g.desc) (g.levels.getD lvl 0) p = .ok f →
                    (s.rdr c).empty (dSpace g.desc) (g.levels.getD lvl 0) f = .ok e →
                    Runs (.sfib h a b lvl) h s (c.updStream k fun t =>
                      t.setSreg n { ({ g with lvl := lvl } : StReg).setFib f with done := e }) .seq 1))

/-- R216: SINT and SUNI bind two levelled registers with a started fibre to a third, which becomes their co-iterator. R217,
R218: SSKIP moves a walk to a target, whose element has to lie in its space; SPOS and SCRD answer where it stands, with all ones where it has ended. -/
def Obligations.WalkResults : Prop :=
  (∀ (s : State) (h : Head) (c : Core) (d a b : Nat), Issues s h c →
     let k := s.cur.key
     let t := c.stream k
     let ok := fun (g : StReg) => g.valid = true ∧ g.mode = 1 ∧ g.bound = none ∧ g.fib.isSome = true
     let made := fun (mode : Nat) =>
       (((t.unbindOps (t.sreg d)).setSreg d { valid := true, mode := mode, opA := a, opB := b }).setSreg a
         { t.sreg a with bound := some d }).setSreg b { t.sreg b with bound := some d }
     ((a = b ∨ a = d ∨ b = d ∨ (t.sreg d).bound.isSome = true ∨ ¬ok (t.sreg a) ∨ ¬ok (t.sreg b)) →
         Traps (.sint h d a b) s 0x0D 0 ∧ Traps (.suni h d a b) s 0x0D 0)
       ∧ (a ≠ b → a ≠ d → b ≠ d → (t.sreg d).bound = none → ok (t.sreg a) → ok (t.sreg b) →
           ∀ m ∈ [2, 3], ∀ w e, (made m).walker d = .ok w → (s.rdr c).finished w = .ok e →
             Runs (if m = 2 then .sint h d a b else .suni h d a b) h s
               (c.updStream k fun _ => (made m).setSreg d { (made m).sreg d with done := e }) .seq 1))
    ∧ (∀ (s : State) (h : Head) (c : Core) (a : StOpnd) (n : Nat) (w : SWalk), Issues s h c →
          let k := s.cur.key
          let t := c.stream k
          let r := s.rdr c
          StOpnd.idx a t = .ok n → t.walker n = .ok w →
          (∀ (b : Nat) (v : SWalk) (e : Bool), r.skipTo (t.getX b).toNat w = .ok v →
              (v ≠ w → r.ontoWalk t n v = .ok ()) → r.finished v = .ok e →
              Runs (.sskip h a b) h s (c.updStream k fun t => t.moveTo n v e) .seq 1)
            ∧ (∀ (d : Nat) (side : Bool) (e : Option Nat × Option Nat), r.spot w = .ok e → (side = true → 2 ≤ (t.sreg n).mode) →
                let v := match w with
                  | .dense _ i => i
                  | .level _ l f => e.1.getD (f.endPos l)
                  | .pair _ => (if side then e.2 else e.1).getD (2 ^ 64 - 1)
                Runs (.spos h d a side) h s (c.result k 2 (.x d (BitVec.ofNat 64 v)) 0) .seq 2)
            ∧ (∀ (d : Nat), (t.sreg n).mode < 2 → Traps (.spos h d a true) s 0x02 0x46)
            ∧ (∀ (d dim : Nat), (t.sreg n).mode ≠ 0 → dim ≠ 0 → Traps (.scrd h d a dim) s 0x02 0x47)
            ∧ ∀ (d dim : Nat) (e : Option Elt), r.peek w = .ok e →
                ((t.sreg n).mode ≠ 0 → dim = 0) → ((t.sreg n).mode = 0 → dim < dDims (t.sreg n).desc) →
                let v := match e with
                  | none => 2 ^ 64 - 1
                  | some x => if (t.sreg n).mode = 0 then (denseCoords (t.sreg n).desc (t.sreg n).idx).getD dim 0 else x.c
                Runs (.scrd h d a dim) h s (c.result k 2 (.x d (BitVec.ofNat 64 v)) 0) .seq 2)

/-- R219, R220: LDQ, LDQC and LDQA deliver up to xB elements of a walk as one entry that lands two clocks after issue; DONE
of the walk goes to pD, and the walk advances unless KEEP. R221: STQ takes a queue entry's elements, narrowed under NAR, and
stores them through a dense stream, which moves on. -/
def Obligations.QueueTransferResults : Prop :=
  (∀ (s : State) (h : Head) (c : Core) (q : Nat) (a : StOpnd) (b : Nat) (p : Option Nat) (keep : Bool) (n : Nat) (w : SWalk)
     (es : List Elt) (v : SWalk) (fin : Bool), Issues s h c →
     let k := s.cur.key
     let t := c.stream k
     let m := (t.getX b).toNat
     let r := s.rdr c
     StOpnd.idx a t = .ok n → t.walker n = .ok w → c.queueCheck (c.job t.job) [] (some q) = none →
     r.take m w = .ok (es, v) → r.finished v = .ok fin → 0 < m →
     let lands := fun (ls : List Nat) (cnt fl : Nat) =>
       let c1 := if keep then c else c.updStream k fun t => t.moveTo n v fin
       let c2 := (c1.reserveQ q (mkVec ls cnt)).1.result k 2 (.q q c1.nextQ (mkVec ls cnt)) fl
       match p with
       | none => c2
       | some i => c2.result k 2 (.p i fin) 0
     (m ≤ 128 → (t.sreg n).mode ≠ 0 →
         ((∀ e ∈ es, ∀ x, (e.a = some x ∨ e.b = some x) → x < 2 ^ 32) →
             Runs (.ldqc h q a b p keep) h s (lands (es.map fun e => e.c % 2 ^ 32) es.length 0) .seq 2)
           ∧ ∀ side, (side = true → 2 ≤ (t.sreg n).mode) →
               (∀ e ∈ es, ∀ x, (if side then e.b else e.a) = some x → x < 2 ^ 32) →
               Runs (.ldqa h q a b p keep side) h s
                 (lands (es.map fun e => (if side then e.b else e.a).getD (2 ^ 32 - 1)) es.length 0) .seq 2)
       ∧ ∀ (wid side : Bool) (xs : List (Option (Nat × Nat))),
           let (d, lv) := t.sideDesc n side
           let bits := fmtBits (dFmt d)
           let zero := if dFmt d = 6 then 0x08 else 0
           t.ldqOk n = true → (side = true → 2 ≤ (t.sreg n).mode) → r.elems d lv side es = .ok xs →
           ((t.sreg n).mode ≠ 0 → ∀ e ∈ es, ∀ x, (if side then e.b else e.a) = some x → x < 2 ^ 32) →
           (wid = false → m ≤ (if bits = 64 then 64 else 128 * (32 / bits)) →
               Runs (.ldq h q a b p false keep side) h s
                 (lands (packCodes bits (xs.map fun x => (x.map Prod.fst).getD zero)).1
                   (packCodes bits (xs.map fun x => (x.map Prod.fst).getD zero)).2 0) .seq 2)
             ∧ (wid = true → m ≤ 128 → 1 ≤ dFmt d → dFmt d < 12 →
                 Runs (.ldq h q a b p true keep side) h s
                   (lands ((xs.map (widCode t.rm (dFmt d))).map Prod.fst) xs.length
                     (((xs.map (widCode t.rm (dFmt d))).map Prod.snd).foldl (· ||| ·) 0)) .seq 2))
    ∧ (∀ (s : State) (h : Head) (c c1 : Core) (d : StOpnd) (q b n : Nat) (peek nar sat : Bool), Issues s h c →
          let k := s.cur.key
          let t := c.stream k
          let g := t.sreg n
          let f := dFmt g.desc
          let bits := fmtBits f
          let m := (t.getX b).toNat
          let e := ((c.queue q).head.map QEnt.vector).getD ([], 0)
          let ls := e.1.take e.2 ++ List.replicate (128 - e.2) 0
          let out := (List.range m).map fun i =>
            if nar then narrow t.rm t.f8ns sat f (ls.getD i 0)
            else if bits = 64 then (ls.getD (2 * i) 0 + 2 ^ 32 * ls.getD (2 * i + 1) 0, 0)
            else (fld (ls.getD (i / (32 / bits)) 0) (bits * (i % (32 / bits))) bits, 0)
          let fl := (out.map Prod.snd).foldl (· ||| ·) 0
          StOpnd.idx d t = .ok n → g.valid = true → g.mode = 0 → dScl g.desc = false → (nar = true → bits ≠ 4) →
          (sat = true → nar = true ∧ 6 < f) → c.queueCheck (c.job t.job) [(q, !peek)] none = none →
          0 < m → m ≤ (if nar then e.2 else if bits = 64 then e.2 / 2 else e.2 * (32 / bits)) → g.idx + m ≤ dTotal g.desc →
          stqStore s c g.desc (elemWrites g.desc g.idx (out.map Prod.fst)) = .ok c1 →
          let c2 := (c1.popQueues [(q, !peek)]).updStream k fun t =>
            t.moveTo n (.dense g.desc (g.idx + m)) (dTotal g.desc ≤ g.idx + m)
          Runs (.stq h d q peek b nar sat) h s (if fl = 0 then c2 else c2.result k 1 .none fl) .seq 1)

/-- R222, R223: LOOPT loops over what remains of a walk, in bodies of k elements; PRF asks for the lines of up to xB elements
and raises nothing. R228: BFXP.set keeps a pattern that the rules of R200 allow; BFXP extracts its fields from n records and
pushes one entry for each to consecutive queues. -/
def Obligations.StreamLoopAndFieldResults : Prop :=
  (∀ (s : State) (h : Head) (c : Core) (a : StOpnd) (n : Nat), Issues s h c →
     let t := c.stream s.cur.key
     StOpnd.idx a t = .ok n →
     (∀ (off k m : Nat) (w : SWalk), t.walker n = .ok w → (s.rdr c).remaining (t.sreg n).done w = .ok m →
         let cnt := (m + k - 1) / k
         let fin := (t.pc + 8 * off) % 2 ^ 48
         (cnt = 0 → Runs (.loopt h a off k) h s c (.skip ((fin + 8) % 2 ^ 48)) 1)
           ∧ (cnt ≠ 0 → t.loops.length < 4 → Runs (.loopt h a off k) h s
               (c.setStream s.cur.key { t with loops := ⟨(t.pc + 8) % 2 ^ 48, fin, cnt, 0, 0⟩ :: t.loops }) .seq 1))
       ∧ ∀ b : Nat,
           let as_ := (s.aheadAddrs (c.dtOf s.cur.key) t n (min (t.getX b).toNat 4096)).filter fun x =>
             0 ≤ x && x < (2 ^ 48 : Int)
           Runs (.prf h a b) h s { c with pref := c.pref ++ ((as_.map fun x => x.toNat / 64 * 64).eraseDups).map fun l =>
             { key := s.cur.key, va := l, pc := t.pc } } .seq 1)
    ∧ (∀ (s : State) (h : Head) (c : Core), Issues s h c →
          let k := s.cur.key
          let t := c.stream k
          (∀ a bp : Nat, let w := t.getX a
              (bpOk w.toNat = false → Traps (.bfxpSet h a bp) s 0x0D 0)
                ∧ (bpOk w.toNat = true →
                    Runs (.bfxpSet h a bp) h s (c.updStream k fun t => { t with bps := mput 0 bp w t.bps }) .seq 1))
            ∧ ∀ q a b bp : Nat,
              let v := (mget 0 t.bps bp).toNat
              let src := (t.getX a).toNat
              let n := (t.getX b).toNat
              let fs := bpFields v
              let nb := (n * bpWidth v + 7) / 8
              (v = 0 → Traps (.bfxp h q a b bp) s 0x0D 0)
                ∧ (v ≠ 0 → (n = 0 ∨ 128 < n ∨ 7 < q + fs.length - 1) → Traps (.bfxp h q a b bp) s 0x0C 3)
                ∧ (v ≠ 0 → 0 < n → n ≤ 128 → q + fs.length - 1 ≤ 7 → (c.job t.job).inRegions src nb = true →
                    (∀ i < fs.length, c.queueCheck (c.job t.job) [] (some (q + i)) = none) →
                    Runs (.bfxp h q a b bp) h s (bpPush k q (fs.map (bpEntry v (leBytes (c.spadRead src nb)) n)) c) .seq 6))

/-- R224: LLS joins the fill path, with its push when its last byte is written; its geometry and its source are checked. R225
to R227: MRGB clears the merge state, but for the clocks until the tree accepts an MRGE, and names its queues, MRGI adds a leaf of the current fibre with its scale, MRGE
delivers the next coordinates and their sums. -/
def Obligations.LaneFillAndMergeResults : Prop :=
  (∀ (s : State) (h : Head) (c : Core) (a b st : Nat), Issues s h c →
     let k := s.cur.key
     let t := c.stream k
     let src := (t.getX a).toNat
     let g := (t.getX b).toNat
     let stride := (t.getX st).toNat
     ((geoOk g = false ∨ 2 ^ 19 ≤ stride ∨ ∃ f ∈ c.fills, f.key = k) → Traps (.lls h a b st) s 0x0C 3)
       ∧ (geoOk g = true → stride < 2 ^ 19 → (∀ f ∈ c.fills, f.key ≠ k) →
           (∀ i < (geoOf g).nl, (c.job t.job).inRegions (src + i * stride) (geoOf g).nc = true) →
           Runs (.lls h a b st) h s { c with fills := c.fills ++
             [⟨k, src, g, stride, 0, false, if h.push then some h.tp else none⟩] } .late 1))
    ∧ (∀ (s : State) (h : Head) (c : Core), Issues s h c →
          let k := s.cur.key
          let t := c.stream k
          let job := c.job t.job
          (∀ (q q2 : Nat) (int : Bool),
              ((bit job.qmask q = false → Traps (.mrgb h q q2 int) s 0x0E (2 ^ 9 + q % 2 ^ 8))
                ∧ (bit job.qmask q = true → bit job.qmask q2 = false → Traps (.mrgb h q q2 int) s 0x0E (2 ^ 9 + q2 % 2 ^ 8))
                ∧ (bit job.qmask q = true → q = q2 → Traps (.mrgb h q q2 int) s 0x0D 0)
                ∧ (bit job.qmask q = true → bit job.qmask q2 = true → q ≠ q2 →
                    Runs (.mrgb h q q2 int) h s (c.updStream k fun t => { t with
                      merge := some ⟨int, q, q2, [], (t.merge.map Merge.busy).getD 0⟩ }) .seq 1)))
            ∧ (∀ (a : StOpnd) (b n : Nat) (m : Merge) (f : Fib), StOpnd.idx a t = .ok n → t.merge = some m →
                let g := t.sreg n
                (t.getX b).toNat < 2 ^ 32 → g.valid = true → g.mode = 1 → g.bound = none → g.innermost = true → g.fib = some f →
                (64 ≤ m.leaves.length → Traps (.mrgi h a b) s 0x0C 3)
                  ∧ (m.leaves.length < 64 → (m.int = true → 6 < dFmt g.desc) →
                      Runs (.mrgi h a b) h s (c.updStream k fun t => { t with
                        merge := some { m with leaves := m.leaves ++ [⟨g.desc, g.lrec, f, (t.getX b).toNat⟩] } }) .seq 1))
            ∧ ∀ (b : Nat) (p : Option Nat) (m : Merge) (cs vs : List Nat) (fl : Nat) (ls : List Leaf) (hs : List Bool),
                let n := (t.getX b).toNat
                t.merge = some m → 0 < n → n ≤ 128 → m.busy = 0 → c.queueCheck job [] (some m.q1) = none →
                c.queueCheck job [] (some m.q2) = none → (s.rdr c).merge m.int t.rm n m.leaves = .ok (cs, vs, fl, ls) →
                ls.mapM (s.rdr c).leafMore = .ok hs →
                let c1 := c.updStream k fun t => { t with merge := some { m with leaves := ls, busy := (n + 7) / 8 } }
                let (c2, l1) := c1.reserveQ m.q1 (mkVec cs cs.length)
                let (c3, l2) := (c2.result k 18 l1 0).reserveQ m.q2 (mkVec vs vs.length)
                let c4 := c3.result k 18 l2 fl
                Runs (.mrge h b p) h s
                  (match p with | none => c4 | some i => c4.result k 18 (.p i (hs.all fun x => !x)) 0) .seq 18)

/-- R233 to R235: element-wise floating arithmetic forms the exact result and rounds once, in four clocks; the functions of
one operand take twelve. -/
def Obligations.FloatingResults : Prop :=
  ∀ (s : State) (h : Head) (d : VDst) (a b c : VSrc) (r : Option Rm) (f : VFmt),
    let fm := opFmt f
    let md := fltMode f
    VecEls (.vfadd h d a b r f) h s 4 d [a, b] f md (fun t x y _ => fm.fin (r.getD t.rm) ((fm.dec x).add (r.getD t.rm) (fm.dec y)))
      ∧ VecEls (.vfsub h d a b r f) h s 4 d [a, b] f md
          (fun t x y _ => fm.fin (r.getD t.rm) ((fm.dec x).add (r.getD t.rm) (fm.dec y).neg))
      ∧ VecEls (.vfmul h d a b r f) h s 4 d [a, b] f md (fun t x y _ => fm.fin (r.getD t.rm) ((fm.dec x).mul (fm.dec y)))
      ∧ VecEls (.vfma h d a b c f) h s 4 d [a, b, c] f md (fun t => fFma fm t.rm false false)
      ∧ VecEls (.vfms h d a b c f) h s 4 d [a, b, c] f md (fun t => fFma fm t.rm false true)
      ∧ VecEls (.vfnma h d a b c f) h s 4 d [a, b, c] f md (fun t => fFma fm t.rm true false)
      ∧ VecEls (.vfmin h d a b f) h s 4 d [a, b] f md (fun _ x y _ => fMinMax fm false x y)
      ∧ VecEls (.vfmax h d a b f) h s 4 d [a, b] f md (fun _ x y _ => fMinMax fm true x y)
      ∧ VecEls (.vlog2 h d a f) h s 12 d [a] f md (fun _ x _ _ => fLog2 x)
      ∧ VecEls (.vexp2 h d a f) h s 12 d [a] f md (fun _ x _ _ => fExp2 x)
      ∧ VecEls (.vrcp h d a f) h s 12 d [a] f md (fun _ x _ _ => fRcp x)
      ∧ VecEls (.vrsq h d a f) h s 12 d [a] f md (fun _ x _ _ => fRsq x)

/-- R234: a comparison answers a mask of ones and zeros by element, or whether any or all of lanes 0 to N - 1 hold. R236 to
R238: conversion, scaling by a power of two and packing into block-scaled formats. -/
def Obligations.ComparisonAndConversionResults : Prop :=
  (∀ (s : State) (h : Head) (a b : VSrc) (f : VFmt) (cd : VCond),
     let ones := 2 ^ elemW f.esz - 1
     let fop := fun (x y _ : Nat) =>
       (if (fCmp (opFmt f) cd x y).1 then ones else 0, (fCmp (opFmt f) cd x y).2)
     let iop := fun (x y _ : Nat) => (if intCmp cd (intEl f x) (intEl f y) then ones else 0, 0)
     let els := fun (o : VOut) (v : VIn) => (o.lanes.take v.n).flatMap (unpackLanes (elemW f.esz) (lanesN f.esz))
     (∀ d, VecEls (.vfcmp h (.mask d) cd a b f) h s 2 d [a, b] f (fltMode f) (fun _ => fop)
         ∧ VecEls (.vcmp h (.mask d) cd a b f) h s 2 d [a, b] f (intMode f) (fun _ => iop))
       ∧ ∀ p : Nat,
         let fo := elemOut (fltMode f) f 2 fop
         let io := elemOut (intMode f) f 2 iop
         VecScalar (.vfcmp h (.any p) cd a b f) h s 2 [a, b] (fun _ v => .p p ((els (fo v) v).any (· != 0))) (fun v => (fo v).flags)
           ∧ VecScalar (.vfcmp h (.all p) cd a b f) h s 2 [a, b] (fun _ v => .p p ((els (fo v) v).all (· != 0)))
               (fun v => (fo v).flags)
           ∧ VecScalar (.vcmp h (.any p) cd a b f) h s 2 [a, b] (fun _ v => .p p ((els (io v) v).any (· != 0)))
               (fun v => (io v).flags)
           ∧ VecScalar (.vcmp h (.all p) cd a b f) h s 2 [a, b] (fun _ v => .p p ((els (io v) v).all (· != 0)))
               (fun v => (io v).flags))
    ∧ (∀ (s : State) (h : Head) (d : VDst) (a b : VSrc) (src : Fmt) (ti : Bool) (r : Option Rm) (f : VFmt),
          VecRuns (.vcvt h d a src ti r f) h s 4 d [a] (fun t => cvtOut t src ti (r.getD t.rm) f)
            ∧ VecRuns (.vpks h d a r f) h s 8 d [a] (fun t => pksOut (r.getD t.rm) f)
            ∧ VecRuns (.vscl h d a b r f) h s 4 d [a, b] (fun t v =>
                let fa : VFmt := { f with bmod := 0 }
                let x := v.els (fltMode fa) f.esz 0 f.amod
                let k := v.els ⟨none, true⟩ f.esz 1 f.bmod
                let fm := opFmt fa
                let rs := zipEls (fun p q _ => fm.enc (r.getD t.rm) true
                  ((fm.dec p).scale (max (-4096) (min 4096 (sextN (elemW f.esz) q))))) x.1 k.1 x.1
                ⟨toLanes (elemW f.esz) (lanesN f.esz) (rs.map Prod.fst), v.n, orAll (x.2 :: rs.map Prod.snd)⟩))

/-- R239: element-wise integer arithmetic forms the exact integer and wraps it, or clamps it where the instruction saturates;
logic and shifts by element. R240 to R246: selecting, moving, broadcasting, permuting, lane numbers, hashing and extraction. -/
def Obligations.IntegerAndMoveResults : Prop :=
  (∀ (s : State) (h : Head) (d : VDst) (a b c : VSrc) (f : VFmt),
     let w := elemW f.esz
     let z := intEl f
     let two := fun (i : Instr) (op : Nat → Nat → Nat × Nat) =>
       VecEls i h s 2 d [a, b] f (intMode f) (fun _ x y _ => op x y)
     two (.vadd h d a b f) (fun x y => (uI w (z x + z y), 0))
       ∧ two (.vsub h d a b f) (fun x y => (uI w (z x - z y), 0))
       ∧ two (.vmul h d a b f) (fun x y => narrowI (f.fmt == 0) w f.sat (z x * z y))
       ∧ two (.vmulh h d a b f) (fun x y => (uI w (z x * z y / 2 ^ w), 0))
       ∧ VecEls (.vmad h d a b c f) h s 2 d [a, b, c] f (intMode f)
           (fun _ x y u => narrowI (f.fmt == 0) w f.sat (z x * z y + z u))
       ∧ two (.vadds h d a b f) (fun x y => narrowI (f.fmt == 0) w true (z x + z y))
       ∧ two (.vsubs h d a b f) (fun x y => narrowI (f.fmt == 0) w true (z x - z y))
       ∧ two (.vand h d a b f) (fun x y => (x &&& y, 0))
       ∧ two (.vor h d a b f) (fun x y => (x ||| y, 0))
       ∧ two (.vxor h d a b f) (fun x y => (x ^^^ y, 0))
       ∧ two (.vshl h d a b f) (fun x y => (if w ≤ y then 0 else x * 2 ^ y % 2 ^ w, 0))
       ∧ two (.vshr h d a b f) (fun x y => (if w ≤ y then 0 else x / 2 ^ y, 0))
       ∧ two (.vsra h d a b f) (fun x y => (uI w (sextN w x / 2 ^ (if w ≤ y then w - 1 else y)), 0))
       ∧ two (.vmin h d a b f) (fun x y => (if z x ≤ z y then x else y, 0))
       ∧ two (.vmax h d a b f) (fun x y => (if z y ≤ z x then x else y, 0)))
    ∧ (∀ (s : State) (h : Head) (d : VDst) (a b c : VSrc) (n k : Nat) (f : VFmt),
          let im := intMode f
          VecEls (.vsel h d a b c f) h s 2 d [a, b, c] f im (fun _ x y z => (if z = 0 then y else x, 0))
            ∧ VecEls (.vmov h d a f) h s 2 d [a] f im (fun _ x _ _ => (x, 0))
            ∧ VecEls (.vhash h d a b f) h s 3 d [a, b] f im (fun _ x y _ => (hashLane x y, 0))
            ∧ VecRuns (.vli h d n f.esz) h s 2 d [] (fun _ _ =>
                ⟨List.replicate 128 (packLanes (elemW f.esz) (List.replicate (lanesN f.esz) n) % 2 ^ 32), 128, 0⟩)
            ∧ VecRuns (.vbcst h d a k f) h s 2 d [a] (fun _ v => ⟨List.replicate 128 ((v.arg 0).getD k 0 % 2 ^ 32), 128, 0⟩)
            ∧ VecRuns (.vbcstX h d n f) h s 2 d [] (fun t _ => ⟨List.replicate 128 ((t.getX n).toNat % 2 ^ 32), 128, 0⟩)
            ∧ VecRuns (.vperm h d a b f) h s 3 d [a, b] (fun _ v => ⟨(v.arg 1).map fun i => (v.arg 0).getD i 0, v.n, 0⟩)
            ∧ VecRuns (.vrot h d a k f) h s 3 d [a] (fun _ v => ⟨(v.arg 0).drop k ++ (v.arg 0).take k, v.n, 0⟩)
            ∧ VecRuns (.vlane h d n f) h s 2 d [] (fun t _ =>
                ⟨(List.range 128).map fun i => ((t.getX n).toNat + i) % 2 ^ 32, 128, 0⟩)
            ∧ ∀ x e : Nat, VecScalar (.vext h x a k e f) h s 2 [a]
                (fun _ v => .x x (BitVec.ofInt 64 (intEl f (fld ((v.arg 0).getD k 0) (elemW f.esz * e) (elemW f.esz))))) (fun _ => 0))

/-- R247, R248: reductions over lanes 0 to N - 1 in the order of the tree of R47, with the value for no lane. R249: VACR
reads accumulator slots as they stand, VACW's slots land two clocks after issue; an index past the store traps. -/
def Obligations.ReductionAndAccumulatorResults : Prop :=
  (∀ (s : State) (h : Head) (d : VDst) (a b : VSrc) (r : Option Rm) (f : VFmt),
     let val := fun (x : Nat) => if f.fmt = 0 then sextN 32 x else (x : Int)
     VecRuns (.vradd h d a f) h s 8 d [a] (fun _ v =>
         let q := (reduce (intMode f) f (fun x => (uI 32 (intEl f x), 0))
           (fun x y => narrowI (f.fmt == 0) 32 f.sat (val x + val y)) v).getD (0, 0)
         ⟨List.replicate 128 (q.1 % 2 ^ 32), 128, q.2⟩)
       ∧ VecRuns (.vrfadd h d a r f) h s 8 d [a] (fun t v =>
           let q := (reduce (fltMode f) f (widenF (opFmt f) ffF32) (fAdd ffF32 (r.getD t.rm)) v).getD (0x80000000, 0)
           ⟨List.replicate 128 (q.1 % 2 ^ 32), 128, q.2⟩)
       ∧ (∀ mn : Bool, VecRuns (.vrmax h d a mn true f) h s 8 d [a] (fun _ v =>
             match reduce (fltMode f) f (fun x => (x, 0)) (fMinMax (opFmt f) (!mn)) v with
             | none => ⟨List.replicate 128 0x7FC00000, 128, 0⟩
             | some q => ⟨List.replicate 128 ((widenF (opFmt f) ffF32 q.1).1 % 2 ^ 32), 128, q.2 ||| (widenF (opFmt f) ffF32 q.1).2⟩)
           ∧ VecRuns (.vrmax h d a mn false f) h s 8 d [a] (fun _ v =>
             match reduce (intMode f) f (fun x => (x, 0)) (fun x y =>
                 (if mn then (if intEl f x ≤ intEl f y then x else y) else (if intEl f x ≤ intEl f y then y else x), 0)) v with
             | none => ⟨List.replicate 128 (uI 32 (if mn then intHi (f.fmt == 0) (elemW f.esz)
                 else intLo (f.fmt == 0) (elemW f.esz)) % 2 ^ 32), 128, 0⟩
             | some q => ⟨List.replicate 128 (uI 32 (intEl f q.1) % 2 ^ 32), 128, 0⟩))
       ∧ ∀ (big : Bool) (p : Option Nat) (c : Core), Issues s h c → c.vcheck s.cur.key [a, b] (VDst.push? d) = none →
           let v := c.vread s.cur.key [a, b]
           let x := v.els (fltMode f) f.esz 0 f.amod
           let xs := x.1.take v.n
           let best := (xs.zip (v.arg 1)).foldl (fun q e => bestLane big q e.1 e.2) none
           let fl := x.2 ||| (if xs.any fun e => (ffF32.dec e).isSnan then fNV else 0)
           let c1 := (c.vpop [a, b]).vwrite s.cur.key 8 d
             ((best.getD (0x7FC00000, 0xFFFFFFFF)).1 :: (best.getD (0x7FC00000, 0xFFFFFFFF)).2 :: List.replicate 126 0) 2 fl
           Runs (if big then .vrmaxi h d a b p f else .vrmini h d a b p f) h s
             (match p with | none => c1 | some n => c1.result s.cur.key 8 (.p n best.isNone) 0) .seq 8)
    ∧ (∀ (s : State) (h : Head) (c : Core) (d : VDst) (x : Nat) (a : VSrc) (l : Int), Issues s h c →
          let k := s.cur.key
          let t := c.stream k
          let base := (t.getX x).toNat
          let v := c.vread k [a]
          let slot := fun (i : Nat) => c.accRead .ve (base + i)
          let conv := ((v.arg 0).take v.n).map fun e => (ffF32.dec e).toFx t.rm l
          let land := fun (c0 : Core) (mode : Nat) (vs : List (Int × Bool)) (fl : Nat) =>
            (vs.foldl (fun (q : Core × Nat) u => (q.1.result k 2 (.acc q.2 mode u.1 u.2) 0, q.2 + 1)) (c0.result k 2 .none fl, base)).1
          (c.vcheck k [] (VDst.push? d) = none →
              (131072 < base + 128 → Traps (.vacrF32 h d x l) s 0x0C 5)
                ∧ (131072 < base + 64 → Traps (.vacrRaw h d x l) s 0x0C 5)
                ∧ (base + 128 ≤ 131072 →
                    let rs := (List.range 128).map fun i =>
                      let e := ffF32.enc t.rm true (.ofScaled (slotAcc (slot i)) l)
                      (e.1, e.2 ||| (if slotSat (slot i) then fSAT else 0))
                    Runs (.vacrF32 h d x l) h s (c.vwrite k 8 d (rs.map Prod.fst) 128 (orAll (rs.map Prod.snd))) .seq 8)
                ∧ (base + 64 ≤ 131072 → Runs (.vacrRaw h d x l) h s
                    (c.vwrite k 8 d ((List.range 64).flatMap fun i => [slot i % 2 ^ 32, slot i / 2 ^ 32]) 128 0) .seq 8))
            ∧ (c.vcheck k [a] none = none →
                (conv ≠ [] → 131072 < base + conv.length → Traps (.vacwF32 h x a l) s 0x0C 5 ∧ Traps (.vacwAdd h x a l) s 0x0C 5)
                  ∧ ((conv = [] ∨ base + conv.length ≤ 131072) →
                      let vs := conv.map fun r => (r.1, accClamps r.1)
                      let fl := orAll (conv.map fun r => r.2 ||| (if accClamps r.1 then fSAT ||| fIX else 0))
                      Runs (.vacwF32 h x a l) h s (land (c.vpop [a]) 0 vs fl) .seq 2
                        ∧ Runs (.vacwAdd h x a l) h s (land (c.vpop [a]) 1 vs fl) .seq 2)
                  ∧ ((v.n < 2 ∨ base + v.n / 2 ≤ 131072) →
                      Runs (.vacwRaw h x a l) h s (land (c.vpop [a]) 2 ((List.range (v.n / 2)).map fun j =>
                        ((((v.arg 0).getD (2 * j) 0 + 2 ^ 32 * (v.arg 0).getD (2 * j + 1) 0 : Nat) : Int), false)) 0) .seq 2)))

/-- R250, R251: LOOPQ takes its count from a queue's head; VQLEN tests how many entries or places a queue has. -/
def Obligations.QueueTestResults : Prop :=
  ∀ (s : State) (h : Head) (c : Core), Issues s h c →
    let key := s.cur.key
    let t := c.stream key
    (∀ (q : Nat) (peek : Bool) (off k n : Nat) (e : QEnt),
        let src := if peek then VSrc.peek q else .pop q
        c.vcheck key [src] none = none → (c.queue q).head = some e →
        ((∃ ls m, e = .vec ls m ∧ n = (m + k - 1) / k) ∨ ∃ v, e = .sca v ∧ k = 1 ∧ n = v.toNat) →
        let fin := (t.pc + 8 * off) % 2 ^ 48
        (n = 0 → Runs (.loopq h q peek off k) h s (c.vpop [src]) (.skip ((fin + 8) % 2 ^ 48)) 1)
          ∧ (n ≠ 0 → t.loops.length < 4 → Runs (.loopq h q peek off k) h s ((c.vpop [src]).setStream key
              { t with loops := ⟨(t.pc + 8) % 2 ^ 48, fin, n, 0, 0⟩ :: t.loops }) .seq 1))
      ∧ ∀ p q n : Nat,
        (bit (c.job t.job).qmask q = false →
            Traps (.vqlen h p q n) s 0x0E (2 ^ 9 + q % 2 ^ 8) ∧ Traps (.vqlenZero h p q) s 0x0E (2 ^ 9 + q % 2 ^ 8))
          ∧ (bit (c.job t.job).qmask q = true →
              Runs (.vqlen h p q n) h s (c.result key 2
                (.p p (decide (n ≤ if q < 8 then (c.queue q).presentN else (c.queue q).freeN))) 0) .seq 2
              ∧ Runs (.vqlenZero h p q) h s (c.result key 2 (.p p (match (c.queue q).head with
                | some (.vec _ m) => m == 0
                | _ => false)) 0) .seq 2)

/-- R257 to R260, R288 to R291: WNOP does nothing; a term bundle needs an open row and adds its products to the row register
in the masked lanes, clamping after each addition; WF builds a factor that lands two clocks after issue. -/
def Obligations.WeightTermResults : Prop :=
  ∀ (s : State) (h : WHead) (c : Core), IssuesWe s h c →
    let w := (c.stream s.cur.key).we
    let ls := w.mask
    let row := fun v => c.updStream s.cur.key fun t => { t with we := v }
    RunsB (.wnop h) h s c .seq 1
      ∧ (∀ (m : WMode) (d : Nat) (sl : WSlots),
          let cols := (slotCols sl).map fun p => (c.column p.1 ls, p.2)
          (w.opn = false → Traps (.wt h m d sl) s 0x0C 3)
            ∧ (w.opn = true → RunsB (.wt h m d sl) h s (row
                { cols.foldl (fun w p => w.addRow ls (p.1.map fun b => weightVal m p.2 d * actVal w.seg.e4m3 b)) w with
                  nv := w.nv || anyNan w.seg.e4m3 (cols.map Prod.fst) }) .seq 1))
      ∧ (∀ (m : WMode) (code d : Nat) (sl : WSlots),
          let cols := (slotCols sl).map fun p => c.column p.1 ls
          (w.opn = false → Traps (.wg h m code d sl) s 0x0C 3)
            ∧ (w.opn = true → RunsB (.wg h m code d sl) h s (row
                { w.addRow ls ((sumCols ls.length w.seg.e4m3 (cols.map fun bs => (1, bs))).map (weightVal m code d * ·)) with
                  nv := w.nv || anyNan w.seg.e4m3 cols }) .seq 1))
      ∧ (∀ (m : WMode) (d : Nat) (sl : WSlots),
          (w.opn = false → Traps (.wtf h m d sl) s 0x0C 3)
            ∧ (w.opn = true → RunsB (.wtf h m d sl) h s (row
                ((validSlots sl).foldl (fun w p => w.addRow ls ((w.factor p.2.off ls).map (weightVal m p.2.code d * ·))) w))
                .seq 1))
      ∧ ∀ (acc : Bool) (k : Nat) (sl : WSlots),
          let cols := (slotCols sl).map fun p => (sextN 8 p.2, c.column p.1 ls)
          let vs := List.zipWith (· + ·) (if acc then w.factor k ls else ls.map fun _ => 0) (sumCols ls.length w.seg.e4m3 cols)
          let fs := mbulk (2 ^ 24) (ls.zip (vs.map fun v => uI 24 (clampI (-(2 ^ 23)) (2 ^ 23 - 1) v))) []
          RunsB (.wf h acc k sl) h s (c.result s.cur.key 2 (.f k (mreads (2 ^ 24) (List.range 1024) fs))
            ((if vs.any fun v => v < -(2 ^ 23) || 2 ^ 23 - 1 < v then fSAT else 0)
              ||| (if anyNan w.seg.e4m3 (cols.map Prod.snd) then fNV else 0))) .seq 2

/-- R262, R263, R292: a WROW ends the open row and opens the next; a row with a flush goes to the flush path, which writes it
into the accumulator row of its segment, and holds the bundle while an earlier flush is still writing. -/
def Obligations.RowResults : Prop :=
  ∀ (s : State) (h : WHead) (f : WFlush) (o : Bool) (en : Int) (c : Core), IssuesWe s h c →
    let k := s.cur.key
    let w := (c.stream k).we
    let c1 := c.updStream k fun t => { t with we := t.we.openRow o en }
    (w.hook.act = true → Traps (.wrow h f o en) s 0x01 0x05)
      ∧ (w.hook.act = false →
          (w.opn = false → RunsB (.wrow h f o en) h s c1 .seq 1)
            ∧ (w.opn = true → f = .none → w.rowFlags = 0 → RunsB (.wrow h f o en) h s c1 .seq 1)
            ∧ (w.opn = true → f = .none → w.rowFlags ≠ 0 → RunsB (.wrow h f o en) h s
                { c1 with pending := c1.pending ++ [⟨k, 1, .none, w.rowFlags, 1⟩] } .seq 1)
            ∧ (w.opn = true → f ≠ .none → c.flushing = false →
                let row := mreads 0 (List.range 1024) w.row
                let vs := row.map fun r => flushVal w.seg w.e (slotAcc r)
                let c2 := c1.updStream k fun t => { t with we := { t.we with seg := { t.we.seg with nfl := t.we.seg.nfl + 1 } } }
                RunsB (.wrow h f o en) h s
                  { c2 with flushes := c2.flushes ++ [⟨k, w.seg.accbase + w.seg.nfl % w.seg.accrows, f == .add,
                    (vs.map Prod.fst).zip (row.map slotSat), s.cycles, 0,
                    w.rowFlags ||| (if vs.any Prod.snd then fIX else 0), if h.push then some h.tp else none⟩] } .late 8))

/-- R261, R267, R270, R293: a WSEG with a closed row takes its settings, passes its acquire and waits for its root records; its
checks. -/
def Obligations.SegmentResults : Prop :=
  ∀ (s : State) (h : WHead) (i : Instr) (g : Seg) (c : Core), IssuesWe s h c →
    let t := c.stream s.cur.key
    let w := t.we
    let b := c.job t.job
    (i = .wsegKeep h ∧ g = { w.seg with nfl := 0 } ∨
        ∃ (ab ar : Nat) (l : Int) (e : Bool) (rm : Rm), i = .wsegFull h ab ar l e rm ∧ g = ⟨ab, ar, l, e, rm, 0⟩) →
    (w.hook.act = true → Traps i s 0x01 0x06)
      ∧ (w.hook.act = false →
          (w.opn = true → Traps i s 0x0C 3)
            ∧ (w.opn = false → 128 < g.accbase + g.accrows → Traps i s 0x0C 3)
            ∧ (w.opn = false → g.accbase + g.accrows ≤ 128 → b.inRegions b.tmap 512 = false → Traps i s 0x0E 0x3FF)
            ∧ (w.opn = false → g.accbase + g.accrows ≤ 128 → b.inRegions b.tmap 512 = true →
                let own := if t.credit = s.self.credit then 0 else 8
                RunsB i h s ((c.updStream s.cur.key fun t => { t with we := { t.we with seg := g } }).acquire s.cur.core .device)
                  (.wait (.wseg (if h.pop then some (h.tp + own) else none) w.seg (c.laneMap b.tmap)
                    (mputs 0 0 ((List.range 16).map c.tenant) []))) 1))

/-- R271 to R273, R294, R295: WHOOK n enters the first adapter whose hook-vector dword is nonzero or goes on behind itself;
WLINK n must be the adapter's first bundle; WRET goes on with the next tenant. -/
def Obligations.HookResults : Prop :=
  ∀ (s : State) (h : WHead) (n : Nat) (c : Core), IssuesB s h c →
    let k := s.cur.key
    let cid := s.cur.core
    let t := c.stream k
    let s1 := s.setCore cid c
    let own := c.updStream k fun t => { t with owe := if h.push then some h.tp else none }
    let hk : Hook := { pc := t.pc, n := n, running := true }
    let was := t.we.hook
    let back := { was with act := false, entry := false }
    (t.we.hook.act = false → t.we.hook.running = false →
        (∀ r : Nat, s1.hookGo cid k n t.we 0 (t.we.hookTodo n 0) = .fin r →
            RunsB (.whook h n) h s (c.hookEnd k hk (s.cycles + 1 + r) 1) .gone (1 + r))
          ∧ (∀ i a r : Nat, s1.hookGo cid k n t.we 0 (t.we.hookTodo n 0) = .run i a r →
              RunsB (.whook h n) h s (own.updStream k fun t => t.enter hk i a (s.cycles + r + 2)) .kept 1)
          ∧ (∀ i r x st : Nat, s1.hookGo cid k n t.we 0 (t.we.hookTodo n 0) = .trap i r x st → Traps (.whook h n) s x st)
          ∧ Traps (.wret h) s 0x01 0x08
          ∧ Traps (.wlink h n) s 0x01 0x0C)
      ∧ (was.act = true → was.entry = true →
          (n = was.n → RunsB (.wlink h n) h s
              (c.updStream k fun t => { t with we := { t.we with hook := { t.we.hook with entry := false } } }) .seq 1)
            ∧ (n ≠ was.n → Traps (.wlink h n) s 0x0C 3)
            ∧ Traps (.wret h) s 0x0C 3)
      ∧ (was.act = true → was.entry = false →
          Traps (.whook h n) s 0x01 0x07
            ∧ Traps (.wlink h n) s 0x01 0x0C
            ∧ (∀ r : Nat, s1.hookGo cid k was.n t.we 0 (t.we.hookTodo was.n was.next) = .fin r →
                RunsB (.wret h) h s (c.hookEnd k back (s.cycles + 2 + r) 1) .gone 1)
            ∧ ∀ i a r : Nat, s1.hookGo cid k was.n t.we 0 (t.we.hookTodo was.n was.next) = .run i a r →
                RunsB (.wret h) h s (c.updStream k fun t => t.enter back i a (s.cycles + r + 3)) .gone 1)

/-- R296 to R299: WJMP jumps by bundles, with a link or back to it; WWAIT tests the block head that its fields name; WEND and
WRDZV take effect once the stream's flushes and factors have landed. An adapter may hold only the plain WJMP among them. -/
def Obligations.WeightControlResults : Prop :=
  ∀ (s : State) (h : WHead) (c : Core), IssuesWe s h c →
    let k := s.cur.key
    let cid := s.cur.core
    let t := c.stream k
    let s1 := s.setCore cid c
    (∀ (off : Int) (a : Nat), (t.pc : Int) + 32 * off = a → a < 2 ^ 48 →
        (∀ s2 : State, s1.fetchVa cid k t.fetchRoot a 32 ≠ .wait s2) →
        RunsB (.wjmp h off) h s (c.updStream k id) (.jump a) 1
          ∧ (t.we.hook.act = false → t.we.lr = 0 → RunsB (.wjmpLink h off) h s
              (c.updStream k fun t => { t with we := { t.we with lr := (t.pc + 32) % 2 ^ 48 } }) (.jump a) 1))
      ∧ (t.we.hook.act = true →
          (∀ off : Int, Traps (.wjmpLink h off) s 0x01 0x09) ∧ Traps (.wjmpRet h) s 0x01 0x09 ∧ Traps (.wend h) s 0x01 0x0A
            ∧ ∀ n : Nat, Traps (.wrdzv h n) s 0x01 0x0D)
      ∧ (t.we.hook.act = false →
          (∀ off : Int, t.we.lr ≠ 0 → Traps (.wjmpLink h off) s 0x0C 3)
            ∧ (t.we.lr = 0 → Traps (.wjmpRet h) s 0x0C 3)
            ∧ (t.we.lr ≠ 0 → t.we.lr < 2 ^ 48 → (∀ s2 : State, s1.fetchVa cid k t.fetchRoot t.we.lr 32 ≠ .wait s2) →
                RunsB (.wjmpRet h) h s (c.updStream k fun t => { t with we := { t.we with lr := 0 } }) (.jump t.we.lr) 1)
            ∧ (t.we.opn = true → Traps (.wend h) s 0x0C 3 ∧ ∀ n : Nat, Traps (.wrdzv h n) s 0x0C 3)
            ∧ (t.we.opn = false → c.workDone k s.cycles = true →
                ActsB (.wend h) h s (s1.endStream cid k) .gone 0
                  ∧ ∀ n : Nat, RunsB (.wrdzv h n) h s (c.returnCredit k) (.wait (.rdzv n)) 0)
            ∧ ∀ (sem scnt tcnt : Nat) (sy : Option Sync) (c1 : Core),
                headTest s1 cid k h.tp (wwaitHead sem scnt tcnt sy) = .ok c1 →
                RunsB (.wwait h sem scnt tcnt sy) h s c1 .seq 1)

/-- R383, R384, R387: ME commands whose operands keep their layout enter the stream's queue; MTW writes a word of the shadow
nest table at once. Other operands trap with cause 0x0C and subcode 3. -/
def Obligations.MatrixCommandResults : Prop :=
  (∀ (s : State) (h : Head) (a b : Nat) (c : Core), Issues s h c →
      let t := c.stream s.cur.key
      let i := (t.getX a).toNat
      let v := (t.getX b).toNat
      ((21 < i ∨ v &&& ntReserved i ≠ 0 ∨ (i = 0 ∧ v / 2 ^ 30 % 2 = 0 ∧ v / 2 ^ 28 % 2 ^ 2 ≠ 0)) → Traps (.mtw h a b) s 0x0C 3)
        ∧ (i ≤ 21 → v &&& ntReserved i = 0 → (i = 0 → v / 2 ^ 30 % 2 = 0 → v / 2 ^ 28 % 2 ^ 2 = 0) →
            (∀ m ∈ t.cmds, (∃ g k x, m.instr = .mgo g k x) → m.started = true ∧ m.at_ ≠ s.cycles) →
            Runs (.mtw h a b) h s
              (c.updStream s.cur.key fun t => { t with me := { t.me with shadow := mput 0 i v t.me.shadow } }) .seq 1))
    ∧ ∀ (h : Head) (k : KCtl) (d b : Nat),
      (∀ x : Bool, Queues (.mgo h k x) h k [] fun _ _ j v r => r = (j, v))
        ∧ (∀ x : Bool, Queues (.mrpr h k b x) h k [] fun _ _ j v r => r = (j, v))
        ∧ (∀ x : Bool, Queues (.mrst h k b x) h k [b] fun _ _ j v r => r = (j, v))
        ∧ ∀ (i : Instr) (P : Nat → Prop),
          (i = .mtws h k d b ∧ P = (fun v => v < 2 ^ 19)
            ∨ i = .mnms h k d b ∧ P = (fun v => v < 2 ^ 19)
            ∨ i = .mdrn h k d b ∧ P = (fun v => dcOk 0 v = true)
            ∨ i = .mbyp h k b ∧ P = (fun v => dcOk 1 v = true)
            ∨ i = .mzero h k b ∧ P = (fun v => dcOk 2 v = true)
            ∨ i = .mrqt h k d b ∧ P = (fun v => v < 2 ^ 6 ∧ (v / 4 % 2 = 1 ∨ v % 4 = 0))
            ∨ i = .midx h k d b ∧ P = (fun v => v / 2 ^ 19 % 2 ^ 13 = 0 ∧ v < 2 ^ 35)) →
          Queues i h k [b] (fun _ _ j v r => P (v.getD 0 0) ∧ r = (j, v)) ∧ Rejects i h k [b] fun v => ¬ P (v.getD 0 0)

/-- R332, R336 to R338, R345: the copies of XE with both ends checked enter the queue, and the job's channels are charged
with the length; words that break their layout trap. -/
def Obligations.CopyCommandResults : Prop :=
  ∀ (h : Head) (k : KCtl) (a b : Nat),
    let wd := fun (v : List Nat) => v.getD 0 0
    let ws := fun (v : List Nat) => v.getD 1 0
    let n := fun (v : List Nat) => v.getD 2 0
    let lenOk := fun (n u : Nat) => n ≠ 0 ∧ n ≤ 2 ^ 24 ∧ n % u = 0
    Queues (.xcp h k a b) h k [a, b, b + 1] (fun s _ j v r => epOk (wd v) true false false = true
        ∧ epOk (ws v) false false false = true ∧ lenOk (n v) 8
        ∧ s.Transfers j (wd v) (ws v) (n v) 8 [3, 4] [3, 4] Cap.send [] r)
      ∧ Rejects (.xcp h k a b) h k [a, b, b + 1] (fun v =>
          ¬ (epOk (wd v) true false false = true ∧ epOk (ws v) false false false = true) ∨ n v = 0 ∨ 2 ^ 24 < n v)
      ∧ Queues (.xcpg h k a b) h k [a, b, b + 1] (fun s _ j v r => epOk (wd v) true false false = true
          ∧ epOk (ws v) false false false = true ∧ epSpace (wd v) = 4 ∧ epSpace (ws v) ≠ 4 ∧ lenOk (n v) 8
          ∧ s.Transfers j (wd v) (ws v) (n v) 8 [0, 6] [] Cap.send [] r)
      ∧ Rejects (.xcpg h k a b) h k [a, b, b + 1] (fun v => epSpace (wd v) ≠ 4 ∨ epSpace (ws v) = 4 ∨ n v = 0)
      ∧ Queues (.xred h k a b) h k [a, b, b + 1] (fun s _ j v r => epOp (wd v) < 10 ∧ epOk (wd v) true true false = true
          ∧ epOk (ws v) false false false = true ∧ epSpace (wd v) = 4
          ∧ (epSpace (ws v) = 1 ∨ epSpace (ws v) = 2 ∧ epOp (wd v) = 3) ∧ lenOk (n v) 8
          ∧ s.Transfers j (wd v) (ws v) (n v) 8 [0, 6] [] Cap.red [] r
          ∧ (Cap.mk (r.2.getD 3 0) (r.2.getD 4 0)).base % redUnit (epOp (wd v)) = 0)
      ∧ ∀ (enc : Bool) (i : Instr), (enc = true ∧ i = .xkeyEnc h k a b ∨ enc = false ∧ i = .xkeyDec h k a b) →
          let loc := fun v => if enc then ws v else wd v
          let far := fun v => if enc then wd v else ws v
          Queues i h k [a, b, b + 1, b + 2] (fun s _ j v r => epOk (wd v) true false true = true
              ∧ epOk (ws v) false false true = true ∧ isLocal (epSpace (loc v)) = true
              ∧ (epSpace (far v) = 0 ∨ epSpace (far v) = 4) ∧ lenOk (n v) 512
              ∧ ∃ ck : Cap, s.chanCheck s.cur.core j (epCh (loc v)) [5] (if enc then Cap.send else Cap.repl) 0 0 (n v) = .ok ck
                ∧ s.Transfers (j.charge (epCh (loc v)) (n v)) (wd v) (ws v) (n v) 512 [4] [4] Cap.send
                  [v.getD 3 0, ck.lo % 2 ^ 12] r)
            ∧ Rejects i h k [a, b, b + 1, b + 2] fun v => isLocal (epSpace (loc v)) = false ∨ n v = 0 ∨ 2 ^ 24 < n v

/-- R339 to R342: XEXP, XARV, XSIGR, XSTEP and XPLN with valid words and channels enter the queue with what they keep. -/
def Obligations.BarrierCommandResults : Prop :=
  ∀ (h : Head) (k : KCtl) (a b : Nat),
    let w := fun (v : List Nat) => v.getD 0 0
    let x := fun (v : List Nat) => v.getD 1 0
    Queues (.xexp h k a b) h k [a, b] (fun _ _ j v r => barWordOk (w v) (x v) = true
        ∧ ((w v / 2 ^ 8 % 2 = 0 ∧ r = (j, v ++ [2 ^ 12]))
          ∨ (w v / 2 ^ 8 % 2 = 1 ∧ ∃ cp, j.chan (w v / 2 ^ 16 % 2 ^ 6) [1] (fun _ => true) = .ok cp
            ∧ r = (j, v ++ [cp.lo % 2 ^ 12]))))
      ∧ Queues (.xarv h k a b) h k [a, b] (fun s _ j v r => barWordOk (w v) (x v) = true
          ∧ ((w v / 2 ^ 8 % 2 = 0 ∧ r = (j, v ++ [0, 0, 0]))
            ∨ (w v / 2 ^ 8 % 2 = 1 ∧ ∃ cp, s.chanCheck s.cur.core j (w v / 2 ^ 16 % 2 ^ 6) [0, 6] Cap.sig 0 0 0 = .ok cp
              ∧ r = (j, v ++ [0, cp.hi, cp.lo]))))
      ∧ Queues (.xsigr h k a b) h k [a, b] (fun s _ j v r => w v < 2 ^ 6 ∧ x v / 2 ^ 8 % 2 ^ 8 = 0 ∧ x v < 2 ^ 28
          ∧ x v / 2 ^ 16 % 2 ^ 12 ≠ 0 ∧ ∃ cp, s.chanCheck s.cur.core j (w v) [0, 6] Cap.sig 0 0 0 = .ok cp
            ∧ r = (j, v ++ [0, cp.hi, cp.lo]))
      ∧ Queues (.xstep h k a) h k [a] (fun _ c j v r => w v < 2 ^ 6 ∧ ∃ cp, j.chan (w v) [1] Cap.send = .ok cp
          ∧ let es := c.slotsOf (cp.lo % 2 ^ 12)
            (∀ e ∈ es, j.inRegions (slSrc (e / 2 ^ 6)) (64 * slUnits (e / 2 ^ 6)) = true)
            ∧ let n := lsum (es.map fun e => 64 * slUnits (e / 2 ^ 6))
              cp.covers n = true ∧ r = (j.charge (w v) n, v ++ es))
      ∧ Queues (.xpln h k a b) h k [a, b] (fun s c j v r => w v < 2 ^ 6 ∧ ∃ cp n, j.chan (w v) [1] Cap.send = .ok cp
          ∧ recSize c j (x v) = .ok n
          ∧ let cs := s.groupCores s.cur.core (c.stream s.cur.key).job (cp.lo % 2 ^ 12)
            cp.covers (n * cs.length) = true ∧ r = (j.charge (w v) (n * cs.length), v ++ n :: cs))
      ∧ Rejects (.xexp h k a b) h k [a, b] (fun v => barWordOk (w v) (x v) = false)
      ∧ Rejects (.xarv h k a b) h k [a, b] (fun v => barWordOk (w v) (x v) = false)
      ∧ Rejects (.xsigr h k a b) h k [a, b] (fun v => 2 ^ 6 ≤ w v ∨ x v / 2 ^ 16 % 2 ^ 12 = 0)
      ∧ Rejects (.xstep h k a) h k [a] (fun v => 2 ^ 6 ≤ w v)
      ∧ Rejects (.xpln h k a b) h k [a, b] fun v => 2 ^ 6 ≤ w v

/-- R323, R343, R344: the carousel commands whose tile word names a domain of the core enter the queue; XQRY.ring without
waits and signals writes its register one clock after issue. -/
def Obligations.CarouselCommandResults : Prop :=
  ∀ (h : Head) (k : KCtl) (a b : Nat),
    (∀ (i : Instr) (perm : Cap → Bool) (n : Nat),
        (i = .xbrd h k a b ∧ perm = Cap.send ∧ n = 4096 ∨ i = .xalt h k a b ∧ perm = (fun _ => true) ∧ n = 0
          ∨ i = .xrep h k a b ∧ perm = Cap.repl ∧ n = 4096) →
        Queues i h k [a, b] fun s c j v r => tileCheck c j (v.getD 0 0) perm n = .ok r.1 ∧ r.2 = v
          ∧ epOk (v.getD 1 0) false false false = true ∧ isLocal (epSpace (v.getD 1 0)) = true
          ∧ ∃ cp, s.endCheck s.cur.core r.1 (v.getD 1 0) 4096 64 [] Cap.send = .ok cp)
      ∧ Queues (.xdrp h k a b) h k [a] (fun _ c j v r => tileCheck c j (v.getD 0 0) Cap.repl 0 = .ok r.1 ∧ r.2 = v)
      ∧ Queues (.xqryPeek h k a b) h k [a] (fun _ c j v r => tileCheck c j (v.getD 0 0) (fun _ => true) 0 = .ok r.1 ∧ r.2 = v)
      ∧ Rejects (.xdrp h k a b) h k [a] (fun v => 2 ^ 38 ≤ v.getD 0 0)
      ∧ Rejects (.xqryPeek h k a b) h k [a] (fun v => 2 ^ 38 ≤ v.getD 0 0)
      ∧ ∀ (s : State) (c : Core), Issues s h c →
          let plain := k.wait.isNone = true ∧ k.sig.isNone = true ∧ k.sync.acq = false ∧ k.sync.rel = false
          (plain → Runs (.xqryRing h k b) h s { c with
              pending := c.pending ++ [⟨s.cur.key, 1, .x b (BitVec.ofNat 64 (s.ringWord s.cur.core)), 0, 1⟩] } .seq 1)
            ∧ (¬ plain → let t := c.stream s.cur.key
                semCheck (c.job t.job) k = none → t.cmds.length < 16 →
                Runs (.xqryRing h k b) h s ((c.setJob t.job (c.job t.job)).enqueue s.cycles s.cur.key (.xqryRing h k b)
                  [s.ringWord s.cur.core]) .seq 1)

/-- R10, R11, R13, R15, R20, R22, R115, R181: what retiring, landing, a satisfied head, a rendezvous, the end of a job and a
marker do in the clock in which they are due. -/
def Obligations.StreamEvents : Prop :=
  (∀ (s : State) (cid k : Nat) (r : Retire),
      let c := s.core cid
      let f := fifoNo (r.key / 4) r.partner
      c.frozen = false → engOf k ∉ [Eng.va, .we] → c.retires.filter (fun x => x.key == k) = [r] → r.rem = 0 →
      (exposed (engOf r.key) = true ∨ c.fifoRoom r.job f = true) →
      exec (.instructionRetire cid k) s = .next (s.setCore cid
        { c with retires := ldel (· == r) c.retires, maturing := c.maturing ++ [⟨r.job, f, 2⟩] }))
    ∧ (∀ (s : State) (cid k n fl lat : Nat) (v : Word),
        let c := s.core cid
        c.frozen = false → c.pending = [⟨k, 0, .x n v, fl, lat⟩] →
        (((s.landTurn cid = none ∧ engOf k ∉ [Eng.va, .we]) ∨ (s.landTurn cid = some (engOf k) ∧ c.heldEng (engOf k) = false)) →
            Completes (.resultLands cid) s fun t => (t.core cid).pending = []
              ∧ ((t.core cid).stream k).getX n = (if n = 0 then 0 else v)
              ∧ ((t.core cid).stream k).flags = (c.stream k).flags ||| fl ∧ ∀ j, j ≠ cid → t.core j = s.core j)
          ∧ ∀ e : Eng, s.landTurn cid = some e → c.heldEng e = true →
              exec (.resultLands cid) s = .next (s.setCore cid (c.holdEng e)))
    ∧ (∀ (s : State) (h : Head) (sp : HeadSpec) (c c1 : Core),
        s.cur = ctxOf s.cur.core s.cur.key s.cur.tried → s.self.wait = .head (.blkh h sp) →
        s.headReady s.cur.core s.cur.key = true →
        (s.here.unpop s.cur.key).tokens s.cur.key h.tp h.pop h.push = .ok c →
        headTest (s.setCore s.cur.core c) s.cur.core s.cur.key h.tp sp = .ok c1 →
        Acts (.blockHeadSatisfied s.cur.core s.cur.key) h s
            ((s.setCore s.cur.core c).passHead s.cur.core (c.stream s.cur.key) sp c1) .seq 1
          ∧ (¬(sp.greg ≠ 0 ∧ sp.sync.acq = true ∧ sp.sync.scope ∈ [.die, .device, .system]) →
              Runs (.blockHeadSatisfied s.cur.core s.cur.key) h s c1 .seq 1))
    ∧ (∀ (s : State) (h : WHead) (sem sc tc : Nat) (sy : Option Sync) (c c1 : Core),
        s.cur = ctxOf s.cur.core s.cur.key s.cur.tried → s.self.wait = .head (.wwait h sem sc tc sy) →
        s.headReady s.cur.core s.cur.key = true →
        (s.here.unpop s.cur.key).tokens s.cur.key h.tp false h.push = .ok c →
        headTest (s.setCore s.cur.core c) s.cur.core s.cur.key h.tp (wwaitHead sem sc tc sy) = .ok c1 →
        RunsB (.blockHeadSatisfied s.cur.core s.cur.key) h s c1 .seq 1)
    ∧ (∀ (s : State) (cid j n : Nat),
        let c := s.core cid
        c.frozen = false → ((c.job j).st = .running ∨ (c.job j).st = .yielding) → c.rdzvAll j = some n →
        exec (.rendezvousRelease cid j) s = .next (s.releaseRdzv cid j n))
    ∧ (∀ (s : State) (cid j : Nat),
        let c := s.core cid
        ((c.job j).st = .running ∨ (c.job j).st = .yielding) → c.jobKeys j = [] →
        exec (.jobRetire cid j) s = .next (s.setCore cid
          (((c.updJob j fun b => { b with st := .retired }).event j ⟨descTag (c.job j).desc, 1, 0, j, 0, s.cycles⟩).reconsider)))
    ∧ ∀ (s : State) (cid k : Nat),
        let c := s.core cid
        let j := (c.stream k).job
        c.frozen = false → exec (.markerReachesHead cid k) s = .next (s.setCore cid (c.updJob j fun b =>
          { b with markers := b.markers.filter fun m => !(m.key == k && c.markerDone j m) }))

/-- R22, R86, R101 to R104, R115, R140, R142: phases, the watchdog, age, checkpoints, budgets, the forced switch and stops. -/
def Obligations.JobEvents : Prop :=
  (∀ (s : State) (g : Nat), let gr := s.group g
      gr.complete = true → Completes (.groupPhaseComplete g) s fun t =>
        t.group g = { gr with
          phase := (gr.phase + 1) % 2 ^ 16, expect := gr.members, arrived := [], vec := [], done := clockMax gr.done gr.vec })
    ∧ (∀ (s : State) (cid k : Nat),
        let c := s.core cid
        let t := c.stream k
        c.frozen = false → t.st = .live → t.watched = true → 2 ^ 24 ≤ t.waited →
        exec (.blockWatchdogExpiry cid k) s = .next (s.setCore cid (c.takeTrap s.cycles k 0x18 0)))
    ∧ (∀ (s : State) (cid k : Nat), 1024 ≤ ((s.core cid).stream k).age →
        Completes (.agePromotion cid k) s fun t => CoreStep s t cid
          ((s.core cid).updStream k fun t => { t with promoted := true }))
    ∧ (∀ (s : State) (cid j k n a : Nat),
        let c := s.core cid
        let b := c.job j
        let w := c.sender cid k s.cycles
        let ends := fun (u : State) => exec (.ckptConditionsMet cid j) s = .next u
        c.jobStream j 0 = some k → (c.stream k).wait = .ckpt n a → c.frozen = false → (b.st = .running ∨ b.st = .yielding) →
        c.ckptReady j k n = true →
        (a % 8 ≠ 0 → ends (s.setCore cid (c.takeTrap s.cycles k 0x07 (addrStatus a))))
          ∧ (a % 8 = 0 → ∀ (c1 : Core) (hd : List Byte), c.readTable w a 1 = .ok c1 hd →
              (2 ^ 8 ≤ leBytes hd → ends (s.setCore cid (c.takeTrap s.cycles k 0x02 opcCkpt)))
                ∧ (leBytes hd < 2 ^ 8 → ∀ (c2 : Core) (bs : List Byte), c1.readTable w (a + 8) (leBytes hd) = .ok c2 bs →
                    let es := (List.range (leBytes hd)).map fun i => leBytes ((bs.drop (8 * i)).take 8)
                    (∀ t, rangesCheck b es = .error t → ends (s.setCore cid (c.takeTrap s.cycles k t.1 t.2)))
                      ∧ ∀ rs, rangesCheck b es = .ok rs →
                          (b.st = .yielding → ends ((s.setCore cid c2).ckptSave cid j rs))
                            ∧ (b.st = .running → ends ((s.setCore cid c2).releaseRdzv cid j n)))))
    ∧ (∀ (s : State) (cid j : Nat),
        let c := s.core cid
        let b := c.job j
        let lead := (c.jobKeys j).headD 0
        c.frozen = false → b.st = .running → b.unlim = false → b.grace = false → b.remain = 0 → c.jobKeys j ≠ [] →
        (descPre b.desc = true → exec (.budgetOverrun cid j) s = .next (s.setCore cid
            (c.setJob j { b with st := .yielding, grace := true, remain := 65536, overrun := true, byLoader := false })))
          ∧ (descPre b.desc = false → exec (.budgetOverrun cid j) s = .next (s.setCore cid
              (c.recordTrap (s.cycles - 1) j (c.trapRecOf lead 0x15 0)))))
    ∧ (∀ (s : State) (cid j : Nat),
        let c := s.core cid
        let b := c.job j
        c.frozen = false → (b.st = .running ∨ b.st = .yielding) → b.unlim = false → b.grace = true → b.remain = 0 →
        c.jobKeys j ≠ [] →
        let s1 := s.setCore cid (c.switchOut j (if b.overrun then 0x15 else 0x16))
        let s2 := if (s1.core cid).switchReady j then s1.switchWrite cid j else s1
        exec (.graceExpiry cid j) s = .next (if (s2.core cid).switchDone j then s2.switchEnd cid j else s2))
    ∧ ∀ (s : State) (cid j : Nat),
        let c := s.core cid
        let b := c.job j
        b.st = .stopping → b.trapClk ≠ some s.cycles → c.jobQuiet j s.cycles = true →
        let c1 := (c.stopStreams j).updJob j fun b => { b with st := .stopped }
        exec (.programTrapStop cid j) s = .next (s.setCore cid
          (c1.event j ⟨descTag (c1.job j).desc, 2, b.trap.cause, j, 0, s.cycles⟩))

/-- R139, R141, R145, R146, R148, R204, R266: local faults freeze the core, a handler may last 2^24 clocks, and a
page that the wick core itself cannot reach fails its handler; an ended walk serves every core of its die that waits for it;
misses are admitted or join, and a code line enters the code buffer once its four reads have been answered. -/
def Obligations.FaultAndWalkEvents : Prop :=
  (∀ (s : State) (cid k : Nat) (r : TrapRec) (cmd : Bool),
      let c := s.core cid
      c.frozen = false → c.heldPage = true →
      (allKeys.findSome? fun k => (c.localFault cid s.cycles k).map fun r => (k, r)) = some (k, r, cmd) →
      let j := (c.stream k).job
      Completes (.localFaultFreeze cid) s fun t => t = s.setCore cid (c.freeze s.cycles k r cmd)
        ∧ (t.core cid).frozen = true ∧ ((t.core cid).job j).trap = r ∧ (t.core cid).trapKey = k
        ∧ ((t.core cid).stream 24).pc = 8 * r.cause ∧ ((t.core cid).stream 24).st = .live
        ∧ (t.core cid).wickStart = s.cycles + 1)
    ∧ (∀ (s : State) (cid : Nat),
        let c := s.core cid
        c.frozen = true → c.thaw = false → c.wickStart + 2 ^ 24 ≤ s.cycles →
        exec (.handlerTimeLimit cid) s = .next (s.setCore cid (c.takeTrap s.cycles 24 0x18 0)))
    ∧ (∀ (s : State) (cid v : Nat),
        let c := s.core cid
        c.frozen = true → c.thaw = false → c.heldPage = true → c.localCause (c.stream 24).need = some v →
        exec (.localFaultFreeze cid) s = .next (s.setCore cid (c.takeTrap s.cycles 24 v 0)))
    ∧ (∀ (s : State) (d dt page : Nat) (w : Walker) (r : Walk),
        let cs := (List.range 16).map fun i => 16 * d + i
        ((s.die d).walks.filter fun x => decide (x.dt = dt) && decide (x.page = page) && x.res.isSome) = [w] → w.res = some r →
        exec (.pageWalkComplete d dt page) s = .next (cs.foldl (fun s o => s.updCore o fun c => c.walkDone w.id dt page r)
          (s.updDie d fun x => { x with
            walks := x.walks.filter fun y => y.id != w.id, dtWalks := tally (page < 2 ^ 32) x.dtWalks })))
    ∧ (∀ (s : State) (cid : Nat) (w : MissWait) (r : List MissWait),
        let c := s.core cid
        let data := decide (w.page < 2 ^ 32)
        let held := c.misses.any fun m => m.dt == w.dt && m.page == w.page
        c.missWait = w :: r →
        (held = true → exec (.missQueueAdmit cid) s = .next (s.setCore cid { c with
            missWait := r, dtJoins := tally data c.dtJoins }))
          ∧ (held = false → c.misses.length < 32 → exec (.missQueueAdmit cid) s = .next (s.setCore cid { c with
              missWait := r, misses := c.misses ++ [⟨w.dt, w.page, none, none⟩], dtMisses := tally data c.dtMisses })))
    ∧ ∀ (s : State) (cid line : Nat) (bs : List Byte),
        let c := s.core cid
        line ∈ c.codeWant → c.codeWhole line = some bs →
        exec (.codeLineArrive cid line) s = .next (s.setCore cid (c.codeFill line (leBytes bs)))

/-- R41, R306, R307, R381, R383: a command that may start does so once its wait is satisfied, taking its count, and is marked as
started in this clock; one that its start refuses traps. A finished command whose release is complete leaves its queue, its flags
are raised and its signal given. R375, R376: the next step of a nest commits, waits, halts or traps. R263, R224, R267, R270, R315:
the clocks of flushes, fills, segments and exchange steps, and what each writes or sends. -/
def Obligations.EngineEvents : Prop :=
  (∀ (s : State) (cid : Nat) (m : Cmd) (r : List Cmd),
      let c := s.core cid
      let t := c.stream 16
      let n := s.cycles
      let c1 := c.passWait cid 16 m true
      let starts := fun (x : Core) => exec (.commandStart cid 16) s = .next (s.setCore cid x)
      c.frozen = false → c.mayStart 16 = true → t.cmds = m :: r → m.started = false → c.me.ready ≤ n →
      (c.waitOk 16 m = false → starts c)
        ∧ (c.waitOk 16 m = true →
            (progHalt c.me.prog = true → haltMay m.instr = false → starts (c1.cmdTrap n 16 m (0x0C, 3)))
              ∧ ((progHalt c.me.prog = false ∨ haltMay m.instr = true) →
                  (∀ e, c1.meBegin n m = .error e → starts (c1.cmdTrap n 16 m e))
                    ∧ (∀ c2, c1.meBegin n m = .ok c2 → starts c2)
                    ∧ (∀ h k d f, m.instr = .mrpr h k d f → starts (c1.updCmd 16 m.idx fun x => { x with
                        started := true, at_ := n, aux := [if f then c1.me.faultaddr else c1.me.prog] }))
                    ∧ ∀ h k d, m.instr = .mzero h k d → dcFits (m.val 0) = true →
                        starts (c1.updCmd 16 m.idx fun x => { x with started := true, at_ := n }))))
    ∧ (∀ (s : State) (cid k : Nat) (m : Cmd),
        let c := s.core cid
        let n := s.cycles
        let s1 := s.setCore cid (c.passWait cid k m !(Instr.acqLate m.instr))
        let late := s.lateNow cid
        let sent := fun (f : Cmd → Cmd) => exec (.commandStart cid k) s = .next (s1.updCore cid fun c =>
          c.updCmd k m.idx fun x => f { x with started := true, at_ := n })
        k ≠ 16 → c.frozen = false → c.mayStart k = true → c.admits k = some m →
        (c.waitOk k m = false → exec (.commandStart cid k) s = .next s)
          ∧ (c.waitOk k m = true →
              (∀ e, s1.xeBegin cid k m late = .error e →
                  exec (.commandStart cid k) s = .next (s1.updCore cid fun c => c.cmdTrap n k m e))
                ∧ (∀ c1, s1.xeBegin cid k m late = .ok c1 → (∀ h kc a, m.instr ≠ .xstep h kc a) →
                    exec (.commandStart cid k) s = .next (s1.setCore cid (c1.endXe n k m.idx late)))
                ∧ ((c.stream k).cmd m.idx = some m → m.finished = false →
                    (∀ h kc a b, m.instr = .xexp h kc a b → sent id)
                      ∧ (∀ h kc a d, m.instr = .xalt h kc a d → sent fun x => { x with stage := n + 1 })
                      ∧ (∀ h kc a d, m.instr = .xqryPeek h kc a d → sent fun x => { x with stage := n + 1 })
                      ∧ (∀ h kc a d, m.instr = .xdrp h kc a d → sent fun x => { x with stage := n + 1 })
                      ∧ ∀ h kc a d, (m.instr = .xbrd h kc a d ∨ m.instr = .xrep h kc a d) → sent fun x => { x with
                          data := (s1.core cid).localRead (epSpace (m.val 1)) (epAddr (m.val 1)) 4096, stage := n + 20 })))
    ∧ (∀ (s : State) (cid i : Nat) (m : Cmd),
        let c := s.core cid
        let n := s.cycles
        let t := c.stream 16
        let ends := fun (x : Core) => exec (.commandComplete cid 16 i) s = .next (s.setCore cid x)
        c.frozen = false → t.cmd i = some m → m.started = true →
        (m.finished = true → m.pos ≤ n → c.cmdReleased 16 m = true → Completes (.commandComplete cid 16 i) s fun u =>
            let x := (u.core cid).stream 16
            x.cmds = ldel (fun y => y.idx == i) t.cmds ∧ x.flags = t.flags ||| m.stage ∧ x.me.ready = n + 1
              ∧ ∀ sg q, m.ctl.sig = some sg → (c.job t.job).sem sg = some q → c.semCount q + 1 < 2 ^ 32 →
                  (u.core cid).semCount q = c.semCount q + 1)
          ∧ (m.finished = false → m.isNest = false →
              (∀ c1, c.meWork cid n m = .more c1 → ends c1)
                ∧ (∀ e, c.meWork cid n m = .trap e → ends ({ c with rbErr := [] }.cmdTrap n 16 m e))
                ∧ ∀ c1, c.meWork cid n m = .done c1 →
                    ends ((c1.updCmd 16 i fun x => { x with finished := true, pos := n }).endMe n i)))
    ∧ (∀ (s : State) (cid k i : Nat) (m : Cmd),
        let c := s.core cid
        let n := s.cycles
        let t := c.stream k
        let late := s.lateNow cid
        let ends := fun (x : Core) => exec (.commandComplete cid k i) s = .next (s.setCore cid x)
        k ≠ 16 → c.frozen = false → t.cmd i = some m → m.started = true →
        (m.finished = true → m.pos ≤ n → m.aux.length ≠ 2 → c.writesOut k m = true → c.cmdReleased k m = true → late = false →
            Completes (.commandComplete cid k i) s fun u =>
              ((u.core cid).stream k).cmds = ldel (fun y => y.idx == i) t.cmds
                ∧ ∀ sg q, m.ctl.sig = some sg → (c.job t.job).sem sg = some q → c.semCount q + 1 < 2 ^ 32 →
                    (u.core cid).semCount q = c.semCount q + 1)
          ∧ (m.finished = true → ends ((c.landCatch k i n).endXe n k i late))
          ∧ (m.finished = false →
              ((∃ h kc a b, m.instr = .xcp h kc a b ∨ m.instr = .xcpg h kc a b ∨ m.instr = .xred h kc a b
                ∨ m.instr = .xkeyEnc h kc a b ∨ m.instr = .xkeyDec h kc a b) →
                  (∀ c1, c.transferClock s.moduleId cid n k m (s.hostLink cid) = .more c1 → ends c1)
                    ∧ ∀ c1, c.transferClock s.moduleId cid n k m (s.hostLink cid) = .done c1 →
                        (((c1.stream k).cmd i).isSome = false → ends c1)
                          ∧ (((c1.stream k).cmd i).isSome = true →
                              ends ((c1.updCmd k i fun x => { x with finished := true, pos := n, aux := [] }).endXe n k i late)))
                ∧ ((∃ h kc a, m.instr = .xstep h kc a) → m.aux = [] →
                    ends ((c.updCmd k i fun x => { x with finished := true, pos := n, aux := [] }).endXe n k i late))
                ∧ ∀ h kc a d, m.instr = .xpln h kc a d → m.aux.length = (m.vals.drop 3).length →
                    ends ((c.updCmd k i fun x => { x with finished := true, pos := n, aux := [planeStatus m.aux] }).endXe n k i late)))
    ∧ (∀ (s : State) (cid : Nat) (m : Cmd),
        let c := s.core cid
        let me := c.me
        let n := s.cycles
        let a := me.active
        let g := progStrip me.prog
        let k := progStep me.prog
        let steps := fun (x : Core) => exec (.nestStepCommit cid) s = .next (s.updCore cid fun _ => x)
        c.frozen = false → (c.job (c.stream 16).job).st ≠ .saved → c.nest = some m →
        (∀ c1, c.nextStep cid n m = .ok c1 → steps (c1.readAhead cid n)
            ∧ (me.ready ≤ n → c1.me.ready = n + me.stepClocks
                ∧ c1.me.prog = (if k + 1 = ntSteps a then progOf (g + 1) 0 (g + 1 == ntStrips a) else progOf g (k + 1) false)))
          ∧ (∀ c1, c.nextStep cid n m = .wait c1 → steps (c1.readAhead cid n))
          ∧ (∀ x st, c.nextStep cid n m = .trap x st → steps (if me.ready ≤ n then c.cmdTrap n 16 m (x, st) else c))
          ∧ ∀ x va, c.nextStep cid n m = .fault x va → me.ready ≤ n →
              (me.halt = true → (x = 0x09 ∨ x = 0x12) →
                  steps ((({ c with rbErr := [] }.updMe fun e => { e with
                    prog := haltSet e.prog, faultaddr := x * 2 ^ 56 + va % 2 ^ 48 }).updCmd 16 m.idx fun y => { y with
                      finished := true, pos := n }).endMe n m.idx))
                ∧ (¬(me.halt = true ∧ (x = 0x09 ∨ x = 0x12)) →
                    steps ({ c with rbErr := [] }.cmdTrap n 16 m (x, addrStatus va))))
    ∧ (∀ (s : State) (cid : Nat) (f : Flush),
        let c := s.core cid
        c.frozen = false → (c.flushes.find? fun f => f.clk + f.group < s.cycles) = some f →
        exec (.flushGroupWrite cid) s = .next (s.setCore cid (c.flushGroup s.cycles f))
          ∧ (mwf 0 c.acc = true → c.prevAcc = [] → f.vals.length = 1024 → f.group < 8 →
              ∀ i, i < 128 → let q := 1024 * f.row + 128 * f.group + i
                mget 0 (c.flushGroup s.cycles f).acc q =
                  (flushSlot f.add (mget 0 c.acc q) (f.vals.getD (128 * f.group + i) (0, false))).1))
    ∧ (∀ (s : State) (cid k : Nat) (pop : Option Nat) (old : Seg) (m slots : SMap Nat) (c1 : Core),
        let c := s.core cid
        let t := c.stream k
        let it := (c.job t.job).itBase
        let as := rootAddrs it slots
        let reads := c.readRoots (c.sender cid k s.cycles) as
        let ends := fun (x : Core) => exec (.wsegReadsComplete cid k) s = .next (s.setCore cid x)
        t.wait = .wseg pop old m slots → c.frozen = false → t.st = .live →
        (reads = (c1, none) → ends c1)
          ∧ ∀ vals : List (Nat × Nat), reads = (c1, some vals) →
              ((∀ a ∈ as, rootRead vals a ≠ 0) → ends (((c1.updStream k fun t => { t with
                  rootT := rootRead vals it, we := t.we.newSegment m slots vals }).endWait k 1).hookEnds k))
                ∧ ∀ a : Nat, (as.find? fun a => rootRead vals a == 0) = some a →
                    ends ((c1.undoWseg k).takeTrap s.cycles k 0x0B (addrStatus a)))
    ∧ (∀ (s : State) (cid : Nat) (f : Fill) (r : List Fill),
        let c := s.core cid
        let g := geoOf f.geo
        let c1 := c.laneWrite 1 (c.fillGroup f)
        c.fills = f :: r → c.frozen = false →
        exec (.llsStart cid) s = .next (s.setCore cid { c with fills := { f with started := true } :: r })
          ∧ (f.started = true → (c.job (c.stream f.key).job).startClk ≤ s.cycles →
              (c.prevLane = [] → c1.lane = mbulk Memory.blank (c.fillGroup f) c.lane)
                ∧ (f.group + 1 < g.nc / 16 * (g.nl / 16) → exec (.llsGroupWrite cid) s =
                    .next (s.setCore cid { c1 with fills := { f with group := f.group + 1 } :: r }))
                ∧ (g.nc / 16 * (g.nl / 16) ≤ f.group + 1 → exec (.llsGroupWrite cid) s =
                    .next (s.setCore cid (((({ c1 with fills := r } : Core).updStream f.key fun t =>
                      { t with landClk := s.cycles + 1 }).workEnds f.key).pushEnd f.key 3 f.partner)))))
    ∧ ∀ (s : State) (cid k : Nat) (m : Cmd) (g : Head) (kc : KCtl) (a : Nat),
        let c := s.core cid
        let opens := m.aux.filter (slotOpen s.cycles m.at_)
        c.frozen = false → (c.stream k).cmds = [m] → m.started = true → m.instr = .xstep g kc a →
        Completes (.slotWindowSend cid k) s fun t =>
          ((t.core cid).stream k).cmds = [{ m with aux := m.aux.filter fun e => !slotOpen s.cycles m.at_ e }]
            ∧ ((t.core cid).port.map fun p => (p.kind, p.dest, p.djslot, p.addr, p.data)) =
                (c.port.map fun p => (p.kind, p.dest, p.djslot, p.addr, p.data)) ++ opens.map fun e =>
                  let d := e / 2 ^ 6
                  (PKind.write, slDest d, slJslot d, slDst d, c.spadRead (slSrc d) (64 * slUnits d))

/-- R52, R53, R65, R351 to R353, R361, R365: the port, the outbound buffer, routers, links and requests that time out. -/
def Obligations.FabricEvents : Prop :=
  (∀ (s : State) (cid : Nat),
      let c := s.core cid
      let c1 : Core := { ({ c with db := [] } : Core).acceptDb s.cycles [] c.db with pref := [] }
      let parts := c.codeWant.flatMap fun l => (List.range 4).map (4 * l + ·)
      c.frozen = false → Completes (.portAccept cid) s fun t => CoreStep s t cid (parts.foldl (fun x p => x.codePart cid s.cycles p)
        (c.pref.foldl (fun x l => x.prefOne cid s.cycles l) c1)))
    ∧ (∀ (s : State) (cid : Nat),
        let c := s.core cid
        (c.frozen = false → exec (.outboundStamp cid) s = .next (c.port.foldl (fun s p => s.stamp (dieOf cid) cid 5 p)
            (s.setCore cid { c with port := [] })))
          ∧ (c.frozen = true → exec (.outboundStamp cid) s = .next ((c.port.filter fun p => p.wick).foldl
              (fun s p => s.stamp (dieOf cid) cid 5 p) (s.setCore cid { c with port := c.port.filter fun p => !p.wick }))))
    ∧ (∀ (s : State) (cid i : Nat) (r : Req),
        let c := s.core cid
        (c.reqs.find? fun r => r.rid == i) = some r → r.purpose ≠ .late → r.clk + 2 ^ 20 ≤ s.cycles →
        (c.frozen = false ∨ r.key = 24) →
        let c1 : Core := { c with reqs := c.reqs.map fun x => if x.rid = i then { x with purpose := .late } else x }
        exec (.requestTimeout cid i) s = .next (s.setCore cid ((c1.giveUp r).chargeReq s.cycles r 0x13 r.lostStatus)))
    ∧ (∀ (s : State) (r k : Nat), k < 24 → 256 ≤ mget 0 (s.router r).waited k →
        Completes (.routerPromotion r) s fun t => mget false (t.router r).promoted k = true)
    ∧ (∀ (s : State) (r out k : Nat), mget none (s.router r).hold out = some k → s.flitReady r out (k / 4) (k % 4) = true →
        exec (.routerFlitForward r out) s = .next ((s.forward r out (k / 4) (k % 4)).forwardN r out 3))
    ∧ (∀ (s : State) (r out input vc : Nat) (f : Flit),
        let rt := s.router r
        let used := mget 0 rt.rndUsed out
        mget none rt.hold out = none → s.promotedCand r out = none → vc = mget 0 rt.rndVc out →
        used < (s.die (dieOf r)).weight vc → s.flitCand r out vc = some input → rt.head input vc = some f →
        exec (.routerFlitForward r out) s = .next
            (((s.setRouter r { rt with rndUsed := mput 0 out (used + 1) rt.rndUsed }).forward r out input vc).forwardN r out 3)
          ∧ (4 ≤ out → f.last = true → Completes (.routerFlitForward r out) s fun t =>
              ∀ p ∈ s.net, p.id = f.pid → ∃ q ∈ t.net, q.id = p.id ∧ q.arrived = true ∧ q.data = p.data))
    ∧ (∀ (s : State) (k : Nat),
        let l := s.link k
        (s.linkNext k = none → l.lt ≠ [] → exec (.linkTransmitAccept k) s = .next (s.setLink k l.send))
          ∧ ∀ p : Packet, s.linkNext k = some p →
              let s1 : State := { s with net := s.net.filter fun x => x.id != p.id }
              (l.up = false → exec (.linkTransmitAccept k) s = .next (s1.setLink k (l.drop 1)))
                ∧ (l.up = true → exec (.linkTransmitAccept k) s = .next (s1.setLink k { l with lt := l.lt ++ [p] }.send)
                    ∧ (l.lt = [] → l.sent = 0 → p.len = 0 → 64 ≤ l.room → mget 0 l.used p.vc < 64 →
                        exec (.linkTransmitAccept k) s = .next (s1.setLink k { l with
                          out := l.out ++ [p], tx := (l.tx + 1) % 2 ^ 64, room := l.room - 64
                          used := mput 0 p.vc (mget 0 l.used p.vc + 1) l.used }))))
    ∧ ∀ (s : State) (k : Nat) (p : Packet) (r : List Packet),
        let l := s.link k
        let l1 : MLink := { l with inq := r, rx := (l.rx + p.len + 1) % 2 ^ 64 }
        l.inq = p :: r →
        ((l.up = false ∨ p.crcOk = false) → exec (.linkReceive k) s = .next (s.setLink k (l1.drop 1)))
          ∧ (l.up = true → p.crcOk = true → exec (.linkReceive k) s =
              .next ((s.setLink k l1).stamp (linkDie k) (16 * linkDie k) 5
                { p with
                  space := 2, dest := p.args.headD 0 % 256, args := p.args.tail, src := p.src % 256, slice := false
                  linkIn := k, issue := s.cycles % 2 ^ 32 }))

/-- R17, R48, R54, R310, R312, R319, R355, R356, R357, R360: what AQ applies of a request that it admits and trusts, and its
answer; a write that it does not trust is dropped and counted, and a read or a write that meets an uncorrectable error of
device memory (an input, log 81) is counted and answered by an error reply. -/
def Obligations.RequestEvents : Prop :=
  ∀ (s : State) (id : Nat) (p : Packet), s.packet id = some p → p.space ≠ 3 → s.admissible p = true →
    let z := s.applied p
    let c := z.core p.dest
    let own := p.slice = false ∧ p.space ≠ 1
    (p.kind = .write → s.trusts p (decide own) = true →
        (z.writeFails p = false → exec (.applyWrite id) s = .next ((z.writeHome p).answer p .writeAck [] []))
          ∧ (z.writeFails p = true →
              exec (.applyWrite id) s = .next (((z.writeHome p).countUncorr p.home).answer p .errorReply [] [])))
      ∧ (p.kind = .write → s.trusts p (decide own) = false → exec (.applyWrite id) s = .next (s.dropPacket p))
      ∧ (p.kind = .read → s.trusts p (decide own) = true →
          (z.readFails p = false → exec (.applyReadRequest id) s = .next (z.answer p .readReply (z.readHome p) []))
            ∧ (z.readFails p = true →
                exec (.applyReadRequest id) s = .next ((z.countUncorr p.home).answer p .errorReply [] [])))
      ∧ (p.kind = .reduce → s.trusts p (decide own) = true →
          exec (.applyReduce id) s = .next ((z.setCore p.dest ((c.packetWrite p.addr
            (reduceAll p.op (redUnit p.op) (rdBytes c.spad p.addr p.data.length) p.data)).packetArrive s.cycles p
              p.data.length)).answer p .writeAck [] []))
      ∧ (p.kind = .arrival → s.trusts p true = true →
          exec (.applyArrival id) s =
            .next ((z.setCore p.dest (c.packetArrive s.cycles p (p.args.getD 1 0))).answer p .writeAck [] []))
      ∧ (p.kind = .signal → s.trusts p true = true →
          ((c.job p.djslot).sem (p.args.getD 0 0) = none →
              exec (.applyRemoteSignal id) s = .next (z.answer p .signalReply [] [1]))
            ∧ ∀ n : Nat, (c.job p.djslot).sem (p.args.getD 0 0) = some n →
                (2 ^ 32 ≤ c.semCount n + p.args.getD 1 0 →
                    exec (.applyRemoteSignal id) s = .next (z.answer p .signalReply [] [2]))
                  ∧ (c.semCount n + p.args.getD 1 0 < 2 ^ 32 → exec (.applyRemoteSignal id) s =
                      .next ((z.setCore p.dest (c.setSem n (c.semCount n + p.args.getD 1 0))).answer p .signalReply [] [0])))
      ∧ (p.kind = .plane → s.trusts p false = true →
          let bs := (mlook p.recordNo c.planeParts).getD [] ++ p.data
          let rest := c.planeParts.filter fun e => e.1 != p.recordNo
          let x := ({ c with planeParts := rest } : Core).planeDiff bs
          (p.args.getD 1 1 = 0 → exec (.applyPlaneRecord id) s =
              .next ((z.setCore p.dest { c with planeParts := (p.recordNo, bs) :: rest }).answer p .writeAck [] []))
            ∧ (p.args.getD 1 1 ≠ 0 → x.2 ≠ 2 →
                exec (.applyPlaneRecord id) s = .next ((z.setCore p.dest x.1).answer p .planeAnswer [] [x.2]))
            ∧ (p.args.getD 1 1 ≠ 0 → x.2 = 2 → exec (.applyPlaneRecord id) s = .next (((z.setCore p.dest x.1).updDie p.destDie
                fun d => { d with errlog := d.errlog ++ [(p.dest, 0x14)] }).answer p .planeAnswer [] [2])))
      ∧ (p.kind = .post → s.trusts p false = true →
          (c.mbox.postDesc (leBytes p.data) = none → exec (.applyDescriptorPost id) s = .next (z.answer p .postAnswer [] [1]))
            ∧ ∀ m : Mbox, c.mbox.postDesc (leBytes p.data) = some m → exec (.applyDescriptorPost id) s =
                .next ((z.setCore p.dest { c with mbox := m }).answer p .postAnswer [] [0]))

/-- R15, R119, R126, R204, R266, R333, R341, R342, R354, R357, R361: an answer ends its request and gives the waiting line, load,
code line, command or stream its result; one to a page walker takes the walk a level further; an answer to a request that has
timed out is dropped and counted. -/
def Obligations.AnswerEvents : Prop :=
  (∀ (s : State) (id : Nat) (p : Packet) (r : Req), s.packet id = some p → p.space ≠ 3 → s.admissible p = true →
    s.trusts p false = true → p.walk = false →
    let z := s.applied p
    let c := (z.core p.dest).endReq r
    (z.core p.dest).reqOf p = some r →
    (r.purpose = .late → p.kind = .writeAck → exec (.writeAckArrive id) s = .next (z.setCore p.dest (c.countDrop p)))
      ∧ (r.purpose ≠ .late → p.kind = .writeAck → exec (.writeAckArrive id) s = .next (z.setCore p.dest c))
      ∧ (∀ l : Nat, r.purpose = .line l → p.kind = .readReply →
          let c1 : Core := { c with rb := mput [] l p.data c.rb }
          ((∀ d n x a, (c.stream r.key).wait ≠ .load d n x a r.rid) →
              exec (.readReplyArrive id) s = .next (z.setCore p.dest c1))
            ∧ ∀ d n x a, (c.stream r.key).wait = .load d n x a r.rid →
                exec (.readReplyArrive id) s = .next (z.setCore p.dest
                  (((c1.updStream r.key fun t => { t with popd := none, need := none }).result r.key 1
                    (.x d (extend (2 ^ n) x (leBytes ((p.data.drop (a % 64)).take (2 ^ n))))) 0).endWait r.key 0)))
      ∧ (∀ part : Nat, r.purpose = .code part → part / 4 ∈ c.codeWant →
          (p.kind = .readReply → exec (.readReplyArrive id) s =
              .next (z.setCore p.dest { c with codeParts := mset part p.data c.codeParts }))
            ∧ (p.kind = .errorReply → exec (.errorReplyArrive id) s = .next (z.setCore p.dest { c with
                codeWant := c.codeWant.filter (· != part / 4), codeErr := part / 4 :: c.codeErr.filter (· != part / 4)
                codeParts := c.codeParts.filter fun e => e.1 / 4 != part / 4 })))
      ∧ (∀ key idx pos : Nat, r.purpose = .cmd key idx pos →
          (p.kind = .readReply → exec (.readReplyArrive id) s = .next (z.setCore p.dest (c.updCmd key idx fun m =>
              { m with data := mbulk Memory.blank (m.place pos p.data) m.data })))
            ∧ (p.kind = .errorReply → exec (.errorReplyArrive id) s = .next (z.setCore p.dest (c.updCmd key idx fun m =>
                m.failAt (0x12, addrStatus (epAddr m.ws + pos)) pos))))
      ∧ (∀ (key idx : Nat) (m : Cmd), r.purpose = .signal key idx → p.kind = .signalReply → (c.stream key).cmd idx = some m →
          (p.args.headD 0 = 0 → exec (.signalReplyArrive id) s = .next (z.setCore p.dest
              ((c.updCmd key idx fun m => { m with finished := true, pos := s.cycles }).endXe s.cycles key idx false)))
            ∧ (p.args.headD 0 = 1 → exec (.signalReplyArrive id) s = .next (z.setCore p.dest
                (c.cmdTrap s.cycles key m (0x0E, kindStatus 1 (m.val 1 % 2 ^ 8)))))
            ∧ (p.args.headD 0 = 2 → exec (.signalReplyArrive id) s =
                .next (z.setCore p.dest (c.cmdTrap s.cycles key m (0x11, 0)))))
      ∧ (∀ key idx : Nat, r.purpose = .plane key idx → p.kind = .planeAnswer →
          exec (.planeAnswerArrive id) s = .next (z.setCore p.dest (c.updCmd key idx fun m =>
            { m with aux := m.aux ++ [p.args.headD 0] })))
      ∧ (∀ key d : Nat, r.purpose = .post key → p.kind = .postAnswer → (c.stream key).wait = .post d →
          exec (.postAnswerArrive id) s = .next (z.setCore p.dest ((c.setReg key d (p.args.headD 0)).endWait key 0)))
      ∧ (∀ k : Nat, r.purpose = .write k → p.kind = .errorReply →
          exec (.errorReplyArrive id) s = .next (z.setCore p.dest (c.chargeReq s.cycles r 0x12 4)))
      ∧ ∀ l : Nat, r.purpose = .line l → p.kind = .errorReply →
          exec (.errorReplyArrive id) s = .next (z.setCore p.dest (c.lineError s.cycles r l)))
    ∧ ∀ (s : State) (id : Nat) (p : Packet) (w : Walker), s.packet id = some p → p.space ≠ 3 → s.admissible p = true →
        s.trusts p false = true → p.walk = true →
        let z := s.applied p
        ((z.die p.destDie).walks.find? fun x => x.id == p.rid && x.res.isNone) = some w →
        (p.kind = .readReply → exec (.readReplyArrive id) s = .next (z.walkGo p.destDie w
            (walkNext w.page w.level (leBytes ((p.data.drop (w.addr % 64)).take 8)))))
          ∧ (p.kind = .errorReply → exec (.errorReplyArrive id) s = .next (z.walkGo p.destDie w (.done (.bad w.addr))))

/-- R160 to R168, R268, R321 to R327: passages and catches of the carousel, the change of its slots, and the image loader. -/
def Obligations.CarouselAndImageEvents : Prop :=
  (∀ (s : State) (p k : Nat), s.ring.slotAt p = some k →
      let d := dieAtPos p
      (s.slotTile k = none → s.changeFor d none = none →
          exec (.carouselPassage p) s = .next { s with ring := s.ring.setTile k none })
        ∧ (∀ x : RingCmd, s.slotTile k = none →
            (({ s with ring := s.ring.setTile k none } : State).changeFor d none = some x) →
            Completes (.carouselPassage p) s fun t =>
              t = ({ s with ring := s.ring.setTile k none } : State).board k x)
        ∧ ∀ tl : Tile, s.ring.tile k = some tl → tl.confirmed = true →
            let s0 : State := { s with ring := s.ring.setTile k (some tl) }
            s0.changeFor d (some tl) = none → exec (.carouselPassage p) s = .next (s0.catches d tl))
    ∧ (∀ (s : State) (cid : Nat) (k : Catch), (s.ring.catches.filter fun k => k.core == cid) = [k] →
        let here := (s.ring.slotAt (ringPos (dieOf k.core))).bind s.ring.tile
        let s1 : State := { s with ring := { s.ring with catches := s.ring.catches.filter (· != k) } }
        (∀ t : Tile, here = some t → t.confirmed = true → t.name = k.name →
            exec (.carouselWeCatch cid) s = .next (s1.updCore k.core fun c =>
              (List.range 16).foldl (fun c i => c.codeFill (k.line + i) (t.line i)) c))
          ∧ ((∀ t : Tile, here = some t → t.confirmed = true → t.name ≠ k.name) →
              (k.left ≠ 0 → exec (.carouselWeCatch cid) s = .next s)
                ∧ (k.left = 0 → exec (.carouselWeCatch cid) s = .next (s1.updCore k.core fun c => { c with
                    codeWant := c.codeWant ++ k.lines.filter fun l => !c.codeWant.contains l && (c.codeLine l).isNone }))))
    ∧ (∀ (s : State) (v : Nat), v < 2 ^ 12 → v / 2 ^ 3 % 2 ^ 5 = 0 → v / 2 ^ 8 % 2 ^ 3 < 6 →
        exec (.carouselChangeRequest v) s =
          .next { s with ring := { s.ring with pvalid := bit v 11, pend := v / 2 ^ 8 % 2 ^ 3 } })
    ∧ (∀ s : State, s.ring.pvalid = true → s.ringIdle = true →
        exec .carouselChangeEffect s =
          .next { s with ring := { s.ring with cur := s.ring.pend, pvalid := false, rc := 0, tiles := [] } })
    ∧ (∀ (s : State) (d : Nat),
        let x := s.die d
        let h := x.ilCmd % 2 ^ 8
        x.ilBusy = true → x.ilOp = 1 → s.settled d = true →
        (∀ e, s.checkLoad x h (bit x.ilCmd 10) = .error e →
            exec (.ilLoad d) s = .next (s.setDie d { x with ilStatus := ilStatusOf e }))
          ∧ ∀ r, s.checkLoad x h (bit x.ilCmd 10) = .ok r →
              exec (.ilLoad d) s = .next (s.doLoad d h (bit x.ilCmd 10) r.1 r.2))
    ∧ ∀ (s : State) (d : Nat),
        let x := s.die d
        let h := x.ilCmd % 2 ^ 8
        x.ilBusy = true → x.ilOp = 2 →
        ((∃ i, i < 16 ∧ (s.core (16 * d + i)).usesImage h = true) →
            exec (.ilUnload d) s = .next (s.setDie d { x with ilStatus := ilStatusOf (0x09, 0) }))
          ∧ ((∀ i, i < 16 → (s.core (16 * d + i)).usesImage h = false) →
              exec (.ilUnload d) s = .next (s.setDie d { x with
                images := mput {} h { x.image h with bits := (x.image h).bits / 2 * 2 } x.images, ilStatus := 0 }))

/-- R87 to R96, R103, R318: the loader's turn, the start of a loaded or staged job, doorbells, event records and the
management commands. -/
def Obligations.LoaderEvents : Prop :=
  (∀ (s : State) (c : Nat),
      let x := s.core c
      x.mbox.consider = true → x.frozen = false → x.mbox.fifo.length < 16 → x.mbox.held = [] → s.settled (dieOf c) = true →
      ((∀ q, q < 4 → x.unstarted q = true ∨ x.mbox.headOf q = none) →
          exec (.loaderConsider c) s = .next (s.setCore c { x with mbox := { x.mbox with consider := false } }))
        ∧ (∀ (q d : Nat) (vf : Bool), q < 4 → (∀ i, i < q → x.unstarted i = true ∨ x.mbox.headOf i = none) →
            x.unstarted q = false → x.mbox.headOf q = some (d, vf) →
            let z := s.setCore c { x with mbox := x.mbox.take q }
            let acts := fun (t : State) => exec (.loaderConsider c) s = .next t
            (∀ n, s.headAct c q d vf = .refuse n → acts (z.updCore c fun y => y.refuse s.cycles (descTag d) n q))
              ∧ (∀ p sec, s.headAct c q d vf = .load p sec → acts (z.load c d p sec))
              ∧ (∀ p sec r, s.headAct c q d vf = .restore p sec r → acts (z.loadSaved c d p sec r))
              ∧ (s.headAct c q d vf = .stage → acts (z.stageJob c d))
              ∧ (s.headAct c q d vf = .block → acts ((match s.preempts c q d vf with
                  | none => s
                  | some j => s.setCore c (x.request j false true)).consider c (q + 1) (3 - q)))))
    ∧ (∀ (s : State) (c j : Nat),
        let x := s.core c
        let b := x.job j
        b.st = .loading → x.frozen = false → x.mbox.fifo.length < 16 → x.mbox.held = [] → s.settled (dieOf c) = true →
        s.prefetched c b.lines = true →
        exec (.jobLoadDone c j) s = .next (s.startLoaded c j)
          ∧ ∀ p : Place, b.resKind = 0 → x.rerunPlace j b.engmask = some p →
              let img := ((s.die (dieOf c)).image (descImage b.desc)).bits
              Completes (.jobLoadDone c j) s fun t =>
                (t.core c).job j = { b with st := .running, startClk := s.cycles, lines := [] }
                  ∧ ∀ k ∈ p.keys, let u := (t.core c).stream k
                      u.st = .live ∧ u.job = j ∧ u.pc = imgEntry img (k / 4) % 2 ^ 48 ∧ u.getX 4 = BitVec.ofNat 64 (descArg b.desc))
    ∧ (∀ (s : State) (c d : Nat),
        let x := s.core c
        x.stagedJob = some d → x.frozen = false → x.mbox.fifo.length < 16 → x.mbox.held = [] → s.settled (dieOf c) = true →
        exec (.stagedJobStart c) s = .next (s.startStaged c d)
          ∧ ∀ p : Place,
              let img := ((s.die (dieOf c)).image (descImage d)).bits
              descRes d = false → x.place (imgMask img) (imgSems img) (imgQmask img) = some p →
              Completes (.stagedJobStart c) s fun t => (t.core c).stagedJob = none ∧ ((t.core c).job p.slot).st = .running
                ∧ ((t.core c).job p.slot).desc = d ∧ ∀ k ∈ p.keys, let u := (t.core c).stream k
                    u.st = .live ∧ u.job = p.slot ∧ u.pc = imgEntry img (k / 4) % 2 ^ 48)
    ∧ (∀ (s : State) (fn c q v : Nat), q < 4 → s.hostMay fn c = true →
        (v = 0 ∨ 8 < v ∨ 8 < (s.core c).mbox.load q + v →
            exec (.hostDoorbellWrite fn c q v) s = .next (s.setCore c ((s.core c).refuse s.cycles 0 0x04 q)))
          ∧ (v ≠ 0 → v ≤ 8 → (s.core c).mbox.load q + v ≤ 8 →
              Completes (.hostDoorbellWrite fn c q v) s fun t => (t.core c).mbox.consider = true
                ∧ (t.core c).mbox.tail = mput 0 q ((mget 0 (s.core c).mbox.tail q + v) % 16) (s.core c).mbox.tail))
    ∧ (∀ (s : State) (c : Nat),
        let x := s.core c
        s.ready = true → x.mbox.fifo.length < 16 → x.mbox.held = [] →
        Completes (.eventPop c) s fun t => CoreStep s t c { x with mbox := { x.mbox with fifo := x.mbox.fifo.tail } })
    ∧ ∀ (s : State) (c j : Nat),
        let x := s.core c
        let b := x.job j
        let no := s.setCore c (x.refuse s.cycles 0 0x02 0xFF)
        j < 8 → s.ready = true → s.trip = false →
        (b.st = .stopped → exec (.mboxRemove c j) s = .next (s.remove c j) ∧ exec (.mboxRerun c j) s = .next (s.rerun c j)
            ∧ (x.mbox.fifo.length < 16 → x.mbox.held = [] → Completes (.mboxRemove c j) s fun t =>
                ((t.core c).job j).st = .free
                  ∧ (t.core c).mbox.fifo = x.mbox.fifo ++ [⟨descTag b.desc, 6, 0, j, 0, s.cycles⟩])
            ∧ (descRes b.desc = false → Completes (.mboxRerun c j) s fun t =>
                ((t.core c).job j).st = .loading ∧ ((t.core c).job j).desc = b.desc ∧ ((t.core c).job j).sec = b.sec))
          ∧ (b.st ≠ .stopped → exec (.mboxRemove c j) s = .next no ∧ exec (.mboxRerun c j) s = .next no)
          ∧ (b.st = .running → descPre b.desc = true → x.frozen = false → exec (.mboxPreempt c j) s = .next (s.setCore c
              (x.setJob j { b with st := .yielding, grace := true, remain := 65536, overrun := false, byLoader := false })))
          ∧ (b.st = .running → descPre b.desc = true → x.frozen = true →
              exec (.mboxPreempt c j) s = .next (s.setCore c (x.setJob j { b with asked := true })))
          ∧ ((b.st ≠ .running ∨ descPre b.desc = false) → exec (.mboxPreempt c j) s = .next no)

/-- R363 to R367, R402 to R409, R411: windows, partitions, links, BAR2, BAR0, sensors, the lantern, the safety trip and
reset. -/
def Obligations.HostEvents : Prop :=
  (∀ (s : State) (w reg v : Nat) (x : Window), s.ready = true → s.trip = false → w < 64 →
      (mget {} s.windows w).write reg (v % 2 ^ 64) = some x →
      exec (.hostWindowWrite 0 w reg v) s = .next { s with windows := mput {} w x s.windows })
    ∧ (∀ (s : State) (v mask : Nat), s.ready = true → s.trip = false → s.partitionOk v (mask % 2 ^ 256) = true →
        exec (.partitionWrite 0 v mask) s = .next { s with partitions := mput 0 v (mask % 2 ^ 256) s.partitions })
    ∧ (∀ (s : State) (v : Nat), s.ready = true → s.trip = false → v < 2 ^ 8 → (s.links.all fun e => !e.2.up) = true →
        exec (.moduleIdWrite 0 v) s = .next { s with moduleId := v })
    ∧ (∀ (s : State) (k : Nat), s.ready = true → s.trip = false → k < 8 →
        exec (.linkEnableWrite 0 k 1) s = .next (s.setLink k { s.link k with enable := true, training := !(s.link k).up })
          ∧ exec (.linkEnableWrite 0 k 0) s = .next (s.setLink k { (s.link k).drop (s.link k).lt.length with
              up := false, training := false, lt := [], sent := 0, used := [], enable := false }))
    ∧ (∀ (s : State) (k peer lanes : Nat), s.ready = true → (s.link k).enable = true → k < 8 → 1 ≤ lanes → lanes ≤ 16 →
        ((s.link k).training = true → exec (.linkTrained k peer lanes) s =
            .next (s.setLink k { s.link k with up := true, training := false, peer := peer % 2 ^ 8, lanes := lanes }))
          ∧ ((s.link k).training = false → exec (.linkTrained k peer lanes) s = .next s))
    ∧ (∀ (s : State) (k : Nat), (s.link k).up = true →
        exec (.linkTrainingLoss k) s =
          .next (s.setLink k { (s.link k).drop (s.link k).lt.length with
            up := false, training := false, lt := [], sent := 0, used := [] }))
    ∧ (∀ (s : State) (l a n : Nat) (w : Option (List Byte)),
        (2 ^ 40 < a + n → exec (.hostBar2Access l a n w) s = .fault .noSuchAddress)
          ∧ (a + n ≤ 2 ^ 40 → s.ready = true → s.trip = false → exec (.hostBar2Access l a n w) s =
              .next ((bar2Packets l a n w).foldl (fun s p =>
                s.stamp (dieOf (hostRouter l)) (hostRouter l) 5 { p with issue := s.cycles % 2 ^ 32 }) s)))
    ∧ (∀ (s : State) (fn v : Nat), s.ready = true → s.trip = false →
        (∀ d o : Nat, d < 16 → o < 256 → o % 8 = 0 →
            exec (.registerWrite 0 (4 * 2 ^ 20 + d * 256 + o) v) s = .next (s.updDie d fun x => x.ilWrite o (v % 2 ^ 64)))
          ∧ (∀ off : Nat, off % 8 ≠ 0 → exec (.registerWrite fn off v) s = .next s)
          ∧ (bit s.lstat 63 = false →
              exec (.registerWrite 0 (9 * 2 ^ 20) v) s = .next { s with lcmd := v % 2 ^ 64, lstat := 2 ^ 63 }))
    ∧ (∀ (s : State) (d v : Nat), d < 16 → s.cycles % 2 ^ 16 = 0 →
        exec (.sensorUpdate d v) s = .next (s.updDie d fun x => { x with temp := sextN 16 v }))
    ∧ (∀ s : State, bit s.lstat 63 = true → s.lcmd % 2 ^ 12 = 1 → s.lanternIdx < 32768 →
        let a := s.lcmd / 2 ^ 12 * 2 ^ 12
        a + 64 + 40 * s.validImages.length + 2668 ≤ 2 ^ 40 →
        exec .lanternAttest s =
          .next { ({ s with lanternIdx := s.lanternIdx + 1, freeCtr := s.freeCtr + 1 } : State).poke (a + 32)
            (attestReport s.lanternIdx s.freeCtr s.validImages) with lstat := 0 })
    ∧ (∀ (s : State) (d : Nat), s.hotDie = some d → s.trip = false →
        exec .safetyTrip s = .next { s with trip := true, tripDie := d, todo := [] })
    ∧ ∀ s : State, s.bring.strap % 4 < 2 → s.bring.bootOk = true → s.bring.trainOk = true → s.bring.wickOk = true →
        Completes .reset s fun t => t.ready = true ∧ t.bootStep = 6 ∧ t.bifur = s.bring.strap % 4 ∧ t.mem = s.mem
          ∧ t.ring = State.reset.ring ∧ ∀ c, c < 256 → (t.core c).wickMem = s.bring.wickImage

/-- R142, R143: what a stream's trap records, and that it stops the stream and its job and changes no register. R148: a trap
in the wick core's handler stops the trapped job with its own cause, HFAIL set and NEST holding the wick core's cause, and
the core goes on. -/
def Obligations.TrapEntry : Prop :=
  (∀ (c : Core) (clk k cause status : Nat), k ≠ 24 →
     let t := c.stream k
     let b := c.job t.job
     let c1 := c.takeTrap clk k cause status
     (c1.stream k).st = .stopped ∧ (c1.stream k).pc = t.pc ∧ (∀ x n, (c1.stream x).getX n = (c.stream x).getX n)
       ∧ (∀ x, x ≠ k → c1.stream x = c.stream x) ∧ (∀ j, j ≠ t.job → c1.job j = c.job j) ∧ c1.spad = c.spad
       ∧ ((b.st = .running ∨ b.st = .yielding) → c1.job t.job = { b with
           st := .stopping, trapClk := some clk,
           trap := ⟨cause, t.pc, if k = 16 ∨ 20 ≤ k then t.ncmd else 0, status, t.job % 8 * 2 ^ 8 + k / 4 * 2 ^ 5 + k % 4⟩ })
       ∧ (b.st = .stopping → b.trapClk = some clk → (k / 4 * 2 ^ 5 + k % 4) % 2 ^ 8 ≠ b.trap.eng % 2 ^ 8 →
           ((c1.job t.job).trap.eng / 2 ^ 14 % 2 = 1) ∧ (c1.job t.job).trap.eng % 2 ^ 8 = min ((k / 4 * 2 ^ 5 + k % 4) % 2 ^ 8) (b.trap.eng % 2 ^ 8)))
    ∧ (∀ (c : Core) (clk cause status : Nat),
          let b := c.job c.trapJob
          let c1 := c.takeTrap clk 24 cause status
          (b.st = .running ∨ b.st = .yielding ∨ b.st = .stopping) → c1.thaw = true ∧ (c1.stream 24).st = .stopped
            ∧ (c1.job c.trapJob).st = .stopping ∧ (c1.job c.trapJob).trap.cause = c.trapCause
            ∧ (c1.job c.trapJob).trap.eng / 2 ^ 15 % 2 = 1 ∧ (c1.job c.trapJob).trap.eng / 2 ^ 24 = cause % 2 ^ 8)

/-- R13, R69, R108, R110 to R120, R181, R306: what issuing leaves alone. An instruction whose destination is a scalar operand
or a predicate changes no other register or predicate, control flow none at all, and neither any flag or storage; an
instruction of VA, VE or WE whose results land later, and a command of ME or XE, change no register, predicate, flag or
storage as they issue. x0 reads as zero and takes no write. -/
def Obligations.RegisterFrames : Prop :=
  (∀ (u : Stream) (v : Word), u.getX 0 = 0 ∧ u.setX 0 v = u) ∧ ∀ (s t : State) (i : Instr), exec i s = .next t →
    let none := fun (_ _ : Nat) => False
    (∀ d : Opnd, ScalarOp d i → Keeps s t s.cur.core ∧ KeepsX s t s.cur.core (fun k n => k = s.cur.key ∧ d = .x n)
        ∧ KeepsP s t s.cur.core none)
      ∧ (∀ p : Nat, PredOp p i → Keeps s t s.cur.core ∧ KeepsX s t s.cur.core none
          ∧ KeepsP s t s.cur.core fun k n => k = s.cur.key ∧ n = p)
      ∧ ((FlowOp i ∨ (LandsLater i ∧ exposed (engOf s.cur.key) = true) ∨ CommandOp i) →
          Keeps s t s.cur.core ∧ KeepsX s t s.cur.core none ∧ KeepsP s t s.cur.core none)

/-- R119: ST changes no byte of the scratchpad, or of the wick core's memory, outside the bytes at its address, and no
register, predicate, flag, accumulator or byte of device memory. R54, R355: an applied write stores the bytes that its mask
names at its address in its slice, and no other byte of device memory. R181: RESULT_LANDS changes no register, predicate or
accumulator slot that no due result of its core names, no memory and no other core. -/
def Obligations.StoreAndLandingFrames : Prop :=
  (∀ (s t : State) (h : Head) (d : Nat) (a : Opnd) (imm : Int) (size : Nat),
     let ad := (s.here.opndVal s.cur.key a + BitVec.ofInt 64 imm).toNat
     exec (.st h d a imm size) s = .next t →
     (∀ x, ¬ (ad ≤ x ∧ x < ad + 2 ^ size) → rdByte (t.core s.cur.core).spad x = rdByte s.here.spad x
         ∧ rdByte (t.core s.cur.core).wickMem x = rdByte s.here.wickMem x)
       ∧ (∀ x, rdByte t.mem x = rdByte s.mem x) ∧ (∀ j, j ≠ s.cur.core → t.core j = s.core j)
       ∧ KeepsX s t s.cur.core (fun _ _ => False) ∧ KeepsP s t s.cur.core (fun _ _ => False)
       ∧ (∀ k, ((t.core s.cur.core).stream k).flags = (s.here.stream k).flags)
       ∧ (t.core s.cur.core).acc = s.here.acc ∧ (t.core s.cur.core).sems = s.here.sems)
    ∧ (∀ (s t : State) (id : Nat) (p : Packet), s.packet id = some p → p.slice = true → p.space ≠ 1 →
          exec (.applyWrite id) s = .next t →
          (∀ a, (∀ i, i < p.data.length → bit p.mask i = true → a ≠ p.destDie * 2 ^ 36 + p.addr + i) →
              rdByte t.mem a = rdByte s.mem a)
            ∧ (p.kind = .write → p.space ≠ 3 → s.admissible p = true → s.trusts p false = true →
                ∀ i, i < p.data.length → bit p.mask i = true →
                  rdByte t.mem (p.destDie * 2 ^ 36 + p.addr + i) = p.data.getD i 0))
    ∧ (∀ (s t : State) (cid : Nat), let c := s.core cid
          exec (.resultLands cid) s = .next t →
          (∀ k n, (∀ p ∈ c.pending, ∀ v, p.key = k → p.dst ≠ .x n v) → ((t.core cid).stream k).getX n = (c.stream k).getX n)
            ∧ (∀ k n, (∀ p ∈ c.pending, ∀ v, p.key = k → p.dst ≠ .p n v) → ((t.core cid).stream k).getP n = (c.stream k).getP n)
            ∧ (∀ k n, (∀ p ∈ c.pending, ∀ v, p.key = k → p.dst ≠ .v n v) → ((t.core cid).stream k).getV n = (c.stream k).getV n)
            ∧ (∀ n, (∀ p ∈ c.pending, ∀ m v x, p.dst ≠ .acc n m v x) → mget 0 (t.core cid).acc n = mget 0 c.acc n)
            ∧ (∀ n, (∀ p ∈ c.pending, (∀ a x, p.dst ≠ .sem n a x) ∧ ∀ a x y, p.dst ≠ .sig n a x y) → (t.core cid).semCount n = c.semCount n)
            ∧ (t.core cid).spad = c.spad ∧ t.mem = s.mem ∧ ∀ j, j ≠ cid → t.core j = s.core j)

/-- R52, R54: no instruction changes a byte of device or host memory as it issues (its writes leave as packets), and none but
END, WEND, GLEAVE, GJOIN and TLBI changes another core. -/
def Obligations.InstructionsLeaveMemoryToPackets : Prop :=
  ∀ (s t : State) (e : Eng) (i : Instr), i.accepted e = true → exec i s = .next t →
    (∀ a, rdByte t.mem a = rdByte s.mem a) ∧ (∀ a, rdByte t.hostMem a = rdByte s.hostMem a)
      ∧ ((∀ h, i ≠ .endS h) → (∀ h, i ≠ .wend h) → (∀ h n, i ≠ .gleave h n) → (∀ h n, i ≠ .gjoin h n) →
          (∀ h a d, i ≠ .tlbiDataAll h a d ∧ i ≠ .tlbiDataPage h a d ∧ i ≠ .tlbiInstrAll h a d ∧ i ≠ .tlbiInstrPage h a d) →
          ∀ j, j ≠ s.cur.core → t.core j = s.core j)

/-- Every step keeps device memory and host memory in canonical form. -/
def Obligations.StepKeepsMemoryForm : Prop :=
  ∀ s t : State, s.memOk → step s = .next t → t.memOk

/-- The reset values the spec states: CYCLES, READY and TRIP 0; job and stream slots free, with trap records, FPSTAT and
every barrier zero; CAROUSEL_SLOTS 0x003 and RC 0; links down and disabled with their counters zero, MODULE_ID 0; error
counters zero; nothing in the fabric; and both memories in canonical form, where an unwritten byte reads as 0 (log 2). -/
def Obligations.ResetValues : Prop :=
  let s := State.reset
  s.cycles = 0 ∧ s.ready = false ∧ s.trip = false ∧ s.moduleId = 0 ∧ s.net = [] ∧ s.memOk
    ∧ (∀ a, rdByte s.mem a = 0 ∧ rdByte s.hostMem a = 0)
    ∧ s.ring.slotsWord = 3 ∧ s.ring.rc = 0
    ∧ (∀ n, let c := s.core n
        c.frozen = false ∧ c.rbCount = 0 ∧ c.planeSt = 0
          ∧ (∀ j, (c.job j).st = .free ∧ (c.job j).trap = ⟨0, 0, 0, 0, 0⟩)
          ∧ (∀ k, (c.stream k).st = .free ∧ (c.stream k).fpstat = 0)
          ∧ ∀ b, mget {} c.barriers b = { balance := 0, exp := false, phase := false, bound := false })
    ∧ (∀ d k, mget 0 (s.die d).corr k = 0 ∧ mget 0 (s.die d).uncorr k = 0 ∧ mget none (s.die d).keys k = none)
    ∧ ∀ k, let l := s.link k
        l.enable = false ∧ l.up = false ∧ l.drops = 0 ∧ l.tx = 0 ∧ l.rx = 0
end

