-- ==== Sys2Proof/Laws/Exec.lean ====
section
/-!
SUPPORT. Sys2Proof/Laws/Exec.lean: what exec is at each constructor, so that no proof unfolds its arms.
-/

namespace Sys2Proof.Machine

theorem exec_nop (h : Head) (s : State) :
    exec (.nop h) s = execNop h s := rfl
theorem exec_endS (h : Head) (s : State) :
    exec (.endS h) s = execEndS h s := rfl
theorem exec_rdzv (h : Head) (n : Nat) (s : State) :
    exec (.rdzv h n) s = execRdzv h n s := rfl
theorem exec_br (h : Head) (exit : Bool) (off : Int) (s : State) :
    exec (.br h exit off) s = execBr h exit off s := rfl
theorem exec_brc (h : Head) (z exit : Bool) (p : Nat) (off : Int) (s : State) :
    exec (.brc h z exit p off) s = execBrc h z exit p off s := rfl
theorem exec_call (h : Head) (a : Nat) (off : Int) (s : State) :
    exec (.call h a off) s = execCall h a off s := rfl
theorem exec_callg (h : Head) (d a : Nat) (imm : Int) (s : State) :
    exec (.callg h d a imm) s = execCallg h d a imm s := rfl
theorem exec_jr (h : Head) (a : Nat) (s : State) :
    exec (.jr h a) s = execJr h a s := rfl
theorem exec_loop (h : Head) (a off : Nat) (s : State) :
    exec (.loop h a off) s = execLoop h a off s := rfl
theorem exec_loopi (h : Head) (n off : Nat) (s : State) :
    exec (.loopi h n off) s = execLoopi h n off s := rfl
theorem exec_looph (h : Head) (a off w : Nat) (s : State) :
    exec (.looph h a off w) s = execLooph h a off w s := rfl
theorem exec_trap (h : Head) (code : Nat) (s : State) :
    exec (.trap h code) s = execTrap h code s := rfl
theorem exec_csrr (h : Head) (d : Opnd) (num : Nat) (s : State) :
    exec (.csrr h d num) s = execCsrr h d num s := rfl
theorem exec_csrw (h : Head) (a : Opnd) (num : Nat) (s : State) :
    exec (.csrw h a num) s = execCsrw h a num s := rfl
theorem exec_add (h : Head) (d a b : Opnd) (s : State) :
    exec (.add h d a b) s = execAdd h d a b s := rfl
theorem exec_sub (h : Head) (d a b : Opnd) (s : State) :
    exec (.sub h d a b) s = execSub h d a b s := rfl
theorem exec_and (h : Head) (d a b : Opnd) (s : State) :
    exec (.and h d a b) s = execAnd h d a b s := rfl
theorem exec_or (h : Head) (d a b : Opnd) (s : State) :
    exec (.or h d a b) s = execOr h d a b s := rfl
theorem exec_xor (h : Head) (d a b : Opnd) (s : State) :
    exec (.xor h d a b) s = execXor h d a b s := rfl
theorem exec_andn (h : Head) (d a b : Opnd) (s : State) :
    exec (.andn h d a b) s = execAndn h d a b s := rfl
theorem exec_shl (h : Head) (d a b : Opnd) (s : State) :
    exec (.shl h d a b) s = execShl h d a b s := rfl
theorem exec_shr (h : Head) (d a b : Opnd) (s : State) :
    exec (.shr h d a b) s = execShr h d a b s := rfl
theorem exec_sra (h : Head) (d a b : Opnd) (s : State) :
    exec (.sra h d a b) s = execSra h d a b s := rfl
theorem exec_mul (h : Head) (d a b : Opnd) (s : State) :
    exec (.mul h d a b) s = execMul h d a b s := rfl
theorem exec_mulh (h : Head) (d a b : Opnd) (s : State) :
    exec (.mulh h d a b) s = execMulh h d a b s := rfl
theorem exec_mulhu (h : Head) (d a b : Opnd) (s : State) :
    exec (.mulhu h d a b) s = execMulhu h d a b s := rfl
theorem exec_min (h : Head) (d a b : Opnd) (s : State) :
    exec (.min h d a b) s = execMin h d a b s := rfl
theorem exec_max (h : Head) (d a b : Opnd) (s : State) :
    exec (.max h d a b) s = execMax h d a b s := rfl
theorem exec_minu (h : Head) (d a b : Opnd) (s : State) :
    exec (.minu h d a b) s = execMinu h d a b s := rfl
theorem exec_maxu (h : Head) (d a b : Opnd) (s : State) :
    exec (.maxu h d a b) s = execMaxu h d a b s := rfl
theorem exec_slt (h : Head) (d a b : Opnd) (s : State) :
    exec (.slt h d a b) s = execSlt h d a b s := rfl
theorem exec_sltu (h : Head) (d a b : Opnd) (s : State) :
    exec (.sltu h d a b) s = execSltu h d a b s := rfl
theorem exec_clz (h : Head) (d a : Opnd) (s : State) :
    exec (.clz h d a) s = execClz h d a s := rfl
theorem exec_popc (h : Head) (d a : Opnd) (s : State) :
    exec (.popc h d a) s = execPopc h d a s := rfl
theorem exec_sel (h : Head) (d a b : Opnd) (p : Nat) (s : State) :
    exec (.sel h d a b p) s = execSel h d a b p s := rfl
theorem exec_addi (h : Head) (d a : Opnd) (imm : Int) (s : State) :
    exec (.addi h d a imm) s = execAddi h d a imm s := rfl
theorem exec_andi (h : Head) (d a : Opnd) (imm : Int) (s : State) :
    exec (.andi h d a imm) s = execAndi h d a imm s := rfl
theorem exec_ori (h : Head) (d a : Opnd) (imm : Int) (s : State) :
    exec (.ori h d a imm) s = execOri h d a imm s := rfl
theorem exec_xori (h : Head) (d a : Opnd) (imm : Int) (s : State) :
    exec (.xori h d a imm) s = execXori h d a imm s := rfl
theorem exec_shli (h : Head) (d a : Opnd) (sh : Nat) (s : State) :
    exec (.shli h d a sh) s = execShli h d a sh s := rfl
theorem exec_shri (h : Head) (d a : Opnd) (sh : Nat) (s : State) :
    exec (.shri h d a sh) s = execShri h d a sh s := rfl
theorem exec_srai (h : Head) (d a : Opnd) (sh : Nat) (s : State) :
    exec (.srai h d a sh) s = execSrai h d a sh s := rfl
theorem exec_slti (h : Head) (d a : Opnd) (imm : Int) (s : State) :
    exec (.slti h d a imm) s = execSlti h d a imm s := rfl
theorem exec_sltiu (h : Head) (d a : Opnd) (imm : Int) (s : State) :
    exec (.sltiu h d a imm) s = execSltiu h d a imm s := rfl
theorem exec_lih (h : Head) (d : Opnd) (imm : Int) (s : State) :
    exec (.lih h d imm) s = execLih h d imm s := rfl
theorem exec_cmp (h : Head) (c : Cond) (p : Nat) (a b : Opnd) (s : State) :
    exec (.cmp h c p a b) s = execCmp h c p a b s := rfl
theorem exec_cmpi (h : Head) (c : Cond) (p : Nat) (a : Opnd) (imm : Int) (s : State) :
    exec (.cmpi h c p a imm) s = execCmpi h c p a imm s := rfl
theorem exec_pand (h : Head) (d a b : Nat) (s : State) :
    exec (.pand h d a b) s = execPand h d a b s := rfl
theorem exec_por (h : Head) (d a b : Nat) (s : State) :
    exec (.por h d a b) s = execPor h d a b s := rfl
theorem exec_pxor (h : Head) (d a b : Nat) (s : State) :
    exec (.pxor h d a b) s = execPxor h d a b s := rfl
theorem exec_pandn (h : Head) (d a b : Nat) (s : State) :
    exec (.pandn h d a b) s = execPandn h d a b s := rfl
theorem exec_pmov (h : Head) (d a : Nat) (s : State) :
    exec (.pmov h d a) s = execPmov h d a s := rfl
theorem exec_pseti (h : Head) (d : Nat) (v : Bool) (s : State) :
    exec (.pseti h d v) s = execPseti h d v s := rfl
theorem exec_ld (h : Head) (d a : Opnd) (imm : Int) (size : Nat) (zext : Bool) (s : State) :
    exec (.ld h d a imm size zext) s = execLd h d a imm size zext s := rfl
theorem exec_st (h : Head) (d : Nat) (a : Opnd) (imm : Int) (size : Nat) (s : State) :
    exec (.st h d a imm size) s = execSt h d a imm size s := rfl
theorem exec_ldg (h : Head) (d a : Nat) (imm : Int) (size : Nat) (zext : Bool) (s : State) :
    exec (.ldg h d a imm size zext) s = execLdg h d a imm size zext s := rfl
theorem exec_stg (h : Head) (d a : Nat) (imm : Int) (size : Nat) (s : State) :
    exec (.stg h d a imm size) s = execStg h d a imm size s := rfl
theorem exec_blkh (h : Head) (s1 : HeadSpec) (s : State) :
    exec (.blkh h s1) s = execBlkh h s1 s := rfl
theorem exec_ssig (h : Head) (sem amount : Nat) (s1 : Sync) (s : State) :
    exec (.ssig h sem amount s1) s = execSsig h sem amount s1 s := rfl
theorem exec_sset (h : Head) (sem a : Nat) (s : State) :
    exec (.sset h sem a) s = execSset h sem a s := rfl
theorem exec_sget (h : Head) (d sem : Nat) (s : State) :
    exec (.sget h d sem) s = execSget h d sem s := rfl
theorem exec_mark (h : Head) (j mask : Nat) (s : State) :
    exec (.mark h j mask) s = execMark h j mask s := rfl
theorem exec_mjoin (h : Head) (j : Nat) (s : State) :
    exec (.mjoin h j) s = execMjoin h j s := rfl
theorem exec_mpost (h : Head) (d a ch : Nat) (s : State) :
    exec (.mpost h d a ch) s = execMpost h d a ch s := rfl
theorem exec_gjoin (h : Head) (ch : Nat) (s : State) :
    exec (.gjoin h ch) s = execGjoin h ch s := rfl
theorem exec_gleave (h : Head) (ch : Nat) (s : State) :
    exec (.gleave h ch) s = execGleave h ch s := rfl
theorem exec_garv (h : Head) (d ch : Nat) (s1 : Sync) (s : State) :
    exec (.garv h d ch s1) s = execGarv h d ch s1 s := rfl
theorem exec_gbar (h : Head) (d ch : Nat) (s1 : Sync) (s : State) :
    exec (.gbar h d ch s1) s = execGbar h d ch s1 s := rfl
theorem exec_ckpt (h : Head) (a n : Nat) (s : State) :
    exec (.ckpt h a n) s = execCkpt h a n s := rfl
theorem exec_planeQuery (h : Head) (d a : Nat) (s : State) :
    exec (.planeQuery h d a) s = execPlaneQuery h d a s := rfl
theorem exec_planeStage (h : Head) (d a : Nat) (s : State) :
    exec (.planeStage h d a) s = execPlaneStage h d a s := rfl
theorem exec_planeDrop (h : Head) (d a : Nat) (s : State) :
    exec (.planeDrop h d a) s = execPlaneDrop h d a s := rfl
theorem exec_rft (h : Head) (skip : Bool) (s : State) :
    exec (.rft h skip) s = execRft h skip s := rfl
theorem exec_resume (h : Head) (a : Nat) (s : State) :
    exec (.resume h a) s = execResume h a s := rfl
theorem exec_ctxsv (h : Head) (a b : Nat) (s : State) :
    exec (.ctxsv h a b) s = execCtxsv h a b s := rfl
theorem exec_ctxld (h : Head) (d a b : Nat) (s : State) :
    exec (.ctxld h d a b) s = execCtxld h d a b s := rfl
theorem exec_tlbiDataAll (h : Head) (a : Nat) (die : Bool) (s : State) :
    exec (.tlbiDataAll h a die) s = execTlbiDataAll h a die s := rfl
theorem exec_tlbiDataPage (h : Head) (a : Nat) (die : Bool) (s : State) :
    exec (.tlbiDataPage h a die) s = execTlbiDataPage h a die s := rfl
theorem exec_tlbiInstrAll (h : Head) (a : Nat) (die : Bool) (s : State) :
    exec (.tlbiInstrAll h a die) s = execTlbiInstrAll h a die s := rfl
theorem exec_tlbiInstrPage (h : Head) (a : Nat) (die : Bool) (s : State) :
    exec (.tlbiInstrPage h a die) s = execTlbiInstrPage h a die s := rfl
theorem exec_keyopLoad (h : Head) (d a b : Nat) (s : State) :
    exec (.keyopLoad h d a b) s = execKeyopLoad h d a b s := rfl
theorem exec_keyopDestroy (h : Head) (d a b : Nat) (s : State) :
    exec (.keyopDestroy h d a b) s = execKeyopDestroy h d a b s := rfl
theorem exec_keyopQuery (h : Head) (d a b : Nat) (s : State) :
    exec (.keyopQuery h d a b) s = execKeyopQuery h d a b s := rfl
theorem exec_capw (h : Head) (ch : Nat) (staged : Bool) (a b : Nat) (s : State) :
    exec (.capw h ch staged a b) s = execCapw h ch staged a b s := rfl
theorem exec_tnset (h : Head) (staged : Bool) (a b : Nat) (s : State) :
    exec (.tnset h staged a b) s = execTnset h staged a b s := rfl
theorem exec_sdef (h : Head) (d a : Nat) (imm : Int) (s : State) :
    exec (.sdef h d a imm) s = execSdef h d a imm s := rfl
theorem exec_slvl (h : Head) (d a : Nat) (imm : Int) (s : State) :
    exec (.slvl h d a imm) s = execSlvl h d a imm s := rfl
theorem exec_sfib (h : Head) (a : StOpnd) (b lvl : Nat) (s : State) :
    exec (.sfib h a b lvl) s = execSfib h a b lvl s := rfl
theorem exec_sint (h : Head) (d a b : Nat) (s : State) :
    exec (.sint h d a b) s = execSint h d a b s := rfl
theorem exec_suni (h : Head) (d a b : Nat) (s : State) :
    exec (.suni h d a b) s = execSuni h d a b s := rfl
theorem exec_sskip (h : Head) (a : StOpnd) (b : Nat) (s : State) :
    exec (.sskip h a b) s = execSskip h a b s := rfl
theorem exec_spos (h : Head) (d : Nat) (a : StOpnd) (side : Bool) (s : State) :
    exec (.spos h d a side) s = execSpos h d a side s := rfl
theorem exec_scrd (h : Head) (d : Nat) (a : StOpnd) (dim : Nat) (s : State) :
    exec (.scrd h d a dim) s = execScrd h d a dim s := rfl
theorem exec_ldq (h : Head) (q : Nat) (a : StOpnd) (b : Nat) (p : Option Nat) (wid keep side : Bool) (s : State) :
    exec (.ldq h q a b p wid keep side) s = execLdq h q a b p wid keep side s := rfl
theorem exec_ldqc (h : Head) (q : Nat) (a : StOpnd) (b : Nat) (p : Option Nat) (keep : Bool) (s : State) :
    exec (.ldqc h q a b p keep) s = execLdqc h q a b p keep s := rfl
theorem exec_ldqa (h : Head) (q : Nat) (a : StOpnd) (b : Nat) (p : Option Nat) (keep side : Bool) (s : State) :
    exec (.ldqa h q a b p keep side) s = execLdqa h q a b p keep side s := rfl
theorem exec_stq (h : Head) (d : StOpnd) (q : Nat) (peek : Bool) (b : Nat) (nar sat : Bool) (s : State) :
    exec (.stq h d q peek b nar sat) s = execStq h d q peek b nar sat s := rfl
theorem exec_lls (h : Head) (a b c : Nat) (s : State) :
    exec (.lls h a b c) s = execLls h a b c s := rfl
theorem exec_mrgb (h : Head) (q q2 : Nat) (int : Bool) (s : State) :
    exec (.mrgb h q q2 int) s = execMrgb h q q2 int s := rfl
theorem exec_mrgi (h : Head) (a : StOpnd) (b : Nat) (s : State) :
    exec (.mrgi h a b) s = execMrgi h a b s := rfl
theorem exec_mrge (h : Head) (b : Nat) (p : Option Nat) (s : State) :
    exec (.mrge h b p) s = execMrge h b p s := rfl
theorem exec_bfxp (h : Head) (q a b bp : Nat) (s : State) :
    exec (.bfxp h q a b bp) s = execBfxp h q a b bp s := rfl
theorem exec_bfxpSet (h : Head) (a bp : Nat) (s : State) :
    exec (.bfxpSet h a bp) s = execBfxpSet h a bp s := rfl
theorem exec_loopt (h : Head) (a : StOpnd) (off k : Nat) (s : State) :
    exec (.loopt h a off k) s = execLoopt h a off k s := rfl
theorem exec_prf (h : Head) (a : StOpnd) (b : Nat) (s : State) :
    exec (.prf h a b) s = execPrf h a b s := rfl
theorem exec_srel (h : Head) (a : StOpnd) (s : State) :
    exec (.srel h a) s = execSrel h a s := rfl
theorem exec_vfadd (h : Head) (d : VDst) (a b : VSrc) (rm : Option Rm) (f : VFmt) (s : State) :
    exec (.vfadd h d a b rm f) s = execVfadd h d a b rm f s := rfl
theorem exec_vfsub (h : Head) (d : VDst) (a b : VSrc) (rm : Option Rm) (f : VFmt) (s : State) :
    exec (.vfsub h d a b rm f) s = execVfsub h d a b rm f s := rfl
theorem exec_vfmul (h : Head) (d : VDst) (a b : VSrc) (rm : Option Rm) (f : VFmt) (s : State) :
    exec (.vfmul h d a b rm f) s = execVfmul h d a b rm f s := rfl
theorem exec_vfma (h : Head) (d : VDst) (a b c : VSrc) (f : VFmt) (s : State) :
    exec (.vfma h d a b c f) s = execVfma h d a b c f s := rfl
theorem exec_vfms (h : Head) (d : VDst) (a b c : VSrc) (f : VFmt) (s : State) :
    exec (.vfms h d a b c f) s = execVfms h d a b c f s := rfl
theorem exec_vfnma (h : Head) (d : VDst) (a b c : VSrc) (f : VFmt) (s : State) :
    exec (.vfnma h d a b c f) s = execVfnma h d a b c f s := rfl
theorem exec_vfmin (h : Head) (d : VDst) (a b : VSrc) (f : VFmt) (s : State) :
    exec (.vfmin h d a b f) s = execVfmin h d a b f s := rfl
theorem exec_vfmax (h : Head) (d : VDst) (a b : VSrc) (f : VFmt) (s : State) :
    exec (.vfmax h d a b f) s = execVfmax h d a b f s := rfl
theorem exec_vfcmp (h : Head) (d : CmpDst) (c : VCond) (a b : VSrc) (f : VFmt) (s : State) :
    exec (.vfcmp h d c a b f) s = execVfcmp h d c a b f s := rfl
theorem exec_vlog2 (h : Head) (d : VDst) (a : VSrc) (f : VFmt) (s : State) :
    exec (.vlog2 h d a f) s = execVlog2 h d a f s := rfl
theorem exec_vexp2 (h : Head) (d : VDst) (a : VSrc) (f : VFmt) (s : State) :
    exec (.vexp2 h d a f) s = execVexp2 h d a f s := rfl
theorem exec_vrcp (h : Head) (d : VDst) (a : VSrc) (f : VFmt) (s : State) :
    exec (.vrcp h d a f) s = execVrcp h d a f s := rfl
theorem exec_vrsq (h : Head) (d : VDst) (a : VSrc) (f : VFmt) (s : State) :
    exec (.vrsq h d a f) s = execVrsq h d a f s := rfl
theorem exec_vcvt (h : Head) (d : VDst) (a : VSrc) (src : Fmt) (toInt : Bool) (rm : Option Rm) (f : VFmt) (s : State) :
    exec (.vcvt h d a src toInt rm f) s = execVcvt h d a src toInt rm f s := rfl
theorem exec_vscl (h : Head) (d : VDst) (a b : VSrc) (rm : Option Rm) (f : VFmt) (s : State) :
    exec (.vscl h d a b rm f) s = execVscl h d a b rm f s := rfl
theorem exec_vpks (h : Head) (d : VDst) (a : VSrc) (rm : Option Rm) (f : VFmt) (s : State) :
    exec (.vpks h d a rm f) s = execVpks h d a rm f s := rfl
theorem exec_vadd (h : Head) (d : VDst) (a b : VSrc) (f : VFmt) (s : State) :
    exec (.vadd h d a b f) s = execVadd h d a b f s := rfl
theorem exec_vsub (h : Head) (d : VDst) (a b : VSrc) (f : VFmt) (s : State) :
    exec (.vsub h d a b f) s = execVsub h d a b f s := rfl
theorem exec_vmul (h : Head) (d : VDst) (a b : VSrc) (f : VFmt) (s : State) :
    exec (.vmul h d a b f) s = execVmul h d a b f s := rfl
theorem exec_vmulh (h : Head) (d : VDst) (a b : VSrc) (f : VFmt) (s : State) :
    exec (.vmulh h d a b f) s = execVmulh h d a b f s := rfl
theorem exec_vmad (h : Head) (d : VDst) (a b c : VSrc) (f : VFmt) (s : State) :
    exec (.vmad h d a b c f) s = execVmad h d a b c f s := rfl
theorem exec_vand (h : Head) (d : VDst) (a b : VSrc) (f : VFmt) (s : State) :
    exec (.vand h d a b f) s = execVand h d a b f s := rfl
theorem exec_vor (h : Head) (d : VDst) (a b : VSrc) (f : VFmt) (s : State) :
    exec (.vor h d a b f) s = execVor h d a b f s := rfl
theorem exec_vxor (h : Head) (d : VDst) (a b : VSrc) (f : VFmt) (s : State) :
    exec (.vxor h d a b f) s = execVxor h d a b f s := rfl
theorem exec_vshl (h : Head) (d : VDst) (a b : VSrc) (f : VFmt) (s : State) :
    exec (.vshl h d a b f) s = execVshl h d a b f s := rfl
theorem exec_vshr (h : Head) (d : VDst) (a b : VSrc) (f : VFmt) (s : State) :
    exec (.vshr h d a b f) s = execVshr h d a b f s := rfl
theorem exec_vsra (h : Head) (d : VDst) (a b : VSrc) (f : VFmt) (s : State) :
    exec (.vsra h d a b f) s = execVsra h d a b f s := rfl
theorem exec_vmin (h : Head) (d : VDst) (a b : VSrc) (f : VFmt) (s : State) :
    exec (.vmin h d a b f) s = execVmin h d a b f s := rfl
theorem exec_vmax (h : Head) (d : VDst) (a b : VSrc) (f : VFmt) (s : State) :
    exec (.vmax h d a b f) s = execVmax h d a b f s := rfl
theorem exec_vadds (h : Head) (d : VDst) (a b : VSrc) (f : VFmt) (s : State) :
    exec (.vadds h d a b f) s = execVadds h d a b f s := rfl
theorem exec_vsubs (h : Head) (d : VDst) (a b : VSrc) (f : VFmt) (s : State) :
    exec (.vsubs h d a b f) s = execVsubs h d a b f s := rfl
theorem exec_vcmp (h : Head) (d : CmpDst) (c : VCond) (a b : VSrc) (f : VFmt) (s : State) :
    exec (.vcmp h d c a b f) s = execVcmp h d c a b f s := rfl
theorem exec_vsel (h : Head) (d : VDst) (a b c : VSrc) (f : VFmt) (s : State) :
    exec (.vsel h d a b c f) s = execVsel h d a b c f s := rfl
theorem exec_vmov (h : Head) (d : VDst) (a : VSrc) (f : VFmt) (s : State) :
    exec (.vmov h d a f) s = execVmov h d a f s := rfl
theorem exec_vli (h : Head) (d : VDst) (imm esz : Nat) (s : State) :
    exec (.vli h d imm esz) s = execVli h d imm esz s := rfl
theorem exec_vbcst (h : Head) (d : VDst) (a : VSrc) (k : Nat) (f : VFmt) (s : State) :
    exec (.vbcst h d a k f) s = execVbcst h d a k f s := rfl
theorem exec_vbcstX (h : Head) (d : VDst) (a : Nat) (f : VFmt) (s : State) :
    exec (.vbcstX h d a f) s = execVbcstX h d a f s := rfl
theorem exec_vperm (h : Head) (d : VDst) (a b : VSrc) (f : VFmt) (s : State) :
    exec (.vperm h d a b f) s = execVperm h d a b f s := rfl
theorem exec_vrot (h : Head) (d : VDst) (a : VSrc) (k : Nat) (f : VFmt) (s : State) :
    exec (.vrot h d a k f) s = execVrot h d a k f s := rfl
theorem exec_vlane (h : Head) (d : VDst) (a : Nat) (f : VFmt) (s : State) :
    exec (.vlane h d a f) s = execVlane h d a f s := rfl
theorem exec_vhash (h : Head) (d : VDst) (a b : VSrc) (f : VFmt) (s : State) :
    exec (.vhash h d a b f) s = execVhash h d a b f s := rfl
theorem exec_vradd (h : Head) (d : VDst) (a : VSrc) (f : VFmt) (s : State) :
    exec (.vradd h d a f) s = execVradd h d a f s := rfl
theorem exec_vrmax (h : Head) (d : VDst) (a : VSrc) (min flt : Bool) (f : VFmt) (s : State) :
    exec (.vrmax h d a min flt f) s = execVrmax h d a min flt f s := rfl
theorem exec_vrmaxi (h : Head) (d : VDst) (a b : VSrc) (p : Option Nat) (f : VFmt) (s : State) :
    exec (.vrmaxi h d a b p f) s = execVrmaxi h d a b p f s := rfl
theorem exec_vrmini (h : Head) (d : VDst) (a b : VSrc) (p : Option Nat) (f : VFmt) (s : State) :
    exec (.vrmini h d a b p f) s = execVrmini h d a b p f s := rfl
theorem exec_vrfadd (h : Head) (d : VDst) (a : VSrc) (rm : Option Rm) (f : VFmt) (s : State) :
    exec (.vrfadd h d a rm f) s = execVrfadd h d a rm f s := rfl
theorem exec_vext (h : Head) (d : Nat) (a : VSrc) (k e : Nat) (f : VFmt) (s : State) :
    exec (.vext h d a k e f) s = execVext h d a k e f s := rfl
theorem exec_vacrF32 (h : Head) (d : VDst) (a : Nat) (l : Int) (s : State) :
    exec (.vacrF32 h d a l) s = execVacrF32 h d a l s := rfl
theorem exec_vacrRaw (h : Head) (d : VDst) (a : Nat) (l : Int) (s : State) :
    exec (.vacrRaw h d a l) s = execVacrRaw h d a l s := rfl
theorem exec_vacwF32 (h : Head) (d : Nat) (a : VSrc) (l : Int) (s : State) :
    exec (.vacwF32 h d a l) s = execVacwF32 h d a l s := rfl
theorem exec_vacwAdd (h : Head) (d : Nat) (a : VSrc) (l : Int) (s : State) :
    exec (.vacwAdd h d a l) s = execVacwAdd h d a l s := rfl
theorem exec_vacwRaw (h : Head) (d : Nat) (a : VSrc) (l : Int) (s : State) :
    exec (.vacwRaw h d a l) s = execVacwRaw h d a l s := rfl
theorem exec_loopq (h : Head) (q : Nat) (peek : Bool) (off k : Nat) (s : State) :
    exec (.loopq h q peek off k) s = execLoopq h q peek off k s := rfl
theorem exec_vqlen (h : Head) (p q n : Nat) (s : State) :
    exec (.vqlen h p q n) s = execVqlen h p q n s := rfl
theorem exec_vqlenZero (h : Head) (p q : Nat) (s : State) :
    exec (.vqlenZero h p q) s = execVqlenZero h p q s := rfl
theorem exec_wnop (h : WHead) (s : State) :
    exec (.wnop h) s = execWnop h s := rfl
theorem exec_wt (h : WHead) (mode : WMode) (sh : Nat) (s1 : WSlots) (s : State) :
    exec (.wt h mode sh s1) s = execWt h mode sh s1 s := rfl
theorem exec_wg (h : WHead) (mode : WMode) (code sh : Nat) (s1 : WSlots) (s : State) :
    exec (.wg h mode code sh s1) s = execWg h mode code sh s1 s := rfl
theorem exec_wf (h : WHead) (acc : Bool) (k : Nat) (s1 : WSlots) (s : State) :
    exec (.wf h acc k s1) s = execWf h acc k s1 s := rfl
theorem exec_wtf (h : WHead) (mode : WMode) (sh : Nat) (s1 : WSlots) (s : State) :
    exec (.wtf h mode sh s1) s = execWtf h mode sh s1 s := rfl
theorem exec_wrow (h : WHead) (f : WFlush) (o : Bool) (en : Int) (s : State) :
    exec (.wrow h f o en) s = execWrow h f o en s := rfl
theorem exec_wsegFull (h : WHead) (accbase accrows : Nat) (lacc : Int) (e4m3 : Bool) (frm : Rm) (s : State) :
    exec (.wsegFull h accbase accrows lacc e4m3 frm) s = execWsegFull h accbase accrows lacc e4m3 frm s := rfl
theorem exec_wsegKeep (h : WHead) (s : State) :
    exec (.wsegKeep h) s = execWsegKeep h s := rfl
theorem exec_whook (h : WHead) (n : Nat) (s : State) :
    exec (.whook h n) s = execWhook h n s := rfl
theorem exec_wret (h : WHead) (s : State) :
    exec (.wret h) s = execWret h s := rfl
theorem exec_wjmp (h : WHead) (off : Int) (s : State) :
    exec (.wjmp h off) s = execWjmp h off s := rfl
theorem exec_wjmpLink (h : WHead) (off : Int) (s : State) :
    exec (.wjmpLink h off) s = execWjmpLink h off s := rfl
theorem exec_wjmpRet (h : WHead) (s : State) :
    exec (.wjmpRet h) s = execWjmpRet h s := rfl
theorem exec_wend (h : WHead) (s : State) :
    exec (.wend h) s = execWend h s := rfl
theorem exec_wwait (h : WHead) (sem scnt tcnt : Nat) (s1 : Option Sync) (s : State) :
    exec (.wwait h sem scnt tcnt s1) s = execWwait h sem scnt tcnt s1 s := rfl
theorem exec_wlink (h : WHead) (n : Nat) (s : State) :
    exec (.wlink h n) s = execWlink h n s := rfl
theorem exec_wrdzv (h : WHead) (n : Nat) (s : State) :
    exec (.wrdzv h n) s = execWrdzv h n s := rfl
theorem exec_mtw (h : Head) (a b : Nat) (s : State) :
    exec (.mtw h a b) s = execMtw h a b s := rfl
theorem exec_mtws (h : Head) (k : KCtl) (d b : Nat) (s : State) :
    exec (.mtws h k d b) s = execMtws h k d b s := rfl
theorem exec_mgo (h : Head) (k : KCtl) (halt : Bool) (s : State) :
    exec (.mgo h k halt) s = execMgo h k halt s := rfl
theorem exec_mdrn (h : Head) (k : KCtl) (d b : Nat) (s : State) :
    exec (.mdrn h k d b) s = execMdrn h k d b s := rfl
theorem exec_mbyp (h : Head) (k : KCtl) (b : Nat) (s : State) :
    exec (.mbyp h k b) s = execMbyp h k b s := rfl
theorem exec_mrqt (h : Head) (k : KCtl) (d b : Nat) (s : State) :
    exec (.mrqt h k d b) s = execMrqt h k d b s := rfl
theorem exec_mzero (h : Head) (k : KCtl) (b : Nat) (s : State) :
    exec (.mzero h k b) s = execMzero h k b s := rfl
theorem exec_midx (h : Head) (k : KCtl) (d b : Nat) (s : State) :
    exec (.midx h k d b) s = execMidx h k d b s := rfl
theorem exec_mnms (h : Head) (k : KCtl) (d b : Nat) (s : State) :
    exec (.mnms h k d b) s = execMnms h k d b s := rfl
theorem exec_mrpr (h : Head) (k : KCtl) (b : Nat) (fault : Bool) (s : State) :
    exec (.mrpr h k b fault) s = execMrpr h k b fault s := rfl
theorem exec_mrst (h : Head) (k : KCtl) (b : Nat) (halt : Bool) (s : State) :
    exec (.mrst h k b halt) s = execMrst h k b halt s := rfl
theorem exec_xcp (h : Head) (k : KCtl) (a b : Nat) (s : State) :
    exec (.xcp h k a b) s = execXcp h k a b s := rfl
theorem exec_xcpg (h : Head) (k : KCtl) (a b : Nat) (s : State) :
    exec (.xcpg h k a b) s = execXcpg h k a b s := rfl
theorem exec_xred (h : Head) (k : KCtl) (a b : Nat) (s : State) :
    exec (.xred h k a b) s = execXred h k a b s := rfl
theorem exec_xexp (h : Head) (k : KCtl) (a b : Nat) (s : State) :
    exec (.xexp h k a b) s = execXexp h k a b s := rfl
theorem exec_xarv (h : Head) (k : KCtl) (a b : Nat) (s : State) :
    exec (.xarv h k a b) s = execXarv h k a b s := rfl
theorem exec_xstep (h : Head) (k : KCtl) (a : Nat) (s : State) :
    exec (.xstep h k a) s = execXstep h k a s := rfl
theorem exec_xpln (h : Head) (k : KCtl) (a b : Nat) (s : State) :
    exec (.xpln h k a b) s = execXpln h k a b s := rfl
theorem exec_xbrd (h : Head) (k : KCtl) (a b : Nat) (s : State) :
    exec (.xbrd h k a b) s = execXbrd h k a b s := rfl
theorem exec_xalt (h : Head) (k : KCtl) (a b : Nat) (s : State) :
    exec (.xalt h k a b) s = execXalt h k a b s := rfl
theorem exec_xrep (h : Head) (k : KCtl) (a b : Nat) (s : State) :
    exec (.xrep h k a b) s = execXrep h k a b s := rfl
theorem exec_xdrp (h : Head) (k : KCtl) (a b : Nat) (s : State) :
    exec (.xdrp h k a b) s = execXdrp h k a b s := rfl
theorem exec_xsigr (h : Head) (k : KCtl) (a b : Nat) (s : State) :
    exec (.xsigr h k a b) s = execXsigr h k a b s := rfl
theorem exec_xkeyEnc (h : Head) (k : KCtl) (a b : Nat) (s : State) :
    exec (.xkeyEnc h k a b) s = execXkeyEnc h k a b s := rfl
theorem exec_xkeyDec (h : Head) (k : KCtl) (a b : Nat) (s : State) :
    exec (.xkeyDec h k a b) s = execXkeyDec h k a b s := rfl
theorem exec_xqryRing (h : Head) (k : KCtl) (b : Nat) (s : State) :
    exec (.xqryRing h k b) s = execXqryRing h k b s := rfl
theorem exec_xqryPeek (h : Head) (k : KCtl) (a b : Nat) (s : State) :
    exec (.xqryPeek h k a b) s = execXqryPeek h k a b s := rfl
theorem exec_instructionRetire (c k : Nat) (s : State) :
    exec (.instructionRetire c k) s = execInstructionRetire c k s := rfl
theorem exec_resultLands (c : Nat) (s : State) :
    exec (.resultLands c) s = execResultLands c s := rfl
theorem exec_blockHeadSatisfied (c k : Nat) (s : State) :
    exec (.blockHeadSatisfied c k) s = execBlockHeadSatisfied c k s := rfl
theorem exec_rendezvousRelease (c j : Nat) (s : State) :
    exec (.rendezvousRelease c j) s = execRendezvousRelease c j s := rfl
theorem exec_jobRetire (c j : Nat) (s : State) :
    exec (.jobRetire c j) s = execJobRetire c j s := rfl
theorem exec_markerReachesHead (c k : Nat) (s : State) :
    exec (.markerReachesHead c k) s = execMarkerReachesHead c k s := rfl
theorem exec_groupPhaseComplete (g : Nat) (s : State) :
    exec (.groupPhaseComplete g) s = execGroupPhaseComplete g s := rfl
theorem exec_blockWatchdogExpiry (c k : Nat) (s : State) :
    exec (.blockWatchdogExpiry c k) s = execBlockWatchdogExpiry c k s := rfl
theorem exec_agePromotion (c k : Nat) (s : State) :
    exec (.agePromotion c k) s = execAgePromotion c k s := rfl
theorem exec_ckptConditionsMet (c j : Nat) (s : State) :
    exec (.ckptConditionsMet c j) s = execCkptConditionsMet c j s := rfl
theorem exec_loaderConsider (c : Nat) (s : State) :
    exec (.loaderConsider c) s = execLoaderConsider c s := rfl
theorem exec_jobLoadDone (c j : Nat) (s : State) :
    exec (.jobLoadDone c j) s = execJobLoadDone c j s := rfl
theorem exec_stagedJobStart (c : Nat) (s : State) :
    exec (.stagedJobStart c) s = execStagedJobStart c s := rfl
theorem exec_budgetOverrun (c j : Nat) (s : State) :
    exec (.budgetOverrun c j) s = execBudgetOverrun c j s := rfl
theorem exec_graceExpiry (c j : Nat) (s : State) :
    exec (.graceExpiry c j) s = execGraceExpiry c j s := rfl
theorem exec_programTrapStop (c j : Nat) (s : State) :
    exec (.programTrapStop c j) s = execProgramTrapStop c j s := rfl
theorem exec_localFaultFreeze (c : Nat) (s : State) :
    exec (.localFaultFreeze c) s = execLocalFaultFreeze c s := rfl
theorem exec_handlerTimeLimit (c : Nat) (s : State) :
    exec (.handlerTimeLimit c) s = execHandlerTimeLimit c s := rfl
theorem exec_pageWalkComplete (d dt page : Nat) (s : State) :
    exec (.pageWalkComplete d dt page) s = execPageWalkComplete d dt page s := rfl
theorem exec_missQueueAdmit (c : Nat) (s : State) :
    exec (.missQueueAdmit c) s = execMissQueueAdmit c s := rfl
theorem exec_codeLineArrive (c line : Nat) (s : State) :
    exec (.codeLineArrive c line) s = execCodeLineArrive c line s := rfl
theorem exec_commandStart (c k : Nat) (s : State) :
    exec (.commandStart c k) s = execCommandStart c k s := rfl
theorem exec_commandComplete (c k i : Nat) (s : State) :
    exec (.commandComplete c k i) s = execCommandComplete c k i s := rfl
theorem exec_nestStepCommit (c : Nat) (s : State) :
    exec (.nestStepCommit c) s = execNestStepCommit c s := rfl
theorem exec_flushGroupWrite (c : Nat) (s : State) :
    exec (.flushGroupWrite c) s = execFlushGroupWrite c s := rfl
theorem exec_wsegReadsComplete (c k : Nat) (s : State) :
    exec (.wsegReadsComplete c k) s = execWsegReadsComplete c k s := rfl
theorem exec_llsGroupWrite (c : Nat) (s : State) :
    exec (.llsGroupWrite c) s = execLlsGroupWrite c s := rfl
theorem exec_llsStart (c : Nat) (s : State) :
    exec (.llsStart c) s = execLlsStart c s := rfl
theorem exec_portAccept (c : Nat) (s : State) :
    exec (.portAccept c) s = execPortAccept c s := rfl
theorem exec_outboundStamp (c : Nat) (s : State) :
    exec (.outboundStamp c) s = execOutboundStamp c s := rfl
theorem exec_requestTimeout (c i : Nat) (s : State) :
    exec (.requestTimeout c i) s = execRequestTimeout c i s := rfl
theorem exec_slotWindowSend (c k : Nat) (s : State) :
    exec (.slotWindowSend c k) s = execSlotWindowSend c k s := rfl
theorem exec_carouselPassage (p : Nat) (s : State) :
    exec (.carouselPassage p) s = execCarouselPassage p s := rfl
theorem exec_carouselWeCatch (c : Nat) (s : State) :
    exec (.carouselWeCatch c) s = execCarouselWeCatch c s := rfl
theorem exec_ilLoad (d : Nat) (s : State) :
    exec (.ilLoad d) s = execIlLoad d s := rfl
theorem exec_ilUnload (d : Nat) (s : State) :
    exec (.ilUnload d) s = execIlUnload d s := rfl
theorem exec_linkTransmitAccept (k : Nat) (s : State) :
    exec (.linkTransmitAccept k) s = execLinkTransmitAccept k s := rfl
theorem exec_linkReceive (k : Nat) (s : State) :
    exec (.linkReceive k) s = execLinkReceive k s := rfl
theorem exec_applyWrite (id : Nat) (s : State) :
    exec (.applyWrite id) s = execApplyWrite id s := rfl
theorem exec_applyReadRequest (id : Nat) (s : State) :
    exec (.applyReadRequest id) s = execApplyReadRequest id s := rfl
theorem exec_applyRemoteSignal (id : Nat) (s : State) :
    exec (.applyRemoteSignal id) s = execApplyRemoteSignal id s := rfl
theorem exec_applyReduce (id : Nat) (s : State) :
    exec (.applyReduce id) s = execApplyReduce id s := rfl
theorem exec_applyArrival (id : Nat) (s : State) :
    exec (.applyArrival id) s = execApplyArrival id s := rfl
theorem exec_applyPlaneRecord (id : Nat) (s : State) :
    exec (.applyPlaneRecord id) s = execApplyPlaneRecord id s := rfl
theorem exec_applyDescriptorPost (id : Nat) (s : State) :
    exec (.applyDescriptorPost id) s = execApplyDescriptorPost id s := rfl
theorem exec_readReplyArrive (id : Nat) (s : State) :
    exec (.readReplyArrive id) s = execReadReplyArrive id s := rfl
theorem exec_writeAckArrive (id : Nat) (s : State) :
    exec (.writeAckArrive id) s = execWriteAckArrive id s := rfl
theorem exec_signalReplyArrive (id : Nat) (s : State) :
    exec (.signalReplyArrive id) s = execSignalReplyArrive id s := rfl
theorem exec_planeAnswerArrive (id : Nat) (s : State) :
    exec (.planeAnswerArrive id) s = execPlaneAnswerArrive id s := rfl
theorem exec_postAnswerArrive (id : Nat) (s : State) :
    exec (.postAnswerArrive id) s = execPostAnswerArrive id s := rfl
theorem exec_errorReplyArrive (id : Nat) (s : State) :
    exec (.errorReplyArrive id) s = execErrorReplyArrive id s := rfl
theorem exec_routerPromotion (r : Nat) (s : State) :
    exec (.routerPromotion r) s = execRouterPromotion r s := rfl
theorem exec_routerFlitForward (r out : Nat) (s : State) :
    exec (.routerFlitForward r out) s = execRouterFlitForward r out s := rfl
theorem exec_hostDoorbellWrite (fn c q v : Nat) (s : State) :
    exec (.hostDoorbellWrite fn c q v) s = execHostDoorbellWrite fn c q v s := rfl
theorem exec_mboxRemove (c j : Nat) (s : State) :
    exec (.mboxRemove c j) s = execMboxRemove c j s := rfl
theorem exec_mboxPreempt (c j : Nat) (s : State) :
    exec (.mboxPreempt c j) s = execMboxPreempt c j s := rfl
theorem exec_mboxRerun (c j : Nat) (s : State) :
    exec (.mboxRerun c j) s = execMboxRerun c j s := rfl
theorem exec_eventPop (c : Nat) (s : State) :
    exec (.eventPop c) s = execEventPop c s := rfl
theorem exec_carouselChangeRequest (v : Nat) (s : State) :
    exec (.carouselChangeRequest v) s = execCarouselChangeRequest v s := rfl
theorem exec_hostWindowWrite (fn w reg v : Nat) (s : State) :
    exec (.hostWindowWrite fn w reg v) s = execHostWindowWrite fn w reg v s := rfl
theorem exec_partitionWrite (fn v mask : Nat) (s : State) :
    exec (.partitionWrite fn v mask) s = execPartitionWrite fn v mask s := rfl
theorem exec_moduleIdWrite (fn v : Nat) (s : State) :
    exec (.moduleIdWrite fn v) s = execModuleIdWrite fn v s := rfl
theorem exec_linkEnableWrite (fn k v : Nat) (s : State) :
    exec (.linkEnableWrite fn k v) s = execLinkEnableWrite fn k v s := rfl
theorem exec_linkTrained (k peer lanes : Nat) (s : State) :
    exec (.linkTrained k peer lanes) s = execLinkTrained k peer lanes s := rfl
theorem exec_linkTrainingLoss (k : Nat) (s : State) :
    exec (.linkTrainingLoss k) s = execLinkTrainingLoss k s := rfl
theorem exec_hostBar2Access (l a n : Nat) (w : Option (List Byte)) (s : State) :
    exec (.hostBar2Access l a n w) s = execHostBar2Access l a n w s := rfl
theorem exec_registerWrite (fn off v : Nat) (s : State) :
    exec (.registerWrite fn off v) s = execRegisterWrite fn off v s := rfl
theorem exec_sensorUpdate (d v : Nat) (s : State) :
    exec (.sensorUpdate d v) s = execSensorUpdate d v s := rfl
theorem exec_carouselChangeEffect (s : State) :
    exec (.carouselChangeEffect) s = execCarouselChangeEffect  s := rfl
theorem exec_lanternAttest (s : State) :
    exec (.lanternAttest) s = execLanternAttest  s := rfl
theorem exec_safetyTrip (s : State) :
    exec (.safetyTrip) s = execSafetyTrip  s := rfl
theorem exec_reset (s : State) :
    exec (.reset) s = execReset  s := rfl

end Sys2Proof.Machine
end

