-- ==== Sys2Proof/Laws/Maps.lean ====
section
/-!
SUPPORT. Sys2Proof/Laws/Maps.lean: the laws of sparse maps. Reading after writing holds of every map; the canonical form of a
memory is kept by every operation that writes one.
-/

namespace Sys2Proof.Machine

variable {α : Type}

/-! ### Reading after writing -/

theorem mlook_mdel (m : SMap α) (k j : Nat) : mlook j (mdel k m) = if j = k then none else mlook j m := by
  induction m with
  | nil => simp [mdel, mlook]
  | cons e r ih =>
    obtain ⟨a, w⟩ := e
    unfold mdel at ih ⊢
    by_cases ha : a = k
    · subst ha
      by_cases hj : j = a
      · simpa [mlook, hj] using ih
      · simpa [mlook, hj, Ne.symm hj] using ih
    · by_cases hj : a = j
      · subst hj; simp [mlook, ha]
      · simpa [mlook, ha, hj] using ih

theorem mlook_mset (m : SMap α) (k j : Nat) (v : α) : mlook j (mset k v m) = if j = k then some v else mlook j m := by
  induction m with
  | nil => simp [mset, mlook, eq_comm]
  | cons e r ih =>
    obtain ⟨a, w⟩ := e
    by_cases hj : j = k
    · subst hj
      by_cases h1 : j < a
      · simp [mset, mlook, h1]
      · by_cases h2 : j = a
        · subst h2; simp [mset, mlook]
        · simp [mset, mlook, h1, h2, Ne.symm h2, ih]
    · by_cases h1 : k < a
      · simp [mset, mlook, h1, hj, Ne.symm hj]
      · by_cases h2 : k = a
        · subst h2; simp [mset, mlook, hj, Ne.symm hj]
        · by_cases h3 : a = j
          · subst h3; simp [mset, mlook, h1, h2, hj]
          · simp [mset, mlook, h1, h2, h3, hj, ih]

variable [DecidableEq α]

/-- A key reads as what was last written to it, and every other key as before. -/
theorem mget_mput (d : α) (m : SMap α) (k j : Nat) (v : α) : mget d (mput d k v m) j = if j = k then v else mget d m j := by
  unfold mput mget
  by_cases hv : v = d
  · subst hv; by_cases hj : j = k <;> simp [mlook_mdel, hj]
  · by_cases hj : j = k <;> simp [hv, mlook_mset, hj]

@[simp] theorem mget_mput_same (d : α) (m : SMap α) (k : Nat) (v : α) : mget d (mput d k v m) k = v := by
  simp [mget_mput]

theorem mget_mput_ne (d : α) (m : SMap α) {k j : Nat} (v : α) (h : j ≠ k) : mget d (mput d k v m) j = mget d m j := by
  simp [mget_mput, h]

omit [DecidableEq α] in
@[simp] theorem mget_nil (d : α) (k : Nat) : mget d [] k = d := rfl

/-- Consecutive values written from key k on. -/
theorem mget_mputs (d : α) (vs : List α) (m : SMap α) (k j : Nat) :
    mget d (mputs d k vs m) j = if k ≤ j ∧ j < k + vs.length then vs.getD (j - k) d else mget d m j := by
  induction vs generalizing m k with
  | nil => simp [mputs]
  | cons v r ih =>
    rw [mputs, ih, mget_mput]
    by_cases h1 : j = k
    · subst h1; simp
    · by_cases h2 : k + 1 ≤ j ∧ j < k + 1 + r.length
      · have h3 : k ≤ j ∧ j < k + (v :: r).length := by simp only [List.length_cons]; omega
        have h4 : j - k = j - (k + 1) + 1 := by omega
        rw [if_pos h2, if_pos h3, h4, List.getD_cons_succ]
      · have h3 : ¬(k ≤ j ∧ j < k + (v :: r).length) := by simp only [List.length_cons]; omega
        rw [if_neg h1, if_neg h2, if_neg h3]

/-! ### The canonical form -/

omit [DecidableEq α] in
theorem mabove_trans {a b : Nat} (h : a ≤ b) (m : SMap α) (hm : mabove b m = true) : mabove a m = true := by
  induction m with
  | nil => rfl
  | cons e r ih =>
    obtain ⟨x, w⟩ := e
    simp only [mabove, Bool.and_eq_true, decide_eq_true_eq] at hm ⊢
    exact ⟨by omega, ih hm.2⟩

omit [DecidableEq α] in
theorem mabove_mdel (b k : Nat) (m : SMap α) (h : mabove b m = true) : mabove b (mdel k m) = true := by
  induction m with
  | nil => rfl
  | cons e r ih =>
    obtain ⟨x, w⟩ := e
    simp only [mabove, Bool.and_eq_true, decide_eq_true_eq] at h
    unfold mdel at ih ⊢
    by_cases hx : x = k
    · simpa [hx] using ih h.2
    · simp [hx, mabove, h.1, ih h.2]

omit [DecidableEq α] in
theorem mabove_mset (b k : Nat) (v : α) (hb : b < k) (m : SMap α) (h : mabove b m = true) : mabove b (mset k v m) = true := by
  induction m with
  | nil => simp [mset, mabove, hb]
  | cons e r ih =>
    obtain ⟨x, w⟩ := e
    simp only [mabove, Bool.and_eq_true, decide_eq_true_eq] at h
    unfold mset
    split
    · simp [mabove, hb, h.1, h.2]
    · split
      · simp [mabove, hb, h.2]
      · simp [mabove, h.1, ih h.2]

theorem mdel_mwf (d : α) (k : Nat) (m : SMap α) (h : mwf d m = true) : mwf d (mdel k m) = true := by
  induction m with
  | nil => rfl
  | cons e r ih =>
    obtain ⟨x, w⟩ := e
    simp only [mwf, Bool.and_eq_true] at h
    have hr := ih h.2
    have ha := mabove_mdel x k r h.1.2
    unfold mdel at hr ha ⊢
    by_cases hx : x = k
    · subst hx; simpa using hr
    · simp only [hx, bne_iff_ne, ne_eq, not_false_eq_true, List.filter_cons_of_pos, mwf, Bool.and_eq_true, ha, hr, and_true]
      exact h.1.1

theorem mset_mwf (d : α) (k : Nat) (v : α) (hv : v ≠ d) (m : SMap α) (h : mwf d m = true) : mwf d (mset k v m) = true := by
  induction m with
  | nil => simp [mset, mwf, mabove, hv]
  | cons e r ih =>
    obtain ⟨x, w⟩ := e
    have h' := h
    simp only [mwf, Bool.and_eq_true] at h
    unfold mset
    split
    · rename_i hk
      simp only [mwf, Bool.and_eq_true, mabove, hk, decide_true, true_and]
      exact ⟨⟨by simp [hv], mabove_trans (Nat.le_of_lt hk) r h.1.2⟩, h⟩
    · split
      · rename_i hk; subst hk
        simp only [mwf, Bool.and_eq_true]
        exact ⟨⟨by simp [hv], h.1.2⟩, h.2⟩
      · simp only [mwf, Bool.and_eq_true]
        exact ⟨⟨h.1.1, mabove_mset x k v (by omega) r h.1.2⟩, ih h.2⟩

/-- A write keeps the canonical form. -/
theorem mput_mwf (d : α) (k : Nat) (v : α) (m : SMap α) (h : mwf d m = true) : mwf d (mput d k v m) = true := by
  unfold mput
  split
  · exact mdel_mwf d k m h
  · exact mset_mwf d k v ‹_› m h

theorem mputs_mwf (d : α) (vs : List α) (k : Nat) (m : SMap α) (h : mwf d m = true) : mwf d (mputs d k vs m) = true := by
  induction vs generalizing k m with
  | nil => exact h
  | cons v r ih => exact ih (k + 1) _ (mput_mwf d k v m h)

omit [DecidableEq α] in
theorem mabove_append (b : Nat) (x y : SMap α) : mabove b (x ++ y) = (mabove b x && mabove b y) := by
  induction x with
  | nil => simp [mabove]
  | cons e r ih => obtain ⟨a, w⟩ := e; simp [mabove, ih, Bool.and_assoc]

/-- Splitting a canonical map at a key: both parts are canonical, the first below the key. -/
theorem mspan_spec (d : α) (k : Nat) (m : SMap α) (h : mwf d m = true) :
    m = (mspan k m).1 ++ (mspan k m).2 ∧ mwf d (mspan k m).1 = true ∧ mwf d (mspan k m).2 = true
      ∧ (∀ e ∈ (mspan k m).1, e.1 < k) ∧ (∀ e ∈ (mspan k m).2.head?, k ≤ e.1) := by
  induction m with
  | nil => simp [mspan, mwf]
  | cons e r ih =>
    obtain ⟨a, w⟩ := e
    have h' := h
    simp only [mwf, Bool.and_eq_true] at h
    by_cases ha : a < k
    · obtain ⟨e1, e2, e3, e4, e5⟩ := ih h.2
      have hm : mspan k ((a, w) :: r) = ((a, w) :: (mspan k r).1, (mspan k r).2) := by simp [mspan, ha]
      have hab : mabove a (mspan k r).1 = true := by
        have := h.1.2; rw [e1, mabove_append] at this; simp only [Bool.and_eq_true] at this; exact this.1
      rw [hm]
      refine ⟨by simpa using e1, ?_, e3, ?_, e5⟩
      · simp only [mwf, Bool.and_eq_true]; exact ⟨⟨h.1.1, hab⟩, e2⟩
      · intro x hx; rcases List.mem_cons.mp hx with rfl | hx
        · exact ha
        · exact e4 x hx
    · have hm : mspan k ((a, w) :: r) = ([], (a, w) :: r) := by simp [mspan, ha]
      rw [hm]
      exact ⟨rfl, rfl, h', by simp, by intro x hx; simp only [List.head?_cons, Option.mem_some_iff] at hx; subst hx; simp; omega⟩

omit [DecidableEq α] in
theorem mabove_of_mem (b : Nat) (m : SMap α) : mabove b m = true ↔ ∀ e ∈ m, b < e.1 := by
  induction m with
  | nil => simp [mabove]
  | cons e r ih => obtain ⟨a, w⟩ := e; simp [mabove, ih]

/-- Two canonical maps, the first below the second, make one. -/
theorem mwf_append (d : α) (x y : SMap α) (hx : mwf d x = true) (hy : mwf d y = true)
    (h : ∀ e ∈ x, mabove e.1 y = true) : mwf d (x ++ y) = true := by
  induction x with
  | nil => exact hy
  | cons e r ih =>
    obtain ⟨a, w⟩ := e
    simp only [mwf, Bool.and_eq_true] at hx
    simp only [List.cons_append, mwf, Bool.and_eq_true, mabove_append]
    exact ⟨⟨hx.1.1, hx.1.2, h (a, w) (by simp)⟩, ih hx.2 fun e he => h e (by simp [he])⟩

/-- The keys that a one-pass write leaves are at or above any bound below the map and the writes. -/
theorem mwrites_spec (d : α) (us : List (Nat × α)) (m : SMap α) (hu : rising us = true) (h : mwf d m = true) :
    mwf d (mwrites d us m) = true
      ∧ ∀ b, mabove b m = true → (∀ u ∈ us.head?, b < u.1) → mabove b (mwrites d us m) = true := by
  induction us generalizing m with
  | nil => exact ⟨h, fun b hb _ => hb⟩
  | cons u r ih =>
    obtain ⟨k, v⟩ := u
    have hr : rising r = true := by
      cases r with
      | nil => rfl
      | cons u2 r2 => simp only [rising, Bool.and_eq_true] at hu; exact hu.2
    have hk : ∀ u ∈ r.head?, k < u.1 := by
      cases r with
      | nil => simp
      | cons u2 r2 =>
        simp only [rising, Bool.and_eq_true, decide_eq_true_eq] at hu
        intro u hu2; simp only [List.head?_cons, Option.mem_some_iff] at hu2; subst hu2; exact hu.1
    obtain ⟨e1, e2, e3, e4, e5⟩ := mspan_spec d k m h
    -- what is left of the upper part once the entry of k is gone
    obtain ⟨hi, hhi, hwf, hab⟩ : ∃ hi : SMap α, mskip k (mspan k m).2 = hi ∧ mwf d hi = true ∧ mabove k hi = true := by
      cases hs : (mspan k m).2 with
      | nil => exact ⟨[], rfl, rfl, rfl⟩
      | cons e q =>
        obtain ⟨a, w⟩ := e
        rw [hs] at e3 e5
        have e3' := e3
        simp only [mwf, Bool.and_eq_true] at e3
        have hka : k ≤ a := e5 (a, w) (by simp)
        by_cases hak : a = k
        · subst hak
          exact ⟨q, by simp [mskip], e3.2, e3.1.2⟩
        · refine ⟨(a, w) :: q, by simp [mskip, hak], e3', ?_⟩
          simp only [mabove, Bool.and_eq_true, decide_eq_true_eq]
          exact ⟨by omega, mabove_trans hka q e3.1.2⟩
    have hmw : mwrites d ((k, v) :: r) m
        = (mspan k m).1 ++ (if v = d then mwrites d r hi else (k, v) :: mwrites d r hi) := by
      simp only [mwrites, hhi]
    obtain ⟨i1, i2⟩ := ih hi hr hwf
    have hkr : mabove k (mwrites d r hi) = true := i2 k hab hk
    have hrest : mwf d (if v = d then mwrites d r hi else (k, v) :: mwrites d r hi) = true := by
      split
      · exact i1
      · simp only [mwf, Bool.and_eq_true]; exact ⟨⟨by simpa using ‹_›, hkr⟩, i1⟩
    have habr : ∀ b, b < k → mabove b (if v = d then mwrites d r hi else (k, v) :: mwrites d r hi) = true := by
      intro b hb
      have := mabove_trans (Nat.le_of_lt hb) _ hkr
      split
      · exact this
      · simp [mabove, hb, this]
    rw [hmw]
    refine ⟨mwf_append d _ _ e2 hrest fun e he => habr _ (e4 e he), fun b hb hu' => ?_⟩
    rw [mabove_append, Bool.and_eq_true]
    rw [e1, mabove_append, Bool.and_eq_true] at hb
    exact ⟨hb.1, habr b (hu' (k, v) (by simp))⟩

/-- A bulk write keeps the canonical form. -/
theorem mbulk_mwf (d : α) (us : List (Nat × α)) (m : SMap α) (h : mwf d m = true) : mwf d (mbulk d us m) = true := by
  unfold mbulk
  split
  · exact (mwrites_spec d us m ‹_› h).1
  · clear * - h
    induction us generalizing m with
    | nil => exact h
    | cons u r ih => exact ih _ (mput_mwf d u.1 u.2 m h)

omit [DecidableEq α] in
/-- Keeping the entries of some keys. -/
theorem mget_mkeep (d : α) (p : Nat → Bool) (m : SMap α) (k : Nat) : mget d (mkeep p m) k = if p k then mget d m k else d := by
  unfold mget
  have : mlook k (mkeep p m) = if p k then mlook k m else none := by
    induction m with
    | nil => simp [mkeep, mlook]
    | cons e r ih =>
      obtain ⟨a, w⟩ := e
      unfold mkeep at ih ⊢
      by_cases hp : p a
      · by_cases ha : a = k
        · subst ha; simp [hp, mlook]
        · simpa [hp, mlook, ha] using ih
      · by_cases ha : a = k
        · subst ha; simpa [hp, mlook] using ih
        · simpa [hp, mlook, ha] using ih
  rw [this]; by_cases hp : p k <;> simp [hp]

end Sys2Proof.Machine
end

