-- ==== Sys2Proof/Laws/State.lean ====
section
/-!
SUPPORT. Sys2Proof/Laws/State.lean: what every update of the State leaves and what it writes, one lemma for each field and
update, so that no proof unfolds a record update.
-/

namespace Sys2Proof.Machine

/-! ### The module: one core, die or group replaced -/
@[simp] theorem State.setCore_cycles (s : State) (c : Nat) (v : Core) : (s.setCore c v).cycles = s.cycles := rfl
@[simp] theorem State.setCore_mem (s : State) (c : Nat) (v : Core) : (s.setCore c v).mem = s.mem := rfl
@[simp] theorem State.setCore_hostMem (s : State) (c : Nat) (v : Core) : (s.setCore c v).hostMem = s.hostMem := rfl
@[simp] theorem State.setCore_bad (s : State) (c : Nat) (v : Core) : (s.setCore c v).bad = s.bad := rfl
@[simp] theorem State.setCore_soft (s : State) (c : Nat) (v : Core) : (s.setCore c v).soft = s.soft := rfl
@[simp] theorem State.setCore_dies (s : State) (c : Nat) (v : Core) : (s.setCore c v).dies = s.dies := rfl
@[simp] theorem State.setCore_groups (s : State) (c : Nat) (v : Core) : (s.setCore c v).groups = s.groups := rfl
@[simp] theorem State.setCore_ring (s : State) (c : Nat) (v : Core) : (s.setCore c v).ring = s.ring := rfl
@[simp] theorem State.setCore_routers (s : State) (c : Nat) (v : Core) : (s.setCore c v).routers = s.routers := rfl
@[simp] theorem State.setCore_net (s : State) (c : Nat) (v : Core) : (s.setCore c v).net = s.net := rfl
@[simp] theorem State.setCore_links (s : State) (c : Nat) (v : Core) : (s.setCore c v).links = s.links := rfl
@[simp] theorem State.setCore_moduleId (s : State) (c : Nat) (v : Core) : (s.setCore c v).moduleId = s.moduleId := rfl
@[simp] theorem State.setCore_windows (s : State) (c : Nat) (v : Core) : (s.setCore c v).windows = s.windows := rfl
@[simp] theorem State.setCore_partitions (s : State) (c : Nat) (v : Core) : (s.setCore c v).partitions = s.partitions := rfl
@[simp] theorem State.setCore_lanternIdx (s : State) (c : Nat) (v : Core) : (s.setCore c v).lanternIdx = s.lanternIdx := rfl
@[simp] theorem State.setCore_lcmd (s : State) (c : Nat) (v : Core) : (s.setCore c v).lcmd = s.lcmd := rfl
@[simp] theorem State.setCore_lstat (s : State) (c : Nat) (v : Core) : (s.setCore c v).lstat = s.lstat := rfl
@[simp] theorem State.setCore_ready (s : State) (c : Nat) (v : Core) : (s.setCore c v).ready = s.ready := rfl
@[simp] theorem State.setCore_trip (s : State) (c : Nat) (v : Core) : (s.setCore c v).trip = s.trip := rfl
@[simp] theorem State.setCore_tripDie (s : State) (c : Nat) (v : Core) : (s.setCore c v).tripDie = s.tripDie := rfl
@[simp] theorem State.setCore_bifur (s : State) (c : Nat) (v : Core) : (s.setCore c v).bifur = s.bifur := rfl
@[simp] theorem State.setCore_bootStep (s : State) (c : Nat) (v : Core) : (s.setCore c v).bootStep = s.bootStep := rfl
@[simp] theorem State.setCore_bootFail (s : State) (c : Nat) (v : Core) : (s.setCore c v).bootFail = s.bootFail := rfl
@[simp] theorem State.setCore_power (s : State) (c : Nat) (v : Core) : (s.setCore c v).power = s.power := rfl
@[simp] theorem State.setCore_bring (s : State) (c : Nat) (v : Core) : (s.setCore c v).bring = s.bring := rfl
@[simp] theorem State.setCore_agenda (s : State) (c : Nat) (v : Core) : (s.setCore c v).agenda = s.agenda := rfl
@[simp] theorem State.setCore_todo (s : State) (c : Nat) (v : Core) : (s.setCore c v).todo = s.todo := rfl
@[simp] theorem State.setCore_cur (s : State) (c : Nat) (v : Core) : (s.setCore c v).cur = s.cur := rfl
@[simp] theorem State.setCore_nextId (s : State) (c : Nat) (v : Core) : (s.setCore c v).nextId = s.nextId := rfl
@[simp] theorem State.setCore_freeCtr (s : State) (c : Nat) (v : Core) : (s.setCore c v).freeCtr = s.freeCtr := rfl
@[simp] theorem State.setCore_levels (s : State) (c : Nat) (v : Core) : (s.setCore c v).levels = s.levels := rfl
@[simp] theorem State.updCore_cycles (s : State) (c : Nat) (f : Core → Core) : (s.updCore c f).cycles = s.cycles := rfl
@[simp] theorem State.updCore_mem (s : State) (c : Nat) (f : Core → Core) : (s.updCore c f).mem = s.mem := rfl
@[simp] theorem State.updCore_hostMem (s : State) (c : Nat) (f : Core → Core) : (s.updCore c f).hostMem = s.hostMem := rfl
@[simp] theorem State.updCore_bad (s : State) (c : Nat) (f : Core → Core) : (s.updCore c f).bad = s.bad := rfl
@[simp] theorem State.updCore_soft (s : State) (c : Nat) (f : Core → Core) : (s.updCore c f).soft = s.soft := rfl
@[simp] theorem State.updCore_dies (s : State) (c : Nat) (f : Core → Core) : (s.updCore c f).dies = s.dies := rfl
@[simp] theorem State.updCore_groups (s : State) (c : Nat) (f : Core → Core) : (s.updCore c f).groups = s.groups := rfl
@[simp] theorem State.updCore_ring (s : State) (c : Nat) (f : Core → Core) : (s.updCore c f).ring = s.ring := rfl
@[simp] theorem State.updCore_routers (s : State) (c : Nat) (f : Core → Core) : (s.updCore c f).routers = s.routers := rfl
@[simp] theorem State.updCore_net (s : State) (c : Nat) (f : Core → Core) : (s.updCore c f).net = s.net := rfl
@[simp] theorem State.updCore_links (s : State) (c : Nat) (f : Core → Core) : (s.updCore c f).links = s.links := rfl
@[simp] theorem State.updCore_moduleId (s : State) (c : Nat) (f : Core → Core) : (s.updCore c f).moduleId = s.moduleId := rfl
@[simp] theorem State.updCore_windows (s : State) (c : Nat) (f : Core → Core) : (s.updCore c f).windows = s.windows := rfl
@[simp] theorem State.updCore_partitions (s : State) (c : Nat) (f : Core → Core) : (s.updCore c f).partitions = s.partitions := rfl
@[simp] theorem State.updCore_lanternIdx (s : State) (c : Nat) (f : Core → Core) : (s.updCore c f).lanternIdx = s.lanternIdx := rfl
@[simp] theorem State.updCore_lcmd (s : State) (c : Nat) (f : Core → Core) : (s.updCore c f).lcmd = s.lcmd := rfl
@[simp] theorem State.updCore_lstat (s : State) (c : Nat) (f : Core → Core) : (s.updCore c f).lstat = s.lstat := rfl
@[simp] theorem State.updCore_ready (s : State) (c : Nat) (f : Core → Core) : (s.updCore c f).ready = s.ready := rfl
@[simp] theorem State.updCore_trip (s : State) (c : Nat) (f : Core → Core) : (s.updCore c f).trip = s.trip := rfl
@[simp] theorem State.updCore_tripDie (s : State) (c : Nat) (f : Core → Core) : (s.updCore c f).tripDie = s.tripDie := rfl
@[simp] theorem State.updCore_bifur (s : State) (c : Nat) (f : Core → Core) : (s.updCore c f).bifur = s.bifur := rfl
@[simp] theorem State.updCore_bootStep (s : State) (c : Nat) (f : Core → Core) : (s.updCore c f).bootStep = s.bootStep := rfl
@[simp] theorem State.updCore_bootFail (s : State) (c : Nat) (f : Core → Core) : (s.updCore c f).bootFail = s.bootFail := rfl
@[simp] theorem State.updCore_power (s : State) (c : Nat) (f : Core → Core) : (s.updCore c f).power = s.power := rfl
@[simp] theorem State.updCore_bring (s : State) (c : Nat) (f : Core → Core) : (s.updCore c f).bring = s.bring := rfl
@[simp] theorem State.updCore_agenda (s : State) (c : Nat) (f : Core → Core) : (s.updCore c f).agenda = s.agenda := rfl
@[simp] theorem State.updCore_todo (s : State) (c : Nat) (f : Core → Core) : (s.updCore c f).todo = s.todo := rfl
@[simp] theorem State.updCore_cur (s : State) (c : Nat) (f : Core → Core) : (s.updCore c f).cur = s.cur := rfl
@[simp] theorem State.updCore_nextId (s : State) (c : Nat) (f : Core → Core) : (s.updCore c f).nextId = s.nextId := rfl
@[simp] theorem State.updCore_freeCtr (s : State) (c : Nat) (f : Core → Core) : (s.updCore c f).freeCtr = s.freeCtr := rfl
@[simp] theorem State.updCore_levels (s : State) (c : Nat) (f : Core → Core) : (s.updCore c f).levels = s.levels := rfl
@[simp] theorem State.setDie_cycles (s : State) (d : Nat) (v : Die) : (s.setDie d v).cycles = s.cycles := rfl
@[simp] theorem State.setDie_mem (s : State) (d : Nat) (v : Die) : (s.setDie d v).mem = s.mem := rfl
@[simp] theorem State.setDie_hostMem (s : State) (d : Nat) (v : Die) : (s.setDie d v).hostMem = s.hostMem := rfl
@[simp] theorem State.setDie_bad (s : State) (d : Nat) (v : Die) : (s.setDie d v).bad = s.bad := rfl
@[simp] theorem State.setDie_soft (s : State) (d : Nat) (v : Die) : (s.setDie d v).soft = s.soft := rfl
@[simp] theorem State.setDie_cores (s : State) (d : Nat) (v : Die) : (s.setDie d v).cores = s.cores := rfl
@[simp] theorem State.setDie_groups (s : State) (d : Nat) (v : Die) : (s.setDie d v).groups = s.groups := rfl
@[simp] theorem State.setDie_ring (s : State) (d : Nat) (v : Die) : (s.setDie d v).ring = s.ring := rfl
@[simp] theorem State.setDie_routers (s : State) (d : Nat) (v : Die) : (s.setDie d v).routers = s.routers := rfl
@[simp] theorem State.setDie_net (s : State) (d : Nat) (v : Die) : (s.setDie d v).net = s.net := rfl
@[simp] theorem State.setDie_links (s : State) (d : Nat) (v : Die) : (s.setDie d v).links = s.links := rfl
@[simp] theorem State.setDie_moduleId (s : State) (d : Nat) (v : Die) : (s.setDie d v).moduleId = s.moduleId := rfl
@[simp] theorem State.setDie_windows (s : State) (d : Nat) (v : Die) : (s.setDie d v).windows = s.windows := rfl
@[simp] theorem State.setDie_partitions (s : State) (d : Nat) (v : Die) : (s.setDie d v).partitions = s.partitions := rfl
@[simp] theorem State.setDie_lanternIdx (s : State) (d : Nat) (v : Die) : (s.setDie d v).lanternIdx = s.lanternIdx := rfl
@[simp] theorem State.setDie_lcmd (s : State) (d : Nat) (v : Die) : (s.setDie d v).lcmd = s.lcmd := rfl
@[simp] theorem State.setDie_lstat (s : State) (d : Nat) (v : Die) : (s.setDie d v).lstat = s.lstat := rfl
@[simp] theorem State.setDie_ready (s : State) (d : Nat) (v : Die) : (s.setDie d v).ready = s.ready := rfl
@[simp] theorem State.setDie_trip (s : State) (d : Nat) (v : Die) : (s.setDie d v).trip = s.trip := rfl
@[simp] theorem State.setDie_tripDie (s : State) (d : Nat) (v : Die) : (s.setDie d v).tripDie = s.tripDie := rfl
@[simp] theorem State.setDie_bifur (s : State) (d : Nat) (v : Die) : (s.setDie d v).bifur = s.bifur := rfl
@[simp] theorem State.setDie_bootStep (s : State) (d : Nat) (v : Die) : (s.setDie d v).bootStep = s.bootStep := rfl
@[simp] theorem State.setDie_bootFail (s : State) (d : Nat) (v : Die) : (s.setDie d v).bootFail = s.bootFail := rfl
@[simp] theorem State.setDie_power (s : State) (d : Nat) (v : Die) : (s.setDie d v).power = s.power := rfl
@[simp] theorem State.setDie_bring (s : State) (d : Nat) (v : Die) : (s.setDie d v).bring = s.bring := rfl
@[simp] theorem State.setDie_agenda (s : State) (d : Nat) (v : Die) : (s.setDie d v).agenda = s.agenda := rfl
@[simp] theorem State.setDie_todo (s : State) (d : Nat) (v : Die) : (s.setDie d v).todo = s.todo := rfl
@[simp] theorem State.setDie_cur (s : State) (d : Nat) (v : Die) : (s.setDie d v).cur = s.cur := rfl
@[simp] theorem State.setDie_nextId (s : State) (d : Nat) (v : Die) : (s.setDie d v).nextId = s.nextId := rfl
@[simp] theorem State.setDie_freeCtr (s : State) (d : Nat) (v : Die) : (s.setDie d v).freeCtr = s.freeCtr := rfl
@[simp] theorem State.setDie_levels (s : State) (d : Nat) (v : Die) : (s.setDie d v).levels = s.levels := rfl
@[simp] theorem State.updDie_cycles (s : State) (d : Nat) (f : Die → Die) : (s.updDie d f).cycles = s.cycles := rfl
@[simp] theorem State.updDie_mem (s : State) (d : Nat) (f : Die → Die) : (s.updDie d f).mem = s.mem := rfl
@[simp] theorem State.updDie_hostMem (s : State) (d : Nat) (f : Die → Die) : (s.updDie d f).hostMem = s.hostMem := rfl
@[simp] theorem State.updDie_bad (s : State) (d : Nat) (f : Die → Die) : (s.updDie d f).bad = s.bad := rfl
@[simp] theorem State.updDie_soft (s : State) (d : Nat) (f : Die → Die) : (s.updDie d f).soft = s.soft := rfl
@[simp] theorem State.updDie_cores (s : State) (d : Nat) (f : Die → Die) : (s.updDie d f).cores = s.cores := rfl
@[simp] theorem State.updDie_groups (s : State) (d : Nat) (f : Die → Die) : (s.updDie d f).groups = s.groups := rfl
@[simp] theorem State.updDie_ring (s : State) (d : Nat) (f : Die → Die) : (s.updDie d f).ring = s.ring := rfl
@[simp] theorem State.updDie_routers (s : State) (d : Nat) (f : Die → Die) : (s.updDie d f).routers = s.routers := rfl
@[simp] theorem State.updDie_net (s : State) (d : Nat) (f : Die → Die) : (s.updDie d f).net = s.net := rfl
@[simp] theorem State.updDie_links (s : State) (d : Nat) (f : Die → Die) : (s.updDie d f).links = s.links := rfl
@[simp] theorem State.updDie_moduleId (s : State) (d : Nat) (f : Die → Die) : (s.updDie d f).moduleId = s.moduleId := rfl
@[simp] theorem State.updDie_windows (s : State) (d : Nat) (f : Die → Die) : (s.updDie d f).windows = s.windows := rfl
@[simp] theorem State.updDie_partitions (s : State) (d : Nat) (f : Die → Die) : (s.updDie d f).partitions = s.partitions := rfl
@[simp] theorem State.updDie_lanternIdx (s : State) (d : Nat) (f : Die → Die) : (s.updDie d f).lanternIdx = s.lanternIdx := rfl
@[simp] theorem State.updDie_lcmd (s : State) (d : Nat) (f : Die → Die) : (s.updDie d f).lcmd = s.lcmd := rfl
@[simp] theorem State.updDie_lstat (s : State) (d : Nat) (f : Die → Die) : (s.updDie d f).lstat = s.lstat := rfl
@[simp] theorem State.updDie_ready (s : State) (d : Nat) (f : Die → Die) : (s.updDie d f).ready = s.ready := rfl
@[simp] theorem State.updDie_trip (s : State) (d : Nat) (f : Die → Die) : (s.updDie d f).trip = s.trip := rfl
@[simp] theorem State.updDie_tripDie (s : State) (d : Nat) (f : Die → Die) : (s.updDie d f).tripDie = s.tripDie := rfl
@[simp] theorem State.updDie_bifur (s : State) (d : Nat) (f : Die → Die) : (s.updDie d f).bifur = s.bifur := rfl
@[simp] theorem State.updDie_bootStep (s : State) (d : Nat) (f : Die → Die) : (s.updDie d f).bootStep = s.bootStep := rfl
@[simp] theorem State.updDie_bootFail (s : State) (d : Nat) (f : Die → Die) : (s.updDie d f).bootFail = s.bootFail := rfl
@[simp] theorem State.updDie_power (s : State) (d : Nat) (f : Die → Die) : (s.updDie d f).power = s.power := rfl
@[simp] theorem State.updDie_bring (s : State) (d : Nat) (f : Die → Die) : (s.updDie d f).bring = s.bring := rfl
@[simp] theorem State.updDie_agenda (s : State) (d : Nat) (f : Die → Die) : (s.updDie d f).agenda = s.agenda := rfl
@[simp] theorem State.updDie_todo (s : State) (d : Nat) (f : Die → Die) : (s.updDie d f).todo = s.todo := rfl
@[simp] theorem State.updDie_cur (s : State) (d : Nat) (f : Die → Die) : (s.updDie d f).cur = s.cur := rfl
@[simp] theorem State.updDie_nextId (s : State) (d : Nat) (f : Die → Die) : (s.updDie d f).nextId = s.nextId := rfl
@[simp] theorem State.updDie_freeCtr (s : State) (d : Nat) (f : Die → Die) : (s.updDie d f).freeCtr = s.freeCtr := rfl
@[simp] theorem State.updDie_levels (s : State) (d : Nat) (f : Die → Die) : (s.updDie d f).levels = s.levels := rfl
@[simp] theorem State.setGroup_cycles (s : State) (g : Nat) (v : Group) : (s.setGroup g v).cycles = s.cycles := rfl
@[simp] theorem State.setGroup_mem (s : State) (g : Nat) (v : Group) : (s.setGroup g v).mem = s.mem := rfl
@[simp] theorem State.setGroup_hostMem (s : State) (g : Nat) (v : Group) : (s.setGroup g v).hostMem = s.hostMem := rfl
@[simp] theorem State.setGroup_bad (s : State) (g : Nat) (v : Group) : (s.setGroup g v).bad = s.bad := rfl
@[simp] theorem State.setGroup_soft (s : State) (g : Nat) (v : Group) : (s.setGroup g v).soft = s.soft := rfl
@[simp] theorem State.setGroup_cores (s : State) (g : Nat) (v : Group) : (s.setGroup g v).cores = s.cores := rfl
@[simp] theorem State.setGroup_dies (s : State) (g : Nat) (v : Group) : (s.setGroup g v).dies = s.dies := rfl
@[simp] theorem State.setGroup_ring (s : State) (g : Nat) (v : Group) : (s.setGroup g v).ring = s.ring := rfl
@[simp] theorem State.setGroup_routers (s : State) (g : Nat) (v : Group) : (s.setGroup g v).routers = s.routers := rfl
@[simp] theorem State.setGroup_net (s : State) (g : Nat) (v : Group) : (s.setGroup g v).net = s.net := rfl
@[simp] theorem State.setGroup_links (s : State) (g : Nat) (v : Group) : (s.setGroup g v).links = s.links := rfl
@[simp] theorem State.setGroup_moduleId (s : State) (g : Nat) (v : Group) : (s.setGroup g v).moduleId = s.moduleId := rfl
@[simp] theorem State.setGroup_windows (s : State) (g : Nat) (v : Group) : (s.setGroup g v).windows = s.windows := rfl
@[simp] theorem State.setGroup_partitions (s : State) (g : Nat) (v : Group) : (s.setGroup g v).partitions = s.partitions := rfl
@[simp] theorem State.setGroup_lanternIdx (s : State) (g : Nat) (v : Group) : (s.setGroup g v).lanternIdx = s.lanternIdx := rfl
@[simp] theorem State.setGroup_lcmd (s : State) (g : Nat) (v : Group) : (s.setGroup g v).lcmd = s.lcmd := rfl
@[simp] theorem State.setGroup_lstat (s : State) (g : Nat) (v : Group) : (s.setGroup g v).lstat = s.lstat := rfl
@[simp] theorem State.setGroup_ready (s : State) (g : Nat) (v : Group) : (s.setGroup g v).ready = s.ready := rfl
@[simp] theorem State.setGroup_trip (s : State) (g : Nat) (v : Group) : (s.setGroup g v).trip = s.trip := rfl
@[simp] theorem State.setGroup_tripDie (s : State) (g : Nat) (v : Group) : (s.setGroup g v).tripDie = s.tripDie := rfl
@[simp] theorem State.setGroup_bifur (s : State) (g : Nat) (v : Group) : (s.setGroup g v).bifur = s.bifur := rfl
@[simp] theorem State.setGroup_bootStep (s : State) (g : Nat) (v : Group) : (s.setGroup g v).bootStep = s.bootStep := rfl
@[simp] theorem State.setGroup_bootFail (s : State) (g : Nat) (v : Group) : (s.setGroup g v).bootFail = s.bootFail := rfl
@[simp] theorem State.setGroup_power (s : State) (g : Nat) (v : Group) : (s.setGroup g v).power = s.power := rfl
@[simp] theorem State.setGroup_bring (s : State) (g : Nat) (v : Group) : (s.setGroup g v).bring = s.bring := rfl
@[simp] theorem State.setGroup_agenda (s : State) (g : Nat) (v : Group) : (s.setGroup g v).agenda = s.agenda := rfl
@[simp] theorem State.setGroup_todo (s : State) (g : Nat) (v : Group) : (s.setGroup g v).todo = s.todo := rfl
@[simp] theorem State.setGroup_cur (s : State) (g : Nat) (v : Group) : (s.setGroup g v).cur = s.cur := rfl
@[simp] theorem State.setGroup_nextId (s : State) (g : Nat) (v : Group) : (s.setGroup g v).nextId = s.nextId := rfl
@[simp] theorem State.setGroup_freeCtr (s : State) (g : Nat) (v : Group) : (s.setGroup g v).freeCtr = s.freeCtr := rfl
@[simp] theorem State.setGroup_levels (s : State) (g : Nat) (v : Group) : (s.setGroup g v).levels = s.levels := rfl

/-- A core after one has been replaced. -/
theorem State.core_setCore (s : State) (c j : Nat) (v : Core) : (s.setCore c v).core j = if j = c then v else s.core j :=
  mget_mput _ _ _ _ _

@[simp] theorem State.core_setCore_same (s : State) (c : Nat) (v : Core) : (s.setCore c v).core c = v := by
  simp [State.core_setCore]

theorem State.core_setCore_ne (s : State) {c j : Nat} (v : Core) (h : j ≠ c) : (s.setCore c v).core j = s.core j := by
  simp [State.core_setCore, h]

theorem State.core_updCore (s : State) (c j : Nat) (f : Core → Core) :
    (s.updCore c f).core j = if j = c then f (s.core c) else s.core j := State.core_setCore _ _ _ _

@[simp] theorem State.core_updCore_same (s : State) (c : Nat) (f : Core → Core) : (s.updCore c f).core c = f (s.core c) :=
  State.core_setCore_same _ _ _

@[simp] theorem State.core_setDie (s : State) (d j : Nat) (v : Die) : (s.setDie d v).core j = s.core j := rfl
@[simp] theorem State.core_updDie (s : State) (d j : Nat) (f : Die → Die) : (s.updDie d f).core j = s.core j := rfl
@[simp] theorem State.core_setGroup (s : State) (g j : Nat) (v : Group) : (s.setGroup g v).core j = s.core j := rfl

theorem State.die_setDie (s : State) (d j : Nat) (v : Die) : (s.setDie d v).die j = if j = d then v else s.die j :=
  mget_mput _ _ _ _ _

theorem State.die_updDie (s : State) (d j : Nat) (f : Die → Die) :
    (s.updDie d f).die j = if j = d then f (s.die d) else s.die j := State.die_setDie _ _ _ _

@[simp] theorem State.die_setCore (s : State) (c j : Nat) (v : Core) : (s.setCore c v).die j = s.die j := rfl
@[simp] theorem State.die_updCore (s : State) (c j : Nat) (f : Core → Core) : (s.updCore c f).die j = s.die j := rfl

theorem State.group_setGroup (s : State) (g j : Nat) (v : Group) : (s.setGroup g v).group j = if j = g then v else s.group j :=
  mget_mput _ _ _ _ _

@[simp] theorem State.group_setCore (s : State) (c j : Nat) (v : Core) : (s.setCore c v).group j = s.group j := rfl
@[simp] theorem State.group_updCore (s : State) (c j : Nat) (f : Core → Core) : (s.updCore c f).group j = s.group j := rfl

/-! ### A core: one stream, job slot, queue or semaphore replaced -/
@[simp] theorem Core.setStream_spad (c : Core) (k : Nat) (v : Stream) : (c.setStream k v).spad = c.spad := rfl
@[simp] theorem Core.setStream_prev (c : Core) (k : Nat) (v : Stream) : (c.setStream k v).prev = c.prev := rfl
@[simp] theorem Core.setStream_acc (c : Core) (k : Nat) (v : Stream) : (c.setStream k v).acc = c.acc := rfl
@[simp] theorem Core.setStream_prevAcc (c : Core) (k : Nat) (v : Stream) : (c.setStream k v).prevAcc = c.prevAcc := rfl
@[simp] theorem Core.setStream_accVe (c : Core) (k : Nat) (v : Stream) : (c.setStream k v).accVe = c.accVe := rfl
@[simp] theorem Core.setStream_lane (c : Core) (k : Nat) (v : Stream) : (c.setStream k v).lane = c.lane := rfl
@[simp] theorem Core.setStream_prevLane (c : Core) (k : Nat) (v : Stream) : (c.setStream k v).prevLane = c.prevLane := rfl
@[simp] theorem Core.setStream_sems (c : Core) (k : Nat) (v : Stream) : (c.setStream k v).sems = c.sems := rfl
@[simp] theorem Core.setStream_semStart (c : Core) (k : Nat) (v : Stream) : (c.setStream k v).semStart = c.semStart := rfl
@[simp] theorem Core.setStream_barriers (c : Core) (k : Nat) (v : Stream) : (c.setStream k v).barriers = c.barriers := rfl
@[simp] theorem Core.setStream_jobs (c : Core) (k : Nat) (v : Stream) : (c.setStream k v).jobs = c.jobs := rfl
@[simp] theorem Core.setStream_queues (c : Core) (k : Nat) (v : Stream) : (c.setStream k v).queues = c.queues := rfl
@[simp] theorem Core.setStream_last (c : Core) (k : Nat) (v : Stream) : (c.setStream k v).last = c.last := rfl
@[simp] theorem Core.setStream_bubble (c : Core) (k : Nat) (v : Stream) : (c.setStream k v).bubble = c.bubble := rfl
@[simp] theorem Core.setStream_reissue (c : Core) (k : Nat) (v : Stream) : (c.setStream k v).reissue = c.reissue := rfl
@[simp] theorem Core.setStream_frozen (c : Core) (k : Nat) (v : Stream) : (c.setStream k v).frozen = c.frozen := rfl
@[simp] theorem Core.setStream_thaw (c : Core) (k : Nat) (v : Stream) : (c.setStream k v).thaw = c.thaw := rfl
@[simp] theorem Core.setStream_wickStart (c : Core) (k : Nat) (v : Stream) : (c.setStream k v).wickStart = c.wickStart := rfl
@[simp] theorem Core.setStream_wickMem (c : Core) (k : Nat) (v : Stream) : (c.setStream k v).wickMem = c.wickMem := rfl
@[simp] theorem Core.setStream_trapJob (c : Core) (k : Nat) (v : Stream) : (c.setStream k v).trapJob = c.trapJob := rfl
@[simp] theorem Core.setStream_trapKey (c : Core) (k : Nat) (v : Stream) : (c.setStream k v).trapKey = c.trapKey := rfl
@[simp] theorem Core.setStream_trapCause (c : Core) (k : Nat) (v : Stream) : (c.setStream k v).trapCause = c.trapCause := rfl
@[simp] theorem Core.setStream_trapCmd (c : Core) (k : Nat) (v : Stream) : (c.setStream k v).trapCmd = c.trapCmd := rfl
@[simp] theorem Core.setStream_mbox (c : Core) (k : Nat) (v : Stream) : (c.setStream k v).mbox = c.mbox := rfl
@[simp] theorem Core.setStream_active (c : Core) (k : Nat) (v : Stream) : (c.setStream k v).active = c.active := rfl
@[simp] theorem Core.setStream_staged (c : Core) (k : Nat) (v : Stream) : (c.setStream k v).staged = c.staged := rfl
@[simp] theorem Core.setStream_planeSt (c : Core) (k : Nat) (v : Stream) : (c.setStream k v).planeSt = c.planeSt := rfl
@[simp] theorem Core.setStream_planeParts (c : Core) (k : Nat) (v : Stream) : (c.setStream k v).planeParts = c.planeParts := rfl
@[simp] theorem Core.setStream_rbCount (c : Core) (k : Nat) (v : Stream) : (c.setStream k v).rbCount = c.rbCount := rfl
@[simp] theorem Core.setStream_rbLast (c : Core) (k : Nat) (v : Stream) : (c.setStream k v).rbLast = c.rbLast := rfl
@[simp] theorem Core.setStream_stagedJob (c : Core) (k : Nat) (v : Stream) : (c.setStream k v).stagedJob = c.stagedJob := rfl
@[simp] theorem Core.setStream_left (c : Core) (k : Nat) (v : Stream) : (c.setStream k v).left = c.left := rfl
@[simp] theorem Core.setStream_dtlb (c : Core) (k : Nat) (v : Stream) : (c.setStream k v).dtlb = c.dtlb := rfl
@[simp] theorem Core.setStream_itlb (c : Core) (k : Nat) (v : Stream) : (c.setStream k v).itlb = c.itlb := rfl
@[simp] theorem Core.setStream_misses (c : Core) (k : Nat) (v : Stream) : (c.setStream k v).misses = c.misses := rfl
@[simp] theorem Core.setStream_missWait (c : Core) (k : Nat) (v : Stream) : (c.setStream k v).missWait = c.missWait := rfl
@[simp] theorem Core.setStream_dtLookups (c : Core) (k : Nat) (v : Stream) : (c.setStream k v).dtLookups = c.dtLookups := rfl
@[simp] theorem Core.setStream_dtMisses (c : Core) (k : Nat) (v : Stream) : (c.setStream k v).dtMisses = c.dtMisses := rfl
@[simp] theorem Core.setStream_dtJoins (c : Core) (k : Nat) (v : Stream) : (c.setStream k v).dtJoins = c.dtJoins := rfl
@[simp] theorem Core.setStream_dtFull (c : Core) (k : Nat) (v : Stream) : (c.setStream k v).dtFull = c.dtFull := rfl
@[simp] theorem Core.setStream_code (c : Core) (k : Nat) (v : Stream) : (c.setStream k v).code = c.code := rfl
@[simp] theorem Core.setStream_codeWant (c : Core) (k : Nat) (v : Stream) : (c.setStream k v).codeWant = c.codeWant := rfl
@[simp] theorem Core.setStream_codeParts (c : Core) (k : Nat) (v : Stream) : (c.setStream k v).codeParts = c.codeParts := rfl
@[simp] theorem Core.setStream_codeErr (c : Core) (k : Nat) (v : Stream) : (c.setStream k v).codeErr = c.codeErr := rfl
@[simp] theorem Core.setStream_rb (c : Core) (k : Nat) (v : Stream) : (c.setStream k v).rb = c.rb := rfl
@[simp] theorem Core.setStream_rbErr (c : Core) (k : Nat) (v : Stream) : (c.setStream k v).rbErr = c.rbErr := rfl
@[simp] theorem Core.setStream_vaHeld (c : Core) (k : Nat) (v : Stream) : (c.setStream k v).vaHeld = c.vaHeld := rfl
@[simp] theorem Core.setStream_weHeld (c : Core) (k : Nat) (v : Stream) : (c.setStream k v).weHeld = c.weHeld := rfl
@[simp] theorem Core.setStream_undo (c : Core) (k : Nat) (v : Stream) : (c.setStream k v).undo = c.undo := rfl
@[simp] theorem Core.setStream_pending (c : Core) (k : Nat) (v : Stream) : (c.setStream k v).pending = c.pending := rfl
@[simp] theorem Core.setStream_retires (c : Core) (k : Nat) (v : Stream) : (c.setStream k v).retires = c.retires := rfl
@[simp] theorem Core.setStream_maturing (c : Core) (k : Nat) (v : Stream) : (c.setStream k v).maturing = c.maturing := rfl
@[simp] theorem Core.setStream_flushes (c : Core) (k : Nat) (v : Stream) : (c.setStream k v).flushes = c.flushes := rfl
@[simp] theorem Core.setStream_fills (c : Core) (k : Nat) (v : Stream) : (c.setStream k v).fills = c.fills := rfl
@[simp] theorem Core.setStream_db (c : Core) (k : Nat) (v : Stream) : (c.setStream k v).db = c.db := rfl
@[simp] theorem Core.setStream_pref (c : Core) (k : Nat) (v : Stream) : (c.setStream k v).pref = c.pref := rfl
@[simp] theorem Core.setStream_looked (c : Core) (k : Nat) (v : Stream) : (c.setStream k v).looked = c.looked := rfl
@[simp] theorem Core.setStream_port (c : Core) (k : Nat) (v : Stream) : (c.setStream k v).port = c.port := rfl
@[simp] theorem Core.setStream_reqs (c : Core) (k : Nat) (v : Stream) : (c.setStream k v).reqs = c.reqs := rfl
@[simp] theorem Core.setStream_tags (c : Core) (k : Nat) (v : Stream) : (c.setStream k v).tags = c.tags := rfl
@[simp] theorem Core.setStream_tagsDue (c : Core) (k : Nat) (v : Stream) : (c.setStream k v).tagsDue = c.tagsDue := rfl
@[simp] theorem Core.setStream_drops (c : Core) (k : Nat) (v : Stream) : (c.setStream k v).drops = c.drops := rfl
@[simp] theorem Core.setStream_lastSrc (c : Core) (k : Nat) (v : Stream) : (c.setStream k v).lastSrc = c.lastSrc := rfl
@[simp] theorem Core.setStream_nextQ (c : Core) (k : Nat) (v : Stream) : (c.setStream k v).nextQ = c.nextQ := rfl
@[simp] theorem Core.updStream_spad (c : Core) (k : Nat) (f : Stream → Stream) : (c.updStream k f).spad = c.spad := rfl
@[simp] theorem Core.updStream_prev (c : Core) (k : Nat) (f : Stream → Stream) : (c.updStream k f).prev = c.prev := rfl
@[simp] theorem Core.updStream_acc (c : Core) (k : Nat) (f : Stream → Stream) : (c.updStream k f).acc = c.acc := rfl
@[simp] theorem Core.updStream_prevAcc (c : Core) (k : Nat) (f : Stream → Stream) : (c.updStream k f).prevAcc = c.prevAcc := rfl
@[simp] theorem Core.updStream_accVe (c : Core) (k : Nat) (f : Stream → Stream) : (c.updStream k f).accVe = c.accVe := rfl
@[simp] theorem Core.updStream_lane (c : Core) (k : Nat) (f : Stream → Stream) : (c.updStream k f).lane = c.lane := rfl
@[simp] theorem Core.updStream_prevLane (c : Core) (k : Nat) (f : Stream → Stream) : (c.updStream k f).prevLane = c.prevLane := rfl
@[simp] theorem Core.updStream_sems (c : Core) (k : Nat) (f : Stream → Stream) : (c.updStream k f).sems = c.sems := rfl
@[simp] theorem Core.updStream_semStart (c : Core) (k : Nat) (f : Stream → Stream) : (c.updStream k f).semStart = c.semStart := rfl
@[simp] theorem Core.updStream_barriers (c : Core) (k : Nat) (f : Stream → Stream) : (c.updStream k f).barriers = c.barriers := rfl
@[simp] theorem Core.updStream_jobs (c : Core) (k : Nat) (f : Stream → Stream) : (c.updStream k f).jobs = c.jobs := rfl
@[simp] theorem Core.updStream_queues (c : Core) (k : Nat) (f : Stream → Stream) : (c.updStream k f).queues = c.queues := rfl
@[simp] theorem Core.updStream_last (c : Core) (k : Nat) (f : Stream → Stream) : (c.updStream k f).last = c.last := rfl
@[simp] theorem Core.updStream_bubble (c : Core) (k : Nat) (f : Stream → Stream) : (c.updStream k f).bubble = c.bubble := rfl
@[simp] theorem Core.updStream_reissue (c : Core) (k : Nat) (f : Stream → Stream) : (c.updStream k f).reissue = c.reissue := rfl
@[simp] theorem Core.updStream_frozen (c : Core) (k : Nat) (f : Stream → Stream) : (c.updStream k f).frozen = c.frozen := rfl
@[simp] theorem Core.updStream_thaw (c : Core) (k : Nat) (f : Stream → Stream) : (c.updStream k f).thaw = c.thaw := rfl
@[simp] theorem Core.updStream_wickStart (c : Core) (k : Nat) (f : Stream → Stream) : (c.updStream k f).wickStart = c.wickStart := rfl
@[simp] theorem Core.updStream_wickMem (c : Core) (k : Nat) (f : Stream → Stream) : (c.updStream k f).wickMem = c.wickMem := rfl
@[simp] theorem Core.updStream_trapJob (c : Core) (k : Nat) (f : Stream → Stream) : (c.updStream k f).trapJob = c.trapJob := rfl
@[simp] theorem Core.updStream_trapKey (c : Core) (k : Nat) (f : Stream → Stream) : (c.updStream k f).trapKey = c.trapKey := rfl
@[simp] theorem Core.updStream_trapCause (c : Core) (k : Nat) (f : Stream → Stream) : (c.updStream k f).trapCause = c.trapCause := rfl
@[simp] theorem Core.updStream_trapCmd (c : Core) (k : Nat) (f : Stream → Stream) : (c.updStream k f).trapCmd = c.trapCmd := rfl
@[simp] theorem Core.updStream_mbox (c : Core) (k : Nat) (f : Stream → Stream) : (c.updStream k f).mbox = c.mbox := rfl
@[simp] theorem Core.updStream_active (c : Core) (k : Nat) (f : Stream → Stream) : (c.updStream k f).active = c.active := rfl
@[simp] theorem Core.updStream_staged (c : Core) (k : Nat) (f : Stream → Stream) : (c.updStream k f).staged = c.staged := rfl
@[simp] theorem Core.updStream_planeSt (c : Core) (k : Nat) (f : Stream → Stream) : (c.updStream k f).planeSt = c.planeSt := rfl
@[simp] theorem Core.updStream_planeParts (c : Core) (k : Nat) (f : Stream → Stream) : (c.updStream k f).planeParts = c.planeParts := rfl
@[simp] theorem Core.updStream_rbCount (c : Core) (k : Nat) (f : Stream → Stream) : (c.updStream k f).rbCount = c.rbCount := rfl
@[simp] theorem Core.updStream_rbLast (c : Core) (k : Nat) (f : Stream → Stream) : (c.updStream k f).rbLast = c.rbLast := rfl
@[simp] theorem Core.updStream_stagedJob (c : Core) (k : Nat) (f : Stream → Stream) : (c.updStream k f).stagedJob = c.stagedJob := rfl
@[simp] theorem Core.updStream_left (c : Core) (k : Nat) (f : Stream → Stream) : (c.updStream k f).left = c.left := rfl
@[simp] theorem Core.updStream_dtlb (c : Core) (k : Nat) (f : Stream → Stream) : (c.updStream k f).dtlb = c.dtlb := rfl
@[simp] theorem Core.updStream_itlb (c : Core) (k : Nat) (f : Stream → Stream) : (c.updStream k f).itlb = c.itlb := rfl
@[simp] theorem Core.updStream_misses (c : Core) (k : Nat) (f : Stream → Stream) : (c.updStream k f).misses = c.misses := rfl
@[simp] theorem Core.updStream_missWait (c : Core) (k : Nat) (f : Stream → Stream) : (c.updStream k f).missWait = c.missWait := rfl
@[simp] theorem Core.updStream_dtLookups (c : Core) (k : Nat) (f : Stream → Stream) : (c.updStream k f).dtLookups = c.dtLookups := rfl
@[simp] theorem Core.updStream_dtMisses (c : Core) (k : Nat) (f : Stream → Stream) : (c.updStream k f).dtMisses = c.dtMisses := rfl
@[simp] theorem Core.updStream_dtJoins (c : Core) (k : Nat) (f : Stream → Stream) : (c.updStream k f).dtJoins = c.dtJoins := rfl
@[simp] theorem Core.updStream_dtFull (c : Core) (k : Nat) (f : Stream → Stream) : (c.updStream k f).dtFull = c.dtFull := rfl
@[simp] theorem Core.updStream_code (c : Core) (k : Nat) (f : Stream → Stream) : (c.updStream k f).code = c.code := rfl
@[simp] theorem Core.updStream_codeWant (c : Core) (k : Nat) (f : Stream → Stream) : (c.updStream k f).codeWant = c.codeWant := rfl
@[simp] theorem Core.updStream_codeParts (c : Core) (k : Nat) (f : Stream → Stream) : (c.updStream k f).codeParts = c.codeParts := rfl
@[simp] theorem Core.updStream_codeErr (c : Core) (k : Nat) (f : Stream → Stream) : (c.updStream k f).codeErr = c.codeErr := rfl
@[simp] theorem Core.updStream_rb (c : Core) (k : Nat) (f : Stream → Stream) : (c.updStream k f).rb = c.rb := rfl
@[simp] theorem Core.updStream_rbErr (c : Core) (k : Nat) (f : Stream → Stream) : (c.updStream k f).rbErr = c.rbErr := rfl
@[simp] theorem Core.updStream_vaHeld (c : Core) (k : Nat) (f : Stream → Stream) : (c.updStream k f).vaHeld = c.vaHeld := rfl
@[simp] theorem Core.updStream_weHeld (c : Core) (k : Nat) (f : Stream → Stream) : (c.updStream k f).weHeld = c.weHeld := rfl
@[simp] theorem Core.updStream_undo (c : Core) (k : Nat) (f : Stream → Stream) : (c.updStream k f).undo = c.undo := rfl
@[simp] theorem Core.updStream_pending (c : Core) (k : Nat) (f : Stream → Stream) : (c.updStream k f).pending = c.pending := rfl
@[simp] theorem Core.updStream_retires (c : Core) (k : Nat) (f : Stream → Stream) : (c.updStream k f).retires = c.retires := rfl
@[simp] theorem Core.updStream_maturing (c : Core) (k : Nat) (f : Stream → Stream) : (c.updStream k f).maturing = c.maturing := rfl
@[simp] theorem Core.updStream_flushes (c : Core) (k : Nat) (f : Stream → Stream) : (c.updStream k f).flushes = c.flushes := rfl
@[simp] theorem Core.updStream_fills (c : Core) (k : Nat) (f : Stream → Stream) : (c.updStream k f).fills = c.fills := rfl
@[simp] theorem Core.updStream_db (c : Core) (k : Nat) (f : Stream → Stream) : (c.updStream k f).db = c.db := rfl
@[simp] theorem Core.updStream_pref (c : Core) (k : Nat) (f : Stream → Stream) : (c.updStream k f).pref = c.pref := rfl
@[simp] theorem Core.updStream_looked (c : Core) (k : Nat) (f : Stream → Stream) : (c.updStream k f).looked = c.looked := rfl
@[simp] theorem Core.updStream_port (c : Core) (k : Nat) (f : Stream → Stream) : (c.updStream k f).port = c.port := rfl
@[simp] theorem Core.updStream_reqs (c : Core) (k : Nat) (f : Stream → Stream) : (c.updStream k f).reqs = c.reqs := rfl
@[simp] theorem Core.updStream_tags (c : Core) (k : Nat) (f : Stream → Stream) : (c.updStream k f).tags = c.tags := rfl
@[simp] theorem Core.updStream_tagsDue (c : Core) (k : Nat) (f : Stream → Stream) : (c.updStream k f).tagsDue = c.tagsDue := rfl
@[simp] theorem Core.updStream_drops (c : Core) (k : Nat) (f : Stream → Stream) : (c.updStream k f).drops = c.drops := rfl
@[simp] theorem Core.updStream_lastSrc (c : Core) (k : Nat) (f : Stream → Stream) : (c.updStream k f).lastSrc = c.lastSrc := rfl
@[simp] theorem Core.updStream_nextQ (c : Core) (k : Nat) (f : Stream → Stream) : (c.updStream k f).nextQ = c.nextQ := rfl
@[simp] theorem Core.setJob_spad (c : Core) (j : Nat) (v : Job) : (c.setJob j v).spad = c.spad := rfl
@[simp] theorem Core.setJob_prev (c : Core) (j : Nat) (v : Job) : (c.setJob j v).prev = c.prev := rfl
@[simp] theorem Core.setJob_acc (c : Core) (j : Nat) (v : Job) : (c.setJob j v).acc = c.acc := rfl
@[simp] theorem Core.setJob_prevAcc (c : Core) (j : Nat) (v : Job) : (c.setJob j v).prevAcc = c.prevAcc := rfl
@[simp] theorem Core.setJob_accVe (c : Core) (j : Nat) (v : Job) : (c.setJob j v).accVe = c.accVe := rfl
@[simp] theorem Core.setJob_lane (c : Core) (j : Nat) (v : Job) : (c.setJob j v).lane = c.lane := rfl
@[simp] theorem Core.setJob_prevLane (c : Core) (j : Nat) (v : Job) : (c.setJob j v).prevLane = c.prevLane := rfl
@[simp] theorem Core.setJob_sems (c : Core) (j : Nat) (v : Job) : (c.setJob j v).sems = c.sems := rfl
@[simp] theorem Core.setJob_semStart (c : Core) (j : Nat) (v : Job) : (c.setJob j v).semStart = c.semStart := rfl
@[simp] theorem Core.setJob_barriers (c : Core) (j : Nat) (v : Job) : (c.setJob j v).barriers = c.barriers := rfl
@[simp] theorem Core.setJob_streams (c : Core) (j : Nat) (v : Job) : (c.setJob j v).streams = c.streams := rfl
@[simp] theorem Core.setJob_queues (c : Core) (j : Nat) (v : Job) : (c.setJob j v).queues = c.queues := rfl
@[simp] theorem Core.setJob_last (c : Core) (j : Nat) (v : Job) : (c.setJob j v).last = c.last := rfl
@[simp] theorem Core.setJob_bubble (c : Core) (j : Nat) (v : Job) : (c.setJob j v).bubble = c.bubble := rfl
@[simp] theorem Core.setJob_reissue (c : Core) (j : Nat) (v : Job) : (c.setJob j v).reissue = c.reissue := rfl
@[simp] theorem Core.setJob_frozen (c : Core) (j : Nat) (v : Job) : (c.setJob j v).frozen = c.frozen := rfl
@[simp] theorem Core.setJob_thaw (c : Core) (j : Nat) (v : Job) : (c.setJob j v).thaw = c.thaw := rfl
@[simp] theorem Core.setJob_wickStart (c : Core) (j : Nat) (v : Job) : (c.setJob j v).wickStart = c.wickStart := rfl
@[simp] theorem Core.setJob_wickMem (c : Core) (j : Nat) (v : Job) : (c.setJob j v).wickMem = c.wickMem := rfl
@[simp] theorem Core.setJob_trapJob (c : Core) (j : Nat) (v : Job) : (c.setJob j v).trapJob = c.trapJob := rfl
@[simp] theorem Core.setJob_trapKey (c : Core) (j : Nat) (v : Job) : (c.setJob j v).trapKey = c.trapKey := rfl
@[simp] theorem Core.setJob_trapCause (c : Core) (j : Nat) (v : Job) : (c.setJob j v).trapCause = c.trapCause := rfl
@[simp] theorem Core.setJob_trapCmd (c : Core) (j : Nat) (v : Job) : (c.setJob j v).trapCmd = c.trapCmd := rfl
@[simp] theorem Core.setJob_mbox (c : Core) (j : Nat) (v : Job) : (c.setJob j v).mbox = c.mbox := rfl
@[simp] theorem Core.setJob_active (c : Core) (j : Nat) (v : Job) : (c.setJob j v).active = c.active := rfl
@[simp] theorem Core.setJob_staged (c : Core) (j : Nat) (v : Job) : (c.setJob j v).staged = c.staged := rfl
@[simp] theorem Core.setJob_planeSt (c : Core) (j : Nat) (v : Job) : (c.setJob j v).planeSt = c.planeSt := rfl
@[simp] theorem Core.setJob_planeParts (c : Core) (j : Nat) (v : Job) : (c.setJob j v).planeParts = c.planeParts := rfl
@[simp] theorem Core.setJob_rbCount (c : Core) (j : Nat) (v : Job) : (c.setJob j v).rbCount = c.rbCount := rfl
@[simp] theorem Core.setJob_rbLast (c : Core) (j : Nat) (v : Job) : (c.setJob j v).rbLast = c.rbLast := rfl
@[simp] theorem Core.setJob_stagedJob (c : Core) (j : Nat) (v : Job) : (c.setJob j v).stagedJob = c.stagedJob := rfl
@[simp] theorem Core.setJob_left (c : Core) (j : Nat) (v : Job) : (c.setJob j v).left = c.left := rfl
@[simp] theorem Core.setJob_dtlb (c : Core) (j : Nat) (v : Job) : (c.setJob j v).dtlb = c.dtlb := rfl
@[simp] theorem Core.setJob_itlb (c : Core) (j : Nat) (v : Job) : (c.setJob j v).itlb = c.itlb := rfl
@[simp] theorem Core.setJob_misses (c : Core) (j : Nat) (v : Job) : (c.setJob j v).misses = c.misses := rfl
@[simp] theorem Core.setJob_missWait (c : Core) (j : Nat) (v : Job) : (c.setJob j v).missWait = c.missWait := rfl
@[simp] theorem Core.setJob_dtLookups (c : Core) (j : Nat) (v : Job) : (c.setJob j v).dtLookups = c.dtLookups := rfl
@[simp] theorem Core.setJob_dtMisses (c : Core) (j : Nat) (v : Job) : (c.setJob j v).dtMisses = c.dtMisses := rfl
@[simp] theorem Core.setJob_dtJoins (c : Core) (j : Nat) (v : Job) : (c.setJob j v).dtJoins = c.dtJoins := rfl
@[simp] theorem Core.setJob_dtFull (c : Core) (j : Nat) (v : Job) : (c.setJob j v).dtFull = c.dtFull := rfl
@[simp] theorem Core.setJob_code (c : Core) (j : Nat) (v : Job) : (c.setJob j v).code = c.code := rfl
@[simp] theorem Core.setJob_codeWant (c : Core) (j : Nat) (v : Job) : (c.setJob j v).codeWant = c.codeWant := rfl
@[simp] theorem Core.setJob_codeParts (c : Core) (j : Nat) (v : Job) : (c.setJob j v).codeParts = c.codeParts := rfl
@[simp] theorem Core.setJob_codeErr (c : Core) (j : Nat) (v : Job) : (c.setJob j v).codeErr = c.codeErr := rfl
@[simp] theorem Core.setJob_rb (c : Core) (j : Nat) (v : Job) : (c.setJob j v).rb = c.rb := rfl
@[simp] theorem Core.setJob_rbErr (c : Core) (j : Nat) (v : Job) : (c.setJob j v).rbErr = c.rbErr := rfl
@[simp] theorem Core.setJob_vaHeld (c : Core) (j : Nat) (v : Job) : (c.setJob j v).vaHeld = c.vaHeld := rfl
@[simp] theorem Core.setJob_weHeld (c : Core) (j : Nat) (v : Job) : (c.setJob j v).weHeld = c.weHeld := rfl
@[simp] theorem Core.setJob_undo (c : Core) (j : Nat) (v : Job) : (c.setJob j v).undo = c.undo := rfl
@[simp] theorem Core.setJob_pending (c : Core) (j : Nat) (v : Job) : (c.setJob j v).pending = c.pending := rfl
@[simp] theorem Core.setJob_retires (c : Core) (j : Nat) (v : Job) : (c.setJob j v).retires = c.retires := rfl
@[simp] theorem Core.setJob_maturing (c : Core) (j : Nat) (v : Job) : (c.setJob j v).maturing = c.maturing := rfl
@[simp] theorem Core.setJob_flushes (c : Core) (j : Nat) (v : Job) : (c.setJob j v).flushes = c.flushes := rfl
@[simp] theorem Core.setJob_fills (c : Core) (j : Nat) (v : Job) : (c.setJob j v).fills = c.fills := rfl
@[simp] theorem Core.setJob_db (c : Core) (j : Nat) (v : Job) : (c.setJob j v).db = c.db := rfl
@[simp] theorem Core.setJob_pref (c : Core) (j : Nat) (v : Job) : (c.setJob j v).pref = c.pref := rfl
@[simp] theorem Core.setJob_looked (c : Core) (j : Nat) (v : Job) : (c.setJob j v).looked = c.looked := rfl
@[simp] theorem Core.setJob_port (c : Core) (j : Nat) (v : Job) : (c.setJob j v).port = c.port := rfl
@[simp] theorem Core.setJob_reqs (c : Core) (j : Nat) (v : Job) : (c.setJob j v).reqs = c.reqs := rfl
@[simp] theorem Core.setJob_tags (c : Core) (j : Nat) (v : Job) : (c.setJob j v).tags = c.tags := rfl
@[simp] theorem Core.setJob_tagsDue (c : Core) (j : Nat) (v : Job) : (c.setJob j v).tagsDue = c.tagsDue := rfl
@[simp] theorem Core.setJob_drops (c : Core) (j : Nat) (v : Job) : (c.setJob j v).drops = c.drops := rfl
@[simp] theorem Core.setJob_lastSrc (c : Core) (j : Nat) (v : Job) : (c.setJob j v).lastSrc = c.lastSrc := rfl
@[simp] theorem Core.setJob_nextQ (c : Core) (j : Nat) (v : Job) : (c.setJob j v).nextQ = c.nextQ := rfl
@[simp] theorem Core.updJob_spad (c : Core) (j : Nat) (f : Job → Job) : (c.updJob j f).spad = c.spad := rfl
@[simp] theorem Core.updJob_prev (c : Core) (j : Nat) (f : Job → Job) : (c.updJob j f).prev = c.prev := rfl
@[simp] theorem Core.updJob_acc (c : Core) (j : Nat) (f : Job → Job) : (c.updJob j f).acc = c.acc := rfl
@[simp] theorem Core.updJob_prevAcc (c : Core) (j : Nat) (f : Job → Job) : (c.updJob j f).prevAcc = c.prevAcc := rfl
@[simp] theorem Core.updJob_accVe (c : Core) (j : Nat) (f : Job → Job) : (c.updJob j f).accVe = c.accVe := rfl
@[simp] theorem Core.updJob_lane (c : Core) (j : Nat) (f : Job → Job) : (c.updJob j f).lane = c.lane := rfl
@[simp] theorem Core.updJob_prevLane (c : Core) (j : Nat) (f : Job → Job) : (c.updJob j f).prevLane = c.prevLane := rfl
@[simp] theorem Core.updJob_sems (c : Core) (j : Nat) (f : Job → Job) : (c.updJob j f).sems = c.sems := rfl
@[simp] theorem Core.updJob_semStart (c : Core) (j : Nat) (f : Job → Job) : (c.updJob j f).semStart = c.semStart := rfl
@[simp] theorem Core.updJob_barriers (c : Core) (j : Nat) (f : Job → Job) : (c.updJob j f).barriers = c.barriers := rfl
@[simp] theorem Core.updJob_streams (c : Core) (j : Nat) (f : Job → Job) : (c.updJob j f).streams = c.streams := rfl
@[simp] theorem Core.updJob_queues (c : Core) (j : Nat) (f : Job → Job) : (c.updJob j f).queues = c.queues := rfl
@[simp] theorem Core.updJob_last (c : Core) (j : Nat) (f : Job → Job) : (c.updJob j f).last = c.last := rfl
@[simp] theorem Core.updJob_bubble (c : Core) (j : Nat) (f : Job → Job) : (c.updJob j f).bubble = c.bubble := rfl
@[simp] theorem Core.updJob_reissue (c : Core) (j : Nat) (f : Job → Job) : (c.updJob j f).reissue = c.reissue := rfl
@[simp] theorem Core.updJob_frozen (c : Core) (j : Nat) (f : Job → Job) : (c.updJob j f).frozen = c.frozen := rfl
@[simp] theorem Core.updJob_thaw (c : Core) (j : Nat) (f : Job → Job) : (c.updJob j f).thaw = c.thaw := rfl
@[simp] theorem Core.updJob_wickStart (c : Core) (j : Nat) (f : Job → Job) : (c.updJob j f).wickStart = c.wickStart := rfl
@[simp] theorem Core.updJob_wickMem (c : Core) (j : Nat) (f : Job → Job) : (c.updJob j f).wickMem = c.wickMem := rfl
@[simp] theorem Core.updJob_trapJob (c : Core) (j : Nat) (f : Job → Job) : (c.updJob j f).trapJob = c.trapJob := rfl
@[simp] theorem Core.updJob_trapKey (c : Core) (j : Nat) (f : Job → Job) : (c.updJob j f).trapKey = c.trapKey := rfl
@[simp] theorem Core.updJob_trapCause (c : Core) (j : Nat) (f : Job → Job) : (c.updJob j f).trapCause = c.trapCause := rfl
@[simp] theorem Core.updJob_trapCmd (c : Core) (j : Nat) (f : Job → Job) : (c.updJob j f).trapCmd = c.trapCmd := rfl
@[simp] theorem Core.updJob_mbox (c : Core) (j : Nat) (f : Job → Job) : (c.updJob j f).mbox = c.mbox := rfl
@[simp] theorem Core.updJob_active (c : Core) (j : Nat) (f : Job → Job) : (c.updJob j f).active = c.active := rfl
@[simp] theorem Core.updJob_staged (c : Core) (j : Nat) (f : Job → Job) : (c.updJob j f).staged = c.staged := rfl
@[simp] theorem Core.updJob_planeSt (c : Core) (j : Nat) (f : Job → Job) : (c.updJob j f).planeSt = c.planeSt := rfl
@[simp] theorem Core.updJob_planeParts (c : Core) (j : Nat) (f : Job → Job) : (c.updJob j f).planeParts = c.planeParts := rfl
@[simp] theorem Core.updJob_rbCount (c : Core) (j : Nat) (f : Job → Job) : (c.updJob j f).rbCount = c.rbCount := rfl
@[simp] theorem Core.updJob_rbLast (c : Core) (j : Nat) (f : Job → Job) : (c.updJob j f).rbLast = c.rbLast := rfl
@[simp] theorem Core.updJob_stagedJob (c : Core) (j : Nat) (f : Job → Job) : (c.updJob j f).stagedJob = c.stagedJob := rfl
@[simp] theorem Core.updJob_left (c : Core) (j : Nat) (f : Job → Job) : (c.updJob j f).left = c.left := rfl
@[simp] theorem Core.updJob_dtlb (c : Core) (j : Nat) (f : Job → Job) : (c.updJob j f).dtlb = c.dtlb := rfl
@[simp] theorem Core.updJob_itlb (c : Core) (j : Nat) (f : Job → Job) : (c.updJob j f).itlb = c.itlb := rfl
@[simp] theorem Core.updJob_misses (c : Core) (j : Nat) (f : Job → Job) : (c.updJob j f).misses = c.misses := rfl
@[simp] theorem Core.updJob_missWait (c : Core) (j : Nat) (f : Job → Job) : (c.updJob j f).missWait = c.missWait := rfl
@[simp] theorem Core.updJob_dtLookups (c : Core) (j : Nat) (f : Job → Job) : (c.updJob j f).dtLookups = c.dtLookups := rfl
@[simp] theorem Core.updJob_dtMisses (c : Core) (j : Nat) (f : Job → Job) : (c.updJob j f).dtMisses = c.dtMisses := rfl
@[simp] theorem Core.updJob_dtJoins (c : Core) (j : Nat) (f : Job → Job) : (c.updJob j f).dtJoins = c.dtJoins := rfl
@[simp] theorem Core.updJob_dtFull (c : Core) (j : Nat) (f : Job → Job) : (c.updJob j f).dtFull = c.dtFull := rfl
@[simp] theorem Core.updJob_code (c : Core) (j : Nat) (f : Job → Job) : (c.updJob j f).code = c.code := rfl
@[simp] theorem Core.updJob_codeWant (c : Core) (j : Nat) (f : Job → Job) : (c.updJob j f).codeWant = c.codeWant := rfl
@[simp] theorem Core.updJob_codeParts (c : Core) (j : Nat) (f : Job → Job) : (c.updJob j f).codeParts = c.codeParts := rfl
@[simp] theorem Core.updJob_codeErr (c : Core) (j : Nat) (f : Job → Job) : (c.updJob j f).codeErr = c.codeErr := rfl
@[simp] theorem Core.updJob_rb (c : Core) (j : Nat) (f : Job → Job) : (c.updJob j f).rb = c.rb := rfl
@[simp] theorem Core.updJob_rbErr (c : Core) (j : Nat) (f : Job → Job) : (c.updJob j f).rbErr = c.rbErr := rfl
@[simp] theorem Core.updJob_vaHeld (c : Core) (j : Nat) (f : Job → Job) : (c.updJob j f).vaHeld = c.vaHeld := rfl
@[simp] theorem Core.updJob_weHeld (c : Core) (j : Nat) (f : Job → Job) : (c.updJob j f).weHeld = c.weHeld := rfl
@[simp] theorem Core.updJob_undo (c : Core) (j : Nat) (f : Job → Job) : (c.updJob j f).undo = c.undo := rfl
@[simp] theorem Core.updJob_pending (c : Core) (j : Nat) (f : Job → Job) : (c.updJob j f).pending = c.pending := rfl
@[simp] theorem Core.updJob_retires (c : Core) (j : Nat) (f : Job → Job) : (c.updJob j f).retires = c.retires := rfl
@[simp] theorem Core.updJob_maturing (c : Core) (j : Nat) (f : Job → Job) : (c.updJob j f).maturing = c.maturing := rfl
@[simp] theorem Core.updJob_flushes (c : Core) (j : Nat) (f : Job → Job) : (c.updJob j f).flushes = c.flushes := rfl
@[simp] theorem Core.updJob_fills (c : Core) (j : Nat) (f : Job → Job) : (c.updJob j f).fills = c.fills := rfl
@[simp] theorem Core.updJob_db (c : Core) (j : Nat) (f : Job → Job) : (c.updJob j f).db = c.db := rfl
@[simp] theorem Core.updJob_pref (c : Core) (j : Nat) (f : Job → Job) : (c.updJob j f).pref = c.pref := rfl
@[simp] theorem Core.updJob_looked (c : Core) (j : Nat) (f : Job → Job) : (c.updJob j f).looked = c.looked := rfl
@[simp] theorem Core.updJob_port (c : Core) (j : Nat) (f : Job → Job) : (c.updJob j f).port = c.port := rfl
@[simp] theorem Core.updJob_reqs (c : Core) (j : Nat) (f : Job → Job) : (c.updJob j f).reqs = c.reqs := rfl
@[simp] theorem Core.updJob_tags (c : Core) (j : Nat) (f : Job → Job) : (c.updJob j f).tags = c.tags := rfl
@[simp] theorem Core.updJob_tagsDue (c : Core) (j : Nat) (f : Job → Job) : (c.updJob j f).tagsDue = c.tagsDue := rfl
@[simp] theorem Core.updJob_drops (c : Core) (j : Nat) (f : Job → Job) : (c.updJob j f).drops = c.drops := rfl
@[simp] theorem Core.updJob_lastSrc (c : Core) (j : Nat) (f : Job → Job) : (c.updJob j f).lastSrc = c.lastSrc := rfl
@[simp] theorem Core.updJob_nextQ (c : Core) (j : Nat) (f : Job → Job) : (c.updJob j f).nextQ = c.nextQ := rfl
@[simp] theorem Core.setQueue_spad (c : Core) (q : Nat) (v : Queue) : (c.setQueue q v).spad = c.spad := rfl
@[simp] theorem Core.setQueue_prev (c : Core) (q : Nat) (v : Queue) : (c.setQueue q v).prev = c.prev := rfl
@[simp] theorem Core.setQueue_acc (c : Core) (q : Nat) (v : Queue) : (c.setQueue q v).acc = c.acc := rfl
@[simp] theorem Core.setQueue_prevAcc (c : Core) (q : Nat) (v : Queue) : (c.setQueue q v).prevAcc = c.prevAcc := rfl
@[simp] theorem Core.setQueue_accVe (c : Core) (q : Nat) (v : Queue) : (c.setQueue q v).accVe = c.accVe := rfl
@[simp] theorem Core.setQueue_lane (c : Core) (q : Nat) (v : Queue) : (c.setQueue q v).lane = c.lane := rfl
@[simp] theorem Core.setQueue_prevLane (c : Core) (q : Nat) (v : Queue) : (c.setQueue q v).prevLane = c.prevLane := rfl
@[simp] theorem Core.setQueue_sems (c : Core) (q : Nat) (v : Queue) : (c.setQueue q v).sems = c.sems := rfl
@[simp] theorem Core.setQueue_semStart (c : Core) (q : Nat) (v : Queue) : (c.setQueue q v).semStart = c.semStart := rfl
@[simp] theorem Core.setQueue_barriers (c : Core) (q : Nat) (v : Queue) : (c.setQueue q v).barriers = c.barriers := rfl
@[simp] theorem Core.setQueue_jobs (c : Core) (q : Nat) (v : Queue) : (c.setQueue q v).jobs = c.jobs := rfl
@[simp] theorem Core.setQueue_streams (c : Core) (q : Nat) (v : Queue) : (c.setQueue q v).streams = c.streams := rfl
@[simp] theorem Core.setQueue_last (c : Core) (q : Nat) (v : Queue) : (c.setQueue q v).last = c.last := rfl
@[simp] theorem Core.setQueue_bubble (c : Core) (q : Nat) (v : Queue) : (c.setQueue q v).bubble = c.bubble := rfl
@[simp] theorem Core.setQueue_reissue (c : Core) (q : Nat) (v : Queue) : (c.setQueue q v).reissue = c.reissue := rfl
@[simp] theorem Core.setQueue_frozen (c : Core) (q : Nat) (v : Queue) : (c.setQueue q v).frozen = c.frozen := rfl
@[simp] theorem Core.setQueue_thaw (c : Core) (q : Nat) (v : Queue) : (c.setQueue q v).thaw = c.thaw := rfl
@[simp] theorem Core.setQueue_wickStart (c : Core) (q : Nat) (v : Queue) : (c.setQueue q v).wickStart = c.wickStart := rfl
@[simp] theorem Core.setQueue_wickMem (c : Core) (q : Nat) (v : Queue) : (c.setQueue q v).wickMem = c.wickMem := rfl
@[simp] theorem Core.setQueue_trapJob (c : Core) (q : Nat) (v : Queue) : (c.setQueue q v).trapJob = c.trapJob := rfl
@[simp] theorem Core.setQueue_trapKey (c : Core) (q : Nat) (v : Queue) : (c.setQueue q v).trapKey = c.trapKey := rfl
@[simp] theorem Core.setQueue_trapCause (c : Core) (q : Nat) (v : Queue) : (c.setQueue q v).trapCause = c.trapCause := rfl
@[simp] theorem Core.setQueue_trapCmd (c : Core) (q : Nat) (v : Queue) : (c.setQueue q v).trapCmd = c.trapCmd := rfl
@[simp] theorem Core.setQueue_mbox (c : Core) (q : Nat) (v : Queue) : (c.setQueue q v).mbox = c.mbox := rfl
@[simp] theorem Core.setQueue_active (c : Core) (q : Nat) (v : Queue) : (c.setQueue q v).active = c.active := rfl
@[simp] theorem Core.setQueue_staged (c : Core) (q : Nat) (v : Queue) : (c.setQueue q v).staged = c.staged := rfl
@[simp] theorem Core.setQueue_planeSt (c : Core) (q : Nat) (v : Queue) : (c.setQueue q v).planeSt = c.planeSt := rfl
@[simp] theorem Core.setQueue_planeParts (c : Core) (q : Nat) (v : Queue) : (c.setQueue q v).planeParts = c.planeParts := rfl
@[simp] theorem Core.setQueue_rbCount (c : Core) (q : Nat) (v : Queue) : (c.setQueue q v).rbCount = c.rbCount := rfl
@[simp] theorem Core.setQueue_rbLast (c : Core) (q : Nat) (v : Queue) : (c.setQueue q v).rbLast = c.rbLast := rfl
@[simp] theorem Core.setQueue_stagedJob (c : Core) (q : Nat) (v : Queue) : (c.setQueue q v).stagedJob = c.stagedJob := rfl
@[simp] theorem Core.setQueue_left (c : Core) (q : Nat) (v : Queue) : (c.setQueue q v).left = c.left := rfl
@[simp] theorem Core.setQueue_dtlb (c : Core) (q : Nat) (v : Queue) : (c.setQueue q v).dtlb = c.dtlb := rfl
@[simp] theorem Core.setQueue_itlb (c : Core) (q : Nat) (v : Queue) : (c.setQueue q v).itlb = c.itlb := rfl
@[simp] theorem Core.setQueue_misses (c : Core) (q : Nat) (v : Queue) : (c.setQueue q v).misses = c.misses := rfl
@[simp] theorem Core.setQueue_missWait (c : Core) (q : Nat) (v : Queue) : (c.setQueue q v).missWait = c.missWait := rfl
@[simp] theorem Core.setQueue_dtLookups (c : Core) (q : Nat) (v : Queue) : (c.setQueue q v).dtLookups = c.dtLookups := rfl
@[simp] theorem Core.setQueue_dtMisses (c : Core) (q : Nat) (v : Queue) : (c.setQueue q v).dtMisses = c.dtMisses := rfl
@[simp] theorem Core.setQueue_dtJoins (c : Core) (q : Nat) (v : Queue) : (c.setQueue q v).dtJoins = c.dtJoins := rfl
@[simp] theorem Core.setQueue_dtFull (c : Core) (q : Nat) (v : Queue) : (c.setQueue q v).dtFull = c.dtFull := rfl
@[simp] theorem Core.setQueue_code (c : Core) (q : Nat) (v : Queue) : (c.setQueue q v).code = c.code := rfl
@[simp] theorem Core.setQueue_codeWant (c : Core) (q : Nat) (v : Queue) : (c.setQueue q v).codeWant = c.codeWant := rfl
@[simp] theorem Core.setQueue_codeParts (c : Core) (q : Nat) (v : Queue) : (c.setQueue q v).codeParts = c.codeParts := rfl
@[simp] theorem Core.setQueue_codeErr (c : Core) (q : Nat) (v : Queue) : (c.setQueue q v).codeErr = c.codeErr := rfl
@[simp] theorem Core.setQueue_rb (c : Core) (q : Nat) (v : Queue) : (c.setQueue q v).rb = c.rb := rfl
@[simp] theorem Core.setQueue_rbErr (c : Core) (q : Nat) (v : Queue) : (c.setQueue q v).rbErr = c.rbErr := rfl
@[simp] theorem Core.setQueue_vaHeld (c : Core) (q : Nat) (v : Queue) : (c.setQueue q v).vaHeld = c.vaHeld := rfl
@[simp] theorem Core.setQueue_weHeld (c : Core) (q : Nat) (v : Queue) : (c.setQueue q v).weHeld = c.weHeld := rfl
@[simp] theorem Core.setQueue_undo (c : Core) (q : Nat) (v : Queue) : (c.setQueue q v).undo = c.undo := rfl
@[simp] theorem Core.setQueue_pending (c : Core) (q : Nat) (v : Queue) : (c.setQueue q v).pending = c.pending := rfl
@[simp] theorem Core.setQueue_retires (c : Core) (q : Nat) (v : Queue) : (c.setQueue q v).retires = c.retires := rfl
@[simp] theorem Core.setQueue_maturing (c : Core) (q : Nat) (v : Queue) : (c.setQueue q v).maturing = c.maturing := rfl
@[simp] theorem Core.setQueue_flushes (c : Core) (q : Nat) (v : Queue) : (c.setQueue q v).flushes = c.flushes := rfl
@[simp] theorem Core.setQueue_fills (c : Core) (q : Nat) (v : Queue) : (c.setQueue q v).fills = c.fills := rfl
@[simp] theorem Core.setQueue_db (c : Core) (q : Nat) (v : Queue) : (c.setQueue q v).db = c.db := rfl
@[simp] theorem Core.setQueue_pref (c : Core) (q : Nat) (v : Queue) : (c.setQueue q v).pref = c.pref := rfl
@[simp] theorem Core.setQueue_looked (c : Core) (q : Nat) (v : Queue) : (c.setQueue q v).looked = c.looked := rfl
@[simp] theorem Core.setQueue_port (c : Core) (q : Nat) (v : Queue) : (c.setQueue q v).port = c.port := rfl
@[simp] theorem Core.setQueue_reqs (c : Core) (q : Nat) (v : Queue) : (c.setQueue q v).reqs = c.reqs := rfl
@[simp] theorem Core.setQueue_tags (c : Core) (q : Nat) (v : Queue) : (c.setQueue q v).tags = c.tags := rfl
@[simp] theorem Core.setQueue_tagsDue (c : Core) (q : Nat) (v : Queue) : (c.setQueue q v).tagsDue = c.tagsDue := rfl
@[simp] theorem Core.setQueue_drops (c : Core) (q : Nat) (v : Queue) : (c.setQueue q v).drops = c.drops := rfl
@[simp] theorem Core.setQueue_lastSrc (c : Core) (q : Nat) (v : Queue) : (c.setQueue q v).lastSrc = c.lastSrc := rfl
@[simp] theorem Core.setQueue_nextQ (c : Core) (q : Nat) (v : Queue) : (c.setQueue q v).nextQ = c.nextQ := rfl
@[simp] theorem Core.setSem_spad (c : Core) (n : Nat) (v : Nat) : (c.setSem n v).spad = c.spad := rfl
@[simp] theorem Core.setSem_prev (c : Core) (n : Nat) (v : Nat) : (c.setSem n v).prev = c.prev := rfl
@[simp] theorem Core.setSem_acc (c : Core) (n : Nat) (v : Nat) : (c.setSem n v).acc = c.acc := rfl
@[simp] theorem Core.setSem_prevAcc (c : Core) (n : Nat) (v : Nat) : (c.setSem n v).prevAcc = c.prevAcc := rfl
@[simp] theorem Core.setSem_accVe (c : Core) (n : Nat) (v : Nat) : (c.setSem n v).accVe = c.accVe := rfl
@[simp] theorem Core.setSem_lane (c : Core) (n : Nat) (v : Nat) : (c.setSem n v).lane = c.lane := rfl
@[simp] theorem Core.setSem_prevLane (c : Core) (n : Nat) (v : Nat) : (c.setSem n v).prevLane = c.prevLane := rfl
@[simp] theorem Core.setSem_semStart (c : Core) (n : Nat) (v : Nat) : (c.setSem n v).semStart = c.semStart := rfl
@[simp] theorem Core.setSem_barriers (c : Core) (n : Nat) (v : Nat) : (c.setSem n v).barriers = c.barriers := rfl
@[simp] theorem Core.setSem_jobs (c : Core) (n : Nat) (v : Nat) : (c.setSem n v).jobs = c.jobs := rfl
@[simp] theorem Core.setSem_streams (c : Core) (n : Nat) (v : Nat) : (c.setSem n v).streams = c.streams := rfl
@[simp] theorem Core.setSem_queues (c : Core) (n : Nat) (v : Nat) : (c.setSem n v).queues = c.queues := rfl
@[simp] theorem Core.setSem_last (c : Core) (n : Nat) (v : Nat) : (c.setSem n v).last = c.last := rfl
@[simp] theorem Core.setSem_bubble (c : Core) (n : Nat) (v : Nat) : (c.setSem n v).bubble = c.bubble := rfl
@[simp] theorem Core.setSem_reissue (c : Core) (n : Nat) (v : Nat) : (c.setSem n v).reissue = c.reissue := rfl
@[simp] theorem Core.setSem_frozen (c : Core) (n : Nat) (v : Nat) : (c.setSem n v).frozen = c.frozen := rfl
@[simp] theorem Core.setSem_thaw (c : Core) (n : Nat) (v : Nat) : (c.setSem n v).thaw = c.thaw := rfl
@[simp] theorem Core.setSem_wickStart (c : Core) (n : Nat) (v : Nat) : (c.setSem n v).wickStart = c.wickStart := rfl
@[simp] theorem Core.setSem_wickMem (c : Core) (n : Nat) (v : Nat) : (c.setSem n v).wickMem = c.wickMem := rfl
@[simp] theorem Core.setSem_trapJob (c : Core) (n : Nat) (v : Nat) : (c.setSem n v).trapJob = c.trapJob := rfl
@[simp] theorem Core.setSem_trapKey (c : Core) (n : Nat) (v : Nat) : (c.setSem n v).trapKey = c.trapKey := rfl
@[simp] theorem Core.setSem_trapCause (c : Core) (n : Nat) (v : Nat) : (c.setSem n v).trapCause = c.trapCause := rfl
@[simp] theorem Core.setSem_trapCmd (c : Core) (n : Nat) (v : Nat) : (c.setSem n v).trapCmd = c.trapCmd := rfl
@[simp] theorem Core.setSem_mbox (c : Core) (n : Nat) (v : Nat) : (c.setSem n v).mbox = c.mbox := rfl
@[simp] theorem Core.setSem_active (c : Core) (n : Nat) (v : Nat) : (c.setSem n v).active = c.active := rfl
@[simp] theorem Core.setSem_staged (c : Core) (n : Nat) (v : Nat) : (c.setSem n v).staged = c.staged := rfl
@[simp] theorem Core.setSem_planeSt (c : Core) (n : Nat) (v : Nat) : (c.setSem n v).planeSt = c.planeSt := rfl
@[simp] theorem Core.setSem_planeParts (c : Core) (n : Nat) (v : Nat) : (c.setSem n v).planeParts = c.planeParts := rfl
@[simp] theorem Core.setSem_rbCount (c : Core) (n : Nat) (v : Nat) : (c.setSem n v).rbCount = c.rbCount := rfl
@[simp] theorem Core.setSem_rbLast (c : Core) (n : Nat) (v : Nat) : (c.setSem n v).rbLast = c.rbLast := rfl
@[simp] theorem Core.setSem_stagedJob (c : Core) (n : Nat) (v : Nat) : (c.setSem n v).stagedJob = c.stagedJob := rfl
@[simp] theorem Core.setSem_left (c : Core) (n : Nat) (v : Nat) : (c.setSem n v).left = c.left := rfl
@[simp] theorem Core.setSem_dtlb (c : Core) (n : Nat) (v : Nat) : (c.setSem n v).dtlb = c.dtlb := rfl
@[simp] theorem Core.setSem_itlb (c : Core) (n : Nat) (v : Nat) : (c.setSem n v).itlb = c.itlb := rfl
@[simp] theorem Core.setSem_misses (c : Core) (n : Nat) (v : Nat) : (c.setSem n v).misses = c.misses := rfl
@[simp] theorem Core.setSem_missWait (c : Core) (n : Nat) (v : Nat) : (c.setSem n v).missWait = c.missWait := rfl
@[simp] theorem Core.setSem_dtLookups (c : Core) (n : Nat) (v : Nat) : (c.setSem n v).dtLookups = c.dtLookups := rfl
@[simp] theorem Core.setSem_dtMisses (c : Core) (n : Nat) (v : Nat) : (c.setSem n v).dtMisses = c.dtMisses := rfl
@[simp] theorem Core.setSem_dtJoins (c : Core) (n : Nat) (v : Nat) : (c.setSem n v).dtJoins = c.dtJoins := rfl
@[simp] theorem Core.setSem_dtFull (c : Core) (n : Nat) (v : Nat) : (c.setSem n v).dtFull = c.dtFull := rfl
@[simp] theorem Core.setSem_code (c : Core) (n : Nat) (v : Nat) : (c.setSem n v).code = c.code := rfl
@[simp] theorem Core.setSem_codeWant (c : Core) (n : Nat) (v : Nat) : (c.setSem n v).codeWant = c.codeWant := rfl
@[simp] theorem Core.setSem_codeParts (c : Core) (n : Nat) (v : Nat) : (c.setSem n v).codeParts = c.codeParts := rfl
@[simp] theorem Core.setSem_codeErr (c : Core) (n : Nat) (v : Nat) : (c.setSem n v).codeErr = c.codeErr := rfl
@[simp] theorem Core.setSem_rb (c : Core) (n : Nat) (v : Nat) : (c.setSem n v).rb = c.rb := rfl
@[simp] theorem Core.setSem_rbErr (c : Core) (n : Nat) (v : Nat) : (c.setSem n v).rbErr = c.rbErr := rfl
@[simp] theorem Core.setSem_vaHeld (c : Core) (n : Nat) (v : Nat) : (c.setSem n v).vaHeld = c.vaHeld := rfl
@[simp] theorem Core.setSem_weHeld (c : Core) (n : Nat) (v : Nat) : (c.setSem n v).weHeld = c.weHeld := rfl
@[simp] theorem Core.setSem_undo (c : Core) (n : Nat) (v : Nat) : (c.setSem n v).undo = c.undo := rfl
@[simp] theorem Core.setSem_pending (c : Core) (n : Nat) (v : Nat) : (c.setSem n v).pending = c.pending := rfl
@[simp] theorem Core.setSem_retires (c : Core) (n : Nat) (v : Nat) : (c.setSem n v).retires = c.retires := rfl
@[simp] theorem Core.setSem_maturing (c : Core) (n : Nat) (v : Nat) : (c.setSem n v).maturing = c.maturing := rfl
@[simp] theorem Core.setSem_flushes (c : Core) (n : Nat) (v : Nat) : (c.setSem n v).flushes = c.flushes := rfl
@[simp] theorem Core.setSem_fills (c : Core) (n : Nat) (v : Nat) : (c.setSem n v).fills = c.fills := rfl
@[simp] theorem Core.setSem_db (c : Core) (n : Nat) (v : Nat) : (c.setSem n v).db = c.db := rfl
@[simp] theorem Core.setSem_pref (c : Core) (n : Nat) (v : Nat) : (c.setSem n v).pref = c.pref := rfl
@[simp] theorem Core.setSem_looked (c : Core) (n : Nat) (v : Nat) : (c.setSem n v).looked = c.looked := rfl
@[simp] theorem Core.setSem_port (c : Core) (n : Nat) (v : Nat) : (c.setSem n v).port = c.port := rfl
@[simp] theorem Core.setSem_reqs (c : Core) (n : Nat) (v : Nat) : (c.setSem n v).reqs = c.reqs := rfl
@[simp] theorem Core.setSem_tags (c : Core) (n : Nat) (v : Nat) : (c.setSem n v).tags = c.tags := rfl
@[simp] theorem Core.setSem_tagsDue (c : Core) (n : Nat) (v : Nat) : (c.setSem n v).tagsDue = c.tagsDue := rfl
@[simp] theorem Core.setSem_drops (c : Core) (n : Nat) (v : Nat) : (c.setSem n v).drops = c.drops := rfl
@[simp] theorem Core.setSem_lastSrc (c : Core) (n : Nat) (v : Nat) : (c.setSem n v).lastSrc = c.lastSrc := rfl
@[simp] theorem Core.setSem_nextQ (c : Core) (n : Nat) (v : Nat) : (c.setSem n v).nextQ = c.nextQ := rfl

theorem Core.stream_setStream (c : Core) (k j : Nat) (v : Stream) :
    (c.setStream k v).stream j = if j = k then v else c.stream j := mget_mput _ _ _ _ _

@[simp] theorem Core.stream_setStream_same (c : Core) (k : Nat) (v : Stream) : (c.setStream k v).stream k = v := by
  simp [Core.stream_setStream]

theorem Core.stream_setStream_ne (c : Core) {k j : Nat} (v : Stream) (h : j ≠ k) :
    (c.setStream k v).stream j = c.stream j := by simp [Core.stream_setStream, h]

theorem Core.stream_updStream (c : Core) (k j : Nat) (f : Stream → Stream) :
    (c.updStream k f).stream j = if j = k then f (c.stream k) else c.stream j := Core.stream_setStream _ _ _ _

@[simp] theorem Core.stream_updStream_same (c : Core) (k : Nat) (f : Stream → Stream) :
    (c.updStream k f).stream k = f (c.stream k) := Core.stream_setStream_same _ _ _

theorem Core.stream_updStream_ne (c : Core) {k j : Nat} (f : Stream → Stream) (h : j ≠ k) :
    (c.updStream k f).stream j = c.stream j := Core.stream_setStream_ne _ _ h

theorem Core.job_setJob (c : Core) (k j : Nat) (v : Job) : (c.setJob k v).job j = if j = k then v else c.job j :=
  mget_mput _ _ _ _ _

@[simp] theorem Core.job_setJob_same (c : Core) (k : Nat) (v : Job) : (c.setJob k v).job k = v := by simp [Core.job_setJob]

theorem Core.job_updJob (c : Core) (k j : Nat) (f : Job → Job) :
    (c.updJob k f).job j = if j = k then f (c.job k) else c.job j := Core.job_setJob _ _ _ _

@[simp] theorem Core.job_updJob_same (c : Core) (k : Nat) (f : Job → Job) : (c.updJob k f).job k = f (c.job k) :=
  Core.job_setJob_same _ _ _

theorem Core.queue_setQueue (c : Core) (k j : Nat) (v : Queue) : (c.setQueue k v).queue j = if j = k then v else c.queue j :=
  mget_mput _ _ _ _ _

theorem Core.semCount_setSem (c : Core) (k j v : Nat) : (c.setSem k v).semCount j = if j = k then v else c.semCount j :=
  mget_mput _ _ _ _ _
@[simp] theorem Core.job_setStream (c : Core) (k : Nat) (v : Stream) (i : Nat) : (c.setStream k v).job i = c.job i := rfl
@[simp] theorem Core.queue_setStream (c : Core) (k : Nat) (v : Stream) (i : Nat) : (c.setStream k v).queue i = c.queue i := rfl
@[simp] theorem Core.semCount_setStream (c : Core) (k : Nat) (v : Stream) (i : Nat) : (c.setStream k v).semCount i = c.semCount i := rfl
@[simp] theorem Core.job_updStream (c : Core) (k : Nat) (f : Stream → Stream) (i : Nat) : (c.updStream k f).job i = c.job i := rfl
@[simp] theorem Core.queue_updStream (c : Core) (k : Nat) (f : Stream → Stream) (i : Nat) : (c.updStream k f).queue i = c.queue i := rfl
@[simp] theorem Core.semCount_updStream (c : Core) (k : Nat) (f : Stream → Stream) (i : Nat) : (c.updStream k f).semCount i = c.semCount i := rfl
@[simp] theorem Core.stream_setJob (c : Core) (j : Nat) (v : Job) (i : Nat) : (c.setJob j v).stream i = c.stream i := rfl
@[simp] theorem Core.queue_setJob (c : Core) (j : Nat) (v : Job) (i : Nat) : (c.setJob j v).queue i = c.queue i := rfl
@[simp] theorem Core.semCount_setJob (c : Core) (j : Nat) (v : Job) (i : Nat) : (c.setJob j v).semCount i = c.semCount i := rfl
@[simp] theorem Core.stream_updJob (c : Core) (j : Nat) (f : Job → Job) (i : Nat) : (c.updJob j f).stream i = c.stream i := rfl
@[simp] theorem Core.queue_updJob (c : Core) (j : Nat) (f : Job → Job) (i : Nat) : (c.updJob j f).queue i = c.queue i := rfl
@[simp] theorem Core.semCount_updJob (c : Core) (j : Nat) (f : Job → Job) (i : Nat) : (c.updJob j f).semCount i = c.semCount i := rfl
@[simp] theorem Core.stream_setQueue (c : Core) (q : Nat) (v : Queue) (j : Nat) : (c.setQueue q v).stream j = c.stream j := rfl
@[simp] theorem Core.job_setQueue (c : Core) (q : Nat) (v : Queue) (i : Nat) : (c.setQueue q v).job i = c.job i := rfl
@[simp] theorem Core.semCount_setQueue (c : Core) (q : Nat) (v : Queue) (i : Nat) : (c.setQueue q v).semCount i = c.semCount i := rfl
@[simp] theorem Core.stream_setSem (c : Core) (n v : Nat) (j : Nat) : (c.setSem n v).stream j = c.stream j := rfl
@[simp] theorem Core.job_setSem (c : Core) (n v : Nat) (i : Nat) : (c.setSem n v).job i = c.job i := rfl
@[simp] theorem Core.queue_setSem (c : Core) (n v : Nat) (i : Nat) : (c.setSem n v).queue i = c.queue i := rfl

/-! ### A stream: one register replaced -/
@[simp] theorem Stream.setX_st (t : Stream) (n : Nat) (w : Word) : (t.setX n w).st = t.st := by unfold Stream.setX; split <;> rfl
@[simp] theorem Stream.setX_job (t : Stream) (n : Nat) (w : Word) : (t.setX n w).job = t.job := by unfold Stream.setX; split <;> rfl
@[simp] theorem Stream.setX_pc (t : Stream) (n : Nat) (w : Word) : (t.setX n w).pc = t.pc := by unfold Stream.setX; split <;> rfl
@[simp] theorem Stream.setX_p (t : Stream) (n : Nat) (w : Word) : (t.setX n w).p = t.p := by unfold Stream.setX; split <;> rfl
@[simp] theorem Stream.setX_rm (t : Stream) (n : Nat) (w : Word) : (t.setX n w).rm = t.rm := by unfold Stream.setX; split <;> rfl
@[simp] theorem Stream.setX_f8ns (t : Stream) (n : Nat) (w : Word) : (t.setX n w).f8ns = t.f8ns := by unfold Stream.setX; split <;> rfl
@[simp] theorem Stream.setX_flags (t : Stream) (n : Nat) (w : Word) : (t.setX n w).flags = t.flags := by unfold Stream.setX; split <;> rfl
@[simp] theorem Stream.setX_landFlags (t : Stream) (n : Nat) (w : Word) : (t.setX n w).landFlags = t.landFlags := by unfold Stream.setX; split <;> rfl
@[simp] theorem Stream.setX_landClk (t : Stream) (n : Nat) (w : Word) : (t.setX n w).landClk = t.landClk := by unfold Stream.setX; split <;> rfl
@[simp] theorem Stream.setX_loops (t : Stream) (n : Nat) (w : Word) : (t.setX n w).loops = t.loops := by unfold Stream.setX; split <;> rfl
@[simp] theorem Stream.setX_wait (t : Stream) (n : Nat) (w : Word) : (t.setX n w).wait = t.wait := by unfold Stream.setX; split <;> rfl
@[simp] theorem Stream.setX_waited (t : Stream) (n : Nat) (w : Word) : (t.setX n w).waited = t.waited := by unfold Stream.setX; split <;> rfl
@[simp] theorem Stream.setX_age (t : Stream) (n : Nat) (w : Word) : (t.setX n w).age = t.age := by unfold Stream.setX; split <;> rfl
@[simp] theorem Stream.setX_promoted (t : Stream) (n : Nat) (w : Word) : (t.setX n w).promoted = t.promoted := by unfold Stream.setX; split <;> rfl
@[simp] theorem Stream.setX_stalled (t : Stream) (n : Nat) (w : Word) : (t.setX n w).stalled = t.stalled := by unfold Stream.setX; split <;> rfl
@[simp] theorem Stream.setX_absent (t : Stream) (n : Nat) (w : Word) : (t.setX n w).absent = t.absent := by unfold Stream.setX; split <;> rfl
@[simp] theorem Stream.setX_issued (t : Stream) (n : Nat) (w : Word) : (t.setX n w).issued = t.issued := by unfold Stream.setX; split <;> rfl
@[simp] theorem Stream.setX_ready (t : Stream) (n : Nat) (w : Word) : (t.setX n w).ready = t.ready := by unfold Stream.setX; split <;> rfl
@[simp] theorem Stream.setX_retLeft (t : Stream) (n : Nat) (w : Word) : (t.setX n w).retLeft = t.retLeft := by unfold Stream.setX; split <;> rfl
@[simp] theorem Stream.setX_noIssue (t : Stream) (n : Nat) (w : Word) : (t.setX n w).noIssue = t.noIssue := by unfold Stream.setX; split <;> rfl
@[simp] theorem Stream.setX_rootT (t : Stream) (n : Nat) (w : Word) : (t.setX n w).rootT = t.rootT := by unfold Stream.setX; split <;> rfl
@[simp] theorem Stream.setX_need (t : Stream) (n : Nat) (w : Word) : (t.setX n w).need = t.need := by unfold Stream.setX; split <;> rfl
@[simp] theorem Stream.setX_needVa (t : Stream) (n : Nat) (w : Word) : (t.setX n w).needVa = t.needVa := by unfold Stream.setX; split <;> rfl
@[simp] theorem Stream.setX_credit (t : Stream) (n : Nat) (w : Word) : (t.setX n w).credit = t.credit := by unfold Stream.setX; split <;> rfl
@[simp] theorem Stream.setX_creditFrom (t : Stream) (n : Nat) (w : Word) : (t.setX n w).creditFrom = t.creditFrom := by unfold Stream.setX; split <;> rfl
@[simp] theorem Stream.setX_owe (t : Stream) (n : Nat) (w : Word) : (t.setX n w).owe = t.owe := by unfold Stream.setX; split <;> rfl
@[simp] theorem Stream.setX_popd (t : Stream) (n : Nat) (w : Word) : (t.setX n w).popd = t.popd := by unfold Stream.setX; split <;> rfl
@[simp] theorem Stream.setX_groups (t : Stream) (n : Nat) (w : Word) : (t.setX n w).groups = t.groups := by unfold Stream.setX; split <;> rfl
@[simp] theorem Stream.setX_ncmd (t : Stream) (n : Nat) (w : Word) : (t.setX n w).ncmd = t.ncmd := by unfold Stream.setX; split <;> rfl
@[simp] theorem Stream.setX_cmds (t : Stream) (n : Nat) (w : Word) : (t.setX n w).cmds = t.cmds := by unfold Stream.setX; split <;> rfl
@[simp] theorem Stream.setX_drains (t : Stream) (n : Nat) (w : Word) : (t.setX n w).drains = t.drains := by unfold Stream.setX; split <;> rfl
@[simp] theorem Stream.setX_stregs (t : Stream) (n : Nat) (w : Word) : (t.setX n w).stregs = t.stregs := by unfold Stream.setX; split <;> rfl
@[simp] theorem Stream.setX_bps (t : Stream) (n : Nat) (w : Word) : (t.setX n w).bps = t.bps := by unfold Stream.setX; split <;> rfl
@[simp] theorem Stream.setX_merge (t : Stream) (n : Nat) (w : Word) : (t.setX n w).merge = t.merge := by unfold Stream.setX; split <;> rfl
@[simp] theorem Stream.setX_v (t : Stream) (n : Nat) (w : Word) : (t.setX n w).v = t.v := by unfold Stream.setX; split <;> rfl
@[simp] theorem Stream.setX_we (t : Stream) (n : Nat) (w : Word) : (t.setX n w).we = t.we := by unfold Stream.setX; split <;> rfl
@[simp] theorem Stream.setX_me (t : Stream) (n : Nat) (w : Word) : (t.setX n w).me = t.me := by unfold Stream.setX; split <;> rfl
@[simp] theorem Stream.setP_st (t : Stream) (n : Nat) (w : Bool) : (t.setP n w).st = t.st := rfl
@[simp] theorem Stream.setP_job (t : Stream) (n : Nat) (w : Bool) : (t.setP n w).job = t.job := rfl
@[simp] theorem Stream.setP_pc (t : Stream) (n : Nat) (w : Bool) : (t.setP n w).pc = t.pc := rfl
@[simp] theorem Stream.setP_x (t : Stream) (n : Nat) (w : Bool) : (t.setP n w).x = t.x := rfl
@[simp] theorem Stream.setP_rm (t : Stream) (n : Nat) (w : Bool) : (t.setP n w).rm = t.rm := rfl
@[simp] theorem Stream.setP_f8ns (t : Stream) (n : Nat) (w : Bool) : (t.setP n w).f8ns = t.f8ns := rfl
@[simp] theorem Stream.setP_flags (t : Stream) (n : Nat) (w : Bool) : (t.setP n w).flags = t.flags := rfl
@[simp] theorem Stream.setP_landFlags (t : Stream) (n : Nat) (w : Bool) : (t.setP n w).landFlags = t.landFlags := rfl
@[simp] theorem Stream.setP_landClk (t : Stream) (n : Nat) (w : Bool) : (t.setP n w).landClk = t.landClk := rfl
@[simp] theorem Stream.setP_loops (t : Stream) (n : Nat) (w : Bool) : (t.setP n w).loops = t.loops := rfl
@[simp] theorem Stream.setP_wait (t : Stream) (n : Nat) (w : Bool) : (t.setP n w).wait = t.wait := rfl
@[simp] theorem Stream.setP_waited (t : Stream) (n : Nat) (w : Bool) : (t.setP n w).waited = t.waited := rfl
@[simp] theorem Stream.setP_age (t : Stream) (n : Nat) (w : Bool) : (t.setP n w).age = t.age := rfl
@[simp] theorem Stream.setP_promoted (t : Stream) (n : Nat) (w : Bool) : (t.setP n w).promoted = t.promoted := rfl
@[simp] theorem Stream.setP_stalled (t : Stream) (n : Nat) (w : Bool) : (t.setP n w).stalled = t.stalled := rfl
@[simp] theorem Stream.setP_absent (t : Stream) (n : Nat) (w : Bool) : (t.setP n w).absent = t.absent := rfl
@[simp] theorem Stream.setP_issued (t : Stream) (n : Nat) (w : Bool) : (t.setP n w).issued = t.issued := rfl
@[simp] theorem Stream.setP_ready (t : Stream) (n : Nat) (w : Bool) : (t.setP n w).ready = t.ready := rfl
@[simp] theorem Stream.setP_retLeft (t : Stream) (n : Nat) (w : Bool) : (t.setP n w).retLeft = t.retLeft := rfl
@[simp] theorem Stream.setP_noIssue (t : Stream) (n : Nat) (w : Bool) : (t.setP n w).noIssue = t.noIssue := rfl
@[simp] theorem Stream.setP_rootT (t : Stream) (n : Nat) (w : Bool) : (t.setP n w).rootT = t.rootT := rfl
@[simp] theorem Stream.setP_need (t : Stream) (n : Nat) (w : Bool) : (t.setP n w).need = t.need := rfl
@[simp] theorem Stream.setP_needVa (t : Stream) (n : Nat) (w : Bool) : (t.setP n w).needVa = t.needVa := rfl
@[simp] theorem Stream.setP_credit (t : Stream) (n : Nat) (w : Bool) : (t.setP n w).credit = t.credit := rfl
@[simp] theorem Stream.setP_creditFrom (t : Stream) (n : Nat) (w : Bool) : (t.setP n w).creditFrom = t.creditFrom := rfl
@[simp] theorem Stream.setP_owe (t : Stream) (n : Nat) (w : Bool) : (t.setP n w).owe = t.owe := rfl
@[simp] theorem Stream.setP_popd (t : Stream) (n : Nat) (w : Bool) : (t.setP n w).popd = t.popd := rfl
@[simp] theorem Stream.setP_groups (t : Stream) (n : Nat) (w : Bool) : (t.setP n w).groups = t.groups := rfl
@[simp] theorem Stream.setP_ncmd (t : Stream) (n : Nat) (w : Bool) : (t.setP n w).ncmd = t.ncmd := rfl
@[simp] theorem Stream.setP_cmds (t : Stream) (n : Nat) (w : Bool) : (t.setP n w).cmds = t.cmds := rfl
@[simp] theorem Stream.setP_drains (t : Stream) (n : Nat) (w : Bool) : (t.setP n w).drains = t.drains := rfl
@[simp] theorem Stream.setP_stregs (t : Stream) (n : Nat) (w : Bool) : (t.setP n w).stregs = t.stregs := rfl
@[simp] theorem Stream.setP_bps (t : Stream) (n : Nat) (w : Bool) : (t.setP n w).bps = t.bps := rfl
@[simp] theorem Stream.setP_merge (t : Stream) (n : Nat) (w : Bool) : (t.setP n w).merge = t.merge := rfl
@[simp] theorem Stream.setP_v (t : Stream) (n : Nat) (w : Bool) : (t.setP n w).v = t.v := rfl
@[simp] theorem Stream.setP_we (t : Stream) (n : Nat) (w : Bool) : (t.setP n w).we = t.we := rfl
@[simp] theorem Stream.setP_me (t : Stream) (n : Nat) (w : Bool) : (t.setP n w).me = t.me := rfl
@[simp] theorem Stream.setV_st (t : Stream) (n : Nat) (w : Nat) : (t.setV n w).st = t.st := rfl
@[simp] theorem Stream.setV_job (t : Stream) (n : Nat) (w : Nat) : (t.setV n w).job = t.job := rfl
@[simp] theorem Stream.setV_pc (t : Stream) (n : Nat) (w : Nat) : (t.setV n w).pc = t.pc := rfl
@[simp] theorem Stream.setV_x (t : Stream) (n : Nat) (w : Nat) : (t.setV n w).x = t.x := rfl
@[simp] theorem Stream.setV_p (t : Stream) (n : Nat) (w : Nat) : (t.setV n w).p = t.p := rfl
@[simp] theorem Stream.setV_rm (t : Stream) (n : Nat) (w : Nat) : (t.setV n w).rm = t.rm := rfl
@[simp] theorem Stream.setV_f8ns (t : Stream) (n : Nat) (w : Nat) : (t.setV n w).f8ns = t.f8ns := rfl
@[simp] theorem Stream.setV_flags (t : Stream) (n : Nat) (w : Nat) : (t.setV n w).flags = t.flags := rfl
@[simp] theorem Stream.setV_landFlags (t : Stream) (n : Nat) (w : Nat) : (t.setV n w).landFlags = t.landFlags := rfl
@[simp] theorem Stream.setV_landClk (t : Stream) (n : Nat) (w : Nat) : (t.setV n w).landClk = t.landClk := rfl
@[simp] theorem Stream.setV_loops (t : Stream) (n : Nat) (w : Nat) : (t.setV n w).loops = t.loops := rfl
@[simp] theorem Stream.setV_wait (t : Stream) (n : Nat) (w : Nat) : (t.setV n w).wait = t.wait := rfl
@[simp] theorem Stream.setV_waited (t : Stream) (n : Nat) (w : Nat) : (t.setV n w).waited = t.waited := rfl
@[simp] theorem Stream.setV_age (t : Stream) (n : Nat) (w : Nat) : (t.setV n w).age = t.age := rfl
@[simp] theorem Stream.setV_promoted (t : Stream) (n : Nat) (w : Nat) : (t.setV n w).promoted = t.promoted := rfl
@[simp] theorem Stream.setV_stalled (t : Stream) (n : Nat) (w : Nat) : (t.setV n w).stalled = t.stalled := rfl
@[simp] theorem Stream.setV_absent (t : Stream) (n : Nat) (w : Nat) : (t.setV n w).absent = t.absent := rfl
@[simp] theorem Stream.setV_issued (t : Stream) (n : Nat) (w : Nat) : (t.setV n w).issued = t.issued := rfl
@[simp] theorem Stream.setV_ready (t : Stream) (n : Nat) (w : Nat) : (t.setV n w).ready = t.ready := rfl
@[simp] theorem Stream.setV_retLeft (t : Stream) (n : Nat) (w : Nat) : (t.setV n w).retLeft = t.retLeft := rfl
@[simp] theorem Stream.setV_noIssue (t : Stream) (n : Nat) (w : Nat) : (t.setV n w).noIssue = t.noIssue := rfl
@[simp] theorem Stream.setV_rootT (t : Stream) (n : Nat) (w : Nat) : (t.setV n w).rootT = t.rootT := rfl
@[simp] theorem Stream.setV_need (t : Stream) (n : Nat) (w : Nat) : (t.setV n w).need = t.need := rfl
@[simp] theorem Stream.setV_needVa (t : Stream) (n : Nat) (w : Nat) : (t.setV n w).needVa = t.needVa := rfl
@[simp] theorem Stream.setV_credit (t : Stream) (n : Nat) (w : Nat) : (t.setV n w).credit = t.credit := rfl
@[simp] theorem Stream.setV_creditFrom (t : Stream) (n : Nat) (w : Nat) : (t.setV n w).creditFrom = t.creditFrom := rfl
@[simp] theorem Stream.setV_owe (t : Stream) (n : Nat) (w : Nat) : (t.setV n w).owe = t.owe := rfl
@[simp] theorem Stream.setV_popd (t : Stream) (n : Nat) (w : Nat) : (t.setV n w).popd = t.popd := rfl
@[simp] theorem Stream.setV_groups (t : Stream) (n : Nat) (w : Nat) : (t.setV n w).groups = t.groups := rfl
@[simp] theorem Stream.setV_ncmd (t : Stream) (n : Nat) (w : Nat) : (t.setV n w).ncmd = t.ncmd := rfl
@[simp] theorem Stream.setV_cmds (t : Stream) (n : Nat) (w : Nat) : (t.setV n w).cmds = t.cmds := rfl
@[simp] theorem Stream.setV_drains (t : Stream) (n : Nat) (w : Nat) : (t.setV n w).drains = t.drains := rfl
@[simp] theorem Stream.setV_stregs (t : Stream) (n : Nat) (w : Nat) : (t.setV n w).stregs = t.stregs := rfl
@[simp] theorem Stream.setV_bps (t : Stream) (n : Nat) (w : Nat) : (t.setV n w).bps = t.bps := rfl
@[simp] theorem Stream.setV_merge (t : Stream) (n : Nat) (w : Nat) : (t.setV n w).merge = t.merge := rfl
@[simp] theorem Stream.setV_we (t : Stream) (n : Nat) (w : Nat) : (t.setV n w).we = t.we := rfl
@[simp] theorem Stream.setV_me (t : Stream) (n : Nat) (w : Nat) : (t.setV n w).me = t.me := rfl
@[simp] theorem Stream.orFlags_st (t : Stream) (f : Nat) : (t.orFlags f).st = t.st := rfl
@[simp] theorem Stream.orFlags_job (t : Stream) (f : Nat) : (t.orFlags f).job = t.job := rfl
@[simp] theorem Stream.orFlags_pc (t : Stream) (f : Nat) : (t.orFlags f).pc = t.pc := rfl
@[simp] theorem Stream.orFlags_x (t : Stream) (f : Nat) : (t.orFlags f).x = t.x := rfl
@[simp] theorem Stream.orFlags_p (t : Stream) (f : Nat) : (t.orFlags f).p = t.p := rfl
@[simp] theorem Stream.orFlags_rm (t : Stream) (f : Nat) : (t.orFlags f).rm = t.rm := rfl
@[simp] theorem Stream.orFlags_f8ns (t : Stream) (f : Nat) : (t.orFlags f).f8ns = t.f8ns := rfl
@[simp] theorem Stream.orFlags_landFlags (t : Stream) (f : Nat) : (t.orFlags f).landFlags = t.landFlags := rfl
@[simp] theorem Stream.orFlags_landClk (t : Stream) (f : Nat) : (t.orFlags f).landClk = t.landClk := rfl
@[simp] theorem Stream.orFlags_loops (t : Stream) (f : Nat) : (t.orFlags f).loops = t.loops := rfl
@[simp] theorem Stream.orFlags_wait (t : Stream) (f : Nat) : (t.orFlags f).wait = t.wait := rfl
@[simp] theorem Stream.orFlags_waited (t : Stream) (f : Nat) : (t.orFlags f).waited = t.waited := rfl
@[simp] theorem Stream.orFlags_age (t : Stream) (f : Nat) : (t.orFlags f).age = t.age := rfl
@[simp] theorem Stream.orFlags_promoted (t : Stream) (f : Nat) : (t.orFlags f).promoted = t.promoted := rfl
@[simp] theorem Stream.orFlags_stalled (t : Stream) (f : Nat) : (t.orFlags f).stalled = t.stalled := rfl
@[simp] theorem Stream.orFlags_absent (t : Stream) (f : Nat) : (t.orFlags f).absent = t.absent := rfl
@[simp] theorem Stream.orFlags_issued (t : Stream) (f : Nat) : (t.orFlags f).issued = t.issued := rfl
@[simp] theorem Stream.orFlags_ready (t : Stream) (f : Nat) : (t.orFlags f).ready = t.ready := rfl
@[simp] theorem Stream.orFlags_retLeft (t : Stream) (f : Nat) : (t.orFlags f).retLeft = t.retLeft := rfl
@[simp] theorem Stream.orFlags_noIssue (t : Stream) (f : Nat) : (t.orFlags f).noIssue = t.noIssue := rfl
@[simp] theorem Stream.orFlags_rootT (t : Stream) (f : Nat) : (t.orFlags f).rootT = t.rootT := rfl
@[simp] theorem Stream.orFlags_need (t : Stream) (f : Nat) : (t.orFlags f).need = t.need := rfl
@[simp] theorem Stream.orFlags_needVa (t : Stream) (f : Nat) : (t.orFlags f).needVa = t.needVa := rfl
@[simp] theorem Stream.orFlags_credit (t : Stream) (f : Nat) : (t.orFlags f).credit = t.credit := rfl
@[simp] theorem Stream.orFlags_creditFrom (t : Stream) (f : Nat) : (t.orFlags f).creditFrom = t.creditFrom := rfl
@[simp] theorem Stream.orFlags_owe (t : Stream) (f : Nat) : (t.orFlags f).owe = t.owe := rfl
@[simp] theorem Stream.orFlags_popd (t : Stream) (f : Nat) : (t.orFlags f).popd = t.popd := rfl
@[simp] theorem Stream.orFlags_groups (t : Stream) (f : Nat) : (t.orFlags f).groups = t.groups := rfl
@[simp] theorem Stream.orFlags_ncmd (t : Stream) (f : Nat) : (t.orFlags f).ncmd = t.ncmd := rfl
@[simp] theorem Stream.orFlags_cmds (t : Stream) (f : Nat) : (t.orFlags f).cmds = t.cmds := rfl
@[simp] theorem Stream.orFlags_drains (t : Stream) (f : Nat) : (t.orFlags f).drains = t.drains := rfl
@[simp] theorem Stream.orFlags_stregs (t : Stream) (f : Nat) : (t.orFlags f).stregs = t.stregs := rfl
@[simp] theorem Stream.orFlags_bps (t : Stream) (f : Nat) : (t.orFlags f).bps = t.bps := rfl
@[simp] theorem Stream.orFlags_merge (t : Stream) (f : Nat) : (t.orFlags f).merge = t.merge := rfl
@[simp] theorem Stream.orFlags_v (t : Stream) (f : Nat) : (t.orFlags f).v = t.v := rfl
@[simp] theorem Stream.orFlags_we (t : Stream) (f : Nat) : (t.orFlags f).we = t.we := rfl
@[simp] theorem Stream.orFlags_me (t : Stream) (f : Nat) : (t.orFlags f).me = t.me := rfl

/-- A scalar register after a write: x0 stays zero. -/
theorem Stream.getX_setX (t : Stream) (n m : Nat) (w : Word) :
    (t.setX n w).getX m = if m = 0 then 0 else if m = n then w else t.getX m := by
  unfold Stream.getX Stream.setX
  by_cases hm : m = 0
  · simp [hm]
  · by_cases hn : n = 0
    · subst hn; simp [hm]
    · simp [hm, hn, mget_mput]

@[simp] theorem Stream.getX_zero (t : Stream) : t.getX 0 = 0 := rfl

theorem Stream.getP_setP (t : Stream) (n m : Nat) (b : Bool) : (t.setP n b).getP m = if m = n then b else t.getP m :=
  mget_mput _ _ _ _ _

theorem Stream.getV_setV (t : Stream) (n m w : Nat) : (t.setV n w).getV m = if m = n then w else t.getV m :=
  mget_mput _ _ _ _ _

@[simp] theorem Stream.getP_setX (t : Stream) (n : Nat) (w : Word) (m : Nat) : (t.setX n w).getP m = t.getP m := by
  simp [Stream.getP]
@[simp] theorem Stream.getV_setX (t : Stream) (n : Nat) (w : Word) (m : Nat) : (t.setX n w).getV m = t.getV m := by
  simp [Stream.getV]
@[simp] theorem Stream.getX_setP (t : Stream) (n : Nat) (b : Bool) (m : Nat) : (t.setP n b).getX m = t.getX m := rfl
@[simp] theorem Stream.getV_setP (t : Stream) (n : Nat) (b : Bool) (m : Nat) : (t.setP n b).getV m = t.getV m := rfl
@[simp] theorem Stream.getX_setV (t : Stream) (n w m : Nat) : (t.setV n w).getX m = t.getX m := rfl
@[simp] theorem Stream.getP_setV (t : Stream) (n w m : Nat) : (t.setV n w).getP m = t.getP m := rfl
@[simp] theorem Stream.getX_orFlags (t : Stream) (f m : Nat) : (t.orFlags f).getX m = t.getX m := rfl
@[simp] theorem Stream.getP_orFlags (t : Stream) (f m : Nat) : (t.orFlags f).getP m = t.getP m := rfl
@[simp] theorem Stream.getV_orFlags (t : Stream) (f m : Nat) : (t.orFlags f).getV m = t.getV m := rfl

end Sys2Proof.Machine
end

