-- ==== Sys2Proof/Laws/Ops.lean ====
section
/-!
SUPPORT. Sys2Proof/Laws/Ops.lean: what the frame of one instruction can do: how a word or bundle that issues goes on, and what
happens where its guard fails, its tokens are missing or its body traps.
-/

namespace Sys2Proof.Machine

/-! ### The core after unpop -/

theorem Core.unpop_stream (c : Core) (k j : Nat) :
    (c.unpop k).stream j = if j = k then { c.stream k with popd := none } else c.stream j := by
  simp only [Core.unpop]
  cases hp : (c.stream k).popd with
  | none => split <;> simp_all; cases hs : c.stream k; simp_all
  | some tp => simp [Core.stream_updStream]

@[simp] theorem Core.unpop_getX (c : Core) (k j n : Nat) : ((c.unpop k).stream j).getX n = (c.stream j).getX n := by
  rw [Core.unpop_stream]; split
  · subst_vars; rfl
  · rfl

@[simp] theorem Core.unpop_stream_job (c : Core) (k j : Nat) : ((c.unpop k).stream j).job = (c.stream j).job := by
  rw [Core.unpop_stream]; split <;> simp_all

/-! ### How a step differs in one core -/

theorem State.rest_setCore (s : State) (cid : Nat) (b : Core) (m : SMap Core) :
    { s.setCore cid b with cores := m } = { s with cores := m } := rfl

theorem coreStep_upd (s : State) (cid : Nat) (a b : Core) (g : Core → Core) :
    CoreStep s (((s.setCore cid a).setCore cid b).updCore cid g) cid (g b) := by
  rw [State.updCore]
  generalize hv : g (((s.setCore cid a).setCore cid b).core cid) = v
  rw [State.core_setCore_same] at hv
  subst hv
  exact ⟨State.core_setCore_same .., fun j hj => by simp [State.core_setCore, hj],
    by rw [State.rest_setCore, State.rest_setCore, State.rest_setCore]⟩

theorem coreStep_set (s : State) (cid : Nat) (b : Core) : CoreStep s (s.setCore cid b) cid b :=
  ⟨by simp, fun j hj => by simp [State.core_setCore, hj], rfl⟩

/-! ### A word that issues -/

theorem runI_done {s : State} {h : Head} {c : Core} {body : State → Res} {s2 : State} {f : Flow} {lat : Nat}
    (hI : Issues s h c) (hb : body (s.setCore s.cur.core c) = .done s2 f lat) :
    runI s h body = .next (s2.updCore s.cur.core fun x => s.issued h x f lat) := by
  obtain ⟨hg, ht⟩ := hI
  simp only [State.here, State.self] at hg ht
  simp only [runI, runWord, hg, ht, if_true, hb, State.issued, State.self, State.here, Core.unpop_stream_job]

theorem runI_trap {s : State} {h : Head} {c : Core} {body : State → Res} {a st : Nat}
    (hI : Issues s h c) (hb : body (s.setCore s.cur.core c) = .trap a st) :
    runI s h body = .next (s.setCore s.cur.core ((s.here.unpop s.cur.key).takeTrap s.cycles s.cur.key a st)) := by
  obtain ⟨hg, ht⟩ := hI
  simp only [State.here, State.self] at hg ht
  simp only [runI, runWord, hg, ht, if_true, hb, State.here]

theorem runC_done {s : State} {h : Head} {c c2 : Core} {body : Core → CRes} {f : Flow} {lat : Nat}
    (hI : Issues s h c) (hb : body c = .done c2 f lat) :
    ∃ t, runC s h body = .next t ∧ CoreStep s t s.cur.core (s.issued h c2 f lat) := by
  refine ⟨_, runI_done hI (s2 := (s.setCore s.cur.core c).setCore s.cur.core c2) ?_, coreStep_upd ..⟩
  simp [hb, CRes.lift]

theorem runC_trap {s : State} {h : Head} {c : Core} {body : Core → CRes} {a st : Nat}
    (hI : Issues s h c) (hb : body c = .trap a st) :
    runC s h body = .next (s.setCore s.cur.core ((s.here.unpop s.cur.key).takeTrap s.cycles s.cur.key a st)) :=
  runI_trap hI (by simp [hb, CRes.lift])

theorem runB_done {s : State} {h : WHead} {c : Core} {body : State → Res} {s2 : State} {f : Flow} {lat : Nat}
    (hI : IssuesB s h c) (hb : body (s.setCore s.cur.core c) = .done s2 f lat) :
    runB s h body = .next (s2.updCore s.cur.core fun x => s.issuedB h x f lat) := by
  simp only [IssuesB, State.here] at hI
  simp only [runB, runWord, hI, if_true, hb, State.issuedB, State.self, State.here, Core.unpop_stream_job]

theorem runB_trap {s : State} {h : WHead} {c : Core} {body : State → Res} {a st : Nat}
    (hI : IssuesB s h c) (hb : body (s.setCore s.cur.core c) = .trap a st) :
    runB s h body = .next (s.setCore s.cur.core ((s.here.unpop s.cur.key).takeTrap s.cycles s.cur.key a st)) := by
  simp only [IssuesB, State.here] at hI
  simp only [runB, runWord, hI, if_true, hb, State.here]

end Sys2Proof.Machine
end

