-- ==== Sys2Proof/Laws/Frames.lean ====
section
/-!
SUPPORT. Sys2Proof/Laws/Frames.lean: what the shared operations of instructions leave as it was: storage, vectors, flags, and
the registers and predicates that they do not name.
-/

namespace Sys2Proof.Machine

/-- Core b has what core a has: storage, job tables and budgets, vectors, flags, and every register and predicate but those
that x and p name. -/
structure Core.Agree (x p : Nat → Nat → Prop) (a b : Core) : Prop where
  store : b.spad = a.spad ∧ b.wickMem = a.wickMem ∧ b.acc = a.acc ∧ b.lane = a.lane ∧ b.sems = a.sems ∧ b.barriers = a.barriers
  jobs : ∀ j, (b.job j).itBase = (a.job j).itBase ∧ (b.job j).dtBase = (a.job j).dtBase ∧ (b.job j).tmap = (a.job j).tmap
    ∧ (b.job j).remain = (a.job j).remain
  vec : ∀ k, (b.stream k).v = (a.stream k).v ∧ (b.stream k).flags = (a.stream k).flags
  regs : ∀ k n, ¬ x k n → (b.stream k).getX n = (a.stream k).getX n
  preds : ∀ k n, ¬ p k n → (b.stream k).getP n = (a.stream k).getP n

variable {x p : Nat → Nat → Prop} {a b c : Core}

theorem Core.Agree.refl (x p : Nat → Nat → Prop) (a : Core) : Core.Agree x p a a :=
  ⟨⟨rfl, rfl, rfl, rfl, rfl, rfl⟩, fun _ => ⟨rfl, rfl, rfl, rfl⟩, fun _ => ⟨rfl, rfl⟩, fun _ _ _ => rfl, fun _ _ _ => rfl⟩

theorem Core.Agree.trans (h : Core.Agree x p a b) (g : Core.Agree x p b c) : Core.Agree x p a c := by
  obtain ⟨hs, hj, hv, hr, hp⟩ := h
  obtain ⟨gs, gj, gv, gr, gp⟩ := g
  refine ⟨?_, fun j => ?_, fun k => ?_, fun k n hx => (gr k n hx).trans (hr k n hx), fun k n hx => (gp k n hx).trans (hp k n hx)⟩
  · simp_all
  · simp_all
  · simp_all

/-- Fields that none of it reads may change. -/
theorem Core.Agree.of_eq (hs : b.spad = a.spad ∧ b.wickMem = a.wickMem ∧ b.acc = a.acc ∧ b.lane = a.lane ∧ b.sems = a.sems
    ∧ b.barriers = a.barriers) (hj : b.jobs = a.jobs) (ht : b.streams = a.streams) : Core.Agree x p a b := by
  refine ⟨hs, fun j => ?_, fun k => ?_, fun k n _ => ?_, fun k n _ => ?_⟩ <;> simp [Core.job, Core.stream, hj, ht]

/-- A stream that keeps its registers may be put back. -/
theorem Core.Agree.setStream (k : Nat) {t : Stream} (h : t.v = (a.stream k).v ∧ t.flags = (a.stream k).flags
    ∧ (∀ n, ¬ x k n → t.getX n = (a.stream k).getX n) ∧ ∀ n, ¬ p k n → t.getP n = (a.stream k).getP n) :
    Core.Agree x p a (a.setStream k t) := by
  refine ⟨⟨rfl, rfl, rfl, rfl, rfl, rfl⟩, fun _ => ⟨rfl, rfl, rfl, rfl⟩, fun j => ?_, fun j n hx => ?_, fun j n hx => ?_⟩ <;>
    rw [Core.stream_setStream] <;> split <;> simp_all

theorem Core.Agree.updStream (k : Nat) {f : Stream → Stream}
    (h : ∀ t, (f t).v = t.v ∧ (f t).flags = t.flags ∧ (f t).x = t.x ∧ (f t).p = t.p) :
    Core.Agree x p a (a.updStream k f) := by
  obtain ⟨hv, hf, hx, hp⟩ := h (a.stream k)
  exact .setStream k ⟨hv, hf, fun n _ => by simp [Stream.getX, hx], fun n _ => by simp [Stream.getP, hp]⟩

theorem Core.Agree.setJob (j : Nat) {t : Job} (h : t.itBase = (a.job j).itBase ∧ t.dtBase = (a.job j).dtBase
    ∧ t.tmap = (a.job j).tmap ∧ t.remain = (a.job j).remain) : Core.Agree x p a (a.setJob j t) := by
  refine ⟨⟨rfl, rfl, rfl, rfl, rfl, rfl⟩, fun i => ?_, fun _ => ⟨rfl, rfl⟩, fun _ _ _ => rfl, fun _ _ _ => rfl⟩
  rw [Core.job_setJob]; split <;> simp_all

theorem Core.Agree.updJob (j : Nat) {f : Job → Job} (h : ∀ t, (f t).itBase = t.itBase ∧ (f t).dtBase = t.dtBase
    ∧ (f t).tmap = t.tmap ∧ (f t).remain = t.remain) : Core.Agree x p a (a.updJob j f) := .setJob j (h _)

theorem Core.Agree.upd2 (j k : Nat) {f : Job → Job} {g : Stream → Stream}
    (hf : ∀ t, (f t).itBase = t.itBase ∧ (f t).dtBase = t.dtBase ∧ (f t).tmap = t.tmap ∧ (f t).remain = t.remain)
    (hg : ∀ t, (g t).v = t.v ∧ (g t).flags = t.flags ∧ (g t).x = t.x ∧ (g t).p = t.p) :
    Core.Agree x p a ((a.updJob j f).updStream k g) := (Core.Agree.updJob j hf).trans (.updStream k hg)

/-! ### Issue: tokens, traps, the end of an instruction -/

theorem Core.unpop_agree (c : Core) (k : Nat) : Core.Agree x p c (c.unpop k) := by
  simp only [Core.unpop]; split
  · exact .refl ..
  · exact .upd2 _ _ (fun _ => ⟨rfl, rfl, rfl, rfl⟩) fun _ => ⟨rfl, rfl, rfl, rfl⟩

theorem Core.popTok_agree {c c1 : Core} {k tp : Nat} (h : c.popTok k tp = some c1) : Core.Agree x p c c1 := by
  simp only [Core.popTok] at h; split at h
  · cases h; exact .setStream k ⟨rfl, rfl, fun _ _ => rfl, fun _ _ => rfl⟩
  · split at h
    · cases h
    · cases h; exact .updJob _ fun _ => ⟨rfl, rfl, rfl, rfl⟩

theorem Core.tokens_agree {c c1 : Core} {k tp : Nat} {pop push : Bool} (h : c.tokens k tp pop push = .ok c1) :
    Core.Agree x p c c1 := by
  simp only [Core.tokens] at h
  repeat' split at h
  all_goals first
    | cases h; first | exact .refl .. | (apply Core.popTok_agree; assumption)
    | cases h

theorem Core.recordTrap_agree (c : Core) (clk j : Nat) (r : TrapRec) : Core.Agree x p c (c.recordTrap clk j r) := by
  simp only [Core.recordTrap]
  repeat' split
  all_goals first
    | exact .setJob j ⟨rfl, rfl, rfl, rfl⟩
    | exact .refl ..

theorem Core.dropFault_agree (c : Core) : Core.Agree x p c c.dropFault := by
  unfold Core.dropFault
  refine Core.Agree.updStream _ ?_
  intro t; dsimp only; split <;> exact ⟨rfl, rfl, rfl, rfl⟩

theorem Core.recordFault_agree (c : Core) (clk j : Nat) (r : TrapRec) : Core.Agree x p c (c.recordFault clk j r) := by
  unfold Core.recordFault
  split <;> first
    | exact .updJob _ fun _ => ⟨rfl, rfl, rfl, rfl⟩
    | exact c.recordTrap_agree ..

theorem Core.takeTrap_agree (c : Core) (clk k cause status : Nat) : Core.Agree x p c (c.takeTrap clk k cause status) := by
  simp only [Core.takeTrap, Core.handlerFail]; split
  · refine Core.Agree.trans ?_ (.updStream 24 fun _ => ⟨rfl, rfl, rfl, rfl⟩)
    exact (c.dropFault_agree.trans (Core.recordFault_agree ..)).trans (.of_eq ⟨rfl, rfl, rfl, rfl, rfl, rfl⟩ rfl rfl)
  · exact (Core.recordTrap_agree ..).trans (.updStream _ fun _ => ⟨rfl, rfl, rfl, rfl⟩)

theorem Stream.after_regs (t : Stream) (clk len : Nat) (f : Flow) :
    (t.after clk len f).v = t.v ∧ (t.after clk len f).flags = t.flags ∧ (t.after clk len f).x = t.x
      ∧ (t.after clk len f).p = t.p := by cases f <;> exact ⟨rfl, rfl, rfl, rfl⟩

theorem Core.retireOne_agree (c : Core) (r : Retire) : Core.Agree x p c (c.retireOne r) := by
  simp only [Core.retireOne]; split
  · exact .of_eq ⟨rfl, rfl, rfl, rfl, rfl, rfl⟩ rfl rfl
  · exact .refl ..

/-- What waits to retire may change. -/
theorem Core.Agree.retires (h : Core.Agree x p a b) (v : List Retire) : Core.Agree x p a { b with retires := v } :=
  h.trans (.of_eq ⟨rfl, rfl, rfl, rfl, rfl, rfl⟩ rfl rfl)

/-- An engine may have to pass a bubble. -/
theorem Core.Agree.bubble (h : Core.Agree x p a b) (v : SMap Nat) : Core.Agree x p a { b with bubble := v } :=
  h.trans (.of_eq ⟨rfl, rfl, rfl, rfl, rfl, rfl⟩ rfl rfl)

theorem Core.retireIn_agree (c : Core) (k job tp : Nat) (push : Bool) (lat : Nat) :
    Core.Agree x p c (c.retireIn k job tp push lat) := by
  have upd : ∀ n, Core.Agree x p c (c.updStream k fun t => { t with retLeft := n }) :=
    fun _ => .updStream k fun _ => ⟨rfl, rfl, rfl, rfl⟩
  simp only [Core.retireIn]
  repeat' split
  all_goals first
    | exact .refl ..
    | exact upd _
    | exact (Core.Agree.refl ..).retires _
    | exact (upd _).retires _
    | exact ((Core.Agree.refl ..).retires _).trans (Core.retireOne_agree ..)
    | exact ((upd _).retires _).trans (Core.retireOne_agree ..)

theorem Core.oweIf_agree (c : Core) (k tp : Nat) (push : Bool) : Core.Agree x p c (c.oweIf k tp push) := by
  simp only [Core.oweIf]; split
  · exact .updStream _ fun _ => ⟨rfl, rfl, rfl, rfl⟩
  · exact .refl ..

theorem Core.finish_agree (c : Core) (clk job : Nat) (y : Ctx) (len tp : Nat) (push : Bool) (f : Flow) (lat : Nat) :
    Core.Agree x p c (c.finish clk job y len tp push f lat) := by
  have h1 : Core.Agree x p c { (c.updStream y.key fun t => t.after clk len f) with
      last := mput 0 y.eng.num (y.slot + 1) (c.updStream y.key fun t => t.after clk len f).last } :=
    (Core.Agree.updStream _ fun t => t.after_regs clk len f).trans (.of_eq ⟨rfl, rfl, rfl, rfl, rfl, rfl⟩ rfl rfl)
  simp only [Core.finish]
  repeat' split
  all_goals first
    | exact h1
    | exact h1.trans (Core.retireIn_agree ..)
    | exact h1.trans (Core.oweIf_agree ..)

theorem Core.keepTok_agree (c c0 : Core) (k tp : Nat) (pop : Bool) : Core.Agree x p c (c.keepTok c0 k tp pop) := by
  simp only [Core.keepTok]
  repeat' split
  · exact .refl ..
  · exact .upd2 _ _ (fun _ => ⟨rfl, rfl, rfl, rfl⟩) fun _ => ⟨rfl, rfl, rfl, rfl⟩
  · exact .updStream _ fun _ => ⟨rfl, rfl, rfl, rfl⟩

theorem Core.holdEng_agree (c : Core) (e : Eng) : Core.Agree x p c (c.holdEng e) := by
  cases e <;> first | exact .refl .. | exact .of_eq ⟨rfl, rfl, rfl, rfl, rfl, rfl⟩ rfl rfl

theorem Core.returnCredit_agree (c : Core) (k : Nat) : Core.Agree x p c (c.returnCredit k) := by
  simp only [Core.returnCredit]; split
  · exact .refl ..
  · exact .upd2 _ _ (fun _ => ⟨rfl, rfl, rfl, rfl⟩) fun _ => ⟨rfl, rfl, rfl, rfl⟩

/-! ### Operands and results -/

theorem Core.popQueues_agree (c : Core) (us : List QUse) : Core.Agree x p c (c.popQueues us) := by
  unfold Core.popQueues
  generalize List.range 16 = l
  induction l generalizing c with
  | nil => exact .refl ..
  | cons q l ih =>
    simp only [List.foldl_cons]
    refine .trans ?_ (ih _)
    split
    · exact .of_eq ⟨rfl, rfl, rfl, rfl, rfl, rfl⟩ rfl rfl
    · exact .refl ..

theorem Core.opndPop_agree (c : Core) (srcs : List Opnd) : Core.Agree x p c (c.opndPop srcs) := by
  simp only [Core.opndPop]; split
  · exact .refl ..
  · exact c.popQueues_agree _

theorem Core.vpop_agree (c : Core) (srcs : List VSrc) : Core.Agree x p c (c.vpop srcs) := by
  simp only [Core.vpop]; split
  · exact .refl ..
  · exact c.popQueues_agree _

theorem Core.reserveQ_agree (c : Core) (q : Nat) (e : QEnt) : Core.Agree x p c (c.reserveQ q e).1 :=
  .of_eq ⟨rfl, rfl, rfl, rfl, rfl, rfl⟩ rfl rfl

/-- In an exposed engine a result changes nothing until it lands. -/
theorem Core.result_agree (c : Core) {k : Nat} (hk : exposed (engOf k) = true) (lat : Nat) (d : Land) (fl : Nat) :
    Core.Agree x p c (c.result k lat d fl) := by
  simp only [Core.result, hk, if_true]
  exact .of_eq ⟨rfl, rfl, rfl, rfl, rfl, rfl⟩ rfl rfl

theorem Core.vwrite_agree (c : Core) {k : Nat} (hk : exposed (engOf k) = true) (lat : Nat) (d : VDst) (ls : List Nat)
    (n fl : Nat) : Core.Agree x p c (c.vwrite k lat d ls n fl) := by
  cases d with
  | v i => exact c.result_agree hk ..
  | rot i => exact c.result_agree hk ..
  | push q => exact (c.reserveQ_agree q (mkVec ls n)).trans ((c.reserveQ q (mkVec ls n)).1.result_agree hk ..)

theorem Core.result_x (c : Core) (k lat n : Nat) (v : Word) :
    Core.Agree (fun j m => j = k ∧ m = n) p c (c.result k lat (.x n v) 0) := by
  simp only [Core.result]; split
  · exact .of_eq ⟨rfl, rfl, rfl, rfl, rfl, rfl⟩ rfl rfl
  · simp only [Core.landOne, if_true]
    refine .trans (Core.Agree.setStream k ⟨?_, ?_, fun m hm => ?_, fun m _ => ?_⟩)
      (.of_eq ⟨rfl, rfl, rfl, rfl, rfl, rfl⟩ rfl rfl)
    · simp only [Stream.setX]; split <;> rfl
    · simp only [Stream.setX]; split <;> rfl
    · simp only [Stream.setX, Stream.getX] at *
      split
      · rfl
      · split
        · rfl
        · exact mget_mput_ne _ _ _ (by simpa using hm)
    · simp only [Stream.setX]; split <;> rfl

theorem Core.result_p (c : Core) (k lat n : Nat) (v : Bool) :
    Core.Agree x (fun j m => j = k ∧ m = n) c (c.result k lat (.p n v) 0) := by
  simp only [Core.result]; split
  · exact .of_eq ⟨rfl, rfl, rfl, rfl, rfl, rfl⟩ rfl rfl
  · simp only [Core.landOne, if_true]
    refine .trans (Core.Agree.setStream k (t := (c.stream k).setP n v) ⟨rfl, rfl, fun m _ => rfl, fun m hm => ?_⟩)
      (.of_eq ⟨rfl, rfl, rfl, rfl, rfl, rfl⟩ rfl rfl)
    simp only [Stream.getP, Stream.setP]
    exact mget_mput_ne _ _ _ (by simpa using hm)

theorem Core.result_q (c : Core) (k lat n id : Nat) (e : QEnt) : Core.Agree x p c (c.result k lat (.q n id e) 0) := by
  simp only [Core.result]; split
  · exact .of_eq ⟨rfl, rfl, rfl, rfl, rfl, rfl⟩ rfl rfl
  · simp only [Core.landOne, if_true]
    exact .of_eq ⟨rfl, rfl, rfl, rfl, rfl, rfl⟩ rfl rfl

/-- Writing a scalar result changes the destination register alone. -/
theorem Core.opndWrite_agree (c : Core) (k lat : Nat) (d : Opnd) (v : Word) :
    Core.Agree (fun j m => j = k ∧ d = .x m) p c (c.opndWrite k lat d v 0) := by
  cases d with
  | x n => simpa [Core.opndWrite, eq_comm] using c.result_x (p := p) k lat n v
  | q n => exact (c.reserveQ_agree n (.sca v)).trans (Core.result_q ..)
  | peek n => exact .refl ..

/-! ### Bodies -/

/-- What a body leaves as it was, whatever it answers. -/
def CRes.Agree (x p : Nat → Nat → Prop) (c : Core) : CRes → Prop
  | .done c1 _ _ => Core.Agree x p c c1
  | .stall c1 => Core.Agree x p c c1
  | .hold c1 => Core.Agree x p c c1
  | .trap _ _ => True
  | .unsat _ => True

theorem aluBody_agree (s : State) (lat : Nat) (d : Opnd) (srcs : List Opnd) (f : List Word → Word) (c : Core) :
    (aluBody s lat d srcs f c).Agree (fun j m => j = s.cur.key ∧ d = .x m) p c := by
  simp only [aluBody]; split
  · trivial
  · exact (c.opndPop_agree _).trans (Core.opndWrite_agree ..)

theorem predBody_agree (s : State) (n : Nat) (srcs : List Opnd) (f : List Word → Bool) (c : Core) :
    (predBody s n srcs f c).Agree x (fun j m => j = s.cur.key ∧ m = n) c := by
  simp only [predBody]; split
  · trivial
  · exact (c.opndPop_agree _).trans (Core.result_p ..)

theorem jumpTo_agree {c0 c : Core} (h : Core.Agree x p c0 c) (a : Int) (lat : Nat) : (jumpTo c a lat).Agree x p c0 := by
  simp only [jumpTo]; split
  · trivial
  · exact h

theorem branchBody_agree (s : State) (taken exit : Bool) (off : Int) (c : Core) :
    (branchBody s taken exit off c).Agree x p c := by
  simp only [branchBody]; split
  · refine jumpTo_agree ?_ _ _
    simp only [Core.exitLoop]; split
    · exact .updStream _ fun _ => ⟨rfl, rfl, rfl, rfl⟩
    · exact .refl ..
  · exact .refl ..

theorem loopBody_agree {c0 c : Core} (h : Core.Agree x p c0 c) (s : State) (n off w : Nat) :
    (loopBody s n off w c).Agree x p c0 := by
  simp only [loopBody]; repeat' split
  · exact h
  · trivial
  · exact h.trans (.setStream _ ⟨rfl, rfl, fun _ _ => rfl, fun _ _ => rfl⟩)

/-! ### Words and bundles -/

/-- Two states of the module that agree but for what core cid may change of itself. -/
structure State.Agree (x p : Nat → Nat → Prop) (s t : State) (cid : Nat) : Prop where
  rest : t.mem = s.mem ∧ t.hostMem = s.hostMem ∧ t.dies = s.dies ∧ t.groups = s.groups ∧ t.ring = s.ring
  others : ∀ j, j ≠ cid → t.core j = s.core j
  core : Core.Agree x p (s.core cid) (t.core cid)

theorem State.Agree.trans {s t u : State} {cid : Nat} (h : State.Agree x p s t cid) (g : State.Agree x p t u cid) :
    State.Agree x p s u cid := by
  obtain ⟨hr, ho, hc⟩ := h
  obtain ⟨gr, go, gc⟩ := g
  exact ⟨by simp_all, fun j hj => (go j hj).trans (ho j hj), hc.trans gc⟩

theorem State.Agree.setCore (s : State) (cid : Nat) (h : Core.Agree x p (s.core cid) c) :
    State.Agree x p s (s.setCore cid c) cid :=
  ⟨⟨rfl, rfl, rfl, rfl, rfl⟩, fun j hj => by simp [State.core_setCore, hj], by simpa using h⟩

theorem State.Agree.yieldEng {s t : State} {cid : Nat} (h : State.Agree x p s t cid) : State.Agree x p s t.yieldEng cid :=
  ⟨h.rest, h.others, h.core⟩

theorem unsatisfied_agree (s : State) (i : Instr) : State.Agree x p s (s.unsatisfied i) s.cur.core := by
  have h : Core.Agree x p (s.core s.cur.core) (((s.core s.cur.core).returnCredit s.cur.key).updStream s.cur.key fun t =>
      { t with wait := .head i
               waited := if ((s.core s.cur.core).stream s.cur.key).wait != .head i then 0 else t.waited }) :=
    (Core.returnCredit_agree ..).trans (.updStream _ fun _ => ⟨rfl, rfl, rfl, rfl⟩)
  simp only [State.unsatisfied]; split
  · exact .setCore _ _ (h.bubble _)
  · exact (State.Agree.setCore _ _ h).yieldEng

/-- What a body over the whole module leaves as it was. -/
def Res.Agree (x p : Nat → Nat → Prop) (s : State) (cid : Nat) : Res → Prop
  | .done s1 _ _ => State.Agree x p s s1 cid
  | .stall s1 => State.Agree x p s s1 cid
  | .hold s1 => State.Agree x p s s1 cid
  | .trap _ _ => True
  | .unsat _ => True

theorem CRes.lift_agree {s : State} {cid : Nat} {r : CRes} (h : r.Agree x p (s.core cid)) :
    (CRes.lift s cid r).Agree x p s cid := by
  cases r <;> first | trivial | exact .setCore _ _ h

/-- A word or bundle changes nothing but what its body may change. -/
theorem runWord_agree {s : State} {len tp : Nat} {pop push guard : Bool} {body : State → Res}
    (hb : ∀ c, (body (s.setCore s.cur.core c)).Agree x p (s.setCore s.cur.core c) s.cur.core) :
    State.Agree x p s (runWord s len tp pop push guard body) s.cur.core := by
  have hu : Core.Agree x p (s.core s.cur.core) ((s.core s.cur.core).unpop s.cur.key) := Core.unpop_agree _ _
  have upd : ∀ {t : State} (f : Core → Core), (∀ c, Core.Agree x p c (f c)) → State.Agree x p t (t.updCore s.cur.core f)
      s.cur.core := fun f hf => .setCore _ _ (hf _)
  have stalled : ∀ {t : State}, State.Agree x p s t s.cur.core → State.Agree x p s
      ((t.updCore s.cur.core fun c => c.updStream s.cur.key fun t => { t with stalled := true }).yieldEng) s.cur.core := by
    intro t h
    refine State.Agree.yieldEng (h.trans (upd _ fun c => ?_))
    exact Core.Agree.updStream _ fun _ => ⟨rfl, rfl, rfl, rfl⟩
  simp only [runWord]
  split
  · exact .setCore _ _ (hu.trans (Core.takeTrap_agree ..))
  · exact stalled (.setCore _ _ hu)
  · rename_i c1 ht
    have h1 : State.Agree x p s (s.setCore s.cur.core c1) s.cur.core := .setCore _ _ (hu.trans (Core.tokens_agree ht))
    have hr : (if guard = true then body (s.setCore s.cur.core c1) else Res.done (s.setCore s.cur.core c1) .seq 1).Agree x p
        (s.setCore s.cur.core c1) s.cur.core := by
      split
      · exact hb c1
      · exact ⟨⟨rfl, rfl, rfl, rfl, rfl⟩, fun _ _ => rfl, .refl ..⟩
    split <;> rename_i he <;> rw [he] at hr
    · exact .setCore _ _ (hu.trans (Core.takeTrap_agree ..))
    · exact unsatisfied_agree s _
    · exact stalled ((h1.trans hr).trans (upd _ fun c => Core.keepTok_agree ..))
    · exact ((h1.trans hr).trans (upd _ fun c => Core.keepTok_agree ..)).trans (upd _ fun c => Core.holdEng_agree ..)
    · exact (h1.trans hr).trans (upd _ fun c => Core.finish_agree ..)

theorem runI_agree {s t : State} {h : Head} {body : State → Res}
    (hb : ∀ c, (body (s.setCore s.cur.core c)).Agree x p (s.setCore s.cur.core c) s.cur.core)
    (ht : runI s h body = .next t) : State.Agree x p s t s.cur.core := by
  simp only [runI, Host.Outcome.next.injEq] at ht
  exact ht ▸ runWord_agree hb

theorem runC_agree {s t : State} {h : Head} {body : Core → CRes} (hb : ∀ c, (body c).Agree x p c)
    (ht : runC s h body = .next t) : State.Agree x p s t s.cur.core :=
  runI_agree (fun c => CRes.lift_agree (by simpa using hb c)) ht

theorem runB_agree {s t : State} {h : WHead} {body : State → Res}
    (hb : ∀ c, (body (s.setCore s.cur.core c)).Agree x p (s.setCore s.cur.core c) s.cur.core)
    (ht : runB s h body = .next t) : State.Agree x p s t s.cur.core := by
  simp only [runB, Host.Outcome.next.injEq] at ht
  exact ht ▸ runWord_agree hb

/-- The frame in the words of the statements. -/
theorem State.Agree.keeps {s t : State} {cid : Nat} (h : State.Agree x p s t cid) :
    Keeps s t cid ∧ KeepsX s t cid x ∧ KeepsP s t cid p := by
  obtain ⟨⟨h1, h2, h3, h4, h5⟩, ho, ⟨⟨a1, a2, a3, a4, a5, a6⟩, hj, hv, hr, hp⟩⟩ := h
  refine ⟨⟨?_, ?_, ho, ?_, ?_, ?_, ?_, ?_, a6, fun j => ?_, fun j => (hj j).2.2.2, h3, h4, h5, fun k n => ?_, fun k => (hv k).2⟩,
    hr, hp⟩
  · simp [h1]
  · simp [h2]
  · simp [a1]
  · simp [a2]
  · simp [a3]
  · simp [a4]
  · simp [Core.semCount, a5]
  · exact ⟨(hj j).1, (hj j).2.1, (hj j).2.2.1⟩
  · simp [Stream.getV, (hv k).1]

end Sys2Proof.Machine
end

