-- ==== Sys2Proof/Laws/Families.lean ====
section
/-!
SUPPORT. Sys2Proof/Laws/Families.lean: the frames of what whole families of instructions share: vector instructions, stream
instructions, commands and bundles.
-/

namespace Sys2Proof.Machine

variable {x p : Nat → Nat → Prop}

/-! ### Vector instructions -/

theorem Core.vpop_vwrite (c : Core) {k : Nat} (hk : exposed (engOf k) = true) (srcs : List VSrc) (lat : Nat) (d : VDst)
    (ls : List Nat) (n fl : Nat) : Core.Agree x p c ((c.vpop srcs).vwrite k lat d ls n fl) :=
  (c.vpop_agree srcs).trans ((c.vpop srcs).vwrite_agree hk ..)

theorem Core.vpop_result (c : Core) {k : Nat} (hk : exposed (engOf k) = true) (srcs : List VSrc) (lat : Nat) (d : Land)
    (fl : Nat) : Core.Agree x p c ((c.vpop srcs).result k lat d fl) :=
  (c.vpop_agree srcs).trans ((c.vpop srcs).result_agree hk ..)

theorem runV_agree {s t : State} (hk : exposed (engOf s.cur.key) = true) {h : Head} {lat : Nat} {d : VDst} {srcs : List VSrc}
    {f : Stream → VIn → VOut} (ht : runV s h lat d srcs f = .next t) : State.Agree x p s t s.cur.core := by
  refine runC_agree (fun c => ?_) ht
  dsimp only; split
  · trivial
  · exact c.vpop_vwrite hk ..

theorem runCmp_agree {s t : State} (hk : exposed (engOf s.cur.key) = true) {h : Head} {d : CmpDst} {a b : VSrc} {f : VFmt}
    {md : ElMode} {lat : Nat} {op : Nat → Nat → Bool × Nat} (ht : runCmp s h d a b f md lat op = .next t) :
    State.Agree x p s t s.cur.core := by
  unfold runCmp at ht
  cases d with
  | mask d => exact runV_agree hk ht
  | any q =>
    refine runC_agree (fun c => ?_) ht
    dsimp only; split
    · trivial
    · exact c.vpop_result hk ..
  | all q =>
    refine runC_agree (fun c => ?_) ht
    dsimp only; split
    · trivial
    · exact c.vpop_result hk ..

theorem runVs_agree {s t : State} (hk : exposed (engOf s.cur.key) = true) {h : Head} {lat : Nat} {srcs : List VSrc}
    {f : Stream → VIn → Land} (ht : runVs s h lat srcs f = .next t) : State.Agree x p s t s.cur.core := by
  refine runC_agree (fun c => ?_) ht
  dsimp only; split
  · trivial
  · exact c.vpop_result hk ..

theorem runMaxi_agree {s t : State} (hk : exposed (engOf s.cur.key) = true) {h : Head} {d : VDst} {a b : VSrc}
    {q : Option Nat} {f : VFmt} {big : Bool} (ht : runMaxi s h d a b q f big = .next t) : State.Agree x p s t s.cur.core := by
  refine runC_agree (fun c => ?_) ht
  dsimp only; split
  · trivial
  · simp only [CRes.Agree]; split
    · exact c.vpop_vwrite hk ..
    · exact (c.vpop_vwrite hk ..).trans (Core.result_agree _ hk ..)

theorem runVacr_agree {s t : State} (hk : exposed (engOf s.cur.key) = true) {h : Head} {d : VDst} {a n : Nat}
    {f : Stream → List Nat → List Nat × Nat} (ht : runVacr s h d a n f = .next t) : State.Agree x p s t s.cur.core := by
  refine runC_agree (fun c => ?_) ht
  dsimp only; repeat' split
  · trivial
  · trivial
  · exact c.vwrite_agree hk ..

/-- Results that are handed on one after the other. -/
theorem foldl_result_agree {β : Type} {k : Nat} (hk : exposed (engOf k) = true) (lat : Nat) (d : Nat → β → Land) (l : List β)
    (c : Core) (n : Nat) : Core.Agree x p c
      (l.foldl (fun (q : Core × Nat) v => (q.1.result k lat (d q.2 v) 0, q.2 + 1)) (c, n)).1 := by
  induction l generalizing c n with
  | nil => exact .refl ..
  | cons v l ih => exact (c.result_agree hk lat (d n v) 0).trans (ih (c.result k lat (d n v) 0) (n + 1))

theorem runVacw_agree {s t : State} (hk : exposed (engOf s.cur.key) = true) {h : Head} {d : Nat} {a : VSrc} {mode : Nat}
    {f : Stream → VIn → List (Int × Bool) × Nat} (ht : runVacw s h d a mode f = .next t) :
    State.Agree x p s t s.cur.core := by
  refine runC_agree (fun c => ?_) ht
  dsimp only; repeat' split
  · trivial
  · trivial
  · have h1 := fun fl => c.vpop_result (x := x) (p := p) hk [a] 2 .none fl
    exact (h1 _).trans (foldl_result_agree hk 2 (fun n (v : Int × Bool) => .acc n mode v.1 v.2) _ _ _)

/-! ### Stream instructions -/

theorem withSt_agree {s : State} {c : Core} {a : StOpnd} {go : Nat → CRes} (h : ∀ n, (go n).Agree x p c) :
    (withSt s c a go).Agree x p c := by
  simp only [withSt]; split
  · exact h _
  · trivial

theorem withWalker_agree {s : State} {c : Core} {n : Nat} {go : SWalk → CRes} (h : ∀ w, (go w).Agree x p c) :
    (withWalker s c n go).Agree x p c := by
  simp only [withWalker]; split
  · exact h _
  · trivial

theorem updDone_agree (s : State) (c : Core) {f : Stream → Stream}
    (h : ∀ t, (f t).v = t.v ∧ (f t).flags = t.flags ∧ (f t).x = t.x ∧ (f t).p = t.p) : (updDone s c f).Agree x p c :=
  Core.Agree.updStream _ h

theorem readRecord_agree {s : State} {c : Core} {a n : Nat} {go : Nat → CRes} (h : ∀ r, (go r).Agree x p c) :
    (readRecord s c a n go).Agree x p c := by
  simp only [readRecord]; repeat' split
  · trivial
  · trivial
  · exact h _

theorem Stream.setSreg_regs (t : Stream) (n : Nat) (g : StReg) : (t.setSreg n g).v = t.v ∧ (t.setSreg n g).flags = t.flags
    ∧ (t.setSreg n g).x = t.x ∧ (t.setSreg n g).p = t.p := ⟨rfl, rfl, rfl, rfl⟩

theorem Stream.moveTo_regs (t : Stream) (n : Nat) (w : SWalk) (d : Bool) : (t.moveTo n w d).v = t.v
    ∧ (t.moveTo n w d).flags = t.flags ∧ (t.moveTo n w d).x = t.x ∧ (t.moveTo n w d).p = t.p := by
  cases w <;> exact ⟨rfl, rfl, rfl, rfl⟩

theorem Stream.unbindOps_regs (t : Stream) (g : StReg) : (t.unbindOps g).v = t.v
    ∧ (t.unbindOps g).flags = t.flags ∧ (t.unbindOps g).x = t.x ∧ (t.unbindOps g).p = t.p := by
  simp only [Stream.unbindOps]; split <;> exact ⟨rfl, rfl, rfl, rfl⟩

/-! ### Reads of device memory -/

theorem Core.askWalk_agree {c c1 : Core} {e : Eng} {dt page va : Nat} {first : Bool}
    (h : c.askWalk e dt page va first = .wait c1) : Core.Agree x p c c1 := by
  simp only [Core.askWalk] at h
  repeat' split at h
  all_goals first
    | cases h; first | exact .refl .. | exact .of_eq ⟨rfl, rfl, rfl, rfl, rfl, rfl⟩ rfl rfl
    | cases h

theorem Core.setNeed_agree (c : Core) (k va : Nat) : Core.Agree x p c (c.setNeed k va) :=
  .updStream k fun _ => ⟨rfl, rfl, rfl, rfl⟩

/-- A translation counts its lookup; nothing else changes where it is found, and a walk is asked for where it is not. -/
theorem Core.xlat_agree {c c1 : Core} {e : Eng} {dt va : Nat} {w first : Bool}
    (h : c.xlat e dt va w first = .wait c1 ∨ ∃ pa, c.xlat e dt va w first = .ok c1 pa) : Core.Agree x p c c1 := by
  have h0 : Core.Agree x p c (c.countLookup first) := .of_eq ⟨rfl, rfl, rfl, rfl, rfl, rfl⟩ rfl rfl
  simp only [Core.xlat] at h
  split at h
  · split at h
    · rcases h with h | ⟨_, h⟩ <;> cases h
      exact h0
    · rcases h with h | ⟨_, h⟩ <;> cases h
  · rcases h with h | ⟨_, h⟩
    · exact h0.trans (Core.askWalk_agree h)
    · simp only [Core.askWalk] at h
      repeat' split at h
      all_goals cases h

theorem Core.xlatFor_agree {c c1 : Core} {k va : Nat} {w : Bool}
    (h : c.xlatFor k va w = .wait c1 ∨ ∃ pa, c.xlatFor k va w = .ok c1 pa) : Core.Agree x p c c1 := by
  simp only [Core.xlatFor] at h
  split at h <;> rename_i hx <;> rcases h with h | ⟨_, h⟩ <;> cases h
  · exact (Core.xlat_agree (.inl hx)).trans (Core.setNeed_agree ..)
  · exact Core.xlat_agree (.inr ⟨_, hx⟩)

theorem Core.sendLine_agree {c c1 : Core} {w : Sender} {kind : PKind} {vc pa mask : Nat} {data : List Byte}
    {purpose : Purpose} (h : c.sendLine w kind vc pa mask data purpose = some c1) : Core.Agree x p c c1 := by
  simp only [Core.sendLine] at h
  repeat' split at h
  all_goals first
    | cases h; exact .of_eq ⟨rfl, rfl, rfl, rfl, rfl, rfl⟩ rfl rfl
    | cases h

theorem Core.readLine_agree {c c1 : Core} {w : Sender} {vc line : Nat} (h : c.readLine w vc line = .wait c1) :
    Core.Agree x p c c1 := by
  simp only [Core.readLine] at h
  repeat' split at h
  all_goals first
    | cases h; done
    | cases h; first | exact .refl .. | (apply Core.sendLine_agree; assumption)

theorem Core.vaAsk_agree (c : Core) (cid k clk va : Nat) (write : Bool) : (c.vaAsk cid k clk va write).Agree x p c := by
  simp only [Core.vaAsk]
  split
  · trivial
  · rename_i h
    have h := Core.xlatFor_agree (x := x) (p := p) (.inl h)
    simp only [CRes.Agree]; split
    · exact h.trans (.of_eq ⟨rfl, rfl, rfl, rfl, rfl, rfl⟩ rfl rfl)
    · exact h
  · rename_i h
    have h := Core.xlatFor_agree (x := x) (p := p) (.inr ⟨_, h⟩)
    repeat' split
    · exact .refl ..
    · exact h
    · rename_i hr
      exact (h.trans (Core.readLine_agree hr)).trans (Core.setNeed_agree ..)

theorem withRead_agree {α : Type} {s : State} {c : Core} {r : Rd α} {go : α → CRes} (h : ∀ v, (go v).Agree x p c) :
    (withRead s c r go).Agree x p c := by
  simp only [withRead]; repeat' split
  · exact h _
  · trivial
  · exact Core.setNeed_agree ..
  · exact Core.vaAsk_agree ..

theorem readOn_agree (s : State) (c : Core) (n va : Nat) : Core.Agree x p c (s.readOn c n va) :=
  .of_eq ⟨rfl, rfl, rfl, rfl, rfl, rfl⟩ rfl rfl

theorem withStream_agree {α : Type} {s : State} {c : Core} {n : Nat} {r : Rd α} {go : α → CRes}
    (h : ∀ v, (go v).Agree x p c) : (withStream s c n r go).Agree x p c := by
  have h0 := withRead_agree (s := s) (r := r) h
  simp only [withStream]
  split
  · split
    · rename_i c1 hc
      rw [hc] at h0
      simp only [CRes.Agree] at h0 ⊢
      split
      · exact h0
      · exact h0.trans (readOn_agree ..)
    · exact h0
  · exact h0

theorem ldqBody_agree {s : State} {c : Core} {n q k limit : Nat} {i : Option Nat} {keep : Bool}
    {sides : Elt → List (Option Nat)} {deliver : Rdr → List Elt → Rd Entry} (hk : exposed (engOf s.cur.key) = true) :
    (ldqBody s c n q k limit i keep sides deliver).Agree x p c := by
  simp only [ldqBody]
  refine withWalker_agree fun w => ?_
  split
  · trivial
  · split
    · trivial
    · refine withStream_agree fun v => ?_
      have h1 : Core.Agree x p c (if keep = true then c else c.updStream s.cur.key fun t => t.moveTo n v.2.1 v.2.2) := by
        split
        · exact .refl ..
        · exact .updStream _ fun t => t.moveTo_regs ..
      simp only [CRes.Agree]
      generalize (if keep = true then c else c.updStream s.cur.key fun t => t.moveTo n v.2.1 v.2.2) = c1 at h1 ⊢
      have h2 := (h1.trans (c1.reserveQ_agree q (mkVec v.1.1 v.1.2.1))).trans
        (Core.result_agree _ hk 2 (c1.reserveQ q (mkVec v.1.1 v.1.2.1)).2 v.1.2.2)
      split
      · exact h2
      · exact h2.trans (Core.result_agree _ hk ..)

/-! ### Commands and bundles -/

/-- A check that charges a job leaves its tables and its budget. -/
def ChargesOnly (f : Core → Job → List Nat → Except Trap (Job × List Nat)) : Prop :=
  ∀ c b v r, f c b v = .ok r →
    r.1.itBase = b.itBase ∧ r.1.dtBase = b.dtBase ∧ r.1.tmap = b.tmap ∧ r.1.remain = b.remain

theorem runCmd_agree {s t : State} {h : Head} {i : Instr} {regs : List Nat}
    {f : Core → Job → List Nat → Except Trap (Job × List Nat)} (hf : ChargesOnly f)
    (ht : runCmd s h i regs f = .next t) : State.Agree x p s t s.cur.core := by
  refine runC_agree (fun c => ?_) ht
  dsimp only
  repeat' split
  · trivial
  · exact .refl ..
  · trivial
  · rename_i b1 kept hr
    obtain ⟨h1, h2, h3, h4⟩ := hf _ _ _ _ hr
    exact (Core.Agree.setJob _ ⟨h1, h2, h3, h4⟩).trans (.updStream _ fun _ => ⟨rfl, rfl, rfl, rfl⟩)

theorem runWe_agree {s t : State} {h : WHead} {body : State → Core → Stream → Res}
    (hb : ∀ s1 : State, (body s1 (s1.core s.cur.core) ((s1.core s.cur.core).stream s.cur.key)).Agree x p s1 s.cur.core)
    (ht : runWe s h body = .next t) : State.Agree x p s t s.cur.core := by
  refine runB_agree (fun c => ?_) ht
  dsimp only; split
  · trivial
  · exact hb _

end Sys2Proof.Machine
end

