-- ==== Sys2Proof/Laws/Memory.lean ====
section
/-!
SUPPORT. Sys2Proof/Laws/Memory.lean: reading after writing, and that every operation that writes a memory keeps its canonical
form.
-/

namespace Sys2Proof.Machine

/-! ### Reading after writing -/

/-- A byte after a write of bytes: the byte written there, or the byte that was there. -/
theorem rdByte_wrBytes (m : SMap Byte) (a : Nat) (bs : List Byte) (x : Nat) :
    rdByte (wrBytes m a bs) x = if a ≤ x ∧ x < a + bs.length then bs.getD (x - a) 0 else rdByte m x := mget_mputs ..

theorem rdByte_wrBytes_out (m : SMap Byte) (a : Nat) (bs : List Byte) {x : Nat} (h : ¬(a ≤ x ∧ x < a + bs.length)) :
    rdByte (wrBytes m a bs) x = rdByte m x := by simp [rdByte_wrBytes, h]

theorem toBytes_length (n w : Nat) : (toBytes n w).length = n := by
  induction n generalizing w with
  | zero => rfl
  | succ n ih => simp [toBytes, ih]

/-- What was written is read back. -/
theorem rdBytes_wrBytes (m : SMap Byte) (a : Nat) (bs : List Byte) : rdBytes (wrBytes m a bs) a bs.length = bs := by
  apply List.ext_getElem
  · simp [rdBytes]
  · intro i h1 h2
    simp only [rdBytes, List.getElem_map, List.getElem_range, rdByte_wrBytes]
    rw [if_pos ⟨Nat.le_add_right .., by omega⟩]
    simp [List.getD, h2]

/-- A byte after a masked write (R355). -/
theorem rdByte_wrMasked_out (m : SMap Byte) (a mask i : Nat) (bs : List Byte) (x : Nat)
    (h : ∀ j, i ≤ j → j < i + bs.length → bit mask j = true → x ≠ a + j) :
    rdByte (wrMasked m a mask i bs) x = rdByte m x := by
  induction bs generalizing m i with
  | nil => rfl
  | cons b bs ih =>
    rw [wrMasked, ih _ (i + 1) fun j h1 h2 h3 => h j (by omega) (by simp only [List.length_cons]; omega) h3]
    split
    · exact mget_mput_ne _ _ _ (h i (Nat.le_refl _) (by simp) ‹_›)
    · rfl

/-! ### The canonical form -/

theorem mabove_mkeep (b : Nat) (p : Nat → Bool) (m : SMap Byte) (h : mabove b m = true) : mabove b (mkeep p m) = true := by
  rw [mabove_of_mem] at *
  intro e he
  exact h e (List.mem_of_mem_filter he)

theorem mkeep_mwf (d : Byte) (p : Nat → Bool) (m : SMap Byte) (h : mwf d m = true) : mwf d (mkeep p m) = true := by
  induction m with
  | nil => rfl
  | cons e r ih =>
    obtain ⟨a, v⟩ := e
    simp only [mwf, Bool.and_eq_true] at h
    have hr : mkeep p ((a, v) :: r) = if p a then (a, v) :: mkeep p r else mkeep p r := by
      simp only [mkeep, List.filter_cons]
    rw [hr]
    split
    · simp only [mwf, Bool.and_eq_true]
      exact ⟨⟨h.1.1, mabove_mkeep a p r h.1.2⟩, ih h.2⟩
    · exact ih h.2

theorem wrBytes_wf {m : SMap Byte} (h : Memory.wf m = true) (a : Nat) (bs : List Byte) :
    Memory.wf (wrBytes m a bs) = true := mputs_mwf _ _ _ _ h

theorem wrLe_wf {m : SMap Byte} (h : Memory.wf m = true) (a n v : Nat) : Memory.wf (wrLe m a n v) = true :=
  wrBytes_wf h _ _

theorem wrMasked_wf {m : SMap Byte} (h : Memory.wf m = true) (a mask i : Nat) (bs : List Byte) :
    Memory.wf (wrMasked m a mask i bs) = true := by
  induction bs generalizing m i with
  | nil => exact h
  | cons b bs ih =>
    rw [wrMasked]
    apply ih
    split
    · exact mput_mwf _ _ _ _ h
    · exact h

theorem poke_wf {s : State} (h : Memory.wf s.mem = true) (pa : Nat) (bs : List Byte) : Memory.wf (s.poke pa bs).mem = true :=
  wrBytes_wf h _ _

theorem pokeVa_wf {s : State} (h : Memory.wf s.mem = true) (xl : Nat → Option Nat) (a : Nat) (bs : List Byte) :
    Memory.wf (s.pokeVa xl a bs).mem = true := mbulk_mwf _ _ _ h

theorem copyMem_wf {m : Memory} (h : Memory.wf m = true) (src : Option Nat) (dst n : Nat) :
    Memory.wf (copyMem m src dst n) = true := by
  cases src with
  | none => unfold copyMem; exact mkeep_mwf _ _ _ h
  | some a => unfold copyMem; exact mbulk_mwf _ _ _ (mkeep_mwf _ _ _ h)

/-- A memory written step by step stays in form when each step keeps the form. -/
theorem foldl_wf {β : Type} {f : Memory → β → Memory} (hf : ∀ m b, Memory.wf m = true → Memory.wf (f m b) = true)
    (l : List β) {m : Memory} (h : Memory.wf m = true) : Memory.wf (l.foldl f m) = true := by
  induction l generalizing m with
  | nil => exact h
  | cons b l ih => exact ih (hf m b h)

theorem reset_mem_wf : Memory.wf State.reset.mem = true ∧ Memory.wf State.reset.hostMem = true := ⟨rfl, rfl⟩

end Sys2Proof.Machine
end

