-- ==== Sys2Proof/Laws/PerInstr.lean ====
section
/-!
SUPPORT. Sys2Proof/Laws/PerInstr.lean: facts of the instruction set that are shown constructor by constructor.
-/

namespace Sys2Proof.Laws.WordLen

/-- Words of 64 bits, which carry a guard, are accepted by no weight-code engine, and what has no such head is a bundle of the
weight-code engine (R66, R73) or a machine event, which no engine accepts. -/
def Statement (i : Instr) : Prop := ∀ e, i.accepted e = true → (e = .we ↔ i.head = none)

theorem of_head {i : Instr} {h : Head} (hh : i.head = some h) (hw : i.accepted .we = true → False) : Statement i := by
  intro e ha
  constructor
  · intro he; subst he; exact (hw ha).elim
  · intro hn; rw [hh] at hn; cases hn

theorem of_no_head {i : Instr} (hh : i.head = none) (hw : ∀ e, i.accepted e = true → e = .we) : Statement i :=
  fun e ha => ⟨fun _ => hh, fun _ => hw e ha⟩

theorem nop (h : Head) : Statement (.nop h) := of_head rfl fun ha => by
  delta Instr.accepted at ha; dsimp only at ha; simp [Eng.scalar] at ha
theorem endS (h : Head) : Statement (.endS h) := of_head rfl fun ha => by
  delta Instr.accepted at ha; dsimp only at ha; simp [Eng.scalar] at ha
theorem rdzv (h : Head) (n : Nat) : Statement (.rdzv h n) := of_head rfl fun ha => by
  delta Instr.accepted at ha; dsimp only at ha; simp [Eng.scalar] at ha
theorem br (h : Head) (exit : Bool) (off : Int) : Statement (.br h exit off) := of_head rfl fun ha => by
  delta Instr.accepted at ha; dsimp only at ha; simp [Eng.scalar] at ha
theorem brc (h : Head) (z exit : Bool) (p : Nat) (off : Int) : Statement (.brc h z exit p off) := of_head rfl fun ha => by
  delta Instr.accepted at ha; dsimp only at ha; simp [Eng.scalar] at ha
theorem call (h : Head) (a : Nat) (off : Int) : Statement (.call h a off) := of_head rfl fun ha => by
  delta Instr.accepted at ha; dsimp only at ha; simp [Eng.scalar] at ha
theorem callg (h : Head) (d a : Nat) (imm : Int) : Statement (.callg h d a imm) := of_head rfl fun ha => by
  delta Instr.accepted at ha; dsimp only at ha; simp [Eng.scalar] at ha
theorem jr (h : Head) (a : Nat) : Statement (.jr h a) := of_head rfl fun ha => by
  delta Instr.accepted at ha; dsimp only at ha; simp [Eng.scalar] at ha
theorem loop (h : Head) (a off : Nat) : Statement (.loop h a off) := of_head rfl fun ha => by
  delta Instr.accepted at ha; dsimp only at ha; simp [Eng.scalar] at ha
theorem loopi (h : Head) (n off : Nat) : Statement (.loopi h n off) := of_head rfl fun ha => by
  delta Instr.accepted at ha; dsimp only at ha; simp [Eng.scalar] at ha
theorem looph (h : Head) (a off w : Nat) : Statement (.looph h a off w) := of_head rfl fun ha => by
  delta Instr.accepted at ha; dsimp only at ha; simp at ha
theorem trap (h : Head) (code : Nat) : Statement (.trap h code) := of_head rfl fun ha => by
  delta Instr.accepted at ha; dsimp only at ha; simp [Eng.scalar] at ha
theorem csrr (h : Head) (d : Opnd) (num : Nat) : Statement (.csrr h d num) := of_head rfl fun ha => by
  delta Instr.accepted at ha; dsimp only at ha; simp [Eng.scalar] at ha
theorem csrw (h : Head) (a : Opnd) (num : Nat) : Statement (.csrw h a num) := of_head rfl fun ha => by
  delta Instr.accepted at ha; dsimp only at ha; simp [Eng.scalar] at ha
theorem add (h : Head) (d a b : Opnd) : Statement (.add h d a b) := of_head rfl fun ha => by
  delta Instr.accepted at ha; dsimp only at ha; simp [Eng.scalar] at ha
theorem sub (h : Head) (d a b : Opnd) : Statement (.sub h d a b) := of_head rfl fun ha => by
  delta Instr.accepted at ha; dsimp only at ha; simp [Eng.scalar] at ha
theorem and (h : Head) (d a b : Opnd) : Statement (.and h d a b) := of_head rfl fun ha => by
  delta Instr.accepted at ha; dsimp only at ha; simp [Eng.scalar] at ha
theorem or (h : Head) (d a b : Opnd) : Statement (.or h d a b) := of_head rfl fun ha => by
  delta Instr.accepted at ha; dsimp only at ha; simp [Eng.scalar] at ha
theorem xor (h : Head) (d a b : Opnd) : Statement (.xor h d a b) := of_head rfl fun ha => by
  delta Instr.accepted at ha; dsimp only at ha; simp [Eng.scalar] at ha
theorem andn (h : Head) (d a b : Opnd) : Statement (.andn h d a b) := of_head rfl fun ha => by
  delta Instr.accepted at ha; dsimp only at ha; simp [Eng.scalar] at ha
theorem shl (h : Head) (d a b : Opnd) : Statement (.shl h d a b) := of_head rfl fun ha => by
  delta Instr.accepted at ha; dsimp only at ha; simp [Eng.scalar] at ha
theorem shr (h : Head) (d a b : Opnd) : Statement (.shr h d a b) := of_head rfl fun ha => by
  delta Instr.accepted at ha; dsimp only at ha; simp [Eng.scalar] at ha
theorem sra (h : Head) (d a b : Opnd) : Statement (.sra h d a b) := of_head rfl fun ha => by
  delta Instr.accepted at ha; dsimp only at ha; simp [Eng.scalar] at ha
theorem mul (h : Head) (d a b : Opnd) : Statement (.mul h d a b) := of_head rfl fun ha => by
  delta Instr.accepted at ha; dsimp only at ha; simp [Eng.scalar] at ha
theorem mulh (h : Head) (d a b : Opnd) : Statement (.mulh h d a b) := of_head rfl fun ha => by
  delta Instr.accepted at ha; dsimp only at ha; simp [Eng.scalar] at ha
theorem mulhu (h : Head) (d a b : Opnd) : Statement (.mulhu h d a b) := of_head rfl fun ha => by
  delta Instr.accepted at ha; dsimp only at ha; simp [Eng.scalar] at ha
theorem min (h : Head) (d a b : Opnd) : Statement (.min h d a b) := of_head rfl fun ha => by
  delta Instr.accepted at ha; dsimp only at ha; simp [Eng.scalar] at ha
theorem max (h : Head) (d a b : Opnd) : Statement (.max h d a b) := of_head rfl fun ha => by
  delta Instr.accepted at ha; dsimp only at ha; simp [Eng.scalar] at ha
theorem minu (h : Head) (d a b : Opnd) : Statement (.minu h d a b) := of_head rfl fun ha => by
  delta Instr.accepted at ha; dsimp only at ha; simp [Eng.scalar] at ha
theorem maxu (h : Head) (d a b : Opnd) : Statement (.maxu h d a b) := of_head rfl fun ha => by
  delta Instr.accepted at ha; dsimp only at ha; simp [Eng.scalar] at ha
theorem slt (h : Head) (d a b : Opnd) : Statement (.slt h d a b) := of_head rfl fun ha => by
  delta Instr.accepted at ha; dsimp only at ha; simp [Eng.scalar] at ha
theorem sltu (h : Head) (d a b : Opnd) : Statement (.sltu h d a b) := of_head rfl fun ha => by
  delta Instr.accepted at ha; dsimp only at ha; simp [Eng.scalar] at ha
theorem clz (h : Head) (d a : Opnd) : Statement (.clz h d a) := of_head rfl fun ha => by
  delta Instr.accepted at ha; dsimp only at ha; simp [Eng.scalar] at ha
theorem popc (h : Head) (d a : Opnd) : Statement (.popc h d a) := of_head rfl fun ha => by
  delta Instr.accepted at ha; dsimp only at ha; simp [Eng.scalar] at ha
theorem sel (h : Head) (d a b : Opnd) (p : Nat) : Statement (.sel h d a b p) := of_head rfl fun ha => by
  delta Instr.accepted at ha; dsimp only at ha; simp [Eng.scalar] at ha
theorem addi (h : Head) (d a : Opnd) (imm : Int) : Statement (.addi h d a imm) := of_head rfl fun ha => by
  delta Instr.accepted at ha; dsimp only at ha; simp [Eng.scalar] at ha
theorem andi (h : Head) (d a : Opnd) (imm : Int) : Statement (.andi h d a imm) := of_head rfl fun ha => by
  delta Instr.accepted at ha; dsimp only at ha; simp [Eng.scalar] at ha
theorem ori (h : Head) (d a : Opnd) (imm : Int) : Statement (.ori h d a imm) := of_head rfl fun ha => by
  delta Instr.accepted at ha; dsimp only at ha; simp [Eng.scalar] at ha
theorem xori (h : Head) (d a : Opnd) (imm : Int) : Statement (.xori h d a imm) := of_head rfl fun ha => by
  delta Instr.accepted at ha; dsimp only at ha; simp [Eng.scalar] at ha
theorem shli (h : Head) (d a : Opnd) (sh : Nat) : Statement (.shli h d a sh) := of_head rfl fun ha => by
  delta Instr.accepted at ha; dsimp only at ha; simp [Eng.scalar] at ha
theorem shri (h : Head) (d a : Opnd) (sh : Nat) : Statement (.shri h d a sh) := of_head rfl fun ha => by
  delta Instr.accepted at ha; dsimp only at ha; simp [Eng.scalar] at ha
theorem srai (h : Head) (d a : Opnd) (sh : Nat) : Statement (.srai h d a sh) := of_head rfl fun ha => by
  delta Instr.accepted at ha; dsimp only at ha; simp [Eng.scalar] at ha
theorem slti (h : Head) (d a : Opnd) (imm : Int) : Statement (.slti h d a imm) := of_head rfl fun ha => by
  delta Instr.accepted at ha; dsimp only at ha; simp [Eng.scalar] at ha
theorem sltiu (h : Head) (d a : Opnd) (imm : Int) : Statement (.sltiu h d a imm) := of_head rfl fun ha => by
  delta Instr.accepted at ha; dsimp only at ha; simp [Eng.scalar] at ha
theorem lih (h : Head) (d : Opnd) (imm : Int) : Statement (.lih h d imm) := of_head rfl fun ha => by
  delta Instr.accepted at ha; dsimp only at ha; simp [Eng.scalar] at ha
theorem cmp (h : Head) (c : Cond) (p : Nat) (a b : Opnd) : Statement (.cmp h c p a b) := of_head rfl fun ha => by
  delta Instr.accepted at ha; dsimp only at ha; simp [Eng.scalar] at ha
theorem cmpi (h : Head) (c : Cond) (p : Nat) (a : Opnd) (imm : Int) : Statement (.cmpi h c p a imm) := of_head rfl fun ha => by
  delta Instr.accepted at ha; dsimp only at ha; simp [Eng.scalar] at ha
theorem pand (h : Head) (d a b : Nat) : Statement (.pand h d a b) := of_head rfl fun ha => by
  delta Instr.accepted at ha; dsimp only at ha; simp [Eng.scalar] at ha
theorem por (h : Head) (d a b : Nat) : Statement (.por h d a b) := of_head rfl fun ha => by
  delta Instr.accepted at ha; dsimp only at ha; simp [Eng.scalar] at ha
theorem pxor (h : Head) (d a b : Nat) : Statement (.pxor h d a b) := of_head rfl fun ha => by
  delta Instr.accepted at ha; dsimp only at ha; simp [Eng.scalar] at ha
theorem pandn (h : Head) (d a b : Nat) : Statement (.pandn h d a b) := of_head rfl fun ha => by
  delta Instr.accepted at ha; dsimp only at ha; simp [Eng.scalar] at ha
theorem pmov (h : Head) (d a : Nat) : Statement (.pmov h d a) := of_head rfl fun ha => by
  delta Instr.accepted at ha; dsimp only at ha; simp [Eng.scalar] at ha
theorem pseti (h : Head) (d : Nat) (v : Bool) : Statement (.pseti h d v) := of_head rfl fun ha => by
  delta Instr.accepted at ha; dsimp only at ha; simp [Eng.scalar] at ha
theorem ld (h : Head) (d a : Opnd) (imm : Int) (size : Nat) (zext : Bool) : Statement (.ld h d a imm size zext) := of_head rfl fun ha => by
  delta Instr.accepted at ha; dsimp only at ha; simp at ha
theorem st (h : Head) (d : Nat) (a : Opnd) (imm : Int) (size : Nat) : Statement (.st h d a imm size) := of_head rfl fun ha => by
  delta Instr.accepted at ha; dsimp only at ha; simp at ha
theorem ldg (h : Head) (d a : Nat) (imm : Int) (size : Nat) (zext : Bool) : Statement (.ldg h d a imm size zext) := of_head rfl fun ha => by
  delta Instr.accepted at ha; dsimp only at ha; simp at ha
theorem stg (h : Head) (d a : Nat) (imm : Int) (size : Nat) : Statement (.stg h d a imm size) := of_head rfl fun ha => by
  delta Instr.accepted at ha; dsimp only at ha; simp at ha
theorem blkh (h : Head) (s : HeadSpec) : Statement (.blkh h s) := of_head rfl fun ha => by
  delta Instr.accepted at ha; dsimp only at ha; simp [Eng.scalar] at ha
theorem ssig (h : Head) (sem amount : Nat) (s : Sync) : Statement (.ssig h sem amount s) := of_head rfl fun ha => by
  delta Instr.accepted at ha; dsimp only at ha; simp at ha
theorem sset (h : Head) (sem a : Nat) : Statement (.sset h sem a) := of_head rfl fun ha => by
  delta Instr.accepted at ha; dsimp only at ha; simp at ha
theorem sget (h : Head) (d sem : Nat) : Statement (.sget h d sem) := of_head rfl fun ha => by
  delta Instr.accepted at ha; dsimp only at ha; simp at ha
theorem mark (h : Head) (j mask : Nat) : Statement (.mark h j mask) := of_head rfl fun ha => by
  delta Instr.accepted at ha; dsimp only at ha; simp at ha
theorem mjoin (h : Head) (j : Nat) : Statement (.mjoin h j) := of_head rfl fun ha => by
  delta Instr.accepted at ha; dsimp only at ha; simp at ha
theorem mpost (h : Head) (d a ch : Nat) : Statement (.mpost h d a ch) := of_head rfl fun ha => by
  delta Instr.accepted at ha; dsimp only at ha; simp at ha
theorem gjoin (h : Head) (ch : Nat) : Statement (.gjoin h ch) := of_head rfl fun ha => by
  delta Instr.accepted at ha; dsimp only at ha; simp at ha
theorem gleave (h : Head) (ch : Nat) : Statement (.gleave h ch) := of_head rfl fun ha => by
  delta Instr.accepted at ha; dsimp only at ha; simp at ha
theorem garv (h : Head) (d ch : Nat) (s : Sync) : Statement (.garv h d ch s) := of_head rfl fun ha => by
  delta Instr.accepted at ha; dsimp only at ha; simp at ha
theorem gbar (h : Head) (d ch : Nat) (s : Sync) : Statement (.gbar h d ch s) := of_head rfl fun ha => by
  delta Instr.accepted at ha; dsimp only at ha; simp at ha
theorem ckpt (h : Head) (a n : Nat) : Statement (.ckpt h a n) := of_head rfl fun ha => by
  delta Instr.accepted at ha; dsimp only at ha; simp at ha
theorem planeQuery (h : Head) (d a : Nat) : Statement (.planeQuery h d a) := of_head rfl fun ha => by
  delta Instr.accepted at ha; dsimp only at ha; simp at ha
theorem planeStage (h : Head) (d a : Nat) : Statement (.planeStage h d a) := of_head rfl fun ha => by
  delta Instr.accepted at ha; dsimp only at ha; simp at ha
theorem planeDrop (h : Head) (d a : Nat) : Statement (.planeDrop h d a) := of_head rfl fun ha => by
  delta Instr.accepted at ha; dsimp only at ha; simp at ha
theorem rft (h : Head) (skip : Bool) : Statement (.rft h skip) := of_head rfl fun ha => by
  delta Instr.accepted at ha; dsimp only at ha; simp at ha
theorem resume (h : Head) (a : Nat) : Statement (.resume h a) := of_head rfl fun ha => by
  delta Instr.accepted at ha; dsimp only at ha; simp at ha
theorem ctxsv (h : Head) (a b : Nat) : Statement (.ctxsv h a b) := of_head rfl fun ha => by
  delta Instr.accepted at ha; dsimp only at ha; simp at ha
theorem ctxld (h : Head) (d a b : Nat) : Statement (.ctxld h d a b) := of_head rfl fun ha => by
  delta Instr.accepted at ha; dsimp only at ha; simp at ha
theorem tlbiDataAll (h : Head) (a : Nat) (die : Bool) : Statement (.tlbiDataAll h a die) := of_head rfl fun ha => by
  delta Instr.accepted at ha; dsimp only at ha; simp at ha
theorem tlbiDataPage (h : Head) (a : Nat) (die : Bool) : Statement (.tlbiDataPage h a die) := of_head rfl fun ha => by
  delta Instr.accepted at ha; dsimp only at ha; simp at ha
theorem tlbiInstrAll (h : Head) (a : Nat) (die : Bool) : Statement (.tlbiInstrAll h a die) := of_head rfl fun ha => by
  delta Instr.accepted at ha; dsimp only at ha; simp at ha
theorem tlbiInstrPage (h : Head) (a : Nat) (die : Bool) : Statement (.tlbiInstrPage h a die) := of_head rfl fun ha => by
  delta Instr.accepted at ha; dsimp only at ha; simp at ha
theorem keyopLoad (h : Head) (d a b : Nat) : Statement (.keyopLoad h d a b) := of_head rfl fun ha => by
  delta Instr.accepted at ha; dsimp only at ha; simp at ha
theorem keyopDestroy (h : Head) (d a b : Nat) : Statement (.keyopDestroy h d a b) := of_head rfl fun ha => by
  delta Instr.accepted at ha; dsimp only at ha; simp at ha
theorem keyopQuery (h : Head) (d a b : Nat) : Statement (.keyopQuery h d a b) := of_head rfl fun ha => by
  delta Instr.accepted at ha; dsimp only at ha; simp at ha
theorem capw (h : Head) (ch : Nat) (staged : Bool) (a b : Nat) : Statement (.capw h ch staged a b) := of_head rfl fun ha => by
  delta Instr.accepted at ha; dsimp only at ha; simp at ha
theorem tnset (h : Head) (staged : Bool) (a b : Nat) : Statement (.tnset h staged a b) := of_head rfl fun ha => by
  delta Instr.accepted at ha; dsimp only at ha; simp at ha
theorem sdef (h : Head) (d a : Nat) (imm : Int) : Statement (.sdef h d a imm) := of_head rfl fun ha => by
  delta Instr.accepted at ha; dsimp only at ha; simp at ha
theorem slvl (h : Head) (d a : Nat) (imm : Int) : Statement (.slvl h d a imm) := of_head rfl fun ha => by
  delta Instr.accepted at ha; dsimp only at ha; simp at ha
theorem sfib (h : Head) (a : StOpnd) (b lvl : Nat) : Statement (.sfib h a b lvl) := of_head rfl fun ha => by
  delta Instr.accepted at ha; dsimp only at ha; simp at ha
theorem sint (h : Head) (d a b : Nat) : Statement (.sint h d a b) := of_head rfl fun ha => by
  delta Instr.accepted at ha; dsimp only at ha; simp at ha
theorem suni (h : Head) (d a b : Nat) : Statement (.suni h d a b) := of_head rfl fun ha => by
  delta Instr.accepted at ha; dsimp only at ha; simp at ha
theorem sskip (h : Head) (a : StOpnd) (b : Nat) : Statement (.sskip h a b) := of_head rfl fun ha => by
  delta Instr.accepted at ha; dsimp only at ha; simp at ha
theorem spos (h : Head) (d : Nat) (a : StOpnd) (side : Bool) : Statement (.spos h d a side) := of_head rfl fun ha => by
  delta Instr.accepted at ha; dsimp only at ha; simp at ha
theorem scrd (h : Head) (d : Nat) (a : StOpnd) (dim : Nat) : Statement (.scrd h d a dim) := of_head rfl fun ha => by
  delta Instr.accepted at ha; dsimp only at ha; simp at ha
theorem ldq (h : Head) (q : Nat) (a : StOpnd) (b : Nat) (p : Option Nat) (wid keep side : Bool) : Statement (.ldq h q a b p wid keep side) := of_head rfl fun ha => by
  delta Instr.accepted at ha; dsimp only at ha; simp at ha
theorem ldqc (h : Head) (q : Nat) (a : StOpnd) (b : Nat) (p : Option Nat) (keep : Bool) : Statement (.ldqc h q a b p keep) := of_head rfl fun ha => by
  delta Instr.accepted at ha; dsimp only at ha; simp at ha
theorem ldqa (h : Head) (q : Nat) (a : StOpnd) (b : Nat) (p : Option Nat) (keep side : Bool) : Statement (.ldqa h q a b p keep side) := of_head rfl fun ha => by
  delta Instr.accepted at ha; dsimp only at ha; simp at ha
theorem stq (h : Head) (d : StOpnd) (q : Nat) (peek : Bool) (b : Nat) (nar sat : Bool) : Statement (.stq h d q peek b nar sat) := of_head rfl fun ha => by
  delta Instr.accepted at ha; dsimp only at ha; simp at ha
theorem lls (h : Head) (a b c : Nat) : Statement (.lls h a b c) := of_head rfl fun ha => by
  delta Instr.accepted at ha; dsimp only at ha; simp at ha
theorem mrgb (h : Head) (q q2 : Nat) (int : Bool) : Statement (.mrgb h q q2 int) := of_head rfl fun ha => by
  delta Instr.accepted at ha; dsimp only at ha; simp at ha
theorem mrgi (h : Head) (a : StOpnd) (b : Nat) : Statement (.mrgi h a b) := of_head rfl fun ha => by
  delta Instr.accepted at ha; dsimp only at ha; simp at ha
theorem mrge (h : Head) (b : Nat) (p : Option Nat) : Statement (.mrge h b p) := of_head rfl fun ha => by
  delta Instr.accepted at ha; dsimp only at ha; simp at ha
theorem bfxp (h : Head) (q a b bp : Nat) : Statement (.bfxp h q a b bp) := of_head rfl fun ha => by
  delta Instr.accepted at ha; dsimp only at ha; simp at ha
theorem bfxpSet (h : Head) (a bp : Nat) : Statement (.bfxpSet h a bp) := of_head rfl fun ha => by
  delta Instr.accepted at ha; dsimp only at ha; simp at ha
theorem loopt (h : Head) (a : StOpnd) (off k : Nat) : Statement (.loopt h a off k) := of_head rfl fun ha => by
  delta Instr.accepted at ha; dsimp only at ha; simp at ha
theorem prf (h : Head) (a : StOpnd) (b : Nat) : Statement (.prf h a b) := of_head rfl fun ha => by
  delta Instr.accepted at ha; dsimp only at ha; simp at ha
theorem srel (h : Head) (a : StOpnd) : Statement (.srel h a) := of_head rfl fun ha => by
  delta Instr.accepted at ha; dsimp only at ha; simp at ha
theorem vfadd (h : Head) (d : VDst) (a b : VSrc) (rm : Option Rm) (f : VFmt) : Statement (.vfadd h d a b rm f) := of_head rfl fun ha => by
  delta Instr.accepted at ha; dsimp only at ha; simp at ha
theorem vfsub (h : Head) (d : VDst) (a b : VSrc) (rm : Option Rm) (f : VFmt) : Statement (.vfsub h d a b rm f) := of_head rfl fun ha => by
  delta Instr.accepted at ha; dsimp only at ha; simp at ha
theorem vfmul (h : Head) (d : VDst) (a b : VSrc) (rm : Option Rm) (f : VFmt) : Statement (.vfmul h d a b rm f) := of_head rfl fun ha => by
  delta Instr.accepted at ha; dsimp only at ha; simp at ha
theorem vfma (h : Head) (d : VDst) (a b c : VSrc) (f : VFmt) : Statement (.vfma h d a b c f) := of_head rfl fun ha => by
  delta Instr.accepted at ha; dsimp only at ha; simp at ha
theorem vfms (h : Head) (d : VDst) (a b c : VSrc) (f : VFmt) : Statement (.vfms h d a b c f) := of_head rfl fun ha => by
  delta Instr.accepted at ha; dsimp only at ha; simp at ha
theorem vfnma (h : Head) (d : VDst) (a b c : VSrc) (f : VFmt) : Statement (.vfnma h d a b c f) := of_head rfl fun ha => by
  delta Instr.accepted at ha; dsimp only at ha; simp at ha
theorem vfmin (h : Head) (d : VDst) (a b : VSrc) (f : VFmt) : Statement (.vfmin h d a b f) := of_head rfl fun ha => by
  delta Instr.accepted at ha; dsimp only at ha; simp at ha
theorem vfmax (h : Head) (d : VDst) (a b : VSrc) (f : VFmt) : Statement (.vfmax h d a b f) := of_head rfl fun ha => by
  delta Instr.accepted at ha; dsimp only at ha; simp at ha
theorem vfcmp (h : Head) (d : CmpDst) (c : VCond) (a b : VSrc) (f : VFmt) : Statement (.vfcmp h d c a b f) := of_head rfl fun ha => by
  delta Instr.accepted at ha; dsimp only at ha; simp at ha
theorem vlog2 (h : Head) (d : VDst) (a : VSrc) (f : VFmt) : Statement (.vlog2 h d a f) := of_head rfl fun ha => by
  delta Instr.accepted at ha; dsimp only at ha; simp at ha
theorem vexp2 (h : Head) (d : VDst) (a : VSrc) (f : VFmt) : Statement (.vexp2 h d a f) := of_head rfl fun ha => by
  delta Instr.accepted at ha; dsimp only at ha; simp at ha
theorem vrcp (h : Head) (d : VDst) (a : VSrc) (f : VFmt) : Statement (.vrcp h d a f) := of_head rfl fun ha => by
  delta Instr.accepted at ha; dsimp only at ha; simp at ha
theorem vrsq (h : Head) (d : VDst) (a : VSrc) (f : VFmt) : Statement (.vrsq h d a f) := of_head rfl fun ha => by
  delta Instr.accepted at ha; dsimp only at ha; simp at ha
theorem vcvt (h : Head) (d : VDst) (a : VSrc) (src : Fmt) (toInt : Bool) (rm : Option Rm) (f : VFmt) : Statement (.vcvt h d a src toInt rm f) := of_head rfl fun ha => by
  delta Instr.accepted at ha; dsimp only at ha; simp at ha
theorem vscl (h : Head) (d : VDst) (a b : VSrc) (rm : Option Rm) (f : VFmt) : Statement (.vscl h d a b rm f) := of_head rfl fun ha => by
  delta Instr.accepted at ha; dsimp only at ha; simp at ha
theorem vpks (h : Head) (d : VDst) (a : VSrc) (rm : Option Rm) (f : VFmt) : Statement (.vpks h d a rm f) := of_head rfl fun ha => by
  delta Instr.accepted at ha; dsimp only at ha; simp at ha
theorem vadd (h : Head) (d : VDst) (a b : VSrc) (f : VFmt) : Statement (.vadd h d a b f) := of_head rfl fun ha => by
  delta Instr.accepted at ha; dsimp only at ha; simp at ha
theorem vsub (h : Head) (d : VDst) (a b : VSrc) (f : VFmt) : Statement (.vsub h d a b f) := of_head rfl fun ha => by
  delta Instr.accepted at ha; dsimp only at ha; simp at ha
theorem vmul (h : Head) (d : VDst) (a b : VSrc) (f : VFmt) : Statement (.vmul h d a b f) := of_head rfl fun ha => by
  delta Instr.accepted at ha; dsimp only at ha; simp at ha
theorem vmulh (h : Head) (d : VDst) (a b : VSrc) (f : VFmt) : Statement (.vmulh h d a b f) := of_head rfl fun ha => by
  delta Instr.accepted at ha; dsimp only at ha; simp at ha
theorem vmad (h : Head) (d : VDst) (a b c : VSrc) (f : VFmt) : Statement (.vmad h d a b c f) := of_head rfl fun ha => by
  delta Instr.accepted at ha; dsimp only at ha; simp at ha
theorem vand (h : Head) (d : VDst) (a b : VSrc) (f : VFmt) : Statement (.vand h d a b f) := of_head rfl fun ha => by
  delta Instr.accepted at ha; dsimp only at ha; simp at ha
theorem vor (h : Head) (d : VDst) (a b : VSrc) (f : VFmt) : Statement (.vor h d a b f) := of_head rfl fun ha => by
  delta Instr.accepted at ha; dsimp only at ha; simp at ha
theorem vxor (h : Head) (d : VDst) (a b : VSrc) (f : VFmt) : Statement (.vxor h d a b f) := of_head rfl fun ha => by
  delta Instr.accepted at ha; dsimp only at ha; simp at ha
theorem vshl (h : Head) (d : VDst) (a b : VSrc) (f : VFmt) : Statement (.vshl h d a b f) := of_head rfl fun ha => by
  delta Instr.accepted at ha; dsimp only at ha; simp at ha
theorem vshr (h : Head) (d : VDst) (a b : VSrc) (f : VFmt) : Statement (.vshr h d a b f) := of_head rfl fun ha => by
  delta Instr.accepted at ha; dsimp only at ha; simp at ha
theorem vsra (h : Head) (d : VDst) (a b : VSrc) (f : VFmt) : Statement (.vsra h d a b f) := of_head rfl fun ha => by
  delta Instr.accepted at ha; dsimp only at ha; simp at ha
theorem vmin (h : Head) (d : VDst) (a b : VSrc) (f : VFmt) : Statement (.vmin h d a b f) := of_head rfl fun ha => by
  delta Instr.accepted at ha; dsimp only at ha; simp at ha
theorem vmax (h : Head) (d : VDst) (a b : VSrc) (f : VFmt) : Statement (.vmax h d a b f) := of_head rfl fun ha => by
  delta Instr.accepted at ha; dsimp only at ha; simp at ha
theorem vadds (h : Head) (d : VDst) (a b : VSrc) (f : VFmt) : Statement (.vadds h d a b f) := of_head rfl fun ha => by
  delta Instr.accepted at ha; dsimp only at ha; simp at ha
theorem vsubs (h : Head) (d : VDst) (a b : VSrc) (f : VFmt) : Statement (.vsubs h d a b f) := of_head rfl fun ha => by
  delta Instr.accepted at ha; dsimp only at ha; simp at ha
theorem vcmp (h : Head) (d : CmpDst) (c : VCond) (a b : VSrc) (f : VFmt) : Statement (.vcmp h d c a b f) := of_head rfl fun ha => by
  delta Instr.accepted at ha; dsimp only at ha; simp at ha
theorem vsel (h : Head) (d : VDst) (a b c : VSrc) (f : VFmt) : Statement (.vsel h d a b c f) := of_head rfl fun ha => by
  delta Instr.accepted at ha; dsimp only at ha; simp at ha
theorem vmov (h : Head) (d : VDst) (a : VSrc) (f : VFmt) : Statement (.vmov h d a f) := of_head rfl fun ha => by
  delta Instr.accepted at ha; dsimp only at ha; simp at ha
theorem vli (h : Head) (d : VDst) (imm esz : Nat) : Statement (.vli h d imm esz) := of_head rfl fun ha => by
  delta Instr.accepted at ha; dsimp only at ha; simp at ha
theorem vbcst (h : Head) (d : VDst) (a : VSrc) (k : Nat) (f : VFmt) : Statement (.vbcst h d a k f) := of_head rfl fun ha => by
  delta Instr.accepted at ha; dsimp only at ha; simp at ha
theorem vbcstX (h : Head) (d : VDst) (a : Nat) (f : VFmt) : Statement (.vbcstX h d a f) := of_head rfl fun ha => by
  delta Instr.accepted at ha; dsimp only at ha; simp at ha
theorem vperm (h : Head) (d : VDst) (a b : VSrc) (f : VFmt) : Statement (.vperm h d a b f) := of_head rfl fun ha => by
  delta Instr.accepted at ha; dsimp only at ha; simp at ha
theorem vrot (h : Head) (d : VDst) (a : VSrc) (k : Nat) (f : VFmt) : Statement (.vrot h d a k f) := of_head rfl fun ha => by
  delta Instr.accepted at ha; dsimp only at ha; simp at ha
theorem vlane (h : Head) (d : VDst) (a : Nat) (f : VFmt) : Statement (.vlane h d a f) := of_head rfl fun ha => by
  delta Instr.accepted at ha; dsimp only at ha; simp at ha
theorem vhash (h : Head) (d : VDst) (a b : VSrc) (f : VFmt) : Statement (.vhash h d a b f) := of_head rfl fun ha => by
  delta Instr.accepted at ha; dsimp only at ha; simp at ha
theorem vradd (h : Head) (d : VDst) (a : VSrc) (f : VFmt) : Statement (.vradd h d a f) := of_head rfl fun ha => by
  delta Instr.accepted at ha; dsimp only at ha; simp at ha
theorem vrmax (h : Head) (d : VDst) (a : VSrc) (min flt : Bool) (f : VFmt) : Statement (.vrmax h d a min flt f) := of_head rfl fun ha => by
  delta Instr.accepted at ha; dsimp only at ha; simp at ha
theorem vrmaxi (h : Head) (d : VDst) (a b : VSrc) (p : Option Nat) (f : VFmt) : Statement (.vrmaxi h d a b p f) := of_head rfl fun ha => by
  delta Instr.accepted at ha; dsimp only at ha; simp at ha
theorem vrmini (h : Head) (d : VDst) (a b : VSrc) (p : Option Nat) (f : VFmt) : Statement (.vrmini h d a b p f) := of_head rfl fun ha => by
  delta Instr.accepted at ha; dsimp only at ha; simp at ha
theorem vrfadd (h : Head) (d : VDst) (a : VSrc) (rm : Option Rm) (f : VFmt) : Statement (.vrfadd h d a rm f) := of_head rfl fun ha => by
  delta Instr.accepted at ha; dsimp only at ha; simp at ha
theorem vext (h : Head) (d : Nat) (a : VSrc) (k e : Nat) (f : VFmt) : Statement (.vext h d a k e f) := of_head rfl fun ha => by
  delta Instr.accepted at ha; dsimp only at ha; simp at ha
theorem vacrF32 (h : Head) (d : VDst) (a : Nat) (l : Int) : Statement (.vacrF32 h d a l) := of_head rfl fun ha => by
  delta Instr.accepted at ha; dsimp only at ha; simp at ha
theorem vacrRaw (h : Head) (d : VDst) (a : Nat) (l : Int) : Statement (.vacrRaw h d a l) := of_head rfl fun ha => by
  delta Instr.accepted at ha; dsimp only at ha; simp at ha
theorem vacwF32 (h : Head) (d : Nat) (a : VSrc) (l : Int) : Statement (.vacwF32 h d a l) := of_head rfl fun ha => by
  delta Instr.accepted at ha; dsimp only at ha; simp at ha
theorem vacwAdd (h : Head) (d : Nat) (a : VSrc) (l : Int) : Statement (.vacwAdd h d a l) := of_head rfl fun ha => by
  delta Instr.accepted at ha; dsimp only at ha; simp at ha
theorem vacwRaw (h : Head) (d : Nat) (a : VSrc) (l : Int) : Statement (.vacwRaw h d a l) := of_head rfl fun ha => by
  delta Instr.accepted at ha; dsimp only at ha; simp at ha
theorem loopq (h : Head) (q : Nat) (peek : Bool) (off k : Nat) : Statement (.loopq h q peek off k) := of_head rfl fun ha => by
  delta Instr.accepted at ha; dsimp only at ha; simp at ha
theorem vqlen (h : Head) (p q n : Nat) : Statement (.vqlen h p q n) := of_head rfl fun ha => by
  delta Instr.accepted at ha; dsimp only at ha; simp at ha
theorem vqlenZero (h : Head) (p q : Nat) : Statement (.vqlenZero h p q) := of_head rfl fun ha => by
  delta Instr.accepted at ha; dsimp only at ha; simp at ha
theorem wnop (h : WHead) : Statement (.wnop h) := of_no_head rfl fun e ha => by
  delta Instr.accepted at ha; dsimp only at ha; simp at ha; tauto
theorem wt (h : WHead) (mode : WMode) (sh : Nat) (s : WSlots) : Statement (.wt h mode sh s) := of_no_head rfl fun e ha => by
  delta Instr.accepted at ha; dsimp only at ha; simp at ha; tauto
theorem wg (h : WHead) (mode : WMode) (code sh : Nat) (s : WSlots) : Statement (.wg h mode code sh s) := of_no_head rfl fun e ha => by
  delta Instr.accepted at ha; dsimp only at ha; simp at ha; tauto
theorem wf (h : WHead) (acc : Bool) (k : Nat) (s : WSlots) : Statement (.wf h acc k s) := of_no_head rfl fun e ha => by
  delta Instr.accepted at ha; dsimp only at ha; simp at ha; tauto
theorem wtf (h : WHead) (mode : WMode) (sh : Nat) (s : WSlots) : Statement (.wtf h mode sh s) := of_no_head rfl fun e ha => by
  delta Instr.accepted at ha; dsimp only at ha; simp at ha; tauto
theorem wrow (h : WHead) (f : WFlush) (o : Bool) (en : Int) : Statement (.wrow h f o en) := of_no_head rfl fun e ha => by
  delta Instr.accepted at ha; dsimp only at ha; simp at ha; tauto
theorem wsegFull (h : WHead) (accbase accrows : Nat) (lacc : Int) (e4m3 : Bool) (frm : Rm) : Statement (.wsegFull h accbase accrows lacc e4m3 frm) := of_no_head rfl fun e ha => by
  delta Instr.accepted at ha; dsimp only at ha; simp at ha; tauto
theorem wsegKeep (h : WHead) : Statement (.wsegKeep h) := of_no_head rfl fun e ha => by
  delta Instr.accepted at ha; dsimp only at ha; simp at ha; tauto
theorem whook (h : WHead) (n : Nat) : Statement (.whook h n) := of_no_head rfl fun e ha => by
  delta Instr.accepted at ha; dsimp only at ha; simp at ha; tauto
theorem wret (h : WHead) : Statement (.wret h) := of_no_head rfl fun e ha => by
  delta Instr.accepted at ha; dsimp only at ha; simp at ha; tauto
theorem wjmp (h : WHead) (off : Int) : Statement (.wjmp h off) := of_no_head rfl fun e ha => by
  delta Instr.accepted at ha; dsimp only at ha; simp at ha; tauto
theorem wjmpLink (h : WHead) (off : Int) : Statement (.wjmpLink h off) := of_no_head rfl fun e ha => by
  delta Instr.accepted at ha; dsimp only at ha; simp at ha; tauto
theorem wjmpRet (h : WHead) : Statement (.wjmpRet h) := of_no_head rfl fun e ha => by
  delta Instr.accepted at ha; dsimp only at ha; simp at ha; tauto
theorem wend (h : WHead) : Statement (.wend h) := of_no_head rfl fun e ha => by
  delta Instr.accepted at ha; dsimp only at ha; simp at ha; tauto
theorem wwait (h : WHead) (sem scnt tcnt : Nat) (s : Option Sync) : Statement (.wwait h sem scnt tcnt s) := of_no_head rfl fun e ha => by
  delta Instr.accepted at ha; dsimp only at ha; simp at ha; tauto
theorem wlink (h : WHead) (n : Nat) : Statement (.wlink h n) := of_no_head rfl fun e ha => by
  delta Instr.accepted at ha; dsimp only at ha; simp at ha; tauto
theorem wrdzv (h : WHead) (n : Nat) : Statement (.wrdzv h n) := of_no_head rfl fun e ha => by
  delta Instr.accepted at ha; dsimp only at ha; simp at ha; tauto
theorem mtw (h : Head) (a b : Nat) : Statement (.mtw h a b) := of_head rfl fun ha => by
  delta Instr.accepted at ha; dsimp only at ha; simp at ha
theorem mtws (h : Head) (k : KCtl) (d b : Nat) : Statement (.mtws h k d b) := of_head rfl fun ha => by
  delta Instr.accepted at ha; dsimp only at ha; simp at ha
theorem mgo (h : Head) (k : KCtl) (halt : Bool) : Statement (.mgo h k halt) := of_head rfl fun ha => by
  delta Instr.accepted at ha; dsimp only at ha; simp at ha
theorem mdrn (h : Head) (k : KCtl) (d b : Nat) : Statement (.mdrn h k d b) := of_head rfl fun ha => by
  delta Instr.accepted at ha; dsimp only at ha; simp at ha
theorem mbyp (h : Head) (k : KCtl) (b : Nat) : Statement (.mbyp h k b) := of_head rfl fun ha => by
  delta Instr.accepted at ha; dsimp only at ha; simp at ha
theorem mrqt (h : Head) (k : KCtl) (d b : Nat) : Statement (.mrqt h k d b) := of_head rfl fun ha => by
  delta Instr.accepted at ha; dsimp only at ha; simp at ha
theorem mzero (h : Head) (k : KCtl) (b : Nat) : Statement (.mzero h k b) := of_head rfl fun ha => by
  delta Instr.accepted at ha; dsimp only at ha; simp at ha
theorem midx (h : Head) (k : KCtl) (d b : Nat) : Statement (.midx h k d b) := of_head rfl fun ha => by
  delta Instr.accepted at ha; dsimp only at ha; simp at ha
theorem mnms (h : Head) (k : KCtl) (d b : Nat) : Statement (.mnms h k d b) := of_head rfl fun ha => by
  delta Instr.accepted at ha; dsimp only at ha; simp at ha
theorem mrpr (h : Head) (k : KCtl) (b : Nat) (fault : Bool) : Statement (.mrpr h k b fault) := of_head rfl fun ha => by
  delta Instr.accepted at ha; dsimp only at ha; simp at ha
theorem mrst (h : Head) (k : KCtl) (b : Nat) (halt : Bool) : Statement (.mrst h k b halt) := of_head rfl fun ha => by
  delta Instr.accepted at ha; dsimp only at ha; simp at ha
theorem xcp (h : Head) (k : KCtl) (a b : Nat) : Statement (.xcp h k a b) := of_head rfl fun ha => by
  delta Instr.accepted at ha; dsimp only at ha; simp at ha
theorem xcpg (h : Head) (k : KCtl) (a b : Nat) : Statement (.xcpg h k a b) := of_head rfl fun ha => by
  delta Instr.accepted at ha; dsimp only at ha; simp at ha
theorem xred (h : Head) (k : KCtl) (a b : Nat) : Statement (.xred h k a b) := of_head rfl fun ha => by
  delta Instr.accepted at ha; dsimp only at ha; simp at ha
theorem xexp (h : Head) (k : KCtl) (a b : Nat) : Statement (.xexp h k a b) := of_head rfl fun ha => by
  delta Instr.accepted at ha; dsimp only at ha; simp at ha
theorem xarv (h : Head) (k : KCtl) (a b : Nat) : Statement (.xarv h k a b) := of_head rfl fun ha => by
  delta Instr.accepted at ha; dsimp only at ha; simp at ha
theorem xstep (h : Head) (k : KCtl) (a : Nat) : Statement (.xstep h k a) := of_head rfl fun ha => by
  delta Instr.accepted at ha; dsimp only at ha; simp at ha
theorem xpln (h : Head) (k : KCtl) (a b : Nat) : Statement (.xpln h k a b) := of_head rfl fun ha => by
  delta Instr.accepted at ha; dsimp only at ha; simp at ha
theorem xbrd (h : Head) (k : KCtl) (a b : Nat) : Statement (.xbrd h k a b) := of_head rfl fun ha => by
  delta Instr.accepted at ha; dsimp only at ha; simp at ha
theorem xalt (h : Head) (k : KCtl) (a b : Nat) : Statement (.xalt h k a b) := of_head rfl fun ha => by
  delta Instr.accepted at ha; dsimp only at ha; simp at ha
theorem xrep (h : Head) (k : KCtl) (a b : Nat) : Statement (.xrep h k a b) := of_head rfl fun ha => by
  delta Instr.accepted at ha; dsimp only at ha; simp at ha
theorem xdrp (h : Head) (k : KCtl) (a b : Nat) : Statement (.xdrp h k a b) := of_head rfl fun ha => by
  delta Instr.accepted at ha; dsimp only at ha; simp at ha
theorem xsigr (h : Head) (k : KCtl) (a b : Nat) : Statement (.xsigr h k a b) := of_head rfl fun ha => by
  delta Instr.accepted at ha; dsimp only at ha; simp at ha
theorem xkeyEnc (h : Head) (k : KCtl) (a b : Nat) : Statement (.xkeyEnc h k a b) := of_head rfl fun ha => by
  delta Instr.accepted at ha; dsimp only at ha; simp at ha
theorem xkeyDec (h : Head) (k : KCtl) (a b : Nat) : Statement (.xkeyDec h k a b) := of_head rfl fun ha => by
  delta Instr.accepted at ha; dsimp only at ha; simp at ha
theorem xqryRing (h : Head) (k : KCtl) (b : Nat) : Statement (.xqryRing h k b) := of_head rfl fun ha => by
  delta Instr.accepted at ha; dsimp only at ha; simp at ha
theorem xqryPeek (h : Head) (k : KCtl) (a b : Nat) : Statement (.xqryPeek h k a b) := of_head rfl fun ha => by
  delta Instr.accepted at ha; dsimp only at ha; simp at ha
theorem instructionRetire (c k : Nat) : Statement (.instructionRetire c k) := of_no_head rfl fun e ha => by
  delta Instr.accepted at ha; simp at ha
theorem resultLands (c : Nat) : Statement (.resultLands c) := of_no_head rfl fun e ha => by
  delta Instr.accepted at ha; simp at ha
theorem blockHeadSatisfied (c k : Nat) : Statement (.blockHeadSatisfied c k) := of_no_head rfl fun e ha => by
  delta Instr.accepted at ha; simp at ha
theorem rendezvousRelease (c j : Nat) : Statement (.rendezvousRelease c j) := of_no_head rfl fun e ha => by
  delta Instr.accepted at ha; simp at ha
theorem jobRetire (c j : Nat) : Statement (.jobRetire c j) := of_no_head rfl fun e ha => by
  delta Instr.accepted at ha; simp at ha
theorem markerReachesHead (c k : Nat) : Statement (.markerReachesHead c k) := of_no_head rfl fun e ha => by
  delta Instr.accepted at ha; simp at ha
theorem groupPhaseComplete (g : Nat) : Statement (.groupPhaseComplete g) := of_no_head rfl fun e ha => by
  delta Instr.accepted at ha; simp at ha
theorem blockWatchdogExpiry (c k : Nat) : Statement (.blockWatchdogExpiry c k) := of_no_head rfl fun e ha => by
  delta Instr.accepted at ha; simp at ha
theorem agePromotion (c k : Nat) : Statement (.agePromotion c k) := of_no_head rfl fun e ha => by
  delta Instr.accepted at ha; simp at ha
theorem ckptConditionsMet (c j : Nat) : Statement (.ckptConditionsMet c j) := of_no_head rfl fun e ha => by
  delta Instr.accepted at ha; simp at ha
theorem loaderConsider (c : Nat) : Statement (.loaderConsider c) := of_no_head rfl fun e ha => by
  delta Instr.accepted at ha; simp at ha
theorem jobLoadDone (c j : Nat) : Statement (.jobLoadDone c j) := of_no_head rfl fun e ha => by
  delta Instr.accepted at ha; simp at ha
theorem stagedJobStart (c : Nat) : Statement (.stagedJobStart c) := of_no_head rfl fun e ha => by
  delta Instr.accepted at ha; simp at ha
theorem budgetOverrun (c j : Nat) : Statement (.budgetOverrun c j) := of_no_head rfl fun e ha => by
  delta Instr.accepted at ha; simp at ha
theorem graceExpiry (c j : Nat) : Statement (.graceExpiry c j) := of_no_head rfl fun e ha => by
  delta Instr.accepted at ha; simp at ha
theorem programTrapStop (c j : Nat) : Statement (.programTrapStop c j) := of_no_head rfl fun e ha => by
  delta Instr.accepted at ha; simp at ha
theorem localFaultFreeze (c : Nat) : Statement (.localFaultFreeze c) := of_no_head rfl fun e ha => by
  delta Instr.accepted at ha; simp at ha
theorem handlerTimeLimit (c : Nat) : Statement (.handlerTimeLimit c) := of_no_head rfl fun e ha => by
  delta Instr.accepted at ha; simp at ha
theorem pageWalkComplete (d dt page : Nat) : Statement (.pageWalkComplete d dt page) := of_no_head rfl fun e ha => by
  delta Instr.accepted at ha; simp at ha
theorem missQueueAdmit (c : Nat) : Statement (.missQueueAdmit c) := of_no_head rfl fun e ha => by
  delta Instr.accepted at ha; simp at ha
theorem codeLineArrive (c line : Nat) : Statement (.codeLineArrive c line) := of_no_head rfl fun e ha => by
  delta Instr.accepted at ha; simp at ha
theorem commandStart (c k : Nat) : Statement (.commandStart c k) := of_no_head rfl fun e ha => by
  delta Instr.accepted at ha; simp at ha
theorem commandComplete (c k i : Nat) : Statement (.commandComplete c k i) := of_no_head rfl fun e ha => by
  delta Instr.accepted at ha; simp at ha
theorem nestStepCommit (c : Nat) : Statement (.nestStepCommit c) := of_no_head rfl fun e ha => by
  delta Instr.accepted at ha; simp at ha
theorem flushGroupWrite (c : Nat) : Statement (.flushGroupWrite c) := of_no_head rfl fun e ha => by
  delta Instr.accepted at ha; simp at ha
theorem wsegReadsComplete (c k : Nat) : Statement (.wsegReadsComplete c k) := of_no_head rfl fun e ha => by
  delta Instr.accepted at ha; simp at ha
theorem llsGroupWrite (c : Nat) : Statement (.llsGroupWrite c) := of_no_head rfl fun e ha => by
  delta Instr.accepted at ha; simp at ha
theorem llsStart (c : Nat) : Statement (.llsStart c) := of_no_head rfl fun e ha => by
  delta Instr.accepted at ha; simp at ha
theorem portAccept (c : Nat) : Statement (.portAccept c) := of_no_head rfl fun e ha => by
  delta Instr.accepted at ha; simp at ha
theorem outboundStamp (c : Nat) : Statement (.outboundStamp c) := of_no_head rfl fun e ha => by
  delta Instr.accepted at ha; simp at ha
theorem requestTimeout (c i : Nat) : Statement (.requestTimeout c i) := of_no_head rfl fun e ha => by
  delta Instr.accepted at ha; simp at ha
theorem slotWindowSend (c k : Nat) : Statement (.slotWindowSend c k) := of_no_head rfl fun e ha => by
  delta Instr.accepted at ha; simp at ha
theorem carouselPassage (p : Nat) : Statement (.carouselPassage p) := of_no_head rfl fun e ha => by
  delta Instr.accepted at ha; simp at ha
theorem carouselWeCatch (c : Nat) : Statement (.carouselWeCatch c) := of_no_head rfl fun e ha => by
  delta Instr.accepted at ha; simp at ha
theorem ilLoad (d : Nat) : Statement (.ilLoad d) := of_no_head rfl fun e ha => by
  delta Instr.accepted at ha; simp at ha
theorem ilUnload (d : Nat) : Statement (.ilUnload d) := of_no_head rfl fun e ha => by
  delta Instr.accepted at ha; simp at ha
theorem linkTransmitAccept (k : Nat) : Statement (.linkTransmitAccept k) := of_no_head rfl fun e ha => by
  delta Instr.accepted at ha; simp at ha
theorem linkReceive (k : Nat) : Statement (.linkReceive k) := of_no_head rfl fun e ha => by
  delta Instr.accepted at ha; simp at ha
theorem applyWrite (id : Nat) : Statement (.applyWrite id) := of_no_head rfl fun e ha => by
  delta Instr.accepted at ha; simp at ha
theorem applyReadRequest (id : Nat) : Statement (.applyReadRequest id) := of_no_head rfl fun e ha => by
  delta Instr.accepted at ha; simp at ha
theorem applyRemoteSignal (id : Nat) : Statement (.applyRemoteSignal id) := of_no_head rfl fun e ha => by
  delta Instr.accepted at ha; simp at ha
theorem applyReduce (id : Nat) : Statement (.applyReduce id) := of_no_head rfl fun e ha => by
  delta Instr.accepted at ha; simp at ha
theorem applyArrival (id : Nat) : Statement (.applyArrival id) := of_no_head rfl fun e ha => by
  delta Instr.accepted at ha; simp at ha
theorem applyPlaneRecord (id : Nat) : Statement (.applyPlaneRecord id) := of_no_head rfl fun e ha => by
  delta Instr.accepted at ha; simp at ha
theorem applyDescriptorPost (id : Nat) : Statement (.applyDescriptorPost id) := of_no_head rfl fun e ha => by
  delta Instr.accepted at ha; simp at ha
theorem readReplyArrive (id : Nat) : Statement (.readReplyArrive id) := of_no_head rfl fun e ha => by
  delta Instr.accepted at ha; simp at ha
theorem writeAckArrive (id : Nat) : Statement (.writeAckArrive id) := of_no_head rfl fun e ha => by
  delta Instr.accepted at ha; simp at ha
theorem signalReplyArrive (id : Nat) : Statement (.signalReplyArrive id) := of_no_head rfl fun e ha => by
  delta Instr.accepted at ha; simp at ha
theorem planeAnswerArrive (id : Nat) : Statement (.planeAnswerArrive id) := of_no_head rfl fun e ha => by
  delta Instr.accepted at ha; simp at ha
theorem postAnswerArrive (id : Nat) : Statement (.postAnswerArrive id) := of_no_head rfl fun e ha => by
  delta Instr.accepted at ha; simp at ha
theorem errorReplyArrive (id : Nat) : Statement (.errorReplyArrive id) := of_no_head rfl fun e ha => by
  delta Instr.accepted at ha; simp at ha
theorem routerPromotion (r : Nat) : Statement (.routerPromotion r) := of_no_head rfl fun e ha => by
  delta Instr.accepted at ha; simp at ha
theorem routerFlitForward (r out : Nat) : Statement (.routerFlitForward r out) := of_no_head rfl fun e ha => by
  delta Instr.accepted at ha; simp at ha
theorem hostDoorbellWrite (fn c q v : Nat) : Statement (.hostDoorbellWrite fn c q v) := of_no_head rfl fun e ha => by
  delta Instr.accepted at ha; simp at ha
theorem mboxRemove (c j : Nat) : Statement (.mboxRemove c j) := of_no_head rfl fun e ha => by
  delta Instr.accepted at ha; simp at ha
theorem mboxPreempt (c j : Nat) : Statement (.mboxPreempt c j) := of_no_head rfl fun e ha => by
  delta Instr.accepted at ha; simp at ha
theorem mboxRerun (c j : Nat) : Statement (.mboxRerun c j) := of_no_head rfl fun e ha => by
  delta Instr.accepted at ha; simp at ha
theorem eventPop (c : Nat) : Statement (.eventPop c) := of_no_head rfl fun e ha => by
  delta Instr.accepted at ha; simp at ha
theorem carouselChangeRequest (v : Nat) : Statement (.carouselChangeRequest v) := of_no_head rfl fun e ha => by
  delta Instr.accepted at ha; simp at ha
theorem hostWindowWrite (fn w reg v : Nat) : Statement (.hostWindowWrite fn w reg v) := of_no_head rfl fun e ha => by
  delta Instr.accepted at ha; simp at ha
theorem partitionWrite (fn v mask : Nat) : Statement (.partitionWrite fn v mask) := of_no_head rfl fun e ha => by
  delta Instr.accepted at ha; simp at ha
theorem moduleIdWrite (fn v : Nat) : Statement (.moduleIdWrite fn v) := of_no_head rfl fun e ha => by
  delta Instr.accepted at ha; simp at ha
theorem linkEnableWrite (fn k v : Nat) : Statement (.linkEnableWrite fn k v) := of_no_head rfl fun e ha => by
  delta Instr.accepted at ha; simp at ha
theorem linkTrained (k peer lanes : Nat) : Statement (.linkTrained k peer lanes) := of_no_head rfl fun e ha => by
  delta Instr.accepted at ha; simp at ha
theorem linkTrainingLoss (k : Nat) : Statement (.linkTrainingLoss k) := of_no_head rfl fun e ha => by
  delta Instr.accepted at ha; simp at ha
theorem hostBar2Access (l a n : Nat) (w : Option (List Byte)) : Statement (.hostBar2Access l a n w) := of_no_head rfl fun e ha => by
  delta Instr.accepted at ha; simp at ha
theorem registerWrite (fn off v : Nat) : Statement (.registerWrite fn off v) := of_no_head rfl fun e ha => by
  delta Instr.accepted at ha; simp at ha
theorem sensorUpdate (d v : Nat) : Statement (.sensorUpdate d v) := of_no_head rfl fun e ha => by
  delta Instr.accepted at ha; simp at ha
theorem carouselChangeEffect : Statement (.carouselChangeEffect) := of_no_head rfl fun e ha => by
  delta Instr.accepted at ha; simp at ha
theorem lanternAttest : Statement (.lanternAttest) := of_no_head rfl fun e ha => by
  delta Instr.accepted at ha; simp at ha
theorem safetyTrip : Statement (.safetyTrip) := of_no_head rfl fun e ha => by
  delta Instr.accepted at ha; simp at ha
theorem reset : Statement (.reset) := of_no_head rfl fun e ha => by
  delta Instr.accepted at ha; simp at ha

end Sys2Proof.Laws.WordLen
end

