-- ==== Sys2Proof/Tests/Slice0.lean ====
section
/-!
SUPPORT. Sys2Proof/Tests/Slice0.lean: the model's own tests. First what decode and WellFormed refuse and what words written
out from the spec's encodings decode to; then, for each statement, a witness that meets its hypotheses; then single steps.
-/

namespace Sys2Proof.Tests

set_option Elab.async false

open Sys2Proof.Machine

/-- GUARD 126, no tokens. -/
def h0 : Head := ⟨7, false, false, 126, false⟩

/-- A bundle's head without tokens. -/
def w0 : WHead := ⟨7, false, false⟩

/-- Sixteen slots, the first one given. -/
def one (t : WSlot) : WSlots := some t :: List.replicate 15 none

/-! ### States -/

/-- A running privileged job with every engine and queue, four semaphores and a region over the whole scratchpad. -/
def jobA : Job :=
  { st := .running, engmask := 63, qmask := 0xFFFF, semSize := 4, priv := true, startClk := 0
    sec := mput 0 0 (BitVec.ofNat 64 (2 ^ 63 + 2 ^ 19 * 2 ^ 22)) [] }

/-- A live stream of job slot 0 at pc 64 with registers. -/
def strm (xs : List (Nat × Nat)) : Stream :=
  { st := .live, pc := 64, x := mbulk 0 (xs.map fun e => (e.1, BitVec.ofNat 64 e.2)) [] }

/-- The module with core 0 as given and one stream in slot 0 of engine e, whose turn it is. -/
def at_ (e : Eng) (t : Stream) (c : Core) : State :=
  { State.reset with
    todo := [], ready := true, cur := ⟨0, e, 0, []⟩,
    cores := mput {} 0 (c.setStream (skey e 0) t) [] }

/-- A core with job j in slot 0. -/
def core0 (j : Job) : Core := ({} : Core).setJob 0 j

/-- The module with one stream of jobA. -/
def mk (e : Eng) (xs : List (Nat × Nat)) : State := at_ e (strm xs) (core0 jobA)

/-! ### Words written out from the spec's encodings (R66 to R77) -/

/-- TP 7 and GUARD 126 of a 64-bit word. -/
def hw : Nat := 0x00E7E00000000000

/-- The forms of R68, field by field. -/
def fR (op d a b c m : Nat) : Nat := op * 2 ^ 56 + hw + d * 2 ^ 34 + a * 2 ^ 25 + b * 2 ^ 16 + c * 2 ^ 7 + m
def fI (op d a imm m : Nat) : Nat := op * 2 ^ 56 + hw + d * 2 ^ 34 + a * 2 ^ 25 + imm * 2 ^ 13 + m
def fJ (op imm a m : Nat) : Nat := op * 2 ^ 56 + hw + imm * 2 ^ 19 + a * 2 ^ 10 + m
def fK (op a b wait sig m : Nat) : Nat := op * 2 ^ 56 + hw + a * 2 ^ 34 + b * 2 ^ 25 + wait * 2 ^ 17 + sig * 2 ^ 9 + m
def fV (op d a b c esz am bm fmt sat : Nat) : Nat :=
  op * 2 ^ 56 + hw + d * 2 ^ 35 + a * 2 ^ 27 + b * 2 ^ 19 + c * 2 ^ 11 + esz * 2 ^ 9 + am * 2 ^ 6 + bm * 2 ^ 3 + fmt * 2 + sat

/-- A bundle (R73) with TP 7 and slots 0 to 2. -/
def fB (op mode hdr s0 s1 s2 : Nat) : Nat :=
  op * 2 ^ 248 + 7 * 2 ^ 245 + mode * 2 ^ 240 + hdr * 2 ^ 224 + s0 + s1 * 2 ^ 14 + s2 * 2 ^ 28

/-- Fields of R69: stream register, queue pop, queue peek, predicate. -/
def cS (n : Nat) : Nat := 0x40 + n
def cQ (n : Nat) : Nat := 0xC0 + n
def cK (n : Nat) : Nat := 0x100 + n
def cP (n : Nat) : Nat := 0x140 + n

abbrev Words := List (Eng × Nat × Instr)

def commonWords : Words := [
  (.sq, 0x00E7E00000000000, .nop h0), (.me, 0x02E7E00000000000, .endS h0), (.va, fI 0x03 0 0 0xFFF 0, .rdzv h0 4095),
  (.xe, fJ 0x04 0xFFFFFF 0 2, .br h0 true (-1)), (.sq, fJ 0x05 2 (cP 9) 1, .brc h0 true false 9 2),
  (.sq, fJ 0x06 0x800000 1 0, .call h0 1 (-0x800000)), (.sq, 0x07E7E00407090000, .callg h0 1 3 (-1976)),
  (.ve, fR 0x08 0 31 0 0 0, .jr h0 31), (.sq, fJ 0x09 1 63 0, .loop h0 63 1), (.va, fI 0x0A 0 0 5 8191, .loopi h0 5 8191),
  (.ve, fJ 0x0B 3 2 63, .looph h0 2 3 64), (.sq, fI 0x0C 0 0 0 0 + 0xABCDE * 2 ^ 14, .trap h0 0xABCDE),
  (.va, fI 0x0D (cQ 3) 0 0x010 0, .csrr h0 (.q 3) 0x010), (.wick, fI 0x0E 0 4 0x020 0, .csrw h0 (.x 4) 0x020),
  (.va, fR 0x10 (cQ 1) (cQ 9) (cK 8) 0 0, .add h0 (.q 1) (.q 9) (.peek 8)), (.sq, fR 0x10 1 2 3 0 1, .sub h0 (.x 1) (.x 2) (.x 3)),
  (.sq, fR 0x10 1 2 3 0 2, .and h0 (.x 1) (.x 2) (.x 3)), (.sq, fR 0x10 1 2 3 0 3, .or h0 (.x 1) (.x 2) (.x 3)),
  (.sq, fR 0x10 1 2 3 0 4, .xor h0 (.x 1) (.x 2) (.x 3)), (.sq, fR 0x10 1 2 3 0 5, .andn h0 (.x 1) (.x 2) (.x 3)),
  (.sq, fR 0x10 1 2 3 0 6, .shl h0 (.x 1) (.x 2) (.x 3)), (.sq, fR 0x10 1 2 3 0 7, .shr h0 (.x 1) (.x 2) (.x 3)),
  (.sq, fR 0x10 1 2 3 0 8, .sra h0 (.x 1) (.x 2) (.x 3)), (.sq, fR 0x10 1 2 3 0 9, .mul h0 (.x 1) (.x 2) (.x 3)),
  (.sq, fR 0x10 1 2 3 0 10, .mulh h0 (.x 1) (.x 2) (.x 3)), (.sq, fR 0x10 1 2 3 0 11, .mulhu h0 (.x 1) (.x 2) (.x 3)),
  (.sq, fR 0x10 1 2 3 0 12, .min h0 (.x 1) (.x 2) (.x 3)), (.sq, fR 0x10 1 2 3 0 13, .max h0 (.x 1) (.x 2) (.x 3)),
  (.sq, fR 0x10 1 2 3 0 14, .minu h0 (.x 1) (.x 2) (.x 3)), (.sq, fR 0x10 1 2 3 0 15, .maxu h0 (.x 1) (.x 2) (.x 3)),
  (.sq, fR 0x10 1 2 3 0 16, .slt h0 (.x 1) (.x 2) (.x 3)), (.sq, fR 0x10 1 2 3 0 17, .sltu h0 (.x 1) (.x 2) (.x 3)),
  (.sq, fR 0x10 1 2 0 0 18, .clz h0 (.x 1) (.x 2)), (.sq, fR 0x10 1 2 0 0 19, .popc h0 (.x 1) (.x 2)),
  (.sq, fR 0x10 1 2 3 (cP 95) 20, .sel h0 (.x 1) (.x 2) (.x 3) 95), (.sq, 0x11E7E01C0E080000, .addi h0 (.x 7) (.x 7) 64),
  (.sq, fI 0x11 1 2 0xFFF 1, .andi h0 (.x 1) (.x 2) (-1)), (.sq, fI 0x11 1 2 0x7FF 2, .ori h0 (.x 1) (.x 2) 2047),
  (.sq, fI 0x11 1 2 0x800 3, .xori h0 (.x 1) (.x 2) (-2048)), (.sq, fI 0x11 1 2 63 4, .shli h0 (.x 1) (.x 2) 63),
  (.sq, fI 0x11 1 2 1 5, .shri h0 (.x 1) (.x 2) 1), (.sq, fI 0x11 1 2 2 6, .srai h0 (.x 1) (.x 2) 2),
  (.sq, fI 0x11 1 2 3 7, .slti h0 (.x 1) (.x 2) 3), (.sq, fI 0x11 1 2 4 8, .sltiu h0 (.x 1) (.x 2) 4),
  (.sq, 0x12E7E01D00000000, .lih h0 (.x 7) 0x40000), (.sq, fR 0x13 (cP 1) 2 3 0 5, .cmp h0 .geu 1 (.x 2) (.x 3)),
  (.sq, fI 0x14 (cP 64) 2 0xFFF 2, .cmpi h0 .lt 64 (.x 2) (-1)), (.ve, fR 0x15 (cP 1) (cP 2) (cP 3) 0 0, .pand h0 1 2 3),
  (.ve, fR 0x15 (cP 1) (cP 2) (cP 3) 0 1, .por h0 1 2 3), (.ve, fR 0x15 (cP 1) (cP 2) (cP 3) 0 2, .pxor h0 1 2 3),
  (.ve, fR 0x15 (cP 1) (cP 2) (cP 3) 0 3, .pandn h0 1 2 3), (.ve, fR 0x15 (cP 1) (cP 2) 0 0 4, .pmov h0 1 2),
  (.ve, fR 0x15 (cP 1) 0 1 0 5, .pseti h0 1 true), (.va, fI 0x16 (cQ 0) 2 8 6, .ld h0 (.q 0) (.x 2) 8 2 true),
  (.sq, fI 0x17 5 2 8 3, .st h0 5 (.x 2) 8 3), (.sq, 0x18E7E0100B000003, .ldg h0 4 5 (-2048) 3 false),
  (.wick, fI 0x19 4 5 1 0, .stg h0 4 5 1 0),
  (.ve, 0x0127E01A80C00811, .blkh ⟨1, false, false, 126, false⟩ ⟨3, 1, 2, 3, 0, 1, 0, ⟨true, false, .core⟩⟩)]

def sqWords : Words := [
  (.sq, fI 0x40 0 0 4095 (3 * 32 + 8 + 3), .ssig h0 3 4095 ⟨false, true, .device⟩), (.sq, fI 0x41 0 6 0 (255 * 32), .sset h0 255 6),
  (.sq, fI 0x42 6 0 0 32, .sget h0 6 1), (.sq, fI 0x43 0 0 0x3E 7, .mark h0 7 0x3E), (.sq, fI 0x44 0 0 0 7, .mjoin h0 7),
  (.sq, fI 0x45 1 2 63 0, .mpost h0 1 2 63), (.sq, fI 0x46 0 0 5 0, .gjoin h0 5), (.sq, fI 0x47 0 0 5 0, .gleave h0 5),
  (.sq, fI 0x48 1 0 5 (16 + 4), .garv h0 1 5 ⟨true, false, .system⟩), (.sq, fI 0x49 1 0 5 0, .gbar h0 1 5 ⟨false, false, .stream⟩),
  (.sq, fI 0x4A 0 7 1 0, .ckpt h0 7 1), (.sq, fI 0x4B 1 2 0 0, .planeQuery h0 1 2), (.sq, fI 0x4B 1 2 0 1, .planeStage h0 1 2),
  (.sq, fI 0x4B 1 2 0 2, .planeDrop h0 1 2),
  (.wick, fR 0xF0 0 0 0 0 1, .rft h0 true), (.sq, fR 0xF1 0 7 0 0 0, .resume h0 7), (.sq, fR 0xF2 0 7 8 0 0, .ctxsv h0 7 8),
  (.wick, fR 0xF3 6 7 8 0 0, .ctxld h0 6 7 8), (.sq, fR 0xF4 0 7 0 0 4, .tlbiDataAll h0 7 true),
  (.sq, fR 0xF4 0 7 0 0 1, .tlbiDataPage h0 7 false), (.sq, fR 0xF4 0 7 0 0 2, .tlbiInstrAll h0 7 false),
  (.sq, fR 0xF4 0 7 0 0 7, .tlbiInstrPage h0 7 true), (.sq, fR 0xF5 6 7 8 0 0, .keyopLoad h0 6 7 8),
  (.sq, fR 0xF5 6 7 8 0 1, .keyopDestroy h0 6 7 8), (.sq, fR 0xF5 6 7 8 0 2, .keyopQuery h0 6 7 8),
  (.sq, fR 0xF6 0 7 8 0 0x7F, .capw h0 63 true 7 8), (.sq, fR 0xF7 0 7 8 0 1, .tnset h0 true 7 8)]

def vaWords : Words := [
  (.va, fI 0x40 (cS 31) 2 0xFC0 0, .sdef h0 31 2 (-64)), (.va, fI 0x41 (cS 0) 2 32 0, .slvl h0 0 2 32),
  (.va, fR 0x42 0 (cS 5) 6 0 0xB, .sfib h0 ⟨5, true⟩ 6 3), (.va, fR 0x43 (cS 1) (cS 2) (cS 3) 0 0, .sint h0 1 2 3),
  (.va, fR 0x44 (cS 1) (cS 2) (cS 3) 0 0, .suni h0 1 2 3), (.va, fR 0x45 0 (cS 5) 6 0 0, .sskip h0 ⟨5, false⟩ 6),
  (.va, fR 0x46 4 (cS 5) 0 0 4, .spos h0 4 ⟨5, false⟩ true), (.va, fR 0x47 4 (cS 5) 0 0 0xB, .scrd h0 4 ⟨5, true⟩ 3),
  (.va, 0x48E7E3088A06A481, .ldq h0 2 ⟨5, false⟩ 6 (some 9) true false false),
  (.va, fR 0x49 (cQ 2) (cS 5) 6 0 2, .ldqc h0 2 ⟨5, false⟩ 6 none true),
  (.va, fR 0x4A (cS 5) (cK 15) 6 0 3, .stq h0 ⟨5, false⟩ 15 true 6 true true),
  (.va, fR 0x4B (cQ 7) (cS 5) 6 (cP 95) 6, .ldqa h0 7 ⟨5, false⟩ 6 (some 95) true true),
  (.va, fR 0x4C 0 1 2 3 0, .lls h0 1 2 3), (.va, fR 0x4D (cQ 2) 0 0 0 0xB, .mrgb h0 2 3 true),
  (.va, 0x4EE7E00084110000, .mrgi h0 ⟨2, false⟩ 17), (.va, fR 0x4F 0 0 6 (cP 1) 0, .mrge h0 6 (some 1)),
  (.va, fR 0x50 (cQ 1) 2 3 0 7, .bfxp h0 1 2 3 7), (.va, fR 0x50 0 2 0 0 8, .bfxpSet h0 2 0),
  (.va, 0x51E7E00000590400, .loopt h0 ⟨1, false⟩ 11 1), (.va, fR 0x52 0 (cS 5) 6 0 8, .prf h0 ⟨5, true⟩ 6),
  (.va, fR 0x53 0 (cS 31) 0 0 0, .srel h0 ⟨31, false⟩)]

/-- FP32 or INT32 without modifiers. -/
def f0 : VFmt := ⟨0, 0, 0, 0, false⟩

def veWords : Words := [
  (.ve, 0x40E7E0222E180202, .vfadd h0 (.v 4) (.rot 5) (.peek 3) none ⟨1, 1, 0, 0, false⟩),
  (.ve, fV 0x41 0x88 0x80 1 6 0 7 2 0 0, .vfsub h0 (.push 8) (.pop 0) (.v 1) (some .ru) ⟨0, 0, 7, 2, false⟩),
  (.ve, fV 0x42 1 2 3 5 0 0 0 0 0, .vfmul h0 (.v 1) (.v 2) (.v 3) (some .rz) f0),
  (.ve, fV 0x43 1 2 3 4 0 5 6 1 0, .vfma h0 (.v 1) (.v 2) (.v 3) (.v 4) ⟨0, 1, 5, 6, false⟩),
  (.ve, fV 0x44 1 2 3 4 1 0 0 0 0, .vfms h0 (.v 1) (.v 2) (.v 3) (.v 4) ⟨1, 0, 0, 0, false⟩),
  (.ve, fV 0x45 1 2 3 4 0 0 0 0 0, .vfnma h0 (.v 1) (.v 2) (.v 3) (.v 4) f0),
  (.ve, fV 0x46 1 2 3 0 0 0 0 0 0, .vfmin h0 (.v 1) (.v 2) (.v 3) f0),
  (.ve, fV 0x47 0x41 2 3 0 0 0 0 0 0, .vfmax h0 (.rot 1) (.v 2) (.v 3) f0),
  (.ve, fV 0x48 9 2 3 0x0E 0 0 0 0 0, .vfcmp h0 (.any 9) .un (.v 2) (.v 3) f0),
  (.ve, fV 0x49 1 2 0 0 0 7 0 0 0, .vlog2 h0 (.v 1) (.v 2) ⟨0, 0, 7, 0, false⟩),
  (.ve, fV 0x4A 1 2 0 0 0 0 0 0 0, .vexp2 h0 (.v 1) (.v 2) f0), (.ve, fV 0x4B 1 2 0 0 0 0 0 0 0, .vrcp h0 (.v 1) (.v 2) f0),
  (.ve, fV 0x4C 1 2 0 0 0 0 0 0 0, .vrsq h0 (.v 1) (.v 2) f0),
  (.ve, fV 0x4D 1 2 0 0x68 2 0 0 0 1, .vcvt h0 (.v 1) (.v 2) .i32 true none ⟨2, 0, 0, 0, true⟩),
  (.ve, fV 0x4E 1 2 3 0 0 0 6 0 0, .vscl h0 (.v 1) (.v 2) (.v 3) none ⟨0, 0, 0, 6, false⟩),
  (.ve, fV 0x4F 1 2 0 4 3 2 0 0 0, .vpks h0 (.v 1) (.v 2) (some .rne) ⟨3, 0, 2, 0, false⟩),
  (.ve, fV 0x50 1 2 3 0 3 0 4 1 0, .vadd h0 (.v 1) (.v 2) (.v 3) ⟨3, 1, 0, 4, false⟩),
  (.ve, fV 0x51 1 2 3 0 0 0 0 0 0, .vsub h0 (.v 1) (.v 2) (.v 3) f0),
  (.ve, fV 0x52 1 2 3 0 1 0 0 0 1, .vmul h0 (.v 1) (.v 2) (.v 3) ⟨1, 0, 0, 0, true⟩),
  (.ve, fV 0x53 1 2 3 0 0 0 0 0 0, .vmulh h0 (.v 1) (.v 2) (.v 3) f0),
  (.ve, fV 0x54 1 2 3 4 2 0 0 0 1, .vmad h0 (.v 1) (.v 2) (.v 3) (.v 4) ⟨2, 0, 0, 0, true⟩),
  (.ve, fV 0x55 1 2 3 0 0 0 0 0 0, .vand h0 (.v 1) (.v 2) (.v 3) f0), (.ve, fV 0x56 1 2 3 0 0 0 0 0 0, .vor h0 (.v 1) (.v 2) (.v 3) f0),
  (.ve, fV 0x57 1 2 3 0 0 0 0 0 0, .vxor h0 (.v 1) (.v 2) (.v 3) f0), (.ve, fV 0x58 1 2 3 0 0 0 0 0 0, .vshl h0 (.v 1) (.v 2) (.v 3) f0),
  (.ve, fV 0x59 1 2 3 0 0 0 0 0 0, .vshr h0 (.v 1) (.v 2) (.v 3) f0), (.ve, fV 0x5A 1 2 3 0 0 0 0 0 0, .vsra h0 (.v 1) (.v 2) (.v 3) f0),
  (.ve, fV 0x5B 1 2 3 0 0 0 0 0 0, .vmin h0 (.v 1) (.v 2) (.v 3) f0), (.ve, fV 0x5C 1 2 3 0 0 0 0 0 0, .vmax h0 (.v 1) (.v 2) (.v 3) f0),
  (.ve, fV 0x5D 1 2 3 0 0 0 0 0 0, .vadds h0 (.v 1) (.v 2) (.v 3) f0), (.ve, fV 0x5E 1 2 3 0 0 0 0 0 0, .vsubs h0 (.v 1) (.v 2) (.v 3) f0),
  (.ve, fV 0x5F 1 2 3 0x13 0 0 0 0 0, .vcmp h0 (.all 1) .le (.v 2) (.v 3) f0),
  (.ve, fV 0x60 1 2 3 4 0 0 0 0 0, .vsel h0 (.v 1) (.v 2) (.v 3) (.v 4) f0), (.ve, fV 0x61 1 2 0 0 0 0 0 0 0, .vmov h0 (.v 1) (.v 2) f0),
  (.ve, fV 0x62 1 0x12 0x34 0x56 0 3 6 2 0, .vli h0 (.v 1) 0x1234567A 0), (.ve, fV 0x63 1 0x82 127 0 0 0 0 0 0, .vbcst h0 (.v 1) (.pop 2) 127 f0),
  (.ve, fV 0x63 1 31 0 1 0 0 0 0 0, .vbcstX h0 (.v 1) 31 f0), (.ve, fV 0x64 1 2 3 0 0 0 0 0 0, .vperm h0 (.v 1) (.v 2) (.v 3) f0),
  (.ve, fV 0x65 1 2 127 0 0 0 0 0 0, .vrot h0 (.v 1) (.v 2) 127 f0), (.ve, fV 0x66 1 3 0 0 0 0 0 1 0, .vlane h0 (.v 1) 3 ⟨0, 1, 0, 0, false⟩),
  (.ve, fV 0x67 1 2 3 0 0 2 0 0 0, .vhash h0 (.v 1) (.v 2) (.v 3) ⟨0, 0, 2, 0, false⟩),
  (.ve, fV 0x68 1 2 0 0 2 0 0 0 1, .vradd h0 (.v 1) (.v 2) ⟨2, 0, 0, 0, true⟩),
  (.ve, fV 0x69 1 2 0 3 0 0 0 0 0, .vrmax h0 (.v 1) (.v 2) true true f0),
  (.ve, 0x6AE7E01848103000, .vrmaxi h0 (.v 3) (.v 9) (.v 2) (some 6) f0),
  (.ve, fV 0x6B 3 9 2 126 0 0 0 0 0, .vrmini h0 (.v 3) (.v 9) (.v 2) none f0),
  (.ve, fV 0x6C 1 2 0 7 1 0 0 1 0, .vrfadd h0 (.v 1) (.v 2) (some .rd) ⟨1, 1, 0, 0, false⟩),
  (.ve, fV 0x6D 31 2 127 3 2 0 0 1 0, .vext h0 31 (.v 2) 127 3 ⟨2, 1, 0, 0, false⟩),
  (.ve, fV 0x6E 1 2 0xC0 0 0 0 0 0 0, .vacrF32 h0 (.v 1) 2 (-64)), (.ve, fV 0x6E 1 2 0 2 0 0 0 0 0, .vacrRaw h0 (.v 1) 2 0),
  (.ve, fV 0x6F 1 2 0x3F 0 0 0 0 0 0, .vacwF32 h0 1 (.v 2) 63), (.ve, fV 0x6F 1 2 0xFF 1 0 0 0 0 0, .vacwAdd h0 1 (.v 2) (-1)),
  (.ve, fV 0x6F 1 2 0 2 0 0 0 0 0, .vacwRaw h0 1 (.v 2) 0), (.ve, 0x70E7E00600001000, .loopq h0 0 true 2 1),
  (.ve, fV 0x71 9 15 8 0 0 0 0 0 0, .vqlen h0 9 15 8), (.ve, fV 0x71 9 7 0 1 0 0 0 0 0, .vqlenZero h0 9 7)]

def weWords : Words := [
  (.we, fB 0 0 0 0 0 0, .wnop w0),
  (.we, 0x01E1000000000000 * 2 ^ 192 + 0x20 * 2 ^ 64 + 0x0780140000000000,
    .wt w0 .i8 0 (List.replicate 3 none ++ [some ⟨0, 5⟩, some ⟨0, 7⟩] ++ List.replicate 11 none)),
  (.we, fB 2 1 0x1FFF 0x3F00 0 0, .wg w0 .i8 255 31 (one ⟨31, 0⟩)),
  (.we, 0x03E0001000000000 * 2 ^ 192 + 0x00800800083FE001, .wf w0 false 16
    ([some ⟨0, 1⟩, some ⟨0, 255⟩, none, some ⟨0, 2⟩] ++ List.replicate 12 none)),
  (.we, 0x04E1000000000000 * 2 ^ 192 + 0x3002, .wtf w0 .i8 0 (one ⟨16, 2⟩)), (.we, 0x05E0200000000000 * 2 ^ 192, .wrow w0 .none true 0),
  (.we, 0x05E0800000000000 * 2 ^ 192, .wrow w0 .replace false 0), (.we, fB 5 0 0x6040 0 0 0, .wrow w0 .add true (-64)),
  (.we, 0x06E0000000000000 * 2 ^ 192, .wsegKeep w0), (.we, fB 6 0 1 0x207F 0x207F 0x23C0, .wsegFull w0 127 128 (-64) true .rd),
  (.we, fB 7 0 4095 0 0 0, .whook w0 4095), (.we, 0x08E0000000000000 * 2 ^ 192, .wret w0),
  (.we, 0x09E0000000000000 * 2 ^ 192 + 0x0000000008003FF9, .wjmp w0 8185), (.we, fB 9 0 1 0x3FFF 0x3FFF 0, .wjmpLink w0 (-1)),
  (.we, fB 9 0 2 0 0 0, .wjmpRet w0), (.we, 0x0AE0000000000000 * 2 ^ 192, .wend w0),
  (.we, 0x0B20014800000000 * 2 ^ 192 + 0x2011, .wwait ⟨1, false, false⟩ 1 1 1 (some ⟨true, false, .core⟩)),
  (.we, 0x0CE0000100000000 * 2 ^ 192, .wlink w0 1), (.we, fB 13 0 4095 0 0 0, .wrdzv w0 4095)]

/-- No wait, no signal. -/
def k0 : KCtl := ⟨none, none, ⟨false, false, .stream⟩⟩

def meXeWords : Words := [
  (.me, 0x40E7E0140C000000, .mtw h0 5 6), (.me, 0x41E7E1040E000000, .mtws h0 k0 1 7),
  (.me, 0x42E7E0000002040D, .mgo h0 ⟨some 1, some 2, ⟨false, false, .stream⟩⟩ true),
  (.me, 0x43E7E10C12000AB4, .mdrn h0 ⟨none, some 5, ⟨false, true, .device⟩⟩ 3 9), (.me, fK 0x44 0 9 0 0 0, .mbyp h0 k0 9),
  (.me, fK 0x45 (cS 7) 9 0 0 0, .mrqt h0 k0 7 9), (.me, fK 0x46 0 9 255 0 8, .mzero h0 ⟨some 255, none, ⟨false, false, .stream⟩⟩ 9),
  (.me, fK 0x47 (cS 7) 9 0 0 0x110, .midx h0 ⟨none, none, ⟨true, false, .core⟩⟩ 7 9), (.me, fK 0x48 (cS 7) 9 0 0 0, .mnms h0 k0 7 9),
  (.me, fK 0x49 0 9 0 0 1, .mrpr h0 k0 9 true), (.me, 0x4AE0300032040138, .mrst ⟨7, false, false, 3, false⟩ ⟨some 2, none, ⟨true, false, .device⟩⟩ 25 false),
  (.xe, 0x40E7E0100A0406BC, .xcp h0 ⟨some 2, some 3, ⟨false, true, .device⟩⟩ 4 5), (.xe, fK 0x41 1 30 0 0 0, .xcpg h0 k0 1 30),
  (.xe, 0x42E7E020120008B4, .xred h0 ⟨none, some 4, ⟨false, true, .device⟩⟩ 8 9), (.xe, fK 0x43 1 2 0 0 0, .xexp h0 k0 1 2),
  (.xe, fK 0x44 1 2 0 0 0, .xarv h0 k0 1 2), (.xe, fK 0x45 31 0 0 0 0, .xstep h0 k0 31), (.xe, fK 0x46 1 2 0 0 0, .xpln h0 k0 1 2),
  (.xe, fK 0x47 1 2 0 0 0, .xbrd h0 k0 1 2), (.xe, 0x48E7E01C1000033C, .xalt h0 ⟨some 0, some 1, ⟨true, false, .device⟩⟩ 7 8),
  (.xe, 0x49E7E01C1006091C, .xrep h0 ⟨some 3, some 4, ⟨true, false, .core⟩⟩ 7 8), (.xe, fK 0x4A 1 2 0 0 0, .xdrp h0 k0 1 2),
  (.xe, fK 0x4B 1 2 0 0 0x090, .xsigr h0 ⟨none, none, ⟨false, true, .core⟩⟩ 1 2), (.xe, fK 0x4C 1 29 0 0 0, .xkeyEnc h0 k0 1 29),
  (.xe, fK 0x4C 1 2 0 0 1, .xkeyDec h0 k0 1 2), (.xe, fK 0x4D 0 2 0 0 0, .xqryRing h0 k0 2), (.xe, fK 0x4D 1 2 0 0 1, .xqryPeek h0 k0 1 2)]

theorem decodes_common : ∀ q ∈ commonWords, decodeWord q.1 true q.2.1 = .ok q.2.2 := by decide +kernel
theorem decodes_sq : ∀ q ∈ sqWords, decodeWord q.1 true q.2.1 = .ok q.2.2 := by decide +kernel
theorem decodes_va : ∀ q ∈ vaWords, decodeWord q.1 true q.2.1 = .ok q.2.2 := by decide +kernel
theorem decodes_ve : ∀ q ∈ veWords, decodeWord q.1 true q.2.1 = .ok q.2.2 := by decide +kernel
theorem decodes_we : ∀ q ∈ weWords, decodeWord q.1 true q.2.1 = .ok q.2.2 := by decide +kernel
theorem decodes_me_xe : ∀ q ∈ meXeWords, decodeWord q.1 true q.2.1 = .ok q.2.2 := by decide +kernel

/-- Words that no instruction has: an unassigned opcode, a reserved function code, a wrong register class, an unused field that
is not zero, GNEG with GUARD 126, a system word without privilege, RFT in SQ, and slots without VALID (R66 to R78). -/
theorem decode_refuses :
    decodeWord .sq true 0x0FE7E00000000000 = .error .illegal ∧ decodeWord .sq true (fR 0x10 1 2 3 0 21) = .error .illegal
      ∧ decodeWord .sq true (fR 0x10 (cQ 0) 2 3 0 0) = .error .illegal ∧ decodeWord .sq true (fR 0x10 1 2 3 1 0) = .error .reserved
      ∧ decodeWord .sq true (2 ^ 43 + hw) = .error .reserved ∧ decodeWord .sq false (fR 0xF1 0 7 0 0 0) = .error .privileged
      ∧ decodeWord .sq true (fR 0xF0 0 0 0 0 0) = .error .privileged ∧ decodeWord .va true (fR 0xF1 0 7 0 0 0) = .error .illegal
      ∧ decodeWord .ve true (fI 0x16 1 2 0 0) = .error .illegal ∧ decodeWord .sq true (fI 0x11 1 2 64 4) = .error .reserved
      ∧ decodeWord .we true (fB 1 0 0 1 0 0) = .error .reserved ∧ decodeWord .we true (fB 1 2 0 0 0 0) = .error .illegal
      ∧ decodeWord .we true (fB 14 0 0 0 0 0) = .error .illegal ∧ decodeWord .ve true (fV 0x50 1 2 3 0 0 0 0 0 1) = .error .reserved
      ∧ decodeWord .ve true (fV 0x50 1 2 3 0 0 7 0 0 0) = .error .illegal ∧ decodeWord .va true (fR 0x48 (cQ 8) (cS 5) 6 0 0) = .error .illegal := by
  decide +kernel

/-! ### One ill-formed term for each check of WellFormed -/

/-- Heads: GUARD, the engine's own number as partner, 6, tokens without a partner, a partner in the wick core, GNEG with 126. -/
theorem ill_heads : ∀ q ∈ ([
    (.sq, .nop ⟨7, false, false, 96, false⟩), (.sq, .nop ⟨0, false, false, 126, false⟩), (.sq, .nop ⟨6, false, false, 126, false⟩),
    (.sq, .nop ⟨7, true, false, 126, false⟩), (.sq, .nop ⟨7, false, true, 126, false⟩), (.wick, .nop ⟨1, false, false, 126, false⟩),
    (.sq, .nop ⟨7, false, false, 126, true⟩), (.we, .wnop ⟨3, false, false⟩), (.we, .nop h0)] : List (Eng × Instr)),
    q.2.wellFormed q.1 = false := by decide +kernel

/-- Registers, predicates and queues past their limits or in the wrong direction, and the wrong engine. -/
theorem ill_operands : ∀ q ∈ ([
    (.sq, .jr h0 64), (.va, .jr h0 32), (.sq, .pmov h0 96 0), (.sq, .pmov h0 0 96), (.sq, .add h0 (.q 0) (.x 1) (.x 2)),
    (.va, .add h0 (.q 8) (.x 1) (.x 2)), (.va, .add h0 (.peek 0) (.x 1) (.x 2)), (.va, .add h0 (.x 0) (.q 7) (.x 2)),
    (.va, .add h0 (.x 0) (.peek 16) (.x 2)), (.ve, .add h0 (.x 0) (.q 8) (.x 2)), (.sq, .sel h0 (.x 0) (.x 0) (.x 0) 96),
    (.ve, .ld h0 (.x 1) (.x 2) 0 0 false), (.va, .ldg h0 1 2 0 0 false), (.va, .ssig h0 0 1 ⟨false, false, .stream⟩), (.sq, .rft h0 false),
    (.ve, .vmov h0 (.v 64) (.v 0) f0), (.ve, .vmov h0 (.push 7) (.v 0) f0), (.ve, .vmov h0 (.v 0) (.pop 8) f0),
    (.ve, .vmov h0 (.v 0) (.rot 64) f0), (.ve, .vfcmp h0 (.any 96) .eq (.v 0) (.v 0) f0), (.va, .srel h0 ⟨32, false⟩),
    (.va, .ldqc h0 8 ⟨0, false⟩ 1 none false), (.va, .ldqc h0 0 ⟨0, false⟩ 1 (some 96) false), (.va, .stq h0 ⟨0, false⟩ 7 false 1 false false),
    (.xe, .xcp h0 k0 0 31), (.xe, .xkeyEnc h0 k0 0 30), (.me, .mdrn h0 k0 8 0), (.sq, .mdrn h0 k0 0 0)] : List (Eng × Instr)),
    q.2.wellFormed q.1 = false := by decide +kernel

/-- Immediates, sizes, counts, control-register numbers and semaphores past their fields. -/
theorem ill_fields : ∀ q ∈ ([
    (.sq, .addi h0 (.x 1) (.x 2) 2048), (.sq, .addi h0 (.x 1) (.x 2) (-2049)), (.sq, .lih h0 (.x 1) 0x80000), (.sq, .br h0 false 0x800000),
    (.sq, .shli h0 (.x 1) (.x 2) 64), (.sq, .rdzv h0 4096), (.sq, .loopi h0 0 0), (.sq, .loopi h0 4096 1), (.sq, .loop h0 1 0),
    (.va, .looph h0 1 1 0), (.va, .looph h0 1 1 65), (.sq, .looph h0 1 1 1), (.sq, .trap h0 0x100000), (.sq, .csrr h0 (.x 1) 0x005),
    (.sq, .ld h0 (.x 1) (.x 2) 0 4 false), (.sq, .ssig h0 0 0 ⟨false, false, .stream⟩), (.sq, .ssig h0 256 1 ⟨false, false, .stream⟩),
    (.sq, .ssig h0 0 1 ⟨false, false, .core⟩), (.sq, .mark h0 8 0), (.sq, .mark h0 0 64), (.sq, .mark h0 0 1), (.sq, .gjoin h0 64),
    (.sq, .ckpt h0 1 0), (.sq, .blkh h0 ⟨0, 4, 0, 0, 0, 0, 0, ⟨false, false, .stream⟩⟩), (.sq, .blkh h0 ⟨1, 0, 0, 0, 0, 0, 0, ⟨false, false, .stream⟩⟩),
    (.sq, .blkh h0 ⟨0, 0, 1, 0, 0, 0, 0, ⟨false, false, .stream⟩⟩), (.sq, .blkh h0 ⟨0, 0, 0, 1, 0, 0, 0, ⟨false, false, .stream⟩⟩),
    (.va, .blkh h0 ⟨0, 0, 0, 0, 0, 1, 0, ⟨false, false, .stream⟩⟩), (.va, .blkh h0 ⟨0, 0, 0, 0, 0, 0, 32, ⟨false, false, .stream⟩⟩),
    (.va, .sfib h0 ⟨0, false⟩ 0 4), (.va, .scrd h0 0 ⟨0, false⟩ 4), (.va, .loopt h0 ⟨0, false⟩ 1 129), (.va, .bfxp h0 0 0 0 8),
    (.xe, .xcp h0 ⟨some 256, none, ⟨false, false, .stream⟩⟩ 0 0), (.xe, .xcp h0 ⟨none, none, ⟨false, false, .device⟩⟩ 0 0)] :
      List (Eng × Instr)), q.2.wellFormed q.1 = false := by decide +kernel

/-- Formats and modifiers of VE, and the fields of its own instructions. -/
theorem ill_formats : ∀ q ∈ ([
    .vfadd h0 (.v 0) (.v 0) (.v 0) none ⟨0, 1, 0, 0, false⟩, .vfadd h0 (.v 0) (.v 0) (.v 0) none ⟨2, 0, 0, 0, false⟩,
    .vfadd h0 (.v 0) (.v 0) (.v 0) none ⟨0, 0, 1, 0, false⟩, .vfadd h0 (.v 0) (.v 0) (.v 0) none ⟨0, 0, 0, 0, true⟩,
    .vadd h0 (.v 0) (.v 0) (.v 0) ⟨0, 2, 0, 0, false⟩, .vadd h0 (.v 0) (.v 0) (.v 0) ⟨0, 0, 7, 0, false⟩,
    .vadd h0 (.v 0) (.v 0) (.v 0) ⟨3, 0, 0, 5, false⟩, .vadd h0 (.v 0) (.v 0) (.v 0) ⟨0, 0, 0, 0, true⟩,
    .vmov h0 (.v 0) (.v 0) ⟨0, 0, 0, 2, false⟩, .vlog2 h0 (.v 0) (.v 0) ⟨1, 0, 0, 0, false⟩, .vscl h0 (.v 0) (.v 0) (.v 0) none ⟨0, 0, 0, 7, false⟩,
    .vpks h0 (.v 0) (.v 0) none ⟨1, 0, 0, 0, false⟩, .vcvt h0 (.v 0) (.v 0) .f32 false none ⟨0, 0, 0, 1, false⟩,
    .vcvt h0 (.v 0) (.v 0) .pw2 false none f0, .vcvt h0 (.v 0) (.v 0) .f32 true none ⟨2, 0, 0, 0, true⟩, .vcmp h0 (.all 0) .un (.v 0) (.v 0) f0,
    .vli h0 (.v 0) 256 2, .vli h0 (.v 0) 0 4, .vbcst h0 (.v 0) (.v 0) 128 f0, .vperm h0 (.v 0) (.v 0) (.v 0) ⟨1, 0, 0, 0, false⟩,
    .vext h0 0 (.v 0) 0 1 f0, .vacrF32 h0 (.v 0) 0 64, .vacwF32 h0 32 (.v 0) 0, .loopq h0 0 false 65536 1, .vqlen h0 0 0 9,
    .vqlenZero h0 0 8] : List Instr), q.wellFormed .ve = false := by decide +kernel

/-- Bundles: slots, shifts, factors, a factor in a WG slot, exponents, segments, jumps and waits. -/
theorem ill_bundles : ∀ q ∈ ([
    .wt w0 .pw2 0 [], .wt w0 .pw2 32 (one ⟨0, 0⟩), .wt w0 .pw2 0 (one ⟨32, 0⟩), .wt w0 .pw2 0 (one ⟨0, 256⟩), .wg w0 .i8 256 0 (one ⟨0, 0⟩),
    .wg w0 .i8 0 0 (one ⟨0, 1⟩), .wf w0 false 32 (one ⟨0, 0⟩), .wrow w0 .none true 64, .wrow w0 .none false 1, .wsegFull w0 128 1 0 false .rne,
    .wsegFull w0 0 0 0 false .rne, .wsegFull w0 0 129 0 false .rne, .whook w0 4096, .wlink w0 4096, .wrdzv w0 4096, .wjmp w0 0x2000000,
    .wwait w0 1 0 0 none, .wwait w0 0 0 1 none, .wwait ⟨1, true, false⟩ 0 0 0 none, .wwait w0 0 0 0 (some ⟨false, false, .core⟩)] : List Instr),
    q.wellFormed .we = false := by decide +kernel

/-- Machine events have no word. -/
theorem ill_events : ∀ e ∈ [Eng.sq, .va, .ve, .we, .me, .xe, .wick],
    ∀ q ∈ ([.reset, .safetyTrip, .jobRetire 0 0, .applyWrite 0] : List Instr), q.wellFormed e = false := by decide +kernel

/-! ### Witnesses: states that meet the hypotheses of the statements

wit_X meets the hypotheses of Obligations.X: the tests named after a statement show, clause by clause, that something meets
what it assumes. -/

theorem exIsOk {ε α : Type} {x : Except ε α} (h : x.toOption.isSome = true) : ∃ r, x = .ok r := by
  cases x with
  | ok r => exact ⟨r, rfl⟩
  | error e => cases h

theorem exSome {α : Type} {x : Option α} (h : x.isSome = true) : ∃ r, x = some r := Option.isSome_iff_exists.mp h

/-- The module with one stream of engine e at address 0, whose next instruction has the bytes bs, and its engine's turn. -/
def fetchAt (e : Eng) (priv : Bool) (bs : List Byte) : State :=
  { (at_ e { st := .live, rootT := 1 } { (core0 { jobA with priv := priv }) with
      itlb := [⟨1, 0, 2 ^ 63 + 2 ^ 62⟩], code := [(0, leBytes bs)] }) with todo := [.issue 0 e [1, 2, 3]] }

/-- That state with its turn taken. -/
def turn (s : State) (e : Eng) : State := { s.atTurn 0 e [1, 2, 3] [] with cur := ⟨0, e, 0, [1, 2, 3]⟩ }

/-- What Fetches asks, for slot 0 and the bytes bs. -/
def fetchOk (s : State) (e : Eng) (bs : List Byte) : Bool :=
  decide (s.todo = [.issue 0 e [1, 2, 3]]) && decide ((s.atTurn 0 e [1, 2, 3] []).choose 0 e [1, 2, 3] = some 0)
    && decide (((s.core 0).stream (skey e 0)).wait = .none) && decide ((turn s e).fetch 0 (skey e 0) = .ok bs)

theorem fetches {s : State} {e : Eng} {bs : List Byte} (h : fetchOk s e bs = true) : Fetches s 0 e 0 bs (turn s e) := by
  simp only [fetchOk, Bool.and_eq_true, decide_eq_true_eq] at h
  exact ⟨⟨[1, 2, 3], [], h.1.1.1, h.1.1.2, rfl⟩, h.1.2, h.2⟩

theorem wit_StepRunsDecodedInstruction :
    Fetches (fetchAt .sq true (toBytes 8 0x11E7E01C0E080000)) 0 .sq 0 (toBytes 8 0x11E7E01C0E080000)
        (turn (fetchAt .sq true (toBytes 8 0x11E7E01C0E080000)) .sq)
      ∧ decode .sq (((fetchAt .sq true (toBytes 8 0x11E7E01C0E080000)).core 0).privileged 0) (toBytes 8 0x11E7E01C0E080000)
          = .ok (.addi h0 (.x 7) (.x 7) 64)
      ∧ ((fetchAt .sq true (toBytes 8 0x11E7E01C0E080000)).core 0).interlocked 0 (.addi h0 (.x 7) (.x 7) 64) = false
      ∧ ∀ s, Host.Outcome.fault Fault.noSuchAddress ≠ (.next s : Host.Outcome State Fault Refusal) :=
  ⟨fetches (by decide +kernel), by decide +kernel, by decide +kernel, fun _ h => by cases h⟩

/-- The first instruction after withFetchWord: the same word at the reset state. -/
theorem wit_withFetchWord :
    fetchOk (State.reset.withFetchWord 64 0x11E7E01C0E080000) .sq (toBytes 8 0x11E7E01C0E080000) = true := by decide +kernel

/-- One word for each decode error. -/
theorem wit_UndecodableWordsTrap :
    ∀ q ∈ [(0x0FE7E00000000000, DecodeErr.illegal), (2 ^ 43 + hw, .reserved), (fR 0xF1 0 7 0 0 0, .privileged)],
      fetchOk (fetchAt .sq false (toBytes 8 q.1)) .sq (toBytes 8 q.1) = true
        ∧ decode .sq (((fetchAt .sq false (toBytes 8 q.1)).core 0).privileged 0) (toBytes 8 q.1) = .error q.2 := by decide +kernel

theorem wit_StepTakesTheNextTurn :
    ({ State.reset with todo := [.event .safetyTrip] } : State).todo = .event .safetyTrip :: []
      ∧ ({ State.reset with todo := [.packet 3] } : State).todo = .packet 3 :: []
      ∧ ({ State.reset with todo := [.router 0] } : State).todo = .router 0 :: []
      ∧ ({ State.reset with todo := [.roslor 0 1] } : State).todo = .roslor 0 1 :: []
      ∧ ({ State.reset with todo := [] } : State).trip = false ∧ ({ State.reset with todo := [], trip := true } : State).todo = [] :=
  ⟨rfl, rfl, rfl, rfl, rfl, rfl⟩

/-- The opcodes 0xF0 and 0xF8 where they are illegal, 0xF1 without privilege, and a word of each system opcode. -/
theorem wit_SystemOpcodes :
    (∀ q ∈ [(Eng.va, 0xF0E7E00000000000), (.sq, 0xF8E7E00000000000), (.sq, 0xF1E7E00E00000000)],
        fetchOk (fetchAt q.1 false (toBytes 8 q.2)) q.1 (toBytes 8 q.2) = true ∧ 0xF0 ≤ leBytes (toBytes 8 q.2) / 2 ^ 56
          ∧ ((fetchAt q.1 false (toBytes 8 q.2)).core 0).privileged (skey q.1 0) = false)
      ∧ ∀ q ∈ sqWords, 0xF0 ≤ q.2.1 / 2 ^ 56 → decode q.1 true (toBytes 8 q.2.1) = .ok q.2.2 := by decide +kernel

/-- The bytes of a bundle: bits 255 to 192 are its first dword (R73). -/
def bundle (w : Nat) : List Byte := (List.range 4).flatMap fun i => toBytes 8 (w / 2 ^ (192 - 64 * i))

theorem wit_WeightOpcodes :
    fetchOk (fetchAt .we false (bundle (fB 14 0 0 0 0 0))) .we (bundle (fB 14 0 0 0 0 0)) = true
      ∧ 0x0E ≤ wordOf .we (bundle (fB 14 0 0 0 0 0)) / 2 ^ 248
      ∧ ∀ q ∈ weWords, decode .we false (bundle q.2.1) = .ok q.2.2 := by decide +kernel

theorem wit_DecodeAndEncodeAgree :
    (∀ q ∈ sqWords ++ vaWords ++ weWords, q.2.2.wellFormed q.1 = true)
      ∧ decode .ve false (toBytes 8 0x40E7E0222E180202) = .ok (.vfadd h0 (.v 4) (.rot 5) (.peek 3) none ⟨1, 1, 0, 0, false⟩) := by
  decide +kernel

/-- A false guard, with a token to push. -/
def hF : Head := ⟨1, false, true, 5, false⟩

theorem wit_FalseGuardActsAsNop : Instr.head (.nop hF) = some hF ∧ (mk .sq []).self.guardTrue hF = false
    ∧ ((mk .sq []).here.unpop 0).tokens 0 1 false true = .ok (mk .sq []).here := by decide +kernel

/-! The stream in turn issues: issOk s says that Issues s h0 s.here, and with w0 that IssuesWe s w0 s.here. -/

def issOk (s : State) : Bool :=
  s.self.guardTrue h0 && decide ((s.here.unpop s.cur.key).tokens s.cur.key 7 false false = .ok s.here)

theorem issues {s : State} (h : issOk s = true) : Issues s h0 s.here := by
  simp only [issOk, Bool.and_eq_true, decide_eq_true_eq] at h
  exact ⟨h.1, h.2⟩

theorem issuesWe {s : State} (h : issOk s = true) (hk : (s.self.we.hook.act && s.self.we.hook.entry) = false) :
    IssuesWe s w0 s.here := ⟨(issues h).2, hk⟩

/-- A VA stream with a value at the head of q8 and q9. -/
def sVaQ : State := at_ .va (strm []) (((core0 jobA).setQueue 8 { places := [.present (.sca 3)] }).setQueue 9 { places := [.present (.sca 4)] })

/-- Register and queue operands, and x0 as destination. -/
theorem wit_TwoSourceResults :
    Issues (mk .sq [(1, 7), (2, 8)]) h0 (mk .sq [(1, 7), (2, 8)]).here
      ∧ (mk .sq [(1, 7), (2, 8)]).here.opndCheck 0 [.x 1, .x 2] (some (.x 0)) = none
      ∧ Issues sVaQ h0 sVaQ.here ∧ sVaQ.here.opndCheck 4 [.q 8, .peek 9] (some (.q 0)) = none :=
  ⟨issues (by decide +kernel), by decide +kernel, issues (by decide +kernel), by decide +kernel⟩

theorem wit_OneSourceAndPredicateResults :
    Issues (mk .ve [(1, 7)]) h0 (mk .ve [(1, 7)]).here ∧ (mk .ve [(1, 7)]).here.opndCheck 8 [.x 1] (some (.x 2)) = none
      ∧ (mk .ve [(1, 7)]).here.opndCheck 8 [.x 1, .x 0] none = none ∧ (mk .ve [(1, 7)]).here.opndCheck 8 [] (some (.x 31)) = none :=
  ⟨issues (by decide +kernel), by decide +kernel⟩

theorem wit_EndingResults :
    Issues (mk .va []) h0 (mk .va []).here ∧ (mk .va []).here.workDone (mk .va []).cur.key (mk .va []).cycles = true
      ∧ ((mk .va []).here.returnCredit (mk .va []).cur.key).workDone (mk .va []).cur.key (mk .va []).cycles = true :=
  ⟨issues (by decide +kernel), by decide +kernel⟩

/-- A translation of page 0 to physical page 0 for reading and writing, and line 0 in the read buffer, whose first dword
is v. -/
def mapped (v : Nat) (c : Core) : Core :=
  { c with dtlb := [⟨0, 0, false, 2 ^ 63 + 2 ^ 62⟩], rb := [(0, toBytes 64 v)] }

def readOk : DRes → Bool
  | .ok _ _ => true
  | .trap _ _ | .wait _ | .sent _ _ => false

theorem readIsOk {r : DRes} (h : readOk r = true) : ∃ v c, r = .ok v c := by
  cases r with
  | ok v c => exact ⟨v, c, rfl⟩
  | trap a b => cases h
  | wait c => cases h
  | sent c a => cases h

/-- An SQ stream whose data page 0 is mapped and holds 0x1230 in its first dword. -/
def sMap (xs : List (Nat × Nat)) : State := at_ .sq (strm xs) (mapped 0x1230 (core0 jobA))

/-- Targets inside the space, at its end, and misaligned, and a slot of the global offset table. -/
theorem wit_TransferResults :
    (Issues (mk .sq [(1, 2 ^ 48), (2, 2 ^ 48 - 4), (3, 2 ^ 48 - 8)]) h0 (mk .sq [(1, 2 ^ 48), (2, 2 ^ 48 - 4), (3, 2 ^ 48 - 8)]).here)
      ∧ (let t := (mk .sq [(1, 2 ^ 48), (2, 2 ^ 48 - 4), (3, 2 ^ 48 - 8)]).self;
          (t.pc : Int) + 8 * (-8) = (0 : Nat) ∧ t.getP 0 = false ∧ 2 ^ 48 ≤ (t.getX 1).toNat ∧ (t.getX 2).toNat < 2 ^ 48
            ∧ (t.getX 2).toNat % 8 ≠ 0 ∧ (t.getX 3).toNat < 2 ^ 48 ∧ (t.getX 3).toNat % 8 = 0
            ∧ immOk 24 (-9) = true ∧ (t.pc : Int) + 8 * (-9) < 0)
      ∧ Issues (sMap []) h0 (sMap []).here
      ∧ ∃ c1, (sMap []).here.readData ((sMap []).here.sender 0 0 0) (addrOf (sMap []).here 0 0 0) 8 = .ok 0x1230 c1 := by
  refine ⟨issues (by decide +kernel), by decide +kernel, issues (by decide +kernel), ?_⟩
  obtain ⟨v, c, h⟩ := readIsOk (r := (sMap []).here.readData ((sMap []).here.sender 0 0 0) (addrOf (sMap []).here 0 0 0) 8)
    (by decide +kernel)
  have hv : v = 0x1230 := by
    have : (match (sMap []).here.readData ((sMap []).here.sender 0 0 0) (addrOf (sMap []).here 0 0 0) 8 with
      | .ok v _ => v | .trap _ _ => 0 | .wait _ => 0 | .sent _ _ => 0) = 0x1230 := by decide +kernel
    rwa [h] at this
  exact ⟨c, hv ▸ h⟩

/-- Counts 0 and 1, and a full loop stack. -/
theorem wit_LoopResults :
    Issues (mk .ve [(2, 1)]) h0 (mk .ve [(2, 1)]).here ∧ ((mk .ve [(2, 1)]).self.getX 1).toNat = 0
      ∧ ((mk .ve [(2, 1)]).self.getX 2).toNat = 1 ∧ (mk .ve [(2, 1)]).self.loops.length < 4
      ∧ Issues (at_ .ve { strm [] with loops := List.replicate 4 ⟨0, 8, 1, 0, 0⟩ } (core0 jobA)) h0
          (at_ .ve { strm [] with loops := List.replicate 4 ⟨0, 8, 1, 0, 0⟩ } (core0 jobA)).here :=
  ⟨issues (by decide +kernel), by decide +kernel, by decide +kernel, by decide +kernel, issues (by decide +kernel)⟩

/-- The wick core handling a fault of stream 0 of job 0, with cause n of its record. -/
def sWick (n : Nat) (xs : List (Nat × Nat)) : State :=
  at_ .wick (strm xs) ({ ((core0 { jobA with trap := ⟨n, 128, 0, 0, 0⟩ }).setStream 0 (strm [])) with
    frozen := true, trapJob := 0, trapKey := 0, trapCause := 0x08 })

theorem wit_TrapResults : Issues (mk .sq []) h0 (mk .sq []).here ∧ (mk .sq []).cur.eng ≠ .wick
    ∧ Issues (sWick 8 []) h0 (sWick 8 []).here ∧ (sWick 8 []).cur.eng = .wick :=
  ⟨issues (by decide +kernel), by decide +kernel, issues (by decide +kernel), by decide +kernel⟩

/-- An SQ stream without privilege. -/
def sUser (xs : List (Nat × Nat)) : State := at_ .sq (strm xs) (core0 { jobA with priv := false })

/-- A readable register and one that needs privilege; values on both sides of each width. -/
theorem wit_ControlRegisterResults :
    Issues (sUser []) h0 (sUser []).here ∧ csrReadOk (sUser []).here 0 0x020 = false ∧ csrReadOk (sUser []).here 0 0x010 = true
      ∧ (sUser []).here.opndCheck 0 [] (some (.x 1)) = none ∧ (sUser []).here.privileged 0 = false
      ∧ (let s := mk .sq [(1, 255), (2, 256), (3, 1023), (4, 1024), (5, 2 ^ 62), (6, 2 ^ 48), (7, 0x507), (8, 0x600), (9, 4096), (10, 0xC3), (11, 0x5FF),
            (12, 0x800), (13, 2 ^ 32)];
          issOk s = true ∧ s.here.privileged 0 = true ∧ (∀ n ∈ [1, 2, 3, 4, 5, 6, 7, 8, 9, 10, 11, 12, 13], s.here.opndCheck 0 [.x n] none = none)
            ∧ (s.here.opndVal 0 (.x 1)).toNat < 2 ^ 8 ∧ 2 ^ 8 ≤ (s.here.opndVal 0 (.x 2)).toNat
            ∧ (s.here.opndVal 0 (.x 3)).toNat < 2 ^ 10 ∧ 2 ^ 10 ≤ (s.here.opndVal 0 (.x 4)).toNat
            ∧ (s.here.opndVal 0 (.x 5)).toNat / 2 ^ 48 % 2 ^ 14 = 0 ∧ (s.here.opndVal 0 (.x 6)).toNat / 2 ^ 48 % 2 ^ 14 ≠ 0
            ∧ (s.here.opndVal 0 (.x 7)).toNat < 2 ^ 12 ∧ (s.here.opndVal 0 (.x 7)).toNat / 2 ^ 8 % 8 < 6
            ∧ (s.here.opndVal 0 (.x 7)).toNat / 2 ^ 3 % 2 ^ 5 = 0 ∧ (s.here.opndVal 0 (.x 11)).toNat / 2 ^ 3 % 2 ^ 5 ≠ 0
            ∧ 6 ≤ (s.here.opndVal 0 (.x 8)).toNat / 2 ^ 8 % 8 ∧ 2 ^ 12 ≤ (s.here.opndVal 0 (.x 9)).toNat
            ∧ (s.here.opndVal 0 (.x 9)).toNat < 2 ^ 48 ∧ 2 ^ 48 ≤ (s.here.opndVal 0 (.x 6)).toNat
            ∧ (let v := (s.here.opndVal 0 (.x 10)).toNat; v < 2 ^ 32 ∧ v / 2 ^ 11 % 2 ^ 3 = 0 ∧ v / 2 ^ 2 % 2 ^ 3 = 0)
            ∧ (s.here.opndVal 0 (.x 1)).toNat / 2 ^ 2 % 2 ^ 3 ≠ 0 ∧ (s.here.opndVal 0 (.x 12)).toNat / 2 ^ 11 % 2 ^ 3 ≠ 0
            ∧ 2 ^ 32 ≤ (s.here.opndVal 0 (.x 13)).toNat
            ∧ 0x070 ∉ [0x010, 0x020, 0x021, 0x022, 0x023, 0x024, 0x030, 0x040, 0x041, 0x042, 0x060]) :=
  ⟨issues (by decide +kernel), by decide +kernel⟩

theorem wit_PositionRegisters :
    Issues (sWick 8 []) h0 (sWick 8 []).here ∧ (sWick 8 []).here.opndCheck 24 [] (some (.x 1)) = none
      ∧ (sWick 8 []).cur.core = 16 * 0 + 0 ∧ [0, 1, 2, 3, 7, 6, 5, 9, 10, 11, 15, 14, 13, 12, 8, 4].getD 0 0 = 0 :=
  ⟨issues (by decide +kernel), by decide +kernel⟩

/-- Addresses in the region, misaligned, past the scratchpad, and outside the regions; and in the wick core's memory. -/
theorem wit_LoadAndStoreResults :
    (let s := mk .sq [(1, 2 ^ 19 - 8), (2, 4), (3, 2 ^ 19)];
      issOk s = true ∧ (∀ n ∈ [1, 2, 3], s.here.opndCheck 0 [.x n] (some (.x 4)) = none ∧ s.here.opndCheck 0 [.x n] none = none)
        ∧ memCheck s s.here (s.here.opndVal 0 (.x 1) + BitVec.ofInt 64 0).toNat 8 = none
        ∧ (s.here.opndVal 0 (.x 2) + BitVec.ofInt 64 0).toNat % 8 ≠ 0 ∧ 2 ^ 19 ≤ (s.here.opndVal 0 (.x 3) + BitVec.ofInt 64 0).toNat)
      ∧ (let s := at_ .sq (strm []) (core0 { jobA with sec := [] });
          issOk s = true ∧ (s.here.job 0).inRegions 0 8 = false)
      ∧ issOk (sWick 8 []) = true ∧ memCheck (sWick 8 []) (sWick 8 []).here (2 ^ 16 - 8) 8 = none := by decide +kernel

def sentOk : DRes → Bool
  | .sent _ _ => true
  | .ok _ _ | .trap _ _ | .wait _ => false

theorem sentIs {r : DRes} (h : sentOk r = true) : ∃ c a, r = .sent c a := by
  cases r with
  | sent c a => exact ⟨c, a, rfl⟩
  | ok v c => cases h
  | trap a b => cases h
  | wait c => cases h

/-- A line that the core holds and one that it does not, in the mapped page. -/
theorem wit_DeviceAccessResults :
    Issues (sMap [(1, 4), (2, 2 ^ 48)]) h0 (sMap [(1, 4), (2, 2 ^ 48)]).here
      ∧ (∃ v c1, (sMap [(1, 4), (2, 2 ^ 48)]).here.readData ((sMap [(1, 4), (2, 2 ^ 48)]).here.sender 0 0 0)
          (addrOf (sMap [(1, 4), (2, 2 ^ 48)]).here 0 0 0) 8 = .ok v c1)
      ∧ (∃ c1 pa, (sMap [(1, 4), (2, 2 ^ 48)]).here.readData ((sMap [(1, 4), (2, 2 ^ 48)]).here.sender 0 0 0)
          (addrOf (sMap [(1, 4), (2, 2 ^ 48)]).here 0 0 64) 8 = .sent c1 pa)
      ∧ (∃ v c1, (sMap [(1, 4), (2, 2 ^ 48)]).here.writeData ((sMap [(1, 4), (2, 2 ^ 48)]).here.sender 0 0 0)
          (addrOf (sMap [(1, 4), (2, 2 ^ 48)]).here 0 0 8) 8 77 = .ok v c1)
      ∧ addrOf (sMap [(1, 4), (2, 2 ^ 48)]).here 0 1 0 % 8 ≠ 0 ∧ 2 ^ 48 ≤ addrOf (sMap [(1, 4), (2, 2 ^ 48)]).here 0 2 0 :=
  ⟨issues (by decide +kernel), readIsOk (by decide +kernel), sentIs (by decide +kernel), readIsOk (by decide +kernel), by decide +kernel⟩

def headOk : HRes → Bool
  | .ok _ => true
  | .unsat | .trap _ _ => false

theorem headIsOk {r : HRes} (h : headOk r = true) : ∃ c, r = .ok c := by
  cases r with
  | ok c => exact ⟨c, rfl⟩
  | unsat => cases h
  | trap a b => cases h

/-- A head with counts, tokens and queues that holds, one that does not, and one outside the semaphore window. -/
def hd1 : HeadSpec := ⟨3, 2, 1, 1, 1, 0, 0, ⟨true, true, .device⟩⟩

def sHead : State :=
  at_ .ve (strm []) (((core0 { jobA with tokens := mput 0 (fifoNo 1 2) 1 [] }).setSem 3 2).setQueue 0 { places := [.present (.sca 1)] })

theorem wit_HeadResults :
    Issues sHead h0 sHead.here ∧ (∃ c1, headTest (sHead.setCore 0 sHead.here) 0 8 1 hd1 = .ok c1)
      ∧ (1 ≠ 0 ∧ (sHead.here.job 0).semSize ≤ 4 ∧ sHead.cur.key ≠ 24)
      ∧ headTest (sHead.setCore 0 sHead.here) 0 8 1 { hd1 with scnt := 3 } = .unsat
      ∧ ¬(hd1.greg ≠ 0 ∧ hd1.sync.acq = true ∧ hd1.sync.scope ∈ [Scope.die, .device, .system]) :=
  ⟨issues (by decide +kernel), headIsOk (by decide +kernel), by decide +kernel⟩

theorem wit_SemaphoreAndMarkerResults :
    (let s := mk .sq [(1, 2 ^ 32 - 1), (2, 2 ^ 32)];
      Issues s h0 s.here ∧ (s.here.job (s.here.jobOf 0)).semSize ≤ 4 ∧ 3 < (s.here.job (s.here.jobOf 0)).semSize
        ∧ s.here.released 0 s.cycles .device = true ∧ (s.self.getX 1).toNat < 2 ^ 32 ∧ 2 ^ 32 ≤ (s.self.getX 2).toNat
        ∧ (∀ x ∈ ((List.range 6).filter (bit 0x3E)).filterMap (s.here.marker 0 7),
            ((s.here.job 0).markers.filter fun y => y.eng == x.eng).length < 8)
        ∧ ∀ x ∈ (s.here.job 0).markers, ¬(x.key = 0 ∧ x.join = 7)) := by
  refine ⟨issues (by decide +kernel), by decide +kernel, by decide +kernel, by decide +kernel, by decide +kernel,
    by decide +kernel, by decide +kernel, by decide +kernel⟩

/-- jobA with capability entries: channel, KIND with permissions in bits 63 to 56 of the high word, low word. -/
def withCaps (caps : List (Nat × Nat × Nat)) : Job :=
  { jobA with sec := caps.foldl (fun m e => mput 0 (9 + 2 * e.1) (BitVec.ofNat 64 e.2.1) (mput 0 (8 + 2 * e.1) (BitVec.ofNat 64 e.2.2) m)) jobA.sec }

/-- High word of a valid entry of a kind with every permission and no limit. -/
def capHi (kind : Nat) : Nat := 2 ^ 63 + kind * 2 ^ 60 + 15 * 2 ^ 56 + (2 ^ 48 - 1)

/-- An SQ stream in groups gs; channel 2 names group 5, and group 5 has the stream among its members if mem is set. -/
def sGroup (gs : List Nat) (mem : Bool) : State :=
  { (at_ .sq { strm [] with groups := gs } (core0 (withCaps [(2, capHi 1, 5), (3, capHi 0, 0)]))) with
    groups := if mem then [(5, ⟨[(0, 0), (0, 1)], 7, [(0, 0), (0, 1)], [], [], []⟩)] else [] }

/-- In the group, out of it with room and with eight others, and channels of no group. -/
theorem wit_GroupResults :
    (let s := sGroup [5] true;
      issOk s = true ∧ ((s.here.job 0).cap 2).valid = true ∧ ((s.here.job 0).cap 2).kind = 1 ∧ ((s.here.job 0).cap 2).lo % 2 ^ 12 = 5
        ∧ 5 ∈ (s.here.stream 0).groups ∧ (0, 0) ∈ (s.group 5).members ∧ (s.group 5).members.filter (· != (0, 0)) ≠ []
        ∧ (0, 0) ∉ (s.group 5).arrived ∧ s.here.released 0 s.cycles .system = true
        ∧ ((s.here.job 0).cap 3).kind ≠ 1 ∧ ((s.here.job 0).cap 4).valid = false)
      ∧ (issOk (sGroup [] false) = true ∧ 5 ∉ ((sGroup [] false).here.stream 0).groups ∧ ((sGroup [] false).here.stream 0).groups.length < 8
        ∧ ((sGroup [] false).group 5).members = [])
      ∧ (issOk (sGroup [1, 2, 3, 4, 6, 7, 8, 9] false) = true ∧ 5 ∉ ((sGroup [1, 2, 3, 4, 6, 7, 8, 9] false).here.stream 0).groups
        ∧ 8 ≤ ((sGroup [1, 2, 3, 4, 6, 7, 8, 9] false).here.stream 0).groups.length) := by decide +kernel

/-- An SQ stream with a channel to core 1 of the module, and planes in each state; x1 = 65535 and x2 = 0. -/
def sPlane (priv : Bool) (n : Nat) : State :=
  at_ .sq (strm [(1, 65535)]) { (core0 { (withCaps [(2, capHi 0, 2 ^ 56 + 2 ^ 19 * 2 ^ 20)]) with priv := priv }) with planeSt := n }

theorem wit_PostAndPlaneResults :
    Issues (sPlane true 0) h0 (sPlane true 0).here
      ∧ (∃ cp, mpostCheck (sPlane true 0).here ((sPlane true 0).here.job 0) ((sPlane true 0).self.getX 2).toNat 2 = .ok cp)
      ∧ (sPlane true 0).here.released 0 (sPlane true 0).cycles .device = true
      ∧ ((sPlane true 0).self.getX 1).toNat < 2 ^ 16 ∧ (sPlane true 0).here.privileged 0 = true ∧ (sPlane true 0).here.planeSt ≠ 2
      ∧ (sPlane true 0).planeRecord 0 65535 = none ∧ (sPlane true 0).planeBad 0 65535 = false
      ∧ issOk (sPlane true 2) = true ∧ (sPlane true 2).here.planeSt = 2
      ∧ issOk (sPlane false 0) = true ∧ (sPlane false 0).here.privileged 0 = false :=
  ⟨issues (by decide +kernel), exIsOk (by decide +kernel), by decide +kernel⟩

/-- A plane record of core 0 with an all-zero image at physical address 4096 of device memory. -/
def sRecord : State :=
  let img := List.replicate 2656 (0 : Byte)
  let s := (sPlane true 0).updDie 0 fun d => { d with planeBase := 4096, planeCount := 1 }
  { s with mem := wrLe (wrLe s.mem 4096 4 planeMagic) 4100 4 (crc32c img) }

set_option maxRecDepth 100000 in
theorem wit_plane_record :
    (∃ r, sRecord.planeRecord (dieOf sRecord.cur.core) ((sRecord.self.getX 2).toNat) = some r)
      ∧ ({ sRecord with bad := [128] } : State).planeBad (dieOf sRecord.cur.core) ((sRecord.self.getX 2).toNat) = true :=
  ⟨exSome (by decide +kernel), by decide +kernel⟩

/-- The cause as it was, another assigned one, and outside the wick core. -/
theorem wit_ReturnFromFault :
    Issues (sWick 8 []) h0 (sWick 8 []).here ∧ (sWick 8 []).cur.eng = .wick
      ∧ ((sWick 8 []).here.job (sWick 8 []).here.trapJob).trap.cause = (sWick 8 []).here.trapCause
      ∧ issOk (sWick 1 []) = true ∧ ((sWick 1 []).here.job 0).trap.cause ≠ (sWick 1 []).here.trapCause
      ∧ ((sWick 1 []).here.job 0).st ≠ .saved ∧ 1 ≤ ((sWick 1 []).here.job 0).trap.cause
      ∧ ¬(((sWick 0x18 []).here.job 0).trap.cause = 0x16 ∧ descPre ((sWick 0x18 []).here.job 0).desc = true)
      ∧ ((sWick 0x18 []).here.job 0).trap.cause ≤ 0x18 ∧ 0x18 < ((sWick 0x19 []).here.job 0).trap.cause
      ∧ ((sWick 0 []).here.job 0).trap.cause = 0
      ∧ (∀ st ∈ [JobSt.saved, .stopping, .running],
          let c := (sWick 8 []).here.updJob 0 fun b => { b with st := st, desc := 2 ^ 10, trap := ⟨0x16, 128, 0, 0, 0⟩ };
          (c.job 0).trap.cause ≠ c.trapCause ∧ (c.job 0).trap.cause = 0x16 ∧ descPre (c.job 0).desc = true ∧ (c.job 0).st = st)
      ∧ issOk (mk .sq []) = true ∧ (mk .sq []).cur.eng ≠ .wick
      ∧ (sWick 8 []).here.trapKey ≠ 24 ∧ (sWick 8 []).here.trapCmd = false
      ∧ ((sWick 8 []).here.stream (sWick 8 []).here.trapKey).we.hook.running = false :=
  ⟨issues (by decide +kernel), by decide +kernel⟩

/-- The bytes of an image of a saved job without streams, whose descriptor names plane record p. -/
def imgBytes (p : Nat) : List Byte := State.reset.imageOf 0 2 { job := { desc := p * 2 ^ 320 } }

/-- A privileged SQ stream with jobs 1 HELD and 2 STOPPED, and the bytes of an image at data address 0 in the read buffer. x1 to x3
hold the job slots 1 to 3, x4 a misaligned address. -/
def sImage (bs : List Byte) : State :=
  at_ .sq (strm [(1, 1), (2, 2), (3, 3), (4, 8), (5, 8)]) { ((core0 jobA).setJob 1 { jobA with st := .held }).setJob 2 { st := .stopped } with
    dtlb := [⟨0, 0, false, 2 ^ 63 + 2 ^ 62⟩], rb := (List.range 12).map fun i => (i, (bs.drop (64 * i)).take 64) }

def imageRead (x : IRes) : Option (List Byte) :=
  match x with
  | .ok _ bs => some bs
  | .trap _ _ | .wait _ => none

theorem imageReads {x : IRes} {bs : List Byte} (h : imageRead x = some bs) : ∃ c, x = .ok c bs := by
  cases x with
  | ok c b => cases h; exact ⟨c, rfl⟩
  | trap a b => cases h
  | wait c => cases h

def placesOk (x : PRes) : Bool :=
  match x with
  | .ok _ _ => true
  | .trap _ _ | .wait _ => false

theorem placesIs {x : PRes} (h : placesOk x = true) : ∃ c pas, x = .ok c pas := by
  cases x with
  | ok c pas => exact ⟨c, pas, rfl⟩
  | trap a b => cases h
  | wait c => cases h

set_option maxRecDepth 100000 in
/-- Job slots in each state, and an image that CTXLD takes. -/
theorem wit_ContextResults :
    (let s := sImage [];
      Issues s h0 s.here
        ∧ ((s.self.getX 1).toNat < 8 ∧ (s.here.job 1).st = .held ∧ (s.here.job 3).st ≠ .held ∧ 8 ≤ (s.self.getX 5).toNat)
        ∧ ((s.self.getX 0).toNat % 4096 = 0 ∧ (s.here.job 2).st = .stopped ∧ (s.here.job 1).st ≠ .stopped
          ∧ (s.self.getX 4).toNat % 4096 ≠ 0)
        ∧ (∃ c1 pas, s.here.xlatPieces 0 true (pieces 0 (s.imageOf 0 2 (s.capture 0 2)).length) = .ok c1 pas)
        ∧ (s.here.job 3).st = .free ∧ (s.here.job 1).st ≠ .free)
      ∧ ∃ c1, (sImage (imgBytes 0xFFFF)).here.readImage ((sImage (imgBytes 0xFFFF)).here.sender 0 0 0) 0 256 =
          .ok c1 ((imgBytes 0xFFFF).take 256) :=
  ⟨⟨issues (by decide +kernel), by decide +kernel, by decide +kernel, placesIs (by decide +kernel), by decide +kernel⟩,
    imageReads (by decide +kernel)⟩

set_option maxRecDepth 100000 in
/-- Headers that fail and that pass, a body that fails and one that passes, and images that fit and that do not. -/
theorem wit_context_images :
    (let h := (imgBytes 0xFFFF).take 256;
      let body := (imgBytes 0xFFFF).drop 256;
      headerCheck h = .ok () ∧ headerCheck [] = .error .malformed ∧ 256 + bodyLen h = 768
        ∧ imageRead ((sImage (imgBytes 0xFFFF)).here.readImage ((sImage (imgBytes 0xFFFF)).here.sender 0 0 0) 0 768) = some (imgBytes 0xFFFF)
        ∧ (sImage []).plainBody 0 h body = .ok body ∧ (sImage []).plainBody 0 h [1] = .error .crc
        ∧ ((sImage []).restoreHeld 0 3 (readImage h body)).isSome = true
        ∧ ((sImage []).restoreHeld 0 3 (readImage ((imgBytes 0).take 256) ((imgBytes 0).drop 256))).isSome = false) := by decide +kernel

/-- x1 = 2^48 - 1, x2 = 2^48, x3 = 4095, x4 = 4096, x5 = 64, where 64 bytes of the region lie. -/
def sSys : State := mk .sq [(1, 2 ^ 48 - 1), (2, 2 ^ 48), (3, 4095), (4, 4096), (5, 64), (6, 15), (7, 16)]

theorem wit_TranslationAndTableResults :
    Issues sSys h0 sSys.here
      ∧ (sSys.self.getX 1).toNat < 2 ^ 48 ∧ 2 ^ 48 ≤ (sSys.self.getX 2).toNat
      ∧ (sSys.self.getX 3).toNat < 4096 ∧ 4096 ≤ (sSys.self.getX 4).toNat
      ∧ (∀ n ∈ [16, 32, 64], (sysBytes sSys sSys.here (sSys.self.getX 5).toNat n).toOption.isSome = true)
      ∧ Cap.ok ⟨leBytes ((rdBytes sSys.here.spad 64 16).drop 8), leBytes ((rdBytes sSys.here.spad 64 16).take 8)⟩ = true
      ∧ (sSys.self.getX 0).toNat < 8 ∧ (sSys.here.job 0).st ≠ .free ∧ Cap.ok ⟨2 ^ 48, 0⟩ = false
      ∧ (sSys.self.getX 6).toNat < 16 ∧ 16 ≤ (sSys.self.getX 7).toNat ∧ tenantOk (leBytes (rdBytes sSys.here.spad 64 32)) = true
      ∧ tenantOk (2 ^ 192) = false :=
  ⟨issues (by decide +kernel), by decide +kernel⟩

/-- The 16 and 32 bytes of those rejected records, in the scratchpad. -/
def sBad : State := at_ .sq (strm [(5, 64)]) { (core0 jobA) with spad := wrLe (wrLe [] 72 8 (2 ^ 48)) 88 8 1 }

theorem wit_bad_records :
    issOk sBad = true
      ∧ sysBytes sBad sBad.here 64 16 = .ok (toBytes 16 (2 ^ 112)) ∧ Cap.ok ⟨leBytes ((toBytes 16 (2 ^ 112)).drop 8), leBytes ((toBytes 16 (2 ^ 112)).take 8)⟩ = false
      ∧ sysBytes sBad sBad.here 64 32 = .ok (toBytes 32 (2 ^ 112 + 2 ^ 192)) ∧ tenantOk (leBytes (toBytes 32 (2 ^ 112 + 2 ^ 192))) = false := by
  decide +kernel

/-- A one-dimensional dense descriptor of INT32 elements in the scratchpad (R186, R188): address, size, stride 1. -/
def dInt (addr size : Nat) : Nat := addr + 2 ^ 128 + size * 2 ^ 168 + 12 * 2 ^ 116 + 1 * 2 ^ 122

/-- A dense register over four elements, and one with a dense level of size 4 and its fibre begun. -/
def g0 : StReg := { valid := true, desc := dInt 0 4 }
def g1 : StReg := { g0 with levels := [4], mode := 1, fibs := [(0, some ⟨0, 0, 4, 0, 0, 0, none, false⟩)] }

/-- A VA stream: st0 dense, st1 and st2 levelled, st3 empty, st4 an intersection of st5 and st6, st7 dense at its end, st8 dense over
INT8. A
descriptor stands at 0 of the scratchpad, a level record at 64, and zeros, which are no descriptor, at 128. -/
def sVa (xs : List (Nat × Nat)) : State :=
  at_ .va { strm xs with
      stregs := [(0, g0), (1, g1), (2, g1), (4, { valid := true, mode := 2, opA := 5, opB := 6 }), (5, { g1 with bound := some 4 }),
        (6, { g1 with bound := some 4 }), (7, { g0 with idx := 4, done := true }),
        (8, { g0 with desc := dInt 0 4 - 5 * 2 ^ 116 })] }
    { ((core0 jobA).setQueue 8 { places := [.present (.vec (3 + 5 * 2 ^ 32) 2)] }) with
      spad := wrLe (wrLe [] 0 64 (dInt 0 4)) 64 8 4 }

theorem wit_StreamRegisterResults :
    (let s := sVa [(1, 8), (2, 64), (3, 128), (4, 3), (5, 4)];
      let t := s.self;
      let b := s.here.job 0;
      issOk s = true
        ∧ addrOf s.here 4 1 0 % 64 ≠ 0 ∧ addrOf s.here 4 0 0 % 64 = 0 ∧ b.inRegions 0 64 = true ∧ (t.sreg 3).tied = false
        ∧ descOk (leBytes (s.here.spadRead 0 64)) = true ∧ (t.sreg 4).tied = true ∧ (t.sreg 5).tied = true
        ∧ descOk (leBytes (s.here.spadRead 128 64)) = false
        ∧ b.inRegions 64 32 = true ∧ (t.sreg 1).tied = false ∧ (t.sreg 1).valid = true ∧ dDims (t.sreg 1).desc = 1
        ∧ (t.sreg 1).levels.length < 4 ∧ levelOk (leBytes (s.here.spadRead 64 32)) = true ∧ (t.sreg 3).valid = false
        ∧ levelOk (leBytes (s.here.spadRead 128 32)) = false
        ∧ StOpnd.idx ⟨5, false⟩ t = .ok 5 ∧ (t.sreg 5).bound.isSome = true ∧ StOpnd.idx ⟨4, false⟩ t = .ok 4 ∧ (t.sreg 4).bound = none
        ∧ StOpnd.idx ⟨0, false⟩ t = .ok 0 ∧ (t.sreg 0).valid = true ∧ (t.sreg 0).tied = false ∧ (t.sreg 0).mode = 0
        ∧ (t.getX 4).toNat < dTotal (t.sreg 0).desc ∧ dTotal (t.sreg 0).desc ≤ (t.getX 5).toNat
        ∧ StOpnd.idx ⟨1, false⟩ t = .ok 1 ∧ (t.sreg 1).mode ≠ 0 ∧ 0 < (t.sreg 1).levels.length
        ∧ positions (t.sreg 1).levels 0 ≤ (t.getX 4).toNat ∧ (t.getX 0).toNat < positions (t.sreg 1).levels 0
        ∧ ((s.rdr s.here).fibre 1 4 0).toOption.isSome = true
        ∧ ((s.rdr s.here).empty 1 4 ⟨0, 0, 4, 0, 0, 0, none, false⟩).toOption.isSome = true)
      ∧ (let s := at_ .va (strm []) (core0 { jobA with sec := [] });
          issOk s = true ∧ (s.here.job 0).inRegions 0 64 = false) := by decide +kernel

/-- st3 made a co-iterator of st1 and st2. -/
def madeOf (t : Stream) (mode : Nat) : Stream :=
  (((t.unbindOps (t.sreg 3)).setSreg 3 { valid := true, mode := mode, opA := 1, opB := 2 }).setSreg 1
    { t.sreg 1 with bound := some 3 }).setSreg 2 { t.sreg 2 with bound := some 3 }

def okAnd {ε α : Type} (x : Except ε α) (p : α → Bool) : Bool :=
  match x with
  | .ok a => p a
  | .error _ => false

theorem wit_WalkResults :
    (let s := sVa [(1, 2)];
      let t := s.self;
      issOk s = true
        ∧ (t.sreg 3).bound = none ∧ (∀ n ∈ [1, 2], (t.sreg n).valid = true ∧ (t.sreg n).mode = 1 ∧ (t.sreg n).bound = none
            ∧ (t.sreg n).fib.isSome = true)
        ∧ (∀ m ∈ [2, 3], okAnd ((madeOf t m).walker 3) (fun w => okAnd ((s.rdr s.here).finished w) fun _ => true) = true)
        ∧ (∀ n ∈ [0, 1, 4, 7], StOpnd.idx ⟨n, false⟩ t = .ok n ∧ okAnd (t.walker n) (fun w =>
            okAnd ((s.rdr s.here).skipTo (t.getX 1).toNat w) (fun v => okAnd ((s.rdr s.here).finished v) fun _ =>
                okAnd ((s.rdr s.here).ontoWalk t n v) fun _ => true)
              && (okAnd ((s.rdr s.here).peek w) fun _ => true) && okAnd ((s.rdr s.here).spot w) fun _ => true) = true)
        ∧ 2 ≤ (t.sreg 4).mode ∧ (t.sreg 0).mode < 2 ∧ (t.sreg 1).mode ≠ 0 ∧ 0 < dDims (t.sreg 0).desc) := by decide +kernel

/-- Two elements of a dense walk and of a level, and a queue entry of two lanes to store. -/
theorem wit_QueueTransferResults :
    (let s := sVa [(1, 2), (2, 128)];
      let t := s.self;
      let r := s.rdr s.here;
      issOk s = true ∧ s.here.queueCheck (s.here.job 0) [] (some 0) = none ∧ 0 < (t.getX 1).toNat ∧ (t.getX 2).toNat ≤ 128
        ∧ (∀ n ∈ [0, 1, 4], ∀ x ∈ [1, 2], okAnd (t.walker n) (fun w => okAnd (r.take (t.getX x).toNat w) fun e =>
            okAnd (r.finished e.2) fun _ => true) = true)
        ∧ t.ldqOk 0 = true ∧ t.ldqOk 1 = true ∧ (t.sreg 1).mode ≠ 0 ∧ 2 ≤ (t.sreg 4).mode
        ∧ okAnd (t.walker 1) (fun w => okAnd (r.take 2 w) fun e =>
            (e.1.all fun x => decide (∀ y ∈ x.a, y < 2 ^ 32)) && okAnd (r.elems (t.sideDesc 1 false).1 true false e.1) fun _ => true) = true
        ∧ 1 ≤ dFmt (t.sideDesc 8 false).1 ∧ dFmt (t.sideDesc 8 false).1 < 12 ∧ t.ldqOk 8 = true
        ∧ okAnd (t.walker 8) (fun w => okAnd (r.take 2 w) fun e => okAnd (r.elems (t.sideDesc 8 false).1 false false e.1) fun _ => true) = true
        ∧ StOpnd.idx ⟨0, false⟩ t = .ok 0 ∧ (t.sreg 0).valid = true ∧ dScl (t.sreg 0).desc = false ∧ fmtBits (dFmt (t.sreg 0).desc) ≠ 4
        ∧ s.here.queueCheck (s.here.job 0) [(8, true)] none = none ∧ 2 ≤ (((s.here.queue 8).head.map QEnt.vector).getD ([], 0)).2
        ∧ (t.sreg 0).idx + 2 ≤ dTotal (t.sreg 0).desc
        ∧ (stqStore s s.here (t.sreg 0).desc (elemWrites (t.sreg 0).desc (t.sreg 0).idx [3, 5])).toOption.isSome = true) := by
  decide +kernel

/-- A pattern of one 8-bit field in an 8-bit record. -/
def bp8 : Nat := 8 * 2 ^ 6 + 8 * 2 ^ 52

theorem wit_StreamLoopAndFieldResults :
    (let s := sVa [(1, bp8), (2, 0), (3, 128), (4, 129)];
      let t := s.self;
      issOk s = true
        ∧ (∀ n ∈ [0, 7], okAnd (t.walker n) (fun w => okAnd ((s.rdr s.here).remaining (t.sreg n).done w) fun m => m == 4 - 4 * (n / 7)) = true)
        ∧ t.loops.length < 4 ∧ bpOk (t.getX 1).toNat = true ∧ bpOk (t.getX 2).toNat = false ∧ (mget 0 t.bps 0).toNat = 0)
      ∧ (let s := at_ .va { strm [(2, 0), (3, 128), (4, 129)] with bps := [(0, BitVec.ofNat 64 bp8)] } (core0 jobA);
          let t := s.self;
          issOk s = true ∧ (mget 0 t.bps 0).toNat ≠ 0 ∧ (t.getX 2).toNat = 0 ∧ 128 < (t.getX 4).toNat ∧ 0 < (t.getX 3).toNat
            ∧ (t.getX 3).toNat ≤ 128 ∧ 7 + (bpFields (mget 0 t.bps 0).toNat).length - 1 ≤ 7
            ∧ (s.here.job 0).inRegions 0 (((t.getX 3).toNat * bpWidth (mget 0 t.bps 0).toNat + 7) / 8) = true
            ∧ s.here.queueCheck (s.here.job 0) [] (some 7) = none) := by decide +kernel

/-- A geometry of 16 columns and 16 lanes. -/
def geo16 : Nat := 15 * 2 ^ 16 + 15 * 2 ^ 48

/-- A merge of one leaf, idle. -/
def merge1 : Merge := ⟨true, 0, 1, [⟨dInt 0 4, 4, ⟨0, 0, 4, 0, 0, 0, none, false⟩, 1⟩], 0⟩

/-- The VA stream with a merge m. -/
def sMerge (m : Option Merge) (xs : List (Nat × Nat)) : State :=
  let s := sVa xs
  s.updCore 0 fun c => c.updStream 4 fun t => { t with merge := m }

theorem wit_LaneFillAndMergeResults :
    (let s := mk .va [(1, 0), (2, geo16), (3, 2 ^ 19 - 1), (4, 2 ^ 19), (5, 1)];
      let t := s.self;
      issOk s = true ∧ geoOk (t.getX 2).toNat = true ∧ geoOk (t.getX 5).toNat = false ∧ (t.getX 1).toNat < 2 ^ 19 ∧ 2 ^ 19 ≤ (t.getX 4).toNat
        ∧ (∀ f ∈ s.here.fills, f.key ≠ 4)
        ∧ ∀ i < (geoOf geo16).nl, (s.here.job 0).inRegions (0 + i * (t.getX 1).toNat) (geoOf geo16).nc = true)
      ∧ (bit jobA.qmask 0 = true ∧ bit jobA.qmask 1 = true ∧ bit { jobA with qmask := 2 }.qmask 0 = false
        ∧ bit { jobA with qmask := 1 }.qmask 1 = false)
      ∧ (let s := sMerge (some merge1) [(1, 1), (2, 128)];
          let t := s.self;
          issOk s = true ∧ StOpnd.idx ⟨1, false⟩ t = .ok 1 ∧ t.merge = some merge1 ∧ (t.getX 1).toNat < 2 ^ 32 ∧ (t.sreg 1).innermost = true
            ∧ (t.sreg 1).fib.isSome = true ∧ merge1.leaves.length < 64 ∧ 6 < dFmt (t.sreg 1).desc
            ∧ 0 < (t.getX 2).toNat ∧ (t.getX 2).toNat ≤ 128 ∧ merge1.busy = 0
            ∧ s.here.queueCheck (s.here.job 0) [] (some 0) = none ∧ s.here.queueCheck (s.here.job 0) [] (some 1) = none
            ∧ okAnd ((s.rdr s.here).merge true t.rm 128 merge1.leaves) (fun r =>
                okAnd (r.2.2.2.mapM (s.rdr s.here).leafMore) fun hs => hs.all (fun x => !x) && r.1 == [0, 1, 2, 3]) = true)
      ∧ issOk (sMerge (some { merge1 with leaves := List.replicate 64 ⟨dInt 0 4, 4, ⟨0, 0, 4, 0, 0, 0, none, false⟩, 1⟩ }) []) = true := by
  decide +kernel

/-- A VE stream with an entry of three lanes at the heads of q0 and q1, and room in q8. -/
def sVe (xs : List (Nat × Nat)) : State :=
  at_ .ve (strm xs) (((core0 jobA).setQueue 0 { places := [.present (.vec 7 3)] }).setQueue 1 { places := [.present (.sca 5)] })

/-- Register and queue sources with a pushing destination, and without one. -/
theorem wit_FloatingResults :
    Issues (sVe []) h0 (sVe []).here ∧ (sVe []).here.vcheck 8 [.v 1, .rot 2, .pop 0] (VDst.push? (.push 8)) = none
      ∧ (sVe []).here.vcheck 8 [.peek 0, .v 63] (VDst.push? (.v 0)) = none ∧ (sVe []).here.vcheck 8 [.pop 0] (VDst.push? (.rot 1)) = none :=
  ⟨issues (by decide +kernel), by decide +kernel⟩

theorem wit_ComparisonAndConversionResults :
    Issues (sVe []) h0 (sVe []).here ∧ (sVe []).here.vcheck 8 [.pop 0, .v 1] none = none
      ∧ (sVe []).here.vcheck 8 [.v 1] (VDst.push? (.push 15)) = none :=
  ⟨issues (by decide +kernel), by decide +kernel⟩

theorem wit_IntegerAndMoveResults :
    Issues (sVe []) h0 (sVe []).here ∧ (sVe []).here.vcheck 8 [] (VDst.push? (.v 1)) = none
      ∧ (sVe []).here.vcheck 8 [.pop 0, .peek 0] (VDst.push? (.push 8)) = none ∧ (sVe []).here.vcheck 8 [.v 1] none = none :=
  ⟨issues (by decide +kernel), by decide +kernel⟩

/-- Bases at the end of the accumulator store and past it. -/
theorem wit_ReductionAndAccumulatorResults :
    (let s := sVe [(1, 131072 - 128), (2, 131072 - 127), (3, 131072 - 64), (4, 131072 - 63), (5, 131072 - 3), (6, 131072 - 2), (7, 131072)];
      let t := s.self;
      issOk s = true ∧ s.here.vcheck 8 [.v 1, .v 2] (VDst.push? (.v 1)) = none ∧ s.here.vcheck 8 [] (VDst.push? (.push 8)) = none
        ∧ s.here.vcheck 8 [.pop 0] none = none
        ∧ (t.getX 1).toNat + 128 ≤ 131072 ∧ 131072 < (t.getX 2).toNat + 128 ∧ (t.getX 3).toNat + 64 ≤ 131072 ∧ 131072 < (t.getX 4).toNat + 64
        ∧ (s.here.vread 8 [.pop 0]).n = 3 ∧ (t.getX 5).toNat + 3 ≤ 131072 ∧ 131072 < (t.getX 6).toNat + 3
        ∧ (t.getX 6).toNat + (s.here.vread 8 [.pop 0]).n / 2 ≤ 131072) := by decide +kernel

/-- An empty entry, a vector entry and a scalar one. -/
theorem wit_QueueTestResults :
    (let s := sVe [];
      issOk s = true ∧ s.here.vcheck 8 [.pop 0] none = none ∧ (s.here.queue 0).head = some (.vec 7 3) ∧ (3 + 1 - 1) / 1 ≠ 0
        ∧ s.here.vcheck 8 [.peek 1] none = none ∧ (s.here.queue 1).head = some (.sca 5) ∧ s.self.loops.length < 4
        ∧ bit (s.here.job 0).qmask 15 = true)
      ∧ (let s := at_ .ve (strm []) ((core0 jobA).setQueue 0 { places := [.present (.vec 0 0)] });
          issOk s = true ∧ (s.here.queue 0).head = some (.vec 0 0) ∧ (0 + 128 - 1) / 128 = 0)
      ∧ (let s := at_ .ve (strm []) (core0 { jobA with qmask := 1 });
          issOk s = true ∧ bit (s.here.job 0).qmask 15 = false) := by decide +kernel

/-- A WE stream with weight-code state w. -/
def sWe (w : We) : State := at_ .we { strm [] with we := w } (core0 { jobA with tmap := 512 })

/-- A row open and closed, flags, and a segment. -/
theorem wit_WeightTermResults : IssuesWe (sWe {}) w0 (sWe {}).here ∧ (sWe {}).self.we.opn = false
    ∧ IssuesWe (sWe { opn := true }) w0 (sWe { opn := true }).here ∧ (sWe { opn := true }).self.we.opn = true :=
  ⟨issuesWe (by decide +kernel) (by decide +kernel), by decide +kernel, issuesWe (by decide +kernel) (by decide +kernel), by decide +kernel⟩

theorem wit_RowResults :
    IssuesWe (sWe { hook := { act := true } }) w0 (sWe { hook := { act := true } }).here
      ∧ (sWe { hook := { act := true } }).self.we.hook.act = true ∧ (sWe {}).self.we.hook.act = false ∧ (sWe {}).self.we.rowFlags = 0
      ∧ (sWe { opn := true, nv := true }).self.we.rowFlags ≠ 0 ∧ (sWe { opn := true }).here.flushing = false :=
  ⟨issuesWe (by decide +kernel) (by decide +kernel), by decide +kernel⟩

theorem wit_SegmentResults :
    (let g : Seg := { (sWe {}).self.we.seg with nfl := 0 };
      let f : Seg := ⟨127, 2, 0, false, .rne, 0⟩;
      issOk (sWe {}) = true ∧ (sWe {}).self.we.opn = false ∧ g.accbase + g.accrows ≤ 128 ∧ 128 < f.accbase + f.accrows
        ∧ ((sWe {}).here.job 0).inRegions ((sWe {}).here.job 0).tmap 512 = true
        ∧ Job.inRegions { jobA with sec := [] } 512 512 = false ∧ (sWe { opn := true }).self.we.opn = true) := by decide +kernel

/-- A WE stream in which hook 3 of tenant 0 has its vector dword v, at address 24 of the tenant's code space. -/
def sHook (hk : Hook) (v : Nat) : State :=
  at_ .we { strm [] with we := { present := [0], tslots := [(0, 4096 * 2 ^ 128)], ovroots := [(0, 1)], hook := hk } }
    { (core0 jobA) with itlb := [⟨1, 0, 2 ^ 63 + 2 ^ 62⟩], code := [(0, v * 2 ^ 192)] }

theorem wit_HookResults :
    (let s := sHook {} 0;
      let go := fun (n v : Nat) (s : State) => s.hookGo 0 12 n s.self.we 0 (s.self.we.hookTodo n v);
      IssuesB s w0 s.here ∧ s.self.we.hook.act = false ∧ s.self.we.hook.running = false
        ∧ go 3 0 s = .fin 1 ∧ go 3 0 (sHook {} 0x40) = .run 0 0x40 1 ∧ go 3 0 (sHook {} 8) = .trap 0 0 0x07 8
        ∧ go 3 1 (sHook { act := true, entry := false, n := 3, next := 1 } 0x40) = .fin 0
        ∧ go 3 0 (sHook { act := true, entry := false, n := 3, next := 0 } 0x40) = .run 0 0x40 1) := by
  unfold IssuesB; decide +kernel

/-- The words at addresses 64 + 32·off and lr are in the code buffer; a link register, an adapter, and an open row. -/
def sJmp (w : We) : State :=
  at_ .we { strm [] with rootT := 1, we := w } { (core0 jobA) with itlb := [⟨1, 0, 2 ^ 63 + 2 ^ 62⟩], code := [(0, 0)] }

theorem wit_WeightControlResults :
    IssuesWe (sJmp {}) w0 (sJmp {}).here ∧ ((sJmp {}).self.pc : Int) + 32 * (-2) = (0 : Nat)
      ∧ (∀ s2, (sJmp {}).fetchVa 0 12 (sJmp {}).self.fetchRoot 0 32 ≠ .wait s2)
      ∧ (∀ s2, (sJmp { lr := 96 }).fetchVa 0 12 (sJmp { lr := 96 }).self.fetchRoot 96 32 ≠ .wait s2)
      ∧ (sJmp {}).self.we.hook.act = false ∧ (sJmp {}).self.we.lr = 0 ∧ (sJmp { lr := 96 }).self.we.lr ≠ 0
      ∧ (sJmp { hook := { act := true } }).self.we.hook.act = true ∧ (sJmp { opn := true }).self.we.opn = true
      ∧ (sJmp {}).self.we.opn = false ∧ (sJmp {}).here.workDone 12 0 = true
      ∧ ∃ c1, headTest (sJmp {}) 0 12 7 (wwaitHead 0 0 0 none) = .ok c1 := by
  refine ⟨issuesWe (by decide +kernel) (by decide +kernel), by decide +kernel, ?_, ?_, by decide +kernel, by decide +kernel, by decide +kernel,
    by decide +kernel, by decide +kernel, by decide +kernel, by decide +kernel, headIsOk (by decide +kernel)⟩
  · intro s2 h
    have e : (sJmp {}).fetchVa 0 12 (sJmp {}).self.fetchRoot 0 32 = .ok (toBytes 32 0) := by decide +kernel
    rw [e] at h; cases h
  · intro s2 h
    have e : (sJmp { lr := 96 }).fetchVa 0 12 (sJmp { lr := 96 }).self.fetchRoot 96 32 = .ok (toBytes 32 0) := by decide +kernel
    rw [e] at h; cases h

/-- Values at the ends of what each command's operand may hold. -/
theorem wit_MatrixCommandResults :
    (let s := mk .me [(1, 21), (2, 22), (3, 2 ^ 19 - 1), (4, 2 ^ 19), (5, 2 ^ 59), (6, 7), (7, 1), (8, 2 ^ 35), (9, 2 ^ 35 - 1 - (2 ^ 13 - 1) * 2 ^ 19)];
      let v := fun n => (s.self.getX n).toNat;
      issOk s = true ∧ v 1 ≤ 21 ∧ v 4 &&& ntReserved (v 1) = 0 ∧ 21 < v 2 ∧ v 5 &&& ntReserved 0 ≠ 0 ∧ s.self.cmds = []
        ∧ semCheck (s.here.job 0) ⟨some 3, some 0, ⟨false, false, .stream⟩⟩ = none ∧ s.self.cmds.length < 16
        ∧ v 3 < 2 ^ 19 ∧ ¬ v 4 < 2 ^ 19 ∧ (∀ n ∈ [0, 1, 2], dcOk n (v 0) = true ∧ ¬ dcOk n (v 5) = true)
        ∧ (v 6 < 2 ^ 6 ∧ (v 6 / 4 % 2 = 1 ∨ v 6 % 4 = 0)) ∧ ¬(v 7 < 2 ^ 6 ∧ (v 7 / 4 % 2 = 1 ∨ v 7 % 4 = 0))
        ∧ (v 9 / 2 ^ 19 % 2 ^ 13 = 0 ∧ v 9 < 2 ^ 35) ∧ ¬(v 8 / 2 ^ 19 % 2 ^ 13 = 0 ∧ v 8 < 2 ^ 35)) := by decide +kernel

/-- Channels: 0 the scratchpad of core 0, 1 group 5, 2 carousel domain 0, 5 key slot 9. -/
def jobX : Job := withCaps [(0, capHi 0, 2 ^ 19 * 2 ^ 20), (1, capHi 1, 5), (2, capHi 2, 0), (5, capHi 5, 9)]

/-- An XE stream with a slot of group 5, one member of that group, and a difference record of one entry at 0x100. -/
def sXe (xs : List (Nat × Nat)) : State :=
  { (at_ .xe (strm xs) { (core0 jobX) with
        active := [(201, BitVec.ofNat 64 (2 ^ 63 + 5 * 2 ^ 51))], spad := wrLe (wrLe [] 0x104 2 1) 0x110 8 (2 ^ 16) }) with
    groups := [(5, ⟨[(0, 20)], 0, [(0, 20)], [], [], []⟩)] }

/-- Both ends' checks pass. -/
def endsOk (s : State) (b : Job) (wd ws n unit : Nat) (dk sk : List Nat) (perm : Cap → Bool) : Bool :=
  okAnd (s.endCheck s.cur.core b wd n unit dk perm) fun _ =>
    okAnd (s.endCheck s.cur.core (if epSpace wd = 4 then b.charge (epCh wd) n else b) ws n unit sk Cap.send) fun _ => true

theorem transfersOk {s : State} {b : Job} {wd ws n unit : Nat} {dk sk : List Nat} {perm : Cap → Bool} {extra : List Nat}
    (h : endsOk s b wd ws n unit dk sk perm = true) : ∃ r, s.Transfers b wd ws n unit dk sk perm extra r := by
  unfold endsOk at h
  cases h1 : s.endCheck s.cur.core b wd n unit dk perm with
  | error e => rw [h1] at h; cases h
  | ok cd =>
    rw [h1] at h
    cases h2 : s.endCheck s.cur.core (if epSpace wd = 4 then b.charge (epCh wd) n else b) ws n unit sk Cap.send with
    | error e => simp only [okAnd, h2] at h; cases h
    | ok cs => exact ⟨_, cd, cs, h1, h2, rfl⟩

/-- Scratchpad offset 0 (1), device address 0 (0), channel 0 (4) and with FP32 add (5), scratchpad through key channel 5 (6);
lengths 8 and 2^24 at most, and 512. endsOk says that State.Transfers has an answer (transfersOk). -/
theorem wit_CopyCommandResults :
    (let s := sXe [];
      let b := s.here.job 0;
      let loc := 2 ^ 61; let far := 4 * 2 ^ 61; let red := 4 * 2 ^ 61 + 2 * 2 ^ 57; let key := 2 ^ 61 + 5 * 2 ^ 51;
      issOk s = true ∧ semCheck b k0 = none ∧ s.self.cmds.length < 16
        ∧ (epOk loc true false false = true ∧ epOk 0 false false false = true ∧ 8 ≤ 2 ^ 24 ∧ 8 % 8 = 0
            ∧ endsOk s b loc 0 8 8 [3, 4] [3, 4] Cap.send = true)
        ∧ (epOk far true false false = true ∧ epOk loc false false false = true ∧ epSpace far = 4 ∧ epSpace loc ≠ 4
            ∧ endsOk s b far loc (2 ^ 19) 8 [0, 6] [] Cap.send = true)
        ∧ (epOp red < 10 ∧ epOk red true true false = true ∧ epSpace red = 4 ∧ epSpace loc = 1
            ∧ endsOk s b red loc 8 8 [0, 6] [] Cap.red = true)
        ∧ (epOk 0 true false true = true ∧ epOk key false false true = true ∧ isLocal (epSpace key) = true ∧ epSpace 0 = 0 ∧ 512 % 512 = 0
            ∧ okAnd (s.chanCheck 0 b (epCh key) [5] Cap.send 0 0 512) (fun ck => decide (ck.lo % 2 ^ 12 = 9)) = true
            ∧ endsOk s (b.charge (epCh key) 512) 0 key 512 512 [4] [4] Cap.send = true)
        ∧ (epOk key true false true = true ∧ okAnd (s.chanCheck 0 b (epCh key) [5] Cap.repl 0 0 512) (fun _ => true) = true
            ∧ endsOk s (b.charge (epCh key) 512) key 0 512 512 [4] [4] Cap.send = true)
        ∧ 2 ^ 24 < 2 ^ 24 + 1 ∧ epSpace loc ≠ 4 ∧ isLocal (epSpace far) = false) := by decide +kernel

theorem wit_BarrierCommandResults :
    (let s := sXe [];
      let c := s.here;
      let b := c.job 0;
      issOk s = true ∧ semCheck b k0 = none
        ∧ barWordOk 3 (2 ^ 47 - 1) = true ∧ barWordOk 3 (2 ^ 47) = false ∧ 3 / 2 ^ 8 % 2 = 0
        ∧ barWordOk (2 ^ 8 + 2 ^ 16) 1 = true ∧ (2 ^ 8 + 2 ^ 16) / 2 ^ 8 % 2 = 1 ∧ okAnd (b.chan 1 [1] fun _ => true) (fun _ => true) = true
        ∧ barWordOk (2 ^ 8) 1 = true ∧ okAnd (s.chanCheck 0 b 0 [0, 6] Cap.sig 0 0 0) (fun _ => true) = true
        ∧ (0 < 2 ^ 6 ∧ (2 ^ 16 + 3) / 2 ^ 8 % 2 ^ 8 = 0 ∧ 2 ^ 16 + 3 < 2 ^ 28 ∧ (2 ^ 16 + 3) / 2 ^ 16 % 2 ^ 12 ≠ 0)
        ∧ okAnd (b.chan 1 [1] Cap.send) (fun cp => cp.covers 64 && cp.covers 32 && decide (cp.lo % 2 ^ 12 = 5)) = true
        ∧ (c.slotsOf 5).length = 1 ∧ (∀ e ∈ c.slotsOf 5, b.inRegions (slSrc (e / 2 ^ 6)) (64 * slUnits (e / 2 ^ 6)) = true)
        ∧ recSize c b 0x100 = .ok 32 ∧ s.groupCores 0 0 5 = [0]) := by decide +kernel

theorem wit_CarouselCommandResults :
    (let s := sXe [];
      let b := s.here.job 0;
      let w := 2 * 2 ^ 32;
      let loc := 2 ^ 61;
      issOk s = true ∧ semCheck b k0 = none
        ∧ (tileCheck s.here b w Cap.send 4096).toOption.isSome = true ∧ (tileCheck s.here b w (fun _ => true) 0).toOption.isSome = true
        ∧ (tileCheck s.here b w Cap.repl 4096).toOption.isSome = true ∧ (tileCheck s.here b w Cap.repl 0).toOption.isSome = true
        ∧ epOk loc false false false = true ∧ isLocal (epSpace loc) = true
        ∧ okAnd (tileCheck s.here b w Cap.send 4096) (fun j => okAnd (s.endCheck 0 j loc 4096 64 [] Cap.send) fun _ => true) = true
        ∧ semCheck b ⟨some 3, none, ⟨true, false, .core⟩⟩ = none ∧ k0.wait.isNone = true) := by decide +kernel


/-! The events: pairs of a state and what it meets, clause by clause. -/

/-- The module with core 0 as given. -/
def withCore (c : Core) : State := { State.reset with todo := [], ready := true, cores := mput {} 0 c [] }

/-- A head without counts. -/
def hd0 : HeadSpec := ⟨0, 0, 0, 0, 0, 0, 0, ⟨false, false, .core⟩⟩

/-- Retirements of an interlocked engine and of VE, results that are due before and in their engine's turn, an engine that is held,
heads that hold, a full rendezvous, a job without streams, and a marker whose engine has no work. -/
theorem wit_StreamEvents :
    (∀ k ∈ [0, 8], let c : Core := { (core0 jobA) with retires := [⟨k, 0, 1, 0⟩] };
      c.frozen = false ∧ engOf k ∉ [Eng.va, .we] ∧ c.retires.filter (fun x => x.key == k) = [⟨k, 0, 1, 0⟩]
        ∧ exposed (engOf k) = decide (k = 8) ∧ c.fifoRoom 0 (fifoNo (k / 4) 1) = true)
      ∧ (let c : Core := { (core0 jobA) with pending := [⟨8, 0, .x 0 7, 0, 1⟩] };
          c.frozen = false ∧ (withCore c).landTurn 0 = none ∧ engOf 8 ∉ [Eng.va, .we])
      ∧ (let c : Core := { (core0 jobA) with pending := [⟨4, 0, .x 5 7, 0, 1⟩] };
          let s : State := { (withCore c) with todo := [.issue 0 .va []] };
          s.landTurn 0 = some (engOf 4) ∧ c.heldEng (engOf 4) = false)
      ∧ (let c : Core := { (core0 jobA) with weHeld := true };
          let s : State := { (withCore c) with todo := [.issue 0 .we []] };
          s.landTurn 0 = some .we ∧ c.heldEng .we = true)
      ∧ (let s := at_ .ve { strm [] with wait := .head (.blkh h0 hd0) } (core0 jobA);
          s.cur = ctxOf s.cur.core s.cur.key s.cur.tried ∧ s.self.wait = .head (.blkh h0 hd0)
            ∧ s.headReady s.cur.core s.cur.key = true ∧ (s.here.unpop s.cur.key).tokens s.cur.key h0.tp h0.pop h0.push = .ok s.here
            ∧ headOk (headTest (s.setCore s.cur.core s.here) s.cur.core s.cur.key h0.tp hd0) = true ∧ hd0.greg = 0)
      ∧ (let s := at_ .we { strm [] with wait := .head (.wwait w0 0 0 0 none) } (core0 jobA);
          s.cur = ctxOf s.cur.core s.cur.key s.cur.tried ∧ s.self.wait = .head (.wwait w0 0 0 0 none)
            ∧ s.headReady s.cur.core s.cur.key = true ∧ (s.here.unpop s.cur.key).tokens s.cur.key w0.tp false w0.push = .ok s.here
            ∧ headOk (headTest (s.setCore s.cur.core s.here) s.cur.core s.cur.key w0.tp (wwaitHead 0 0 0 none)) = true)
      ∧ (let c := (core0 jobA).setStream 0 { strm [] with wait := .rdzv 3 };
          c.frozen = false ∧ (c.job 0).st = .running ∧ c.rdzvAll 0 = some 3)
      ∧ ((core0 jobA).job 0).st = .running ∧ (core0 jobA).jobKeys 0 = []
      ∧ (let c := (core0 { jobA with markers := [⟨0, 1, 1, 4, 0, 0, false⟩] }).setStream 0 (strm []); c.frozen = false) := by decide +kernel

/-- A job of one SQ stream at CKPT 3 with its table at data address a, whose first line, from address 0 on, holds v. -/
def sCkpt (st : JobSt) (a v : Nat) : State :=
  withCore (mapped v ((core0 { jobA with st := st }).setStream 0 { strm [] with wait := .ckpt 3 a }))

/-- The table's head, and its entries behind it. -/
def tableOk (s : State) (n : Nat) (p : List Nat → Bool) : Bool :=
  let c := s.core 0
  match c.readTable (c.sender 0 0 s.cycles) 0 1 with
  | .ok c1 hd => leBytes hd == n && (match imageRead (c1.readTable (c.sender 0 0 s.cycles) 8 n) with
      | some bs => p ((List.range n).map fun i => leBytes ((bs.drop (8 * i)).take 8))
      | none => false)
  | .trap _ _ | .wait _ => false

/-- A complete group, a stream that has waited 2^24 clocks and one of age 1,024, checkpoints of both kinds with one live range, a
misaligned table, a table that is too long and one whose range no region holds, both kinds of budget, a grace that is over, and a
job that stops. -/
theorem wit_JobEvents :
    (∃ g : Group, g.complete = true ∧ g = ⟨[(0, 0)], 0, [(0, 0)], [(0, 0)], [], []⟩)
      ∧ (let c := (core0 jobA).setStream 0 { strm [] with wait := .rdzv 1, waited := 2 ^ 24, age := 1024 };
          c.frozen = false ∧ (c.stream 0).st = .live ∧ (c.stream 0).watched = true ∧ 2 ^ 24 ≤ (c.stream 0).waited ∧ 1024 ≤ (c.stream 0).age)
      ∧ (∀ st ∈ [JobSt.yielding, .running], ∀ a ∈ [0, 4], let s := sCkpt st a (1 + 2 ^ 64 * 2 ^ 23); let c := s.core 0;
          c.jobStream 0 0 = some 0 ∧ (c.stream 0).wait = .ckpt 3 a ∧ c.frozen = false ∧ (c.job 0).st = st ∧ c.ckptReady 0 0 3 = true
            ∧ tableOk s 1 (fun es => (rangesCheck (c.job 0) es).toOption.isSome) = true)
      ∧ (let s := sCkpt .running 0 (2 ^ 8); imageRead ((s.core 0).readTable ((s.core 0).sender 0 0 s.cycles) 0 1) = some (toBytes 8 (2 ^ 8)))
      ∧ tableOk (sCkpt .running 0 (1 + 2 ^ 64 * (2 ^ 64 - 1))) 1 (fun es => (rangesCheck jobA es).toOption.isNone) = true
      ∧ (∀ d ∈ [0, 2 ^ 10], descPre d = decide (d ≠ 0) ∧
          (let c := (core0 { jobA with desc := d, remain := 0 }).setStream 0 (strm []); let b := c.job 0;
            c.frozen = false ∧ b.st = .running ∧ b.unlim = false ∧ b.grace = false ∧ b.remain = 0 ∧ c.jobKeys 0 ≠ []))
      ∧ (let s := withCore ((core0 { jobA with st := .yielding, grace := true, remain := 0 }).setStream 0 (strm [])); let c := s.core 0;
          let b := c.job 0;
          c.frozen = false ∧ b.st = .yielding ∧ b.unlim = false ∧ b.grace = true ∧ b.remain = 0 ∧ c.jobKeys 0 ≠ [])
      ∧ (let s := withCore ((core0 { jobA with st := .stopping, trapClk := none }).setStream 0 { strm [] with st := .stopped });
          ((s.core 0).job 0).st = .stopping ∧ ((s.core 0).job 0).trapClk ≠ some s.cycles ∧ (s.core 0).jobQuiet 0 s.cycles = true) := by
  refine ⟨⟨_, by decide, rfl⟩, ?_⟩
  decide +kernel

/-- A core whose stream k needs page 5 of table 0, which misses with result v. -/
def cMiss (k : Nat) (v : Option Nat) : Core :=
  { (core0 jobA).setStream k { strm [] with need := some (0, 5) } with misses := [{ dt := 0, page := 5, res := v }] }

/-- A fault of a stream and one of the wick core, the handler's limit, an ended walk, requests that join and that take an entry, and a
code line whose quarters have come. -/
theorem wit_FaultAndWalkEvents :
    (let c := cMiss 0 (some 8);
      c.frozen = false ∧ c.heldPage = true ∧ ((allKeys.findSome? fun k => (c.localFault 0 0 k).map fun r => (k, r)).isSome = true))
      ∧ (let s := { (withCore { (core0 jobA) with frozen := true }) with cycles := 2 ^ 24 };
          (s.core 0).frozen = true ∧ (s.core 0).thaw = false ∧ (s.core 0).wickStart + 2 ^ 24 ≤ s.cycles)
      ∧ (let c : Core := { (cMiss 24 (some 10)) with frozen := true };
          c.frozen = true ∧ c.thaw = false ∧ c.heldPage = true ∧ c.localCause (c.stream 24).need = some 10)
      ∧ (let w : Walker := ⟨3, 0, 5, 1, 4096, true, some (.cause 8)⟩;
          let s : State := { (withCore (cMiss 0 none)) with dies := [(0, { walks := [w] })] };
          ((s.die 0).walks.filter fun x => decide (x.dt = 0) && decide (x.page = 5) && x.res.isSome) = [w] ∧ w.res = some (.cause 8))
      ∧ (let w : MissWait := ⟨0, 5, 0, 0, true⟩; let v : MissWait := ⟨0, 2 ^ 32, 3, 0, true⟩;
          let c := fun (x : MissWait) => ({ (cMiss 0 none) with missWait := [x] } : Core);
          (c w).missWait = w :: [] ∧ ((c w).misses.any fun m => m.dt == w.dt && m.page == w.page) = true
            ∧ ((c v).misses.any fun m => m.dt == v.dt && m.page == v.page) = false ∧ (c v).misses.length < 32)
      ∧ (let c : Core := { (core0 jobA) with codeWant := [7], codeParts := (List.range 4).map fun i => (28 + i, toBytes 64 i) };
          7 ∈ c.codeWant ∧ c.codeWhole 7 = some ((List.range 4).flatMap (toBytes 64))) := by decide +kernel

/-- A command with one operand. -/
def cmdV (i : Instr) (vs : List Nat) : Cmd := { instr := i, vals := vs, pc := 64, idx := 0, clk := 0 }

/-- The same once it has started. -/
def cmd0 (i : Instr) : Cmd := { cmdV i [0] with started := true }

/-- Core 0 with stream k of job 0 and its commands. -/
def cCmd (k : Nat) (cs : List Cmd) : Core := (core0 jobA).setStream k { strm [] with cmds := cs }

/-- The module with that core while SQ has its turn before it. -/
def sCmd (k : Nat) (cs : List Cmd) : State := { (withCore (cCmd k cs)) with todo := [.issue 0 .sq []] }

/-- A wait for semaphore 0. -/
def kW : KCtl := ⟨some 0, some 1, ⟨true, false, .device⟩⟩

/-- Commands of ME and XE that may start: with a wait that is not met and one that is, while HALT stands, refused at their start, and
started. -/
theorem wit_command_starts :
    (∀ i ∈ [Instr.mzero h0 k0 1, .mrpr h0 k0 1 true, .mtws h0 k0 1 2, .mzero h0 kW 1],
        let m := cmdV i [8]; let c := cCmd 16 [m];
        c.frozen = false ∧ c.mayStart 16 = true ∧ (c.stream 16).cmds = m :: [] ∧ m.started = false ∧ c.me.ready ≤ 0
          ∧ c.waitOk 16 m = decide (i ≠ .mzero h0 kW 1) ∧ progHalt c.me.prog = false)
      ∧ (let c := (cCmd 16 [cmdV (.mzero h0 kW 1) [0]]).setSem 0 1; c.waitOk 16 (cmdV (.mzero h0 kW 1) [0]) = true)
      ∧ progHalt (haltSet 0) = true ∧ haltMay (.mzero h0 k0 1) = false ∧ haltMay (.mrpr h0 k0 1 true) = true ∧ dcFits 0 = true
      ∧ ((cCmd 16 [cmdV (.mtws h0 k0 1 2) [8]]).meBegin 0 (cmdV (.mtws h0 k0 1 2) [8])).toOption.isNone = true
      ∧ ((cCmd 16 [cmdV (.mzero h0 k0 1) [0]]).meBegin 0 (cmdV (.mzero h0 k0 1) [0])).toOption.isSome = true
      ∧ (∀ i ∈ [Instr.xexp h0 k0 1 2, .xalt h0 k0 1 2, .xqryPeek h0 k0 1 2, .xdrp h0 k0 1 2, .xbrd h0 k0 1 2, .xrep h0 k0 1 2,
            .xexp h0 kW 1 2],
          let m := cmdV i [0]; let c := cCmd 20 [m];
          c.frozen = false ∧ c.mayStart 20 = true ∧ c.admits 20 = some m ∧ c.waitOk 20 m = decide (i ≠ .xexp h0 kW 1 2)
            ∧ (c.stream 20).cmd m.idx = some m ∧ m.finished = false)
      ∧ (let m := cmdV (.xkeyEnc h0 k0 1 2) [0, 0, 8]; let s := sCmd 20 [m];
          (s.core 0).admits 20 = some m ∧ (s.xeBegin 0 20 m false).toOption.isNone = true)
      ∧ (let m := cmdV (.xcp h0 k0 1 2) [2 ^ 61, 0, 8]; ((sCmd 20 [m]).core 0).admits 20 = some m)
      ∧ ((sCmd 20 [cmdV (.xcp h0 k0 1 2) [2 ^ 61, 0, 8]]).xeBegin 0 20 (cmdV (.xcp h0 k0 1 2) [2 ^ 61, 0, 8]) false).toOption.isSome = true := by
  decide +kernel

/-- A descriptor of rows of INT8 for the matrix engine: role, space, format and address. -/
def mb (role space fmt a : Nat) : Nat :=
  a + 2 ^ 128 + 4 * 2 ^ 168 + 4 * 2 ^ 192 + 4 * 2 ^ 232 + 2 ^ 120 + fmt * 2 ^ 116 + space * 2 ^ 122 + role * 2 ^ 110

/-- One of 32 rows and columns in device memory. -/
def mq : Nat := mb 0 0 7 0 + 28 * 2 ^ 168 + 28 * 2 ^ 232

/-- A nest of two steps of one product each: A from a space and address, B from the scratchpad, with HALT enabled. -/
def meA (space a : Nat) : Me :=
  { bind := [(0, mb 0 space 7 a), (1, mb 1 1 7 0), (2, mb 0 2 14 0)], prog := 2 ^ 63, halt := true
    active := [(0, 2 ^ 40 + 2 * 2 ^ 44), (1, 2 + 2 ^ 32), (2, 1 + 2 ^ 32), (3, 1 + 2 ^ 32)] }

/-- Core 0 running it, with page 0 of table 0 in the miss queue with a result. -/
def cNest (space a : Nat) (v : Option Nat) : Core :=
  { (core0 jobA).setStream 16 { strm [] with cmds := [cmd0 (.mgo h0 k0 true)], me := meA space a } with
    misses := [{ dt := 0, page := 0, res := v }] }

/-- What a step comes to: 0 it waits, 1 a fault, 2 a trap, 3 it commits. -/
def stepKind (r : NRes) : Nat :=
  match r with
  | .wait _ => 0
  | .fault _ _ => 1
  | .trap _ _ => 2
  | .ok _ => 3

def workKind (r : Work) : Nat :=
  match r with
  | .more _ => 0
  | .done _ => 1
  | .trap _ => 2

/-- A copy of eight bytes from device address 0 that has started, with its page in the miss queue with a result. -/
def cCopy (ws : Nat) (v : Option Nat) : Core :=
  { (cCmd 20 [{ cmdV (.xcp h0 k0 1 2) [2 ^ 61 + 64, ws, 8] with started := true, aux := [0, 0, 0, 1] }]) with
    misses := [{ dt := 0, page := 0, res := v }] }

/-- Whether a clock of it ends the copy, and whether the command still stands. -/
def copyKind (c : Core) : Nat × Bool :=
  match ((c.stream 20).cmd 0).map fun m => c.transferClock 0 0 0 20 m 0 with
  | some (.done c1) => (1, ((c1.stream 20).cmd 0).isSome)
  | some (.more _) => (0, true)
  | some (.trap _) | none => (2, true)

/-- Commands that finish, with a signal and without, commands at work, and a nest in each of its outcomes. -/
theorem wit_command_ends :
    (∀ k ∈ [16, 20], let m : Cmd := { cmd0 (if k = 16 then .mzero h0 ⟨none, some 1, ⟨false, true, .core⟩⟩ 1 else .xexp h0 ⟨none, some 1, ⟨false, true, .core⟩⟩ 1 2) with
          finished := true };
        let s := sCmd k [m]; let c := s.core 0;
        c.frozen = false ∧ (c.stream k).cmd 0 = some m ∧ m.started = true ∧ m.finished = true ∧ m.pos ≤ s.cycles ∧ c.cmdReleased k m = true
          ∧ m.aux.length ≠ 2 ∧ c.writesOut k m = true ∧ s.lateNow 0 = false ∧ m.ctl.sig = some 1
          ∧ (c.job (c.stream k).job).sem 1 = some 1 ∧ c.semCount 1 + 1 < 2 ^ 32)
      ∧ (let m := cmd0 (.mzero h0 k0 1); let c := cCmd 16 [m];
          m.isNest = false ∧ workKind (c.meWork 0 0 m) = 0 ∧ workKind (c.meWork 0 1 m) = 1)
      ∧ (let m : Cmd := { cmdV (.mrqt h0 k0 0 1) [8] with started := true };
          let c : Core := { (core0 jobA).setStream 16 { strm [] with cmds := [m], me := { bind := [(0, mq), (1, mq)] } } with
            misses := [{ dt := 0, page := 0, res := some 9 }] };
          workKind (c.meWork 0 0 m) = 2)
      ∧ copyKind (cCopy (2 ^ 61) none) = (1, true) ∧ copyKind (cCopy 0 none) = (0, true) ∧ copyKind (cCopy 0 (some 9)) = (1, false)
      ∧ ((cmd0 (.xstep h0 k0 1)).aux = [] ∧ (cmd0 (.xpln h0 k0 1 2)).aux.length = ((cmd0 (.xpln h0 k0 1 2)).vals.drop 3).length)
      ∧ (∀ q ∈ [(cNest 1 0 none, 3), (cNest 0 0 none, 0), (cNest 1 (2 ^ 19) none, 2), (cNest 0 0 (some 9), 1)],
          q.1.frozen = false ∧ (q.1.job (q.1.stream 16).job).st ≠ .saved ∧ q.1.nest = some (cmd0 (.mgo h0 k0 true)) ∧ q.1.me.ready ≤ 0
            ∧ stepKind (q.1.nextStep 0 0 (cmd0 (.mgo h0 k0 true))) = q.2)
      ∧ (∀ v ∈ [9, 0x12, 0xC], (match (cNest 0 0 (some v)).nextStep 0 0 (cmd0 (.mgo h0 k0 true)) with
          | .fault x _ => decide (x = v)
          | .wait _ | .trap _ _ | .ok _ => false) = true)
      ∧ (cNest 0 0 none).me.halt = true ∧ progStep (cNest 1 0 none).me.prog + 1 ≠ ntSteps (cNest 1 0 none).me.active := by decide +kernel

/-- A WE stream at WSEG of a job whose root record is read from address it, with the record of address 4096 in the read buffer. -/
def cSeg (it : Nat) : Core :=
  { (core0 { jobA with itBase := it }).setStream 12 { strm [] with wait := .wseg none {} [] [] } with rb := [(64, toBytes 64 8192)] }

/-- What a WSEG's reads come to: nothing yet, or whether some record is missing or malformed, and which. -/
def segReads (it : Nat) : Option (Option Nat) :=
  let c := cSeg it
  (c.readRoots (c.sender 0 12 0) (rootAddrs it [])).2.map fun vals => (rootAddrs it []).find? fun a => rootRead vals a == 0

/-- A flush that is due, WSEG with its records still to come, there and malformed, fills in and at the end of their groups, and an
exchange step. -/
theorem wit_EngineEvents :
    (let f : Flush := ⟨12, 3, false, List.replicate 1024 (5, false), 0, 0, 0, none⟩;
      let c : Core := { (core0 jobA) with flushes := [f] };
      c.frozen = false ∧ (c.flushes.find? fun f => f.clk + f.group < 1) = some f ∧ mwf 0 c.acc = true ∧ c.prevAcc = []
        ∧ f.vals.length = 1024 ∧ f.group < 8)
      ∧ (((cSeg 0).stream 12).wait = .wseg none {} [] [] ∧ (cSeg 0).frozen = false ∧ ((cSeg 0).stream 12).st = .live
          ∧ segReads 0 = none ∧ segReads 4096 = some none ∧ segReads 4100 = some (some 4100))
      ∧ (∀ q ∈ [(31 * 2 ^ 16 + 15 * 2 ^ 48, true), (15 * 2 ^ 16 + 15 * 2 ^ 48, false)],
          let f : Fill := ⟨4, 0, q.1, 64, 0, true, none⟩; let c : Core := { ((core0 jobA).setStream 4 (strm [])) with fills := [f] };
          c.fills = f :: [] ∧ c.frozen = false ∧ f.started = true ∧ (c.job (c.stream f.key).job).startClk ≤ 0 ∧ c.prevLane = []
            ∧ decide (f.group + 1 < (geoOf f.geo).nc / 16 * ((geoOf f.geo).nl / 16)) = q.2)
      ∧ (let c := cCmd 20 [cmd0 (.xstep h0 k0 1)];
          c.frozen = false ∧ (c.stream 20).cmds = [cmd0 (.xstep h0 k0 1)] ∧ (cmd0 (.xstep h0 k0 1)).started = true
            ∧ (cmd0 (.xstep h0 k0 1)).instr = .xstep h0 k0 1) := by decide +kernel

/-- Packet 9 of a kind, from core 1 to core 0, with eight bytes of data for slice offset 4096 or scratchpad address 4096. -/
def pkt (k : PKind) (slice : Bool) : Packet :=
  let p : Packet := { blankPacket with
    id := 9, rid := 3, kind := k, src := 1, vc := 1, addr := 4096, mask := 255, slice := slice, data := toBytes 8 77
    args := [0, 1], seq := 1, arrived := true }
  { p with crc := p.headerCrc }

/-- Packet p alone in the network, and core 0 as given. -/
def sNet (p : Packet) (c : Core) : State := { (withCore c) with net := [p] }

/-- A request for what is asked, of stream k. -/
def req0 (u : Purpose) (k : Nat) : Req :=
  { rid := 3, purpose := u, dest := 0, link := none, slice := none, tag := 0, clk := 0, key := k, job := 0, pc := 64, cmd := 0 }

/-- Router 0 with packet p at its local input on channel 1. -/
def sRoute (rt : Router) (p : Packet) : State :=
  { (sNet p (core0 jobA)) with routers := [(0, { rt with buf := [(21, [⟨9, 0, true, 0⟩])] })] }

/-- The port open and frozen, requests that time out, a flit that has waited, outputs kept by a promoted packet and in the round, a
packet for a link that is up, down and busy with another, and arrivals with the link up and down, and damaged. -/
theorem wit_FabricEvents :
    ((core0 jobA).frozen = false ∧ (core0 jobA).pref = [] ∧ ({ (core0 jobA) with frozen := true } : Core).frozen = true)
      ∧ (let c : Core := { (core0 jobA) with reqs := [req0 (.line 0) 0] };
          (c.reqs.find? fun r => r.rid == 3) = some (req0 (.line 0) 0) ∧ (req0 (.line 0) 0).purpose ≠ .late
            ∧ (req0 (.line 0) 0).clk + 2 ^ 20 ≤ 2 ^ 20 ∧ c.frozen = false)
      ∧ (let s : State := { State.reset with routers := [(7, { waited := [(23, 256)] })] };
          23 < 24 ∧ 256 ≤ mget 0 (s.router 7).waited 23)
      ∧ (let s := sRoute { hold := [(5, some 21)] } (pkt .write false);
          mget none (s.router 0).hold 5 = some 21 ∧ s.flitReady 0 5 (21 / 4) (21 % 4) = true)
      ∧ (let s := sRoute { rndVc := [(5, 1)] } (pkt .write false); let rt := s.router 0; let f : Flit := ⟨9, 0, true, 0⟩;
          mget none rt.hold 5 = none ∧ s.promotedCand 0 5 = none ∧ 1 = mget 0 rt.rndVc 5 ∧ mget 0 rt.rndUsed 5 < (s.die (dieOf 0)).weight 1
            ∧ s.flitCand 0 5 1 = some 5 ∧ rt.head 5 1 = some f ∧ 4 ≤ 5 ∧ f.last = true ∧ (s.net.any fun p => p.id == f.pid) = true)
      ∧ (let p := pkt .write false; let s : State := { (sNet p (core0 jobA)) with links := [(1, { lt := [p] })] };
          s.linkNext 1 = none ∧ (s.link 1).lt ≠ [])
      ∧ (let p := { (pkt .write false) with space := 3, xmod := 2 ^ 13 };
          let s : State := { (sNet p (core0 jobA)) with links := [(1, { up := true })] };
          s.linkNext 1 = some p ∧ (s.link 1).up = true
            ∧ (sNet p (core0 jobA)).linkNext 1 = some p ∧ ((sNet p (core0 jobA)).link 1).up = false)
      ∧ (let p := { (pkt .read false) with data := [], space := 3, xmod := 2 ^ 13 }; let l : MLink := { up := true, room := 64 };
          let s : State := { (sNet p (core0 jobA)) with links := [(1, l)] };
          s.linkNext 1 = some p ∧ s.link 1 = l ∧ p.len = 0 ∧ 64 ≤ l.room ∧ mget 0 l.used p.vc < 64)
      ∧ (pkt .write false).crcOk = true ∧ ({ (pkt .write false) with flitBad := true } : Packet).crcOk = false := by
  decide +kernel

/-- Packets that are admitted and trusted, of every kind of request, and one that is not trusted, as its job is free. -/
theorem wit_RequestEvents :
    (∀ k ∈ [PKind.write, .read, .reduce, .arrival, .signal, .plane, .post], ∀ sl ∈ [false, true],
        let p := pkt k sl; let s := sNet p (core0 jobA);
        s.packet 9 = some p ∧ p.space ≠ 3 ∧ s.admissible p = true ∧ p.kind = k ∧ s.trusts p (decide (p.slice = false ∧ p.space ≠ 1)) = true)
      ∧ (let p := pkt .arrival false; (sNet p (core0 jobA)).trusts p true = true ∧ (sNet p (core0 jobA)).trusts p false = true
          ∧ (sNet p {}).trusts p (decide (p.slice = false ∧ p.space ≠ 1)) = false ∧ (sNet p {}).trusts p true = false)
      ∧ (∀ k ∈ [PKind.write, .read],
          let p := pkt k true; let s := sNet p (core0 jobA); let b : State := { s with bad := [p.home / 32] };
          (s.applied p).writeFails p = false ∧ (s.applied p).readFails p = false ∧ (b.applied p).writeFails p = true
            ∧ (b.applied p).readFails p = true ∧ b.packet 9 = some p ∧ b.admissible p = true ∧ b.trusts p false = true)
      ∧ (let p := pkt .signal false; let c := ((sNet p (core0 jobA)).applied p).core p.dest;
          (c.job p.djslot).sem (p.args.getD 0 0) = some 0 ∧ c.semCount 0 + p.args.getD 1 0 < 2 ^ 32
            ∧ 2 ^ 32 ≤ (c.setSem 0 (2 ^ 32 - 1)).semCount 0 + p.args.getD 1 0 ∧ (c.job p.djslot).sem 4 = none)
      ∧ (let p := pkt .plane false; let c := ((sNet p (core0 jobA)).applied p).core p.dest;
          (({ c with planeSt := 2 } : Core).planeDiff (toBytes 8 0)).2 ≠ 2 ∧ (c.planeDiff (toBytes 8 0)).2 = 2 ∧ p.args.getD 1 1 ≠ 0)
      ∧ (let p := { (pkt .plane false) with args := [0, 0] }; let q := { p with crc := p.headerCrc }; let s := sNet q (core0 jobA);
          s.packet 9 = some q ∧ s.admissible q = true ∧ s.trusts q false = true ∧ q.args.getD 1 1 = 0)
      ∧ ((core0 jobA).mbox.postDesc 0).isSome = true ∧ ({ tail := [(0, 8)] } : Mbox).postDesc 0 = none := by decide +kernel

/-- A record that writes a zero into an image of zeros. -/
def diff0 : List Byte := toBytes 4 (crc32c (List.replicate 2656 0)) ++ toBytes 12 1 ++ toBytes 8 (2 ^ 16) ++ toBytes 8 0

set_option maxRecDepth 100000 in
theorem wit_plane_difference :
    (((sNet { (pkt .plane false) with data := diff0 } (core0 jobA)).core 0).planeDiff diff0).2 ≠ 2 := by decide +kernel

/-- Packet 9 that answers walker 3 of die 0, which reads the dword at address 4096. -/
def sWalk (k : PKind) : State :=
  let p := { (pkt k false) with walk := true }
  { (sNet { p with crc := p.headerCrc } {}) with dies := [(0, { walks := [⟨3, 0, 5, 1, 4096, true, none⟩] })] }

/-- Answers of every kind to every purpose, the count of a signal taken, refused and overflowing, a line that a load waits for and
one that none does, a code line's part, and a walker's reads. -/
theorem wit_AnswerEvents :
    (∀ e ∈ [(PKind.writeAck, Purpose.late), (.writeAck, .write 0), (.readReply, .line 4096), (.readReply, .cmd 20 0 0),
          (.readReply, .code 6), (.errorReply, .code 6), (.errorReply, .cmd 20 0 0),
          (.signalReply, .signal 20 0), (.planeAnswer, .plane 20 0), (.postAnswer, .post 0), (.errorReply, .write 0), (.errorReply, .line 4096)],
        let p := pkt e.1 false; let r := req0 e.2 0;
        let s := sNet p { ((core0 jobA).setStream 20 { strm [] with cmds := [cmd0 (.xstep h0 k0 1)] }) with reqs := [r], codeWant := [1] };
        let c := ((s.applied p).core p.dest).endReq r;
        s.packet 9 = some p ∧ p.space ≠ 3 ∧ s.admissible p = true ∧ s.trusts p false = true ∧ ((s.applied p).core p.dest).reqOf p = some r
          ∧ r.purpose = e.2 ∧ p.kind = e.1 ∧ (c.stream 20).cmd 0 = some (cmd0 (.xstep h0 k0 1)) ∧ p.args.headD 0 = 0
          ∧ p.walk = false ∧ 6 / 4 ∈ c.codeWant ∧ (c.stream 0).wait = .none)
      ∧ (∀ n ∈ [1, 2], let p := { (pkt .signalReply false) with args := [n] }; let q := { p with crc := p.headerCrc };
          (sNet q (core0 jobA)).admissible q = true ∧ (sNet q (core0 jobA)).trusts q false = true ∧ q.args.headD 0 = n)
      ∧ (let c := ((core0 jobA).setStream 0 { strm [] with wait := .post 5 }); (c.stream 0).wait = .post 5)
      ∧ (let c := ((core0 jobA).setStream 0 { strm [] with wait := .load 7 3 false 4096 3 }); (c.stream 0).wait = .load 7 3 false 4096 3)
      ∧ (∀ k ∈ [PKind.readReply, .errorReply], let s := sWalk k;
          (match s.packet 9 with
            | none => false
            | some p => decide (p.space ≠ 3) && s.admissible p && s.trusts p false && p.walk && p.kind == k
                && (((s.applied p).die p.destDie).walks.find? fun x => x.id == p.rid && x.res.isNone)
                  == some ⟨3, 0, 5, 1, 4096, true, none⟩) = true) := by decide +kernel

/-- An XE stream whose command is XBRD of the tile named 0. -/
def sBoard : State := withCore ((core0 jobA).setStream 20 { strm [] with cmds := [cmd0 (.xbrd h0 k0 1 2)] })

/-- An object of one empty data section. -/
def objFile : List Byte :=
  toBytes 4 cofMagic ++ toBytes 4 1 ++ toBytes 4 1 ++ toBytes 8 0 ++ toBytes 4 128 ++ toBytes 4 144 ++ toBytes 4 144 ++ toBytes 4 144
    ++ toBytes 4 8 ++ toBytes 20 0 ++ toBytes 24 (2 ^ 192 - 1) ++ toBytes 44 0 ++ toBytes 8 0x30003 ++ toBytes 4 144 ++ toBytes 4 0
    ++ toBytes 8 0

/-- The module with the object at address 16384 and data tables that map the first 2 MiB to themselves. -/
def sObj (d : Die) : State :=
  let w := fun m (e : Nat × Nat) => wrLe m e.1 8 e.2
  { State.reset with
    dies := [(0, d)]
    mem := [(0, 4096), (4096, 2 ^ 63 + 8192), (8192, 2 ^ 63 + 12288), (12288, 7 * 2 ^ 61)].foldl w (wrBytes [] 16384 objFile) }

/-- The image loader of a die that loads handle 0 (op 1) or unloads it (op 2). -/
def ilDie (op : Nat) : Die := { ilSrc := 16384, ilLen := 152, ilDt := 0, ilCmd := op * 2 ^ 8, ilStatus := 2 ^ 63 }

theorem wit_CarouselAndImageEvents :
    (let s := withCore (core0 jobA);
      s.ring.slotAt 0 = some 0 ∧ s.slotTile 0 = none ∧ s.changeFor (dieAtPos 0) none = none)
      ∧ (sBoard.ring.slotAt 0 = some 0 ∧ sBoard.slotTile 0 = none
          ∧ (({ sBoard with ring := sBoard.ring.setTile 0 none } : State).changeFor (dieAtPos 0) none).isSome = true)
      ∧ (let tl : Tile := { name := 5, ver := 1, data := 0, pend := none, spoilt := false, boardedAt := 0 };
          let s : State := { sBoard with ring := sBoard.ring.setTile 0 (some tl) };
          s.ring.slotAt 0 = some 0 ∧ s.ring.tile 0 = some tl ∧ tl.confirmed = true
            ∧ ({ s with ring := s.ring.setTile 0 (some tl) } : State).changeFor (dieAtPos 0) (some tl) = none)
      ∧ (∀ q ∈ [(5, 7, true), (6, 7, false), (6, 0, false)],
          let tl : Tile := { name := q.1, ver := 1, data := 0, pend := none, spoilt := false, boardedAt := 0 };
          let k : Catch := ⟨3, 16, [16], 5, q.2.1⟩;
          let s : State := { sBoard with ring := { (sBoard.ring.setTile 0 (some tl)) with catches := [k] } };
          (s.ring.catches.filter fun k => k.core == 3) = [k] ∧ (s.ring.slotAt (ringPos (dieOf k.core))).bind s.ring.tile = some tl
            ∧ tl.confirmed = true ∧ (tl.name == k.name) = q.2.2)
      ∧ (0x507 < 2 ^ 12 ∧ 0x507 / 2 ^ 3 % 2 ^ 5 = 0 ∧ 0x507 / 2 ^ 8 % 2 ^ 3 < 6)
      ∧ (let s : State := { (withCore (core0 jobA)) with ring := { pend := 1, pvalid := true } }; s.ring.pvalid = true ∧ s.ringIdle = true)
      ∧ (let x := ilDie 2; x.ilBusy = true ∧ x.ilOp = 2 ∧ ((withCore (core0 jobA)).core 0).usesImage 0 = true
          ∧ ∀ i, i < 16 → (State.reset.core i).usesImage 0 = false) := by decide +kernel

set_option maxRecDepth 100000 in
theorem wit_image_load :
    (ilDie 1).ilBusy = true ∧ (ilDie 1).ilOp = 1 ∧ (sObj (ilDie 1)).settled 0 = true
      ∧ ((sObj (ilDie 1)).checkLoad (ilDie 1) 0 false).toOption.isSome = true
      ∧ (State.reset.checkLoad { (ilDie 1) with images := [(0, ⟨1, 0⟩)] } 0 false).toOption.isSome = false := by decide +kernel

/-- A core whose job is job j and whose mailbox is m. -/
def cBox (j : Job) (m : Mbox) : Core := { (core0 j) with mbox := m }

/-- A descriptor of image 0 in queue 0 with every queue, and one that restores the image at 16384. -/
def dPlain : Nat := 0xFFFF * 2 ^ 320

def dRes : Nat := dPlain + 2 ^ 12 + 16384 * 2 ^ 448

/-- Core 0 of a die whose image 0 has a word of image bits. -/
def sLoad (bits : Nat) (c : Core) : State :=
  { sObj { images := [(0, ⟨bits, 0⟩)] } with cores := mput {} 0 c [], ready := true }

/-- What the loader does with a head: 0 refuses it, 1 loads, 2 restores, 3 stages, 4 blocks. -/
def actKind (a : LAct) : Nat :=
  match a with
  | .refuse _ => 0
  | .load _ _ => 1
  | .restore _ _ _ => 2
  | .stage => 3
  | .block => 4

/-- A core that considers queue 0, whose head is d. -/
def cHead (d : Nat) : Core := cBox jobA { consider := true, resume := [(0, [d])] }

/-- The loader's conditions hold in s. -/
def loaderFree (s : State) : Bool :=
  let x := s.core 0
  !x.frozen && decide (x.mbox.fifo.length < 16) && x.mbox.held.isEmpty && s.settled (dieOf 0)

/-- A mailbox to consider without heads, and with a head that is refused, loaded, staged and blocked. -/
theorem wit_loader_heads :
    (let s := withCore (cBox jobA { consider := true }); let x := s.core 0;
      x.mbox.consider = true ∧ loaderFree s = true ∧ ∀ q ∈ [0, 1, 2, 3], x.unstarted q = false ∧ x.mbox.headOf q = none)
      ∧ (∀ e ∈ [(0, none, 0), (1 + 2 ^ 32, none, 1), (1 + 2 ^ 32 + 2 ^ 48, none, 3), (1 + 2 ^ 32 + 2 ^ 48, some (dPlain + 2 ^ 8), 4)],
          let s := sLoad e.1 { cHead dPlain with stagedJob := e.2.1 }; let x := s.core 0;
          x.mbox.consider = true ∧ loaderFree s = true ∧ x.unstarted 0 = false ∧ x.mbox.headOf 0 = some (dPlain, false)
            ∧ actKind (s.headAct 0 0 dPlain false) = e.2.2) := by decide +kernel

set_option maxRecDepth 100000 in
/-- A head that restores the image at address 16384, and one that waits for a job that it pre-empts. -/
theorem wit_loader_restore :
    (let s0 := sLoad (1 + 2 ^ 32) (cHead dRes); let s : State := { s0 with mem := wrBytes s0.mem 16384 (imgBytes 0xFFFF) };
      loaderFree s = true ∧ (s.core 0).mbox.headOf 0 = some (dRes, false) ∧ actKind (s.headAct 0 0 dRes false) = 2)
      ∧ (let s := sLoad (1 + 2 ^ 32) { ([0, 1, 2, 3].foldl (fun (c : Core) k => c.setStream k (strm []))
            (cBox { jobA with desc := 2 ^ 10 + 2 ^ 8 } { consider := true, resume := [(0, [dPlain])] })) with
              stagedJob := some (dPlain + 2 ^ 8) };
          (s.core 0).mbox.headOf 0 = some (dPlain, false) ∧ actKind (s.headAct 0 0 dPlain false) = 4 ∧ (s.preempts 0 0 dPlain false).isSome = true) := by decide +kernel

/-- Loaded jobs of each kind, a staged job, doorbells of each kind, and jobs in the states that the management commands tell
apart. -/
theorem wit_LoaderEvents :
    (∀ r ∈ [0, 1, 2, 3], let s := withCore (core0 { jobA with st := .loading, resKind := r }); let b := (s.core 0).job 0;
        b.st = .loading ∧ loaderFree s = true ∧ b.resKind = r ∧ s.prefetched 0 b.lines = true
          ∧ ((s.core 0).rerunPlace 0 b.engmask).isSome = true)
      ∧ (let s := sLoad (1 + 2 ^ 32) { (core0 jobA) with stagedJob := some dPlain }; let x := s.core 0;
          let img := ((s.die (dieOf 0)).image (descImage dPlain)).bits;
          x.stagedJob = some dPlain ∧ loaderFree s = true ∧ descRes dPlain = false
            ∧ (x.place (imgMask img) (imgSems img) (imgQmask img)).isSome = true)
      ∧ (let s := withCore (cBox jobA {}); s.ready = true ∧ s.trip = false ∧ s.hostMay 0 0 = true ∧ (s.core 0).mbox.fifo.length < 16
          ∧ (s.core 0).mbox.held = [])
      ∧ (let m : Mbox := { tail := [(1, 5)] };
          8 < 9 ∧ 8 < m.load 1 + 4 ∧ (3 ≠ 0 ∧ 3 ≤ 8 ∧ m.load 1 + 3 ≤ 8))
      ∧ (let b := (core0 { jobA with st := .stopped }).job 0; 0 < 8 ∧ b.st = .stopped ∧ descRes b.desc = false)
      ∧ (∀ fz ∈ [false, true], let c : Core := { (core0 { jobA with desc := 2 ^ 10 }) with frozen := fz };
          (c.job 0).st ≠ .stopped ∧ (c.job 0).st = .running ∧ descPre (c.job 0).desc = true ∧ c.frozen = fz)
      ∧ ((core0 { jobA with st := .stopped }).job 0).st ≠ .running ∧ descPre ((core0 jobA).job 0).desc = false := by decide +kernel

theorem wit_HostEvents :
    (let s := withCore (core0 jobA);
      s.ready = true ∧ s.trip = false ∧ (Window.write {} 0 4096).isSome = true ∧ (Window.write {} 1 (2 ^ 40)).isSome = true
        ∧ (Window.write {} 2 (2 ^ 63 + 16)).isSome = true ∧ s.partitionOk 1 2 = true ∧ (s.links.all fun e => !e.2.up) = true ∧ (s.link 7).enable = false
        ∧ bit s.lstat 63 = false ∧ s.cycles % 2 ^ 16 = 0)
      ∧ (let s : State := { State.reset with ready := true, links := [(6, { enable := true }), (7, { enable := true, training := true })] };
          s.ready = true ∧ (s.link 7).enable = true ∧ (s.link 7).training = true ∧ (s.link 6).enable = true ∧ (s.link 6).training = false)
      ∧ (({ State.reset with links := [(7, { up := true })] } : State).link 7).up = true
      ∧ (2 ^ 40 < 2 ^ 40 - 4 + 8 ∧ 2 ^ 40 - 8 + 8 ≤ 2 ^ 40) ∧ (15 < 16 ∧ 248 < 256 ∧ 248 % 8 = 0 ∧ 4 % 8 ≠ 0)
      ∧ (let s : State := { State.reset with lstat := 2 ^ 63, lcmd := 4097 };
          bit s.lstat 63 = true ∧ s.lcmd % 2 ^ 12 = 1 ∧ s.lanternIdx < 32768
            ∧ s.lcmd / 2 ^ 12 * 2 ^ 12 + 64 + 40 * s.validImages.length + 2668 ≤ 2 ^ 40)
      ∧ (({ State.reset with dies := [(15, { temp := 840 })] } : State).hotDie = some 15)
      ∧ (State.reset.bring.strap % 4 < 2 ∧ State.reset.bring.bootOk = true ∧ State.reset.bring.trainOk = true ∧ State.reset.bring.wickOk = true) := by
  decide +kernel

/-- A stream that traps; a stream whose job stops in this clock; and a handler that fails. -/
theorem wit_TrapEntry :
    ((0 ≠ 24) ∧ ((core0 jobA).job 0).st = .running ∧ ((core0 { jobA with st := .yielding }).job 0).st = .yielding)
      ∧ (let b := (core0 { jobA with st := .stopping, trapClk := some 5 }).job 0;
          b.st = .stopping ∧ b.trapClk = some 5 ∧ (4 / 4 * 2 ^ 5 + 4 % 4) % 2 ^ 8 ≠ b.trap.eng % 2 ^ 8)
      ∧ (let c := (sWick 8 []).here; (c.job c.trapJob).st = .running)
      ∧ (let c := { (sWick 8 []).here with frozen := true }.setJob 0 { jobA with st := .stopping };
          (c.job c.trapJob).st = .stopping) := by decide +kernel

def isNext : Host.Outcome State Fault Refusal → Bool
  | .next _ => true
  | .fault _ | .refused _ => false

theorem nextIs {o : Host.Outcome State Fault Refusal} (h : isNext o = true) : ∃ t, o = .next t := by
  cases o with
  | next t => exact ⟨t, rfl⟩
  | fault r => cases h
  | refused r => cases h

theorem wit_RegisterFrames :
    (∃ t, exec (.addi h0 (.x 7) (.x 7) 64) (mk .sq []) = .next t) ∧ ScalarOp (.x 7) (.addi h0 (.x 7) (.x 7) 64)
      ∧ (∃ t, exec (.pmov h0 1 2) (mk .sq []) = .next t) ∧ PredOp 1 (.pmov h0 1 2)
      ∧ (∃ t, exec (.nop h0) (mk .sq []) = .next t) ∧ FlowOp (.nop h0)
      ∧ (∃ t, exec (.wnop w0) (sWe {}) = .next t) ∧ LandsLater (.wnop w0) ∧ exposed (engOf (sWe {}).cur.key) = true
      ∧ (∃ t, exec (.mdrn h0 k0 1 2) (mk .me []) = .next t) ∧ CommandOp (.mdrn h0 k0 1 2) :=
  ⟨nextIs (by decide +kernel), .addi .., nextIs (by decide +kernel), .pmov .., nextIs (by decide +kernel), .nop ..,
    nextIs (by decide +kernel), .wnop .., by decide +kernel, nextIs (by decide +kernel), .mdrn ..⟩

theorem wit_StoreAndLandingFrames :
    (∃ t, exec (.st h0 1 (.x 2) 0 3) (mk .sq [(1, 5), (2, 64)]) = .next t)
      ∧ (let p := pkt .write true; let s := sNet p (core0 jobA);
          s.packet 9 = some p ∧ p.slice = true ∧ p.space ≠ 1 ∧ p.kind = .write ∧ p.space ≠ 3 ∧ s.admissible p = true
            ∧ s.trusts p false = true ∧ 7 < p.data.length ∧ bit p.mask 7 = true)
      ∧ (∃ t, exec (.applyWrite 9) (sNet (pkt .write true) (core0 jobA)) = .next t)
      ∧ ∃ t, exec (.resultLands 0) (withCore { (core0 jobA) with pending := [⟨8, 1, .x 3 7, 0, 1⟩] }) = .next t :=
  ⟨nextIs (by decide +kernel), by decide +kernel, nextIs (by decide +kernel), nextIs (by decide +kernel)⟩

theorem wit_InstructionsLeaveMemoryToPackets :
    Instr.accepted .sq (.addi h0 (.x 7) (.x 7) 64) = true ∧ ∃ t, exec (.addi h0 (.x 7) (.x 7) 64) (mk .sq []) = .next t :=
  ⟨by decide, nextIs (by decide +kernel)⟩

theorem wit_StepKeepsMemoryForm : (mk .sq []).memOk ∧ ∃ t, step (mk .sq []) = .next t :=
  ⟨by unfold State.memOk; decide +kernel, nextIs (by decide +kernel)⟩

/-! ### Single steps and worked values, with the rule each expected value comes from -/

/-- What f reads of the state after an instruction. -/
def after (i : Instr) (s : State) (f : State → Nat) : Option Nat :=
  match exec i s with
  | .next t => some (f t)
  | .fault _ | .refused _ => none

/-- Register n of the stream in slot 0 of SQ. -/
def xq (n : Nat) (t : State) : Nat := (((t.core 0).stream 0).getX n).toNat

/-- R117: sums are modulo 2^64; R69: x0 discards what is written; R117: LIH extends the sign of its 20 bits. -/
theorem test_alu_immediate : after (.addi h0 (.x 2) (.x 1) 1) (mk .sq [(1, 2 ^ 64 - 1)]) (xq 2) = some 0
    ∧ after (.addi h0 (.x 0) (.x 1) 1) (mk .sq [(1, 5)]) (xq 0) = some 0
    ∧ after (.lih h0 (.x 2) (-1)) (mk .sq []) (xq 2) = some (2 ^ 64 - 4096)
    ∧ after (.srai h0 (.x 2) (.x 1) 1) (mk .sq [(1, 2 ^ 64 - 8)]) (xq 2) = some (2 ^ 64 - 4)
    ∧ after (.slti h0 (.x 2) (.x 1) (-1)) (mk .sq [(1, 2 ^ 64 - 2)]) (xq 2) = some 1 := by decide +kernel

/-- R116: the high words of −1 times 2, signed and unsigned; 63 leading zeros of 1; minimum signed and unsigned. -/
theorem test_alu : after (.mulh h0 (.x 3) (.x 1) (.x 2)) (mk .sq [(1, 2 ^ 64 - 1), (2, 2)]) (xq 3) = some (2 ^ 64 - 1)
    ∧ after (.mulhu h0 (.x 3) (.x 1) (.x 2)) (mk .sq [(1, 2 ^ 64 - 1), (2, 2)]) (xq 3) = some 1
    ∧ after (.clz h0 (.x 3) (.x 1)) (mk .sq [(1, 1)]) (xq 3) = some 63
    ∧ after (.min h0 (.x 3) (.x 1) (.x 2)) (mk .sq [(1, 2 ^ 64 - 1), (2, 2)]) (xq 3) = some (2 ^ 64 - 1)
    ∧ after (.minu h0 (.x 3) (.x 1) (.x 2)) (mk .sq [(1, 2 ^ 64 - 1), (2, 2)]) (xq 3) = some 2 := by decide +kernel

/-- R118: CMP.ltu of 2 and −1 holds and CMP.lt does not. -/
theorem test_compare :
    let p := fun (t : State) => if ((t.core 0).stream 0).getP 3 then 1 else 0
    after (.cmp h0 .ltu 3 (.x 1) (.x 2)) (mk .sq [(1, 2), (2, 2 ^ 64 - 1)]) p = some 1
      ∧ after (.cmp h0 .lt 3 (.x 1) (.x 2)) (mk .sq [(1, 2), (2, 2 ^ 64 - 1)]) p = some 0 := by decide +kernel

/-- The scratchpad as sMap, with bytes 0x80, 0xFF at 8 and 9. -/
def sBytes : State := at_ .sq (strm [(1, 8), (2, 0x1234)]) { (core0 jobA) with spad := [(8, 0x80), (9, 0xFF)] }

/-- R119, R5: a byte load extends its sign unless told otherwise, and a half word has its low byte first. -/
theorem test_load : after (.ld h0 (.x 3) (.x 1) 0 0 false) sBytes (xq 3) = some (2 ^ 64 - 128)
    ∧ after (.ld h0 (.x 3) (.x 1) 0 0 true) sBytes (xq 3) = some 128
    ∧ after (.ld h0 (.x 3) (.x 1) 0 1 true) sBytes (xq 3) = some 0xFF80 := by decide +kernel

/-- R119: a byte store writes one byte, the low one. -/
theorem test_store : after (.st h0 2 (.x 1) 1 0) sBytes (fun t => rdLe (t.core 0).spad 8 3) = some 0x3480 := by decide +kernel

/-- R119, R144: a misaligned address traps with cause 0x07 and the address; R121: TRAP has cause 0x01 and bit 31 of its status. -/
theorem test_traps : after (.ld h0 (.x 3) (.x 1) 1 3 false) sBytes (fun t => ((t.core 0).job 0).trap.cause) = some 7
    ∧ after (.trap h0 0xBAD) (mk .sq []) (fun t => ((t.core 0).job 0).trap.status) = some (2 ^ 31 + 0xBAD)
    ∧ after (.trap h0 0xBAD) (mk .sq []) (fun t => ((t.core 0).job 0).trap.cause) = some 1
    ∧ after (.trap h0 0xBAD) (mk .sq []) (fun t => ((t.core 0).job 0).trap.pc) = some 64 := by decide +kernel

/-- R110: branches count in words from their own pc; CALL leaves the address after itself. -/
theorem test_control : after (.br h0 false (-8)) (mk .sq []) (fun t => ((t.core 0).stream 0).pc) = some 0
    ∧ after (.call h0 1 4) (mk .sq []) (xq 1) = some 72
    ∧ after (.call h0 1 4) (mk .sq []) (fun t => ((t.core 0).stream 0).pc) = some 96 := by decide +kernel

/-- R124: SSET sets the count, and SGET gives the count at the start of its clock. -/
theorem test_semaphore : after (.sset h0 2 1) (mk .sq [(1, 9)]) (fun t => (t.core 0).semCount 2) = some 9
    ∧ after (.sget h0 9 2) (at_ .sq (strm []) { (core0 jobA) with sems := [(2, 8)], semStart := [(2, 7)] }) (xq 9) = some 7 := by decide +kernel

/-- The decoding examples of R35, in units of 2^−7. -/
theorem test_pw2 : [0x35, 0x53, 0x08, 0x00, 0xF7].map pw2Units = [20, 20, 0, 256, 0] ∧ pw2Canon 20 = some 0x35 ∧ pw2Canon 0 = some 0x08
    ∧ pw2Canon 64 = some 0x22 := by decide +kernel

/-- The worked block of R43: 13, −0.3 (here −0.3 of FP32) and 5 under FP4 to nearest even. -/
theorem test_pack_block :
    let b := packBlock .e2m1 .rne ([ffF32.dec 0x41500000, ffF32.dec 0xBE99999A, ffF32.dec 0x40A00000] ++ List.replicate 29 (.fin false 0 0))
    b.1 = 0x81 ∧ b.2.1.take 4 = [5, 8, 2, 0] := by decide +kernel

/-- R44: 1 + 2^−24 in FP32 rounds to even; −0 is below +0 for VFMIN; 1/0 is infinity with DZ. -/
theorem test_float : (fAdd ffF32 .rne 0x3F800000 0x33800000).1 = 0x3F800000 ∧ (fMinMax ffF32 false 0 0x80000000).1 = 0x80000000
    ∧ (fRcp 0).1 = 0x7F800000 := by decide +kernel

end Sys2Proof.Tests
end

section
/-!
PROOF. The position registers (R8): what CSRR reads from CORE_ID, STREAM_ID and DIE_ID, and what CSRW to them does.
-/

namespace Sys2Proof.Machine

/-! ### The stream whose trap the wick core handles, as an instruction issues -/

@[simp] theorem Core.unpop_trapKey (c : Core) (k : Nat) : (c.unpop k).trapKey = c.trapKey := by
  simp only [Core.unpop]
  split
  · rfl
  · simp

theorem Core.popTok_trapKey {c c1 : Core} {k tp : Nat} (h : c.popTok k tp = some c1) : c1.trapKey = c.trapKey := by
  simp only [Core.popTok] at h
  split at h
  · cases h; simp
  · split at h
    · cases h
    · cases h; simp

/-- Where the tokens of an instruction are there, the core is as it was or has popped one (R14). -/
theorem Core.tokens_ok_cases {c c1 : Core} {k tp : Nat} {pop push : Bool} (h : c.tokens k tp pop push = .ok c1) :
    c1 = c ∨ c.popTok k tp = some c1 := by
  simp only [Core.tokens] at h
  split at h
  · cases h; exact .inl rfl
  · split at h
    · split at h <;> cases h
    · split at h
      · split at h
        · split at h <;> cases h
        · next hp =>
          split at h
          · cases h
          · cases h; exact .inr hp
      · split at h
        · cases h
        · cases h; exact .inl rfl

theorem Core.tokens_trapKey {c c1 : Core} {k tp : Nat} {pop push : Bool} (h : c.tokens k tp pop push = .ok c1) :
    c1.trapKey = c.trapKey := by
  obtain rfl | hp := Core.tokens_ok_cases h
  · rfl
  · exact Core.popTok_trapKey hp

/-- Taking and returning tokens leaves the stream whose trap is handled as it was. -/
theorem Issues.trapKey_eq {s : State} {h : Head} {c : Core} (hI : Issues s h c) :
    c.trapKey = (s.core s.cur.core).trapKey :=
  (Core.tokens_trapKey hI.2).trans (Core.unpop_trapKey ..)

/-! ### CSRR and CSRW -/

/-- CSRR of a register that the stream may read writes its value (R120). -/
theorem csrr_runs {s : State} {h : Head} {d : Opnd} {n : Nat} {c : Core} (hI : Issues s h c)
    (hq : c.opndCheck s.cur.key [] (some d) = none) (hr : csrReadOk c s.cur.key n = true) :
    Runs (.csrr h d n) h s
      (c.opndWrite s.cur.key (comLat s.cur.eng 1 1) d (word (csrValue s s.cur.core s.cur.key n)) 0) .seq
      (comLat s.cur.eng 1 1) := by
  simp only [Runs, Completes, exec_csrr, execCsrr]
  refine runC_done hI ?_
  simp [hr, aluBody, hq, Core.opndPop]

/-- CSRW to a register that the stream may not write traps, whatever its operand (R120). -/
theorem csrw_traps_of_not_writeOk {s : State} {h : Head} {a : Opnd} {n : Nat} {c : Core} (hI : Issues s h c)
    (hw : csrWriteOk c s.cur.key n = false) : Traps (.csrw h a n) s 0x03 0x0E := by
  simp only [Traps, Completes, exec_csrw, execCsrw]
  refine ⟨_, runI_trap hI ?_, rfl⟩
  simp [hw, opcCsrw]

/-! ### Positions (R7, R28) -/

/-- The list of dies along the carousel's ring and the list of ring positions invert each other. -/
theorem ringPos_dieAt : ∀ p < 16,
    ringPos ([0, 1, 2, 3, 7, 6, 5, 9, 10, 11, 15, 14, 13, 12, 8, 4].getD p 0) = p := by decide

theorem coreIdWord_eq (d : Nat) {e : Nat} (he : e < 16) :
    coreIdWord (16 * d + e)
      = (4 * (d / 4) + e / 4) * 2 ^ 20 + (4 * (d % 4) + e % 4) * 2 ^ 16 + d * 2 ^ 4 + e := by
  have hd : (16 * d + e) / 16 = d := by omega
  have hm : (16 * d + e) % 16 = e := by omega
  simp only [coreIdWord, meshX, meshY, hd, hm]

theorem dieIdWord_dieOf {d e p : Nat} (he : e < 16) (hp : ringPos d = p) :
    dieIdWord (dieOf (16 * d + e)) = p * 2 ^ 12 + d / 4 * 2 ^ 10 + d % 4 * 2 ^ 8 + d := by
  have hd : dieOf (16 * d + e) = d := by rw [dieOf]; omega
  rw [hd, dieIdWord, hp]

/-- No stream may write a position register. -/
theorem csrWriteOk_position (c : Core) (k : Nat) {n : Nat} (hn : n ∈ [0x001, 0x002, 0x003]) :
    csrWriteOk c k n = false := by
  simp only [List.mem_cons, List.not_mem_nil, or_false] at hn
  obtain rfl | rfl | rfl := hn <;> rfl

/-- Settles O16: CSRR writes the value of the register, which is the map at the core's own number, and no stream may write
one of the three. -/
theorem positionRegisters : Obligations.PositionRegisters := by
  unfold Obligations.PositionRegisters
  intro s h o c d e p hI hq hcore _ he hp hdie k l reads
  have hreads {n v : Nat} (hr : csrReadOk c s.cur.key n = true) (hv : csrValue s s.cur.core s.cur.key n = v) :
      reads n v := hv ▸ csrr_runs hI hq hr
  refine ⟨hreads rfl ?_, hreads rfl ?_, hreads rfl ?_,
    fun n hn a => csrw_traps_of_not_writeOk hI (csrWriteOk_position _ _ hn)⟩
  · calc csrValue s s.cur.core s.cur.key 0x002 = coreIdWord (16 * d + e) := by rw [← hcore]; rfl
      _ = _ := coreIdWord_eq d he
  · calc csrValue s s.cur.core s.cur.key 0x001
        = streamIdWord s.cur.core (if s.cur.key = 24 then (s.core s.cur.core).trapKey else s.cur.key) := rfl
      _ = streamIdWord (16 * d + e) k := by rw [← hI.trapKey_eq, hcore]
      _ = _ := rfl
  · have hpos : ringPos d = p := hdie ▸ ringPos_dieAt p hp
    calc csrValue s s.cur.core s.cur.key 0x003 = dieIdWord (dieOf (16 * d + e)) := by rw [← hcore]; rfl
      _ = _ := dieIdWord_dieOf he hpos

end Sys2Proof.Machine
end

section
/-!
PROOF. Opcodes (R74 to R78): what a word that does not decode does to its stream, the opcode byte in fetched bytes, and the
system opcodes (R76) and the opcodes of the weight-code engine (R77).
-/

namespace Sys2Proof

/-! ### The opcode byte in the bytes of an instruction -/

theorem leBytes_lt (bs : List Byte) : leBytes bs < 256 ^ bs.length := by
  induction bs with
  | nil => simp [leBytes]
  | cons b r ih =>
    have hb : b.toNat < 256 := b.isLt
    simp only [leBytes, List.length_cons, pow_succ]
    omega

/-- A dword of an instruction's bytes. -/
theorem leBytes_take_eight_lt (bs : List Byte) : leBytes (bs.take 8) < 2 ^ 64 :=
  calc leBytes (bs.take 8) < 256 ^ (bs.take 8).length := leBytes_lt _
    _ ≤ 256 ^ 8 := Nat.pow_le_pow_right (by decide) (bs.length_take_le 8)
    _ = 2 ^ 64 := by decide

theorem wordOf_of_length_eight {e : Eng} {bs : List Byte} (he : e ≠ .we) (hl : bs.length = 8) :
    wordOf e bs = leBytes bs := by
  rw [wordOf, if_neg he, List.take_of_length_le hl.le]

/-- The field that reaches the top of a word is what stands above the rest. -/
theorem fld_top {w lo n : Nat} (h : w < 2 ^ (lo + n)) : fld w lo n = w / 2 ^ lo :=
  Nat.mod_eq_of_lt (Nat.div_lt_of_lt_mul (by rwa [← pow_add]))

theorem opcOf_wordOf {e : Eng} {bs : List Byte} (he : e ≠ .we) (hl : bs.length = 8) :
    opcOf (wordOf e bs) = leBytes bs / 2 ^ 56 := by
  rw [wordOf_of_length_eight he hl]
  refine fld_top ?_
  have hlt := leBytes_take_eight_lt bs
  rwa [List.take_of_length_le hl.le] at hlt

theorem fld_opcode_wordOf_we (bs : List Byte) : fld (wordOf .we bs) 248 8 = wordOf .we bs / 2 ^ 248 := by
  refine fld_top ?_
  have h0 := leBytes_take_eight_lt bs
  have h1 := leBytes_take_eight_lt (bs.drop 8)
  have h2 := leBytes_take_eight_lt (bs.drop 16)
  have h3 := leBytes_take_eight_lt (bs.drop 24)
  simp only [wordOf, if_true]
  omega

/-! ### The checks of R78 in their order -/

theorem decode_of_length_le {e : Eng} {priv : Bool} {bs : List Byte} (hl : instrLen e ≤ bs.length) :
    decode e priv bs = decodeWord e priv (wordOf e bs) :=
  if_neg (Nat.not_lt.mpr hl)

/-- Check 1: an opcode that is not assigned in the engine is illegal, whatever else the word holds. -/
theorem decodeWord_of_not_opcAssigned {e : Eng} {priv : Bool} {w : Nat}
    (ha : opcAssigned e (if e = .we then fld w 248 8 else opcOf w) = false) :
    decodeWord e priv w = .error .illegal := by
  simp [decodeWord, ha]

/-- Check 2: an assigned opcode that the stream may not use. -/
theorem decodeWord_of_opcPrivileged {e : Eng} {priv : Bool} {w : Nat}
    (ha : opcAssigned e (if e = .we then fld w 248 8 else opcOf w) = true)
    (hp : opcPrivileged e priv (if e = .we then fld w 248 8 else opcOf w) = true) :
    decodeWord e priv w = .error .privileged := by
  simp [decodeWord, ha, hp]

/-- A word that decodes has passed every check: it reads as an instruction that its engine accepts and that encodes to it. -/
theorem decodeWord_eq_ok {e : Eng} {priv : Bool} {w : Nat} {i : Instr} (h : decodeWord e priv w = .ok i) :
    parse e w = some i ∧ i.accepted e = true ∧ encode i = w := by
  simp only [decodeWord] at h
  generalize (if e = .we then fld w 248 8 else opcOf w) = opc at h
  split at h
  · cases h
  split at h
  · cases h
  split at h
  · cases h
  next j hj =>
    split at h
    · cases h
    next hacc =>
      split at h
      · cases h
      next hclean =>
        cases h
        simp only [Bool.not_eq_true', Bool.not_eq_false, Bool.and_eq_true, beq_iff_eq] at hacc hclean
        exact ⟨hj, hacc, hclean.2⟩

theorem decode_eq_ok {e : Eng} {priv : Bool} {bs : List Byte} {i : Instr} (h : decode e priv bs = .ok i) :
    parse e (wordOf e bs) = some i ∧ i.accepted e = true ∧ encode i = wordOf e bs := by
  simp only [decode] at h
  split at h
  · cases h
  · exact decodeWord_eq_ok h

end Sys2Proof

namespace Sys2Proof.Machine

/-! ### A fetched word that does not decode (R78) -/

/-- The step of an engine's turn that issues nothing. -/
theorem step_of_issueTurn_idle {s s2 : State} {cid : Nat} {e : Eng} {tried : List Nat} {r : List Turn}
    (ht : s.todo = .issue cid e tried :: r) (hi : (s.atTurn cid e tried r).issueTurn cid e tried = .idle s2) :
    step s = .next (s2.settleHold cid e) := by
  simp only [State.atTurn] at hi
  simp only [step, ht, List.isEmpty_iff, hi, endTurn]

/-- A stream whose fetched bytes do not decode takes the trap of the error with its opcode byte. -/
theorem tryStream_of_decode_error {s : State} {cid i : Nat} {e : Eng} {tried : List Nat} {bs : List Byte} {er : DecodeErr}
    (hw : ((s.core cid).stream (skey e i)).wait = .none)
    (hf : ({ s with cur := ⟨cid, e, i, tried⟩ } : State).fetch cid (skey e i) = .ok bs)
    (hd : decode e ((s.core cid).privileged (skey e i)) bs = .error er) :
    s.tryStream cid e i tried
      = .idle (({ s with cur := ⟨cid, e, i, tried⟩ } : State).setCore cid
          ((s.core cid).takeTrap s.cycles (skey e i) (DecodeErr.cause er) (opcodeByte e bs))) := by
  simp [State.tryStream, hw, hf, hd]

/-- The step of a stream whose fetched bytes do not decode is that trap. -/
theorem Fetches.traps_of_decode_error {s s1 : State} {cid slot : Nat} {e : Eng} {bs : List Byte} {er : DecodeErr}
    (hF : Fetches s cid e slot bs s1) (hd : decode e ((s1.core cid).privileged (skey e slot)) bs = .error er) :
    FetchTraps s s1 cid e slot (DecodeErr.cause er) (opcodeByte e bs) := by
  obtain ⟨⟨tried, r, htodo, hchoose, rfl⟩, hfree, hbytes⟩ := hF
  refine step_of_issueTurn_idle htodo ?_
  simp only [State.issueTurn, hchoose]
  exact tryStream_of_decode_error hfree hbytes hd

theorem opcodeByte_scalar {e : Eng} {bs : List Byte} (he : e ≠ .we) (hl : bs.length = 8) :
    opcodeByte e bs = leBytes bs / 2 ^ 56 := by
  rw [opcodeByte, if_neg he, ← opcOf, opcOf_wordOf he hl]

theorem opcodeByte_we (bs : List Byte) : opcodeByte .we bs = wordOf .we bs / 2 ^ 248 := by
  rw [opcodeByte, if_pos rfl, fld_opcode_wordOf_we]

/-- A fetched instruction whose opcode its engine does not assign traps with cause 0x01. -/
theorem Fetches.traps_of_not_opcAssigned {s s1 : State} {cid slot : Nat} {e : Eng} {bs : List Byte}
    (hF : Fetches s cid e slot bs s1) (hl : instrLen e ≤ bs.length) (ha : opcAssigned e (opcodeByte e bs) = false) :
    FetchTraps s s1 cid e slot 0x01 (opcodeByte e bs) := by
  refine hF.traps_of_decode_error (er := .illegal) ?_
  rw [decode_of_length_le hl]
  exact decodeWord_of_not_opcAssigned ha

/-- A fetched instruction whose opcode its engine assigns but its stream may not use traps with cause 0x03. -/
theorem Fetches.traps_of_opcPrivileged {s s1 : State} {cid slot : Nat} {e : Eng} {bs : List Byte}
    (hF : Fetches s cid e slot bs s1) (hl : instrLen e ≤ bs.length) (ha : opcAssigned e (opcodeByte e bs) = true)
    (hp : opcPrivileged e ((s1.core cid).privileged (skey e slot)) (opcodeByte e bs) = true) :
    FetchTraps s s1 cid e slot 0x03 (opcodeByte e bs) := by
  refine hF.traps_of_decode_error (er := .privileged) ?_
  rw [decode_of_length_le hl]
  exact decodeWord_of_opcPrivileged ha hp

end Sys2Proof.Machine

namespace Sys2Proof

/-! ### System opcodes (R76) -/

/-- The opcode of a system instruction. -/
def Instr.systemOpcode : Instr → Option Nat
  | .rft .. => some 0xF0
  | .resume .. => some 0xF1
  | .ctxsv .. => some 0xF2
  | .ctxld .. => some 0xF3
  | .tlbiDataAll .. | .tlbiDataPage .. | .tlbiInstrAll .. | .tlbiInstrPage .. => some 0xF4
  | .keyopLoad .. | .keyopDestroy .. | .keyopQuery .. => some 0xF5
  | .capw .. => some 0xF6
  | .tnset .. => some 0xF7
  | _ => none

/-- The system opcodes are assigned in SQ and the wick core, and in no other engine of 64-bit words. -/
theorem opcAssigned_system {e : Eng} {op : Nat} (he : e ≠ .we) (h : 0xF0 ≤ op) :
    opcAssigned e op = ((e == .sq || e == .wick) && decide (op < 0xF8)) := by
  have hlow : ¬ op < 0x40 := by omega
  delta opcAssigned
  cases e
  case we => exact absurd rfl he
  all_goals exact (if_neg hlow).trans (if_pos h)

theorem opcPrivileged_of_unprivileged {op : Nat} (h : 0xF0 ≤ op) : opcPrivileged .sq false op = true := by
  simp [opcPrivileged, h]

/-- The parser of the system range reads system instructions alone. -/
theorem parseSys_isSome {h : Head} {w : Nat} {i : Instr} (hp : parseSys h w = some i) : i.systemOpcode.isSome = true := by
  simp only [parseSys] at hp
  split at hp
  all_goals simp only [bind, Option.bind_eq_some_iff, Option.map_eq_some_iff, Option.some.injEq, reduceCtorEq] at hp
  case h_1 => cases hp; rfl
  case h_2 => obtain ⟨_, _, rfl⟩ := hp; rfl
  case h_3 | h_7 | h_8 => obtain ⟨_, _, _, _, rfl⟩ := hp; rfl
  case h_4 => obtain ⟨_, _, _, _, _, _, rfl⟩ := hp; rfl
  case h_5 => obtain ⟨_, _, rfl⟩ := hp; split <;> rfl
  case h_6 =>
    obtain ⟨_, _, _, _, _, _, hp⟩ := hp
    split at hp <;> cases hp <;> rfl

theorem bitN_le_one (b : Bool) : bitN b ≤ 1 := by cases b <;> decide

/-- A register number that an engine has fits the field of an operand (R69). -/
theorem xOk_lt {e : Eng} {n : Nat} (h : xOk e n = true) : n < 2 ^ 9 := by
  simp only [xOk, decide_eq_true_eq] at h
  split at h <;> omega

/-- Guard and token fields stand in bits 55 to 43. -/
theorem headBits_add_le {e : Eng} {h : Head} (hh : h.ok e = true) : headBits h + 2 ^ 43 ≤ 2 ^ 56 := by
  simp only [Head.ok, tpOk, Bool.and_eq_true, Bool.or_eq_true, decide_eq_true_eq, beq_iff_eq] at hh
  obtain ⟨hg, ht⟩ := hh
  have htp : h.tp < 8 := by
    split at ht
    · omega
    · simp only [Bool.and_eq_true, decide_eq_true_eq] at ht; omega
  have h1 := bitN_le_one h.pop
  have h2 := bitN_le_one h.push
  have h3 := bitN_le_one h.gneg
  simp only [headBits]
  omega

/-- The opcode of an R-form word whose fields fit stands in its top byte (R66, R68). -/
theorem encR_div {e : Eng} {opc d a b c m : Nat} {h : Head} (hh : h.ok e = true) (hd : d < 2 ^ 9) (ha : a < 2 ^ 9)
    (hb : b < 2 ^ 9) (hc : c < 2 ^ 9) (hm : m < 2 ^ 7) : encR opc h d a b c m / 2 ^ 56 = opc := by
  have hhead := headBits_add_le hh
  simp only [encR, packR]
  omega

/-- The top byte of an accepted system instruction's word is its opcode. -/
theorem encode_div_of_systemOpcode {e : Eng} {i : Instr} {op : Nat} (hi : i.systemOpcode = some op)
    (hacc : i.accepted e = true) : encode i / 2 ^ 56 = op := by
  have h0 : 0 < 2 ^ 9 := by decide
  unfold Instr.systemOpcode at hi
  split at hi
  all_goals cases hi
  all_goals simp only [Instr.accepted, Bool.and_eq_true, decide_eq_true_eq] at hacc
  case h_1 h k =>
    have hk := bitN_le_one k
    exact encR_div hacc.1 h0 h0 h0 h0 (by omega)
  case h_2 =>
    obtain ⟨⟨hh, -⟩, ha⟩ := hacc
    exact encR_div hh h0 (xOk_lt ha) h0 h0 (by decide)
  case h_3 =>
    obtain ⟨⟨⟨hh, -⟩, ha⟩, hb⟩ := hacc
    exact encR_div hh h0 (xOk_lt ha) (xOk_lt hb) h0 (by decide)
  case h_4 | h_9 | h_10 | h_11 =>
    obtain ⟨⟨⟨⟨hh, -⟩, hd⟩, ha⟩, hb⟩ := hacc
    exact encR_div hh (xOk_lt hd) (xOk_lt ha) (xOk_lt hb) h0 (by decide)
  case h_5 g | h_6 g | h_7 g | h_8 g =>
    obtain ⟨⟨hh, -⟩, ha⟩ := hacc
    have hg := bitN_le_one g
    exact encR_div hh h0 (xOk_lt ha) h0 h0 (by omega)
  case h_12 ch g _ _ =>
    obtain ⟨⟨⟨⟨hh, -⟩, hch⟩, ha⟩, hb⟩ := hacc
    have hg := bitN_le_one g
    exact encR_div hh h0 (xOk_lt ha) (xOk_lt hb) h0 (by omega)
  case h_13 g _ _ =>
    obtain ⟨⟨⟨hh, -⟩, ha⟩, hb⟩ := hacc
    have hg := bitN_le_one g
    exact encR_div hh h0 (xOk_lt ha) (xOk_lt hb) h0 (by omega)

/-- A 64-bit word with a system opcode that reads as an instruction reads as a system instruction. -/
theorem parse_isSome_of_system {e : Eng} {w : Nat} {i : Instr} (he : e ≠ .we) (hop : 0xF0 ≤ opcOf w)
    (hp : parse e w = some i) : i.systemOpcode.isSome = true := by
  have hlow : ¬ opcOf w < 0x40 := by omega
  simp only [parse, he, hlow, hop, if_true, if_false] at hp
  exact parseSys_isSome hp

/-- 64-bit words that decode: a system instruction has its own opcode, and every other one an opcode below 0xF0. -/
theorem opcode_of_decode {e : Eng} {priv : Bool} {bs : List Byte} {i : Instr} (he : e ≠ .we) (hl : bs.length = 8)
    (hd : decode e priv bs = .ok i) :
    i.systemOpcode.elim (leBytes bs / 2 ^ 56 < 0xF0) (leBytes bs / 2 ^ 56 = ·) := by
  obtain ⟨hp, hacc, henc⟩ := decode_eq_ok hd
  cases hi : i.systemOpcode with
  | none =>
    refine Nat.lt_of_not_le fun hop => ?_
    rw [← opcOf_wordOf he hl] at hop
    have hsome := parse_isSome_of_system he hop hp
    simp [hi] at hsome
  | some n =>
    rw [← wordOf_of_length_eight he hl, ← henc]
    exact encode_div_of_systemOpcode hi hacc

end Sys2Proof

namespace Sys2Proof.Machine

/-- Settles O4: an opcode from 0xF0 up is assigned in SQ and the wick core alone, up to 0xF7 (check 1), and SQ needs
privilege for it (check 2); a word that decodes reads as its system instruction and is that instruction's encoding. -/
theorem systemOpcodes : Obligations.SystemOpcodes := by
  unfold Obligations.SystemOpcodes
  refine ⟨?_, fun _ => rfl, ?_⟩
  · intro s s1 cid slot e bs hF he hl op
    have hlen : instrLen e ≤ bs.length := by simp [instrLen, he, hl]
    have hop : op = opcodeByte e bs := (opcodeByte_scalar he hl).symm
    clear_value op
    subst hop
    intro hsys
    have hass := opcAssigned_system he hsys
    refine ⟨fun hs hk => hF.traps_of_not_opcAssigned hlen (hass.trans ?_),
      fun h8 => hF.traps_of_not_opcAssigned hlen (hass.trans ?_), ?_⟩
    · simp [hs, hk]
    · simp [Nat.not_lt.mpr h8]
    · rintro rfl h7 hpriv
      refine hF.traps_of_opcPrivileged hlen (hass.trans ?_) ?_
      · simpa using Nat.lt_succ_of_le h7
      · rw [hpriv]
        exact opcPrivileged_of_unprivileged hsys
  · intro e priv bs i he hl hd op
    have hop := opcode_of_decode he hl hd
    cases i <;> exact hop

end Sys2Proof.Machine

namespace Sys2Proof

/-! ### The opcodes of the weight-code engine (R77) -/

/-- The opcode of a bundle; 0x0E, which no bundle has, for every other instruction. -/
def Instr.bundleOpcode : Instr → Nat
  | .wnop .. => 0x00
  | .wt .. => 0x01
  | .wg .. => 0x02
  | .wf .. => 0x03
  | .wtf .. => 0x04
  | .wrow .. => 0x05
  | .wsegFull .. | .wsegKeep .. => 0x06
  | .whook .. => 0x07
  | .wret .. => 0x08
  | .wjmp .. | .wjmpLink .. | .wjmpRet .. => 0x09
  | .wend .. => 0x0A
  | .wwait .. => 0x0B
  | .wlink .. => 0x0C
  | .wrdzv .. => 0x0D
  | _ => 0x0E

/-- The parser of bundles reads an instruction of the word's own opcode. -/
theorem parseWe_bundleOpcode {w : Nat} {i : Instr} (hp : parseWe w = some i) : fld w 248 8 = i.bundleOpcode := by
  simp only [parseWe, Option.bind_eq_some_iff] at hp
  obtain ⟨m, -, hp⟩ := hp
  split at hp
  case h_6 hop | h_7 hop | h_10 hop => split at hp <;> cases hp <;> exact hop
  case h_12 hop =>
    split at hp
    · obtain ⟨_, _, rfl⟩ := Option.map_eq_some_iff.mp hp
      exact hop
    · cases hp
      exact hop
  case h_15 => cases hp
  all_goals
    next hop =>
      cases hp
      exact hop

end Sys2Proof

namespace Sys2Proof.Machine

/-- Settles O5: check 1 refuses the opcodes from 0x0E up, and a bundle that decodes is read by its opcode. -/
theorem weightOpcodes : Obligations.WeightOpcodes := by
  unfold Obligations.WeightOpcodes
  refine ⟨?_, ?_⟩
  · intro s s1 cid slot bs hF hl op
    have hop : op = opcodeByte .we bs := (opcodeByte_we bs).symm
    clear_value op
    subst hop
    exact fun hE => hF.traps_of_not_opcAssigned hl.ge (decide_eq_false (Nat.not_lt.mpr hE))
  · intro priv bs i _ hd
    obtain ⟨hp, -, -⟩ := decode_eq_ok hd
    rw [← fld_opcode_wordOf_we]
    exact parseWe_bundleOpcode hp

end Sys2Proof.Machine
end

section
/-!
PROOF. What a word or bundle may change of the module beyond its own core: the memories, and the other cores.
-/

namespace Sys2Proof.Machine

/-! ### Memories and other cores -/

/-- Device memory and host memory. -/
def State.mems (s : State) : Memory × Memory := (s.mem, s.hostMem)

theorem State.memOk_of_mems_eq {s t : State} (h : t.mems = s.mems) (hs : s.memOk) : t.memOk := by
  obtain ⟨hm, hh⟩ := Prod.mk.inj h
  exact ⟨hm ▸ hs.1, hh ▸ hs.2⟩

@[simp] theorem State.mems_setCore (s : State) (c : Nat) (v : Core) : (s.setCore c v).mems = s.mems := rfl
@[simp] theorem State.mems_updCore (s : State) (c : Nat) (f : Core → Core) : (s.updCore c f).mems = s.mems := rfl
@[simp] theorem State.mems_setDie (s : State) (d : Nat) (v : Die) : (s.setDie d v).mems = s.mems := rfl
@[simp] theorem State.mems_updDie (s : State) (d : Nat) (f : Die → Die) : (s.updDie d f).mems = s.mems := rfl
@[simp] theorem State.mems_setGroup (s : State) (g : Nat) (v : Group) : (s.setGroup g v).mems = s.mems := rfl
@[simp] theorem State.mems_yieldEng (s : State) : s.yieldEng.mems = s.mems := rfl

@[simp] theorem State.mems_ite (p : Prop) [Decidable p] (a b : State) :
    (if p then a else b).mems = if p then a.mems else b.mems := apply_ite ..

/-- A step of a fold keeps the memories. (A definition, so that simp can show it as a side condition of mems_foldl.) -/
def FoldKeepsMems {β : Type} (f : State → β → State) : Prop := ∀ s b, (f s b).mems = s.mems

@[simp] theorem foldKeepsMems_iff {β : Type} (f : State → β → State) : FoldKeepsMems f ↔ ∀ s b, (f s b).mems = s.mems := .rfl

@[simp] theorem State.mems_foldl {β : Type} {f : State → β → State} (hf : FoldKeepsMems f) (l : List β) (s : State) :
    (l.foldl f s).mems = s.mems := by
  induction l generalizing s with
  | nil => rfl
  | cons b l ih => rw [List.foldl_cons, ih, hf]

/-- t has the memories of s, and every core of s but cid. -/
structure State.Outside (cid : Nat) (s t : State) : Prop where
  mems : t.mems = s.mems
  others : ∀ j, j ≠ cid → t.core j = s.core j

/-- A relation between states that holds wherever core cid alone, or the turns left, have changed. -/
structure CoreClosed (cid : Nat) (R : State → State → Prop) : Prop where
  trans : ∀ {s t u}, R s t → R t u → R s u
  setCore : ∀ s c, R s (s.setCore cid c)
  todo : ∀ (s : State) l, R s { s with todo := l }

theorem CoreClosed.refl {cid : Nat} {R : State → State → Prop} (hR : CoreClosed cid R) (s : State) : R s s := hR.todo s s.todo

theorem CoreClosed.updCore {cid : Nat} {R : State → State → Prop} (hR : CoreClosed cid R) (s : State) (f : Core → Core) :
    R s (s.updCore cid f) := hR.setCore ..

theorem State.mems_closed (cid : Nat) : CoreClosed cid fun s t => t.mems = s.mems :=
  ⟨fun h g => g.trans h, fun _ _ => rfl, fun _ _ => rfl⟩

theorem State.outside_closed (cid : Nat) : CoreClosed cid (State.Outside cid) :=
  ⟨fun h g => ⟨g.mems.trans h.mems, fun j hj => (g.others j hj).trans (h.others j hj)⟩,
    fun s c => ⟨rfl, fun _ hj => s.core_setCore_ne c hj⟩, fun _ _ => ⟨rfl, fun _ _ => rfl⟩⟩

/-- A body answers states that R relates to s. -/
def Res.To (R : State → State → Prop) (s : State) : Res → Prop
  | .done t _ _ => R s t
  | .stall t => R s t
  | .hold t => R s t
  | .trap _ _ => True
  | .unsat _ => True

theorem CRes.lift_to {cid : Nat} {R : State → State → Prop} (hR : CoreClosed cid R) (s : State) (r : CRes) :
    (CRes.lift s cid r).To R s := by
  cases r with
  | done c f lat => exact hR.setCore s c
  | stall c => exact hR.setCore s c
  | hold c => exact hR.setCore s c
  | trap a st => trivial
  | unsat i => trivial

theorem State.unsatisfied_to {R : State → State → Prop} (s : State) (hR : CoreClosed s.cur.core R) (i : Instr) :
    R s (s.unsatisfied i) := by
  unfold State.unsatisfied
  dsimp only
  split
  · exact hR.setCore ..
  · exact hR.trans (hR.setCore ..) (hR.todo ..)

/-- What a word or bundle changes of the module is what its body changes, its own core and the turns left. -/
theorem runWord_to {R : State → State → Prop} {s : State} (hR : CoreClosed s.cur.core R) {len tp : Nat} {pop push guard : Bool}
    {body : State → Res} (hb : ∀ c, (body (s.setCore s.cur.core c)).To R (s.setCore s.cur.core c)) :
    R s (runWord s len tp pop push guard body) := by
  simp only [runWord]
  split
  · exact hR.setCore ..
  · exact hR.trans (hR.trans (hR.setCore ..) (hR.updCore ..)) (hR.todo ..)
  · next c1 _ =>
    have h1 := hR.setCore s c1
    have hr : (if guard = true then body (s.setCore s.cur.core c1) else .done (s.setCore s.cur.core c1) .seq 1).To R
        (s.setCore s.cur.core c1) := by
      split
      · exact hb c1
      · exact hR.refl _
    generalize (if guard = true then body (s.setCore s.cur.core c1) else .done (s.setCore s.cur.core c1) .seq 1) = r at hr ⊢
    cases r with
    | trap a st => exact hR.setCore ..
    | unsat i => exact s.unsatisfied_to hR i
    | stall s2 => exact hR.trans (hR.trans (hR.trans (hR.trans h1 hr) (hR.updCore ..)) (hR.updCore ..)) (hR.todo ..)
    | hold s2 => exact hR.trans (hR.trans (hR.trans h1 hr) (hR.updCore ..)) (hR.updCore ..)
    | done s2 f lat => exact hR.trans (hR.trans h1 hr) (hR.updCore ..)

theorem runI_to {R : State → State → Prop} {s t : State} {h : Head} {body : State → Res} (hR : CoreClosed s.cur.core R)
    (hb : ∀ c, (body (s.setCore s.cur.core c)).To R (s.setCore s.cur.core c)) (ht : runI s h body = .next t) : R s t := by
  cases ht
  exact runWord_to hR hb

theorem runB_to {R : State → State → Prop} {s t : State} {h : WHead} {body : State → Res} (hR : CoreClosed s.cur.core R)
    (hb : ∀ c, (body (s.setCore s.cur.core c)).To R (s.setCore s.cur.core c)) (ht : runB s h body = .next t) : R s t := by
  cases ht
  exact runWord_to hR hb

theorem runWe_to {R : State → State → Prop} {s t : State} {h : WHead} {body : State → Core → Stream → Res}
    (hR : CoreClosed s.cur.core R) (hb : ∀ s1 c u, (body s1 c u).To R s1) (ht : runWe s h body = .next t) : R s t := by
  refine runB_to hR (fun c => ?_) ht
  dsimp only
  split
  · trivial
  · exact hb ..

theorem runMain_to {R : State → State → Prop} {s t : State} {h : WHead} {opc : Nat} {body : State → Core → Stream → Res}
    (hR : CoreClosed s.cur.core R) (hb : ∀ s1 c u, (body s1 c u).To R s1) (ht : runMain s h opc body = .next t) : R s t := by
  refine runWe_to hR (fun s1 c u => ?_) ht
  split
  · trivial
  · exact hb ..

/-- A word whose body touches its own core leaves the rest of the module. -/
theorem runWord_lift_outside {s t : State} {len tp : Nat} {pop push guard : Bool} {body : State → Res}
    (ht : (.next (runWord s len tp pop push guard body) : Host.Outcome State Fault Refusal) = .next t)
    (hb : ∀ s1, ∃ r, body s1 = CRes.lift s1 s.cur.core r) : State.Outside s.cur.core s t := by
  cases ht
  refine runWord_to (State.outside_closed _) fun c => ?_
  obtain ⟨r, hr⟩ := hb (s.setCore s.cur.core c)
  rw [hr]
  exact CRes.lift_to (State.outside_closed _) ..

theorem runC_outside {s t : State} {h : Head} {body : Core → CRes} (ht : runC s h body = .next t) :
    State.Outside s.cur.core s t := runWord_lift_outside ht fun _ => ⟨_, rfl⟩

end Sys2Proof.Machine
end

section
/-!
PROOF. What the bodies over the whole module change beyond their own core.
-/

namespace Sys2Proof.Machine

/-! ### What the bodies over the whole module change -/

theorem State.Outside.refl (cid : Nat) (s : State) : State.Outside cid s s := (State.outside_closed cid).refl s

theorem State.Outside.trans {cid : Nat} {s t u : State} (h : State.Outside cid s t) (g : State.Outside cid t u) :
    State.Outside cid s u := (State.outside_closed cid).trans h g

theorem State.Outside.setCore (cid : Nat) (s : State) (c : Core) : State.Outside cid s (s.setCore cid c) :=
  (State.outside_closed cid).setCore s c

theorem State.Outside.updCore (cid : Nat) (s : State) (f : Core → Core) : State.Outside cid s (s.updCore cid f) :=
  (State.outside_closed cid).updCore s f

theorem State.Outside.updDie (cid : Nat) (s : State) (d : Nat) (f : Die → Die) : State.Outside cid s (s.updDie d f) :=
  ⟨rfl, fun _ _ => rfl⟩

theorem State.Outside.setGroup (cid : Nat) (s : State) (g : Nat) (v : Group) : State.Outside cid s (s.setGroup g v) :=
  ⟨rfl, fun _ _ => rfl⟩

theorem State.Outside.foldl {β : Type} {cid : Nat} {f : State → β → State} (hf : ∀ s b, State.Outside cid s (f s b))
    (l : List β) (s : State) : State.Outside cid s (l.foldl f s) := by
  induction l generalizing s with
  | nil => exact .refl ..
  | cons b l ih => exact (hf s b).trans (ih _)

theorem State.passHead_outside (s : State) (cid : Nat) (t : Stream) (sp : HeadSpec) (c : Core) :
    State.Outside cid s (s.passHead cid t sp c) := by
  unfold State.passHead
  dsimp only
  split
  · exact (State.Outside.setCore ..).trans (.updDie ..)
  · exact .setCore ..

theorem headBody_outside (s s1 : State) (tp : Nat) (sp : HeadSpec) (i : Instr) :
    (headBody s tp sp i s1).To (State.Outside s.cur.core) s1 := by
  unfold headBody
  dsimp only
  split
  · exact s1.passHead_outside ..
  · trivial
  · trivial

theorem State.joinGroup_outside (s : State) (cid k g : Nat) : State.Outside cid s (s.joinGroup cid k g) := by
  unfold State.joinGroup
  refine State.Outside.trans ?_ (.updCore ..)
  split
  · exact .setGroup ..
  · exact .setGroup ..

@[simp] theorem State.mems_leaveGroup (s : State) (cid k g pc : Nat) : (s.leaveGroup cid k g pc).mems = s.mems := by
  simp [State.leaveGroup]

@[simp] theorem State.mems_leaveAll (s : State) (cid k pc : Nat) : (s.leaveAll cid k pc).mems = s.mems := by
  simp [State.leaveAll]

@[simp] theorem State.mems_endStream (s : State) (cid k : Nat) : (s.endStream cid k).mems = s.mems := by
  simp [State.endStream]

theorem arriveBody_outside {s s1 : State} {ch : Nat} {sy : Sync} {go : State → Nat → Nat → Res}
    (hgo : ∀ s2 g ph, (go s2 g ph).To (State.Outside s.cur.core) s2) :
    (arriveBody s ch sy go s1).To (State.Outside s.cur.core) s1 := by
  unfold arriveBody
  dsimp only
  split
  · trivial
  · next g _ =>
    split
    · trivial
    · split
      · exact .refl ..
      · split
        · exact .refl ..
        · have h1 : State.Outside s.cur.core s1 (s1.arriveGroup s.cur.core s.cur.key g (sy.rel && Scope.wide sy.scope)) :=
            .setGroup ..
          have h2 := hgo (s1.arriveGroup s.cur.core s.cur.key g (sy.rel && Scope.wide sy.scope)) g (s1.group g).phase
          generalize go _ _ _ = r at h2 ⊢
          cases r with
          | done s2 f lat => exact h1.trans h2
          | stall s2 => exact h1.trans h2
          | hold s2 => exact h1.trans h2
          | trap a st => trivial
          | unsat i => trivial

/-! ### Fetches and hooks -/

theorem State.wantLine_outside (s : State) (cid leaf va line : Nat) : State.Outside cid s (s.wantLine cid leaf va line) := by
  unfold State.wantLine
  dsimp only
  repeat' split
  all_goals first
    | exact .refl ..
    | exact .setCore ..
    | exact ⟨rfl, fun _ _ => rfl⟩

theorem State.fetchVa_wait_outside {s s1 : State} {cid k root va n : Nat} (h : s.fetchVa cid k root va n = .wait s1) :
    State.Outside cid s s1 := by
  unfold State.fetchVa at h
  dsimp only at h
  split at h
  · split at h <;> cases h
    · exact .refl ..
    · exact .setCore ..
  · split at h
    · cases h
    · split at h
      · cases h
      · split at h <;> cases h
        exact s.wantLine_outside ..

theorem State.hookGo_miss_outside {s s1 : State} {cid k n : Nat} {w : We} {r i r1 : Nat} {is : List Nat}
    (h : s.hookGo cid k n w r is = .miss i r1 s1) : State.Outside cid s s1 := by
  induction is generalizing r with
  | nil => cases h
  | cons a is ih =>
    unfold State.hookGo at h
    dsimp only at h
    split at h
    · cases h
    · split at h
      · next hf => cases h; exact State.fetchVa_wait_outside hf
      · cases h
      · repeat' split at h
        all_goals first
          | exact ih h
          | cases h

theorem hookStart_outside (s : State) (h : WHead) (n : Nat) (s1 : State) (c : Core) (t : Stream) :
    (hookStart s h n s1 c t).To (State.Outside s.cur.core) s1 := by
  unfold hookStart
  dsimp only
  split
  · exact .setCore ..
  · exact .setCore ..
  · trivial
  · next hg => exact (State.hookGo_miss_outside hg).trans (.updCore ..)

theorem hookResume_outside (s s1 : State) (c : Core) (t : Stream) :
    (hookResume s s1 c t).To (State.Outside s.cur.core) s1 := by
  unfold hookResume
  dsimp only
  split
  · exact .setCore ..
  · exact .setCore ..
  · trivial
  · next hg => exact (State.hookGo_miss_outside hg).trans (.updCore ..)

theorem weJump_outside (s s1 : State) (t : Stream) (a : Int) (lr : Nat) :
    (weJump s s1 t a lr).To (State.Outside s.cur.core) s1 := by
  unfold weJump
  dsimp only
  split
  · trivial
  · refine State.Outside.trans ?_ (.updCore ..)
    split
    · next hf => exact State.fetchVa_wait_outside hf
    · exact .refl ..
    · exact .refl ..

/-! ### Context images -/

theorem State.resumeJob_outside (s : State) (cid j : Nat) : State.Outside cid s (s.resumeJob cid j) := by
  unfold State.resumeJob
  refine State.Outside.trans (.setCore ..) (State.Outside.foldl (fun s k => ?_) _ _)
  exact (State.Outside.updCore ..).trans (State.Outside.foldl (fun s g => s.joinGroup_outside ..) _ _)

theorem State.restoreHeld_outside {s s1 : State} {cid j : Nat} {r : Saved} (h : s.restoreHeld cid j r = some s1) :
    State.Outside cid s s1 := by
  unfold State.restoreHeld at h
  obtain ⟨x, _, rfl⟩ := Option.map_eq_some_iff.mp h
  dsimp only
  have hc : ∀ u : State, State.Outside cid u (u.restoreCatches cid r) := fun u => ⟨rfl, fun _ _ => rfl⟩
  split
  · exact ((State.Outside.updCore ..).trans (hc _)).trans (State.Outside.foldl (fun s k => .updCore ..) _ _)
  · exact (State.Outside.updCore ..).trans (hc _)

/-! ### Instructions -/

theorem execCsrw_outside {s t : State} {h : Head} {a : Opnd} {n : Nat} (ht : execCsrw h a n s = .next t) :
    State.Outside s.cur.core s t := by
  refine runI_to (State.outside_closed _) (fun c => ?_) ht
  dsimp only
  repeat' split
  all_goals first
    | trivial
    | exact .setCore ..
    | exact (State.Outside.setCore ..).trans ⟨rfl, fun _ _ => rfl⟩

theorem execGjoin_outside {s t : State} {h : Head} {ch : Nat} (ht : execGjoin h ch s = .next t) : State.Outside s.cur.core s t := by
  refine runI_to (State.outside_closed _) (fun c => ?_) ht
  dsimp only
  repeat' split
  all_goals first
    | trivial
    | exact .refl ..
    | exact State.joinGroup_outside ..

theorem execGleave_mems {s t : State} {h : Head} {ch : Nat} (ht : execGleave h ch s = .next t) : t.mems = s.mems := by
  refine runI_to (State.mems_closed _) (fun c => ?_) ht
  dsimp only
  split
  · trivial
  · exact State.mems_leaveGroup ..

theorem execEndS_mems {s t : State} {h : Head} (ht : execEndS h s = .next t) : t.mems = s.mems := by
  refine runI_to (State.mems_closed _) (fun c => ?_) ht
  dsimp only
  split
  · exact State.mems_endStream ..
  · rfl

theorem execWend_mems {s t : State} {h : WHead} (ht : execWend h s = .next t) : t.mems = s.mems := by
  refine runMain_to (State.mems_closed _) (fun s1 c u => ?_) ht
  repeat' split
  · trivial
  · exact State.mems_endStream ..
  · rfl

theorem runTlbi_mems {s t : State} {h : Head} {a : Nat} {die page : Bool} {f : Core → Nat → Nat → Inval}
    (ht : runTlbi s h a die page f = .next t) : t.mems = s.mems := by
  refine runI_to (State.mems_closed _) (fun c => ?_) ht
  dsimp only
  split
  · trivial
  · simp [Res.To]

theorem execTlbiDataAll_mems {s t : State} {h : Head} {a : Nat} {die : Bool} (ht : execTlbiDataAll h a die s = .next t) :
    t.mems = s.mems := by
  unfold execTlbiDataAll at ht
  exact runTlbi_mems ht

theorem execTlbiDataPage_mems {s t : State} {h : Head} {a : Nat} {die : Bool} (ht : execTlbiDataPage h a die s = .next t) :
    t.mems = s.mems := by
  unfold execTlbiDataPage at ht
  exact runTlbi_mems ht

theorem execTlbiInstrAll_mems {s t : State} {h : Head} {a : Nat} {die : Bool} (ht : execTlbiInstrAll h a die s = .next t) :
    t.mems = s.mems := by
  unfold execTlbiInstrAll at ht
  exact runTlbi_mems ht

theorem execTlbiInstrPage_mems {s t : State} {h : Head} {a : Nat} {die : Bool} (ht : execTlbiInstrPage h a die s = .next t) :
    t.mems = s.mems := by
  unfold execTlbiInstrPage at ht
  exact runTlbi_mems ht

theorem execGarv_outside {s t : State} {h : Head} {d ch : Nat} {sy : Sync} (ht : execGarv h d ch sy s = .next t) :
    State.Outside s.cur.core s t := by
  refine runI_to (State.outside_closed _) (fun c => arriveBody_outside fun s2 g ph => ?_) ht
  exact State.Outside.trans (.updCore ..) (.updCore ..)

theorem execGbar_outside {s t : State} {h : Head} {d ch : Nat} {sy : Sync} (ht : execGbar h d ch sy s = .next t) :
    State.Outside s.cur.core s t := by
  refine runI_to (State.outside_closed _) (fun c => arriveBody_outside fun s2 g ph => ?_) ht
  exact State.Outside.refl ..

theorem execCtxsv_outside {s t : State} {h : Head} {a b : Nat} (ht : execCtxsv h a b s = .next t) :
    State.Outside s.cur.core s t := by
  refine runI_to (State.outside_closed _) (fun c => ?_) ht
  dsimp only
  repeat' split
  all_goals first
    | trivial
    | exact .setCore ..

theorem execCtxld_outside {s t : State} {h : Head} {d a b : Nat} (ht : execCtxld h d a b s = .next t) :
    State.Outside s.cur.core s t := by
  refine runI_to (State.outside_closed _) (fun c => ?_) ht
  dsimp only
  repeat' split
  all_goals first
    | trivial
    | exact .setCore ..
    | exact (State.Outside.setCore ..).trans (.updCore ..)
    | next hr => exact ((State.Outside.setCore ..).trans (State.restoreHeld_outside hr)).trans (.updCore ..)

theorem execResume_outside {s t : State} {h : Head} {a : Nat} (ht : execResume h a s = .next t) :
    State.Outside s.cur.core s t := by
  refine runI_to (State.outside_closed _) (fun c => ?_) ht
  dsimp only
  repeat' split
  · trivial
  · trivial
  · exact State.resumeJob_outside ..

theorem runKeyop_outside {s t : State} {h : Head} {a : Nat} {go : State → Core → Nat → Res}
    (hgo : ∀ s1 c n, (go s1 c n).To (State.Outside s.cur.core) s1) (ht : runKeyop s h a go = .next t) :
    State.Outside s.cur.core s t := by
  refine runI_to (State.outside_closed _) (fun c => ?_) ht
  dsimp only
  split
  · trivial
  · exact hgo ..

theorem execKeyopLoad_outside {s t : State} {h : Head} (d : Nat) {a b : Nat} (ht : execKeyopLoad h d a b s = .next t) :
    State.Outside s.cur.core s t := by
  refine runKeyop_outside (fun s1 c n => ?_) ht
  split
  · trivial
  · exact .updDie ..

theorem execTrap_outside {s t : State} {h : Head} {n : Nat} (ht : execTrap h n s = .next t) : State.Outside s.cur.core s t := by
  unfold execTrap at ht
  dsimp only at ht
  split at ht
  · exact runC_outside ht
  · exact runC_outside ht

theorem runCmp_outside {s t : State} {h : Head} {d : CmpDst} {a b : VSrc} {f : VFmt} {md : ElMode} {lat : Nat}
    {op : Nat → Nat → Bool × Nat} (ht : runCmp s h d a b f md lat op = .next t) : State.Outside s.cur.core s t := by
  unfold runCmp at ht
  cases d with
  | mask d => exact runC_outside ht
  | any q => exact runC_outside ht
  | all q => exact runC_outside ht

theorem execXqryRing_outside {s t : State} {h : Head} {k : KCtl} {b : Nat} (ht : execXqryRing h k b s = .next t) :
    State.Outside s.cur.core s t := by
  unfold execXqryRing at ht
  split at ht
  · exact runC_outside ht
  · exact runC_outside ht

theorem runTerm_outside {s t : State} {h : WHead} {f : Core → We → We} (ht : runTerm s h f = .next t) :
    State.Outside s.cur.core s t := by
  refine runWe_to (State.outside_closed _) (fun s1 c u => ?_) ht
  split
  · trivial
  · exact .setCore ..

theorem execWrow_outside {s t : State} {h : WHead} {f : WFlush} {o : Bool} {en : Int} (ht : execWrow h f o en s = .next t) :
    State.Outside s.cur.core s t := by
  refine runMain_to (State.outside_closed _) (fun s1 c u => ?_) ht
  dsimp only
  repeat' split
  all_goals first
    | exact .setCore ..
    | exact .refl ..

theorem runWseg_outside {s t : State} {h : WHead} {g : Seg → Seg} (ht : runWseg s h g = .next t) :
    State.Outside s.cur.core s t := by
  refine runMain_to (State.outside_closed _) (fun s1 c u => ?_) ht
  dsimp only
  repeat' split
  all_goals first
    | trivial
    | exact .setCore ..

theorem execWhook_outside {s t : State} {h : WHead} {n : Nat} (ht : execWhook h n s = .next t) :
    State.Outside s.cur.core s t := by
  unfold execWhook at ht
  dsimp only at ht
  split at ht
  · cases ht
    exact runWord_to (State.outside_closed _) fun _ => hookResume_outside ..
  · exact runMain_to (State.outside_closed _) (hookStart_outside s h n) ht

theorem execWret_outside {s t : State} {h : WHead} (ht : execWret h s = .next t) : State.Outside s.cur.core s t := by
  refine runWe_to (State.outside_closed _) (fun s1 c u => ?_) ht
  dsimp only
  repeat' split
  · trivial
  · exact .setCore ..
  · exact .setCore ..
  · exact .updCore ..
  · next hg => exact (State.hookGo_miss_outside hg).trans (.updCore ..)

theorem execWlink_outside {s t : State} {h : WHead} {n : Nat} (ht : execWlink h n s = .next t) :
    State.Outside s.cur.core s t := by
  refine runB_to (State.outside_closed _) (fun c => ?_) ht
  dsimp only
  repeat' split
  · trivial
  · trivial
  · exact .setCore ..

theorem execWjmpLink_outside {s t : State} {h : WHead} {off : Int} (ht : execWjmpLink h off s = .next t) :
    State.Outside s.cur.core s t := by
  refine runMain_to (State.outside_closed _) (fun s1 c u => ?_) ht
  split
  · trivial
  · exact weJump_outside ..

theorem execWjmpRet_outside {s t : State} {h : WHead} (ht : execWjmpRet h s = .next t) : State.Outside s.cur.core s t := by
  refine runMain_to (State.outside_closed _) (fun s1 c u => ?_) ht
  split
  · trivial
  · exact weJump_outside ..

theorem execWrdzv_outside {s t : State} {h : WHead} {n : Nat} (ht : execWrdzv h n s = .next t) :
    State.Outside s.cur.core s t := by
  refine runMain_to (State.outside_closed _) (fun s1 c u => ?_) ht
  dsimp only
  repeat' split
  · trivial
  · exact .setCore ..
  · exact .setCore ..

theorem execKeyopDestroy_outside {s t : State} {h : Head} (d : Nat) {a : Nat} (b : Nat) (ht : execKeyopDestroy h d a b s = .next t) :
    State.Outside s.cur.core s t := by
  refine runKeyop_outside (fun s1 c n => ?_) ht
  exact State.Outside.updDie ..

theorem execKeyopQuery_outside {s t : State} {h : Head} {d a : Nat} (b : Nat) (ht : execKeyopQuery h d a b s = .next t) :
    State.Outside s.cur.core s t := by
  refine runKeyop_outside (fun s1 c n => ?_) ht
  exact State.Outside.setCore ..

theorem execWnop_outside {s t : State} {h : WHead} (ht : execWnop h s = .next t) : State.Outside s.cur.core s t := by
  refine runWe_to (State.outside_closed _) (fun s1 c u => ?_) ht
  exact State.Outside.refl ..

theorem execWf_outside {s t : State} {h : WHead} {acc : Bool} {k : Nat} {sl : WSlots} (ht : execWf h acc k sl s = .next t) :
    State.Outside s.cur.core s t := by
  refine runWe_to (State.outside_closed _) (fun s1 c u => ?_) ht
  exact State.Outside.setCore ..

theorem execWjmp_outside {s t : State} {h : WHead} {off : Int} (ht : execWjmp h off s = .next t) :
    State.Outside s.cur.core s t := by
  refine runWe_to (State.outside_closed _) (fun s1 c u => ?_) ht
  exact weJump_outside ..

theorem execWt_outside {s t : State} {h : WHead} {m : WMode} {d : Nat} {sl : WSlots} (ht : execWt h m d sl s = .next t) :
    State.Outside s.cur.core s t := by
  unfold execWt at ht
  exact runTerm_outside ht

theorem execWg_outside {s t : State} {h : WHead} {m : WMode} {code d : Nat} {sl : WSlots}
    (ht : execWg h m code d sl s = .next t) : State.Outside s.cur.core s t := by
  unfold execWg at ht
  exact runTerm_outside ht

theorem execWtf_outside {s t : State} {h : WHead} {m : WMode} {d : Nat} {sl : WSlots} (ht : execWtf h m d sl s = .next t) :
    State.Outside s.cur.core s t := by
  unfold execWtf at ht
  exact runTerm_outside ht

theorem execWsegFull_outside {s t : State} {h : WHead} {ab ar : Nat} {l : Int} {e : Bool} {rm : Rm}
    (ht : execWsegFull h ab ar l e rm s = .next t) : State.Outside s.cur.core s t := by
  unfold execWsegFull at ht
  exact runWseg_outside ht

end Sys2Proof.Machine
end

section
/-!
PROOF. No instruction changes device or host memory, and few reach another core (R52, R54).
-/

namespace Sys2Proof.Machine

/-! ### Every instruction -/

/-- Instructions that reach other cores of the module: END, WEND, GLEAVE and TLBI. -/
def Instr.reaches : Instr → Prop
  | .endS _ | .wend _ | .gleave .. | .tlbiDataAll .. | .tlbiDataPage .. | .tlbiInstrAll .. | .tlbiInstrPage .. => True
  | _ => False

/-- Machine events: what no word stands for. -/
def Instr.isEvent : Instr → Bool
  | .instructionRetire .. | .resultLands .. | .blockHeadSatisfied .. | .rendezvousRelease .. | .jobRetire ..
  | .markerReachesHead .. | .groupPhaseComplete .. | .blockWatchdogExpiry .. | .agePromotion ..
  | .ckptConditionsMet .. | .loaderConsider .. | .jobLoadDone .. | .stagedJobStart .. | .budgetOverrun ..
  | .graceExpiry .. | .programTrapStop .. | .localFaultFreeze .. | .handlerTimeLimit .. | .pageWalkComplete ..
  | .missQueueAdmit .. | .codeLineArrive .. | .commandStart .. | .commandComplete .. | .nestStepCommit ..
  | .flushGroupWrite .. | .wsegReadsComplete .. | .llsGroupWrite .. | .llsStart .. | .portAccept ..
  | .outboundStamp .. | .requestTimeout .. | .slotWindowSend .. | .carouselPassage .. | .carouselWeCatch ..
  | .ilLoad .. | .ilUnload .. | .linkTransmitAccept .. | .linkReceive .. | .applyWrite .. | .applyReadRequest ..
  | .applyRemoteSignal .. | .applyReduce .. | .applyArrival .. | .applyPlaneRecord .. | .applyDescriptorPost ..
  | .readReplyArrive .. | .writeAckArrive .. | .signalReplyArrive .. | .planeAnswerArrive .. | .postAnswerArrive ..
  | .errorReplyArrive .. | .routerPromotion .. | .routerFlitForward .. | .hostDoorbellWrite .. | .mboxRemove ..
  | .mboxPreempt .. | .mboxRerun .. | .eventPop .. | .carouselChangeRequest .. | .hostWindowWrite ..
  | .partitionWrite .. | .moduleIdWrite .. | .linkEnableWrite .. | .linkTrained .. | .linkTrainingLoss ..
  | .hostBar2Access .. | .registerWrite .. | .sensorUpdate .. | .carouselChangeEffect | .lanternAttest | .safetyTrip
  | .reset => true
  | _ => false

theorem Instr.isEvent_of_accepted {e : Eng} {i : Instr} (ha : i.accepted e = true) : Instr.isEvent i = false := by
  unfold Instr.isEvent
  split <;> first | rfl | exact absurd ha Bool.false_ne_true

/-- An instruction of any other kind changes its own core, dies, groups and the carousel alone. -/
theorem exec_outside {s t : State} {i : Instr} (he : Instr.isEvent i = false) (hr : ¬ Instr.reaches i)
    (ht : exec i s = .next t) : State.Outside s.cur.core s t := by
  cases i with
  | nop | rdzv | br | brc | call | callg | jr | loop | loopi | looph | csrr | add | sub | and | or | xor | andn | shl | shr
  | sra | mul | mulh | mulhu | min | max | minu | maxu | slt | sltu | clz | popc | sel | addi | andi | ori | xori | shli
  | shri | srai | slti | sltiu | lih | cmp | cmpi | pand | por | pxor | pandn | pmov | pseti | ld | st | ldg | stg | ssig
  | sset | sget | mark | mjoin | mpost | ckpt | planeQuery | planeStage | planeDrop | rft | capw | tnset | sdef | slvl
  | sfib | sint | suni | sskip | spos | scrd | ldq | ldqc | ldqa | stq | lls | mrgb | mrgi | mrge | bfxp | bfxpSet | loopt
  | prf | srel | vfadd | vfsub | vfmul | vfma | vfms | vfnma | vfmin | vfmax | vlog2 | vexp2 | vrcp | vrsq | vcvt | vscl
  | vpks | vadd | vsub | vmul | vmulh | vmad | vand | vor | vxor | vshl | vshr | vsra | vmin | vmax | vadds | vsubs | vsel
  | vmov | vli | vbcst | vbcstX | vperm | vrot | vlane | vhash | vradd | vrmax | vrmaxi | vrmini | vrfadd | vext | vacrF32
  | vacrRaw | vacwF32 | vacwAdd | vacwRaw | loopq | vqlen | vqlenZero | mtw | mtws | mgo | mdrn | mbyp | mrqt | mzero | midx
  | mnms | mrpr | mrst | xcp | xcpg | xred | xexp | xarv | xstep | xpln | xbrd | xalt | xrep | xdrp | xsigr | xkeyEnc
  | xkeyDec | xqryPeek => exact runWord_lift_outside ht fun _ => ⟨_, rfl⟩
  | trap => exact execTrap_outside ht
  | csrw => exact execCsrw_outside ht
  | blkh => exact runI_to (State.outside_closed _) (fun _ => headBody_outside ..) ht
  | gjoin => exact execGjoin_outside ht
  | garv => exact execGarv_outside ht
  | gbar => exact execGbar_outside ht
  | resume => exact execResume_outside ht
  | ctxsv => exact execCtxsv_outside ht
  | ctxld => exact execCtxld_outside ht
  | vfcmp | vcmp => exact runCmp_outside ht
  | wnop => exact execWnop_outside ht
  | wt => exact execWt_outside ht
  | wg => exact execWg_outside ht
  | wf => exact execWf_outside ht
  | wtf => exact execWtf_outside ht
  | wrow => exact execWrow_outside ht
  | wsegFull => exact execWsegFull_outside ht
  | wsegKeep => exact runWseg_outside ht
  | whook => exact execWhook_outside ht
  | wret => exact execWret_outside ht
  | wjmp => exact execWjmp_outside ht
  | wjmpLink => exact execWjmpLink_outside ht
  | wjmpRet => exact execWjmpRet_outside ht
  | wwait => exact runMain_to (State.outside_closed _) (fun _ _ _ => headBody_outside ..) ht
  | wlink => exact execWlink_outside ht
  | wrdzv => exact execWrdzv_outside ht
  | xqryRing => exact execXqryRing_outside ht
  | keyopLoad h d a b => exact execKeyopLoad_outside d ht
  | keyopDestroy h d a b => exact execKeyopDestroy_outside d b ht
  | keyopQuery h d a b => exact execKeyopQuery_outside b ht
  | endS | gleave | tlbiDataAll | tlbiDataPage | tlbiInstrAll | tlbiInstrPage | wend => exact absurd trivial hr
  | instructionRetire | resultLands | blockHeadSatisfied | rendezvousRelease | jobRetire | markerReachesHead
  | groupPhaseComplete | blockWatchdogExpiry | agePromotion | ckptConditionsMet | loaderConsider | jobLoadDone
  | stagedJobStart | budgetOverrun | graceExpiry | programTrapStop | localFaultFreeze | handlerTimeLimit | pageWalkComplete
  | missQueueAdmit | codeLineArrive | commandStart | commandComplete | nestStepCommit | flushGroupWrite | wsegReadsComplete
  | llsGroupWrite | llsStart | portAccept | outboundStamp | requestTimeout | slotWindowSend | carouselPassage
  | carouselWeCatch | ilLoad | ilUnload | linkTransmitAccept | linkReceive | applyWrite | applyReadRequest
  | applyRemoteSignal | applyReduce | applyArrival | applyPlaneRecord | applyDescriptorPost | readReplyArrive
  | writeAckArrive | signalReplyArrive | planeAnswerArrive | postAnswerArrive | errorReplyArrive | routerPromotion
  | routerFlitForward | hostDoorbellWrite | mboxRemove | mboxPreempt | mboxRerun | eventPop | carouselChangeRequest
  | hostWindowWrite | partitionWrite | moduleIdWrite | linkEnableWrite | linkTrained | linkTrainingLoss | hostBar2Access
  | registerWrite | sensorUpdate | carouselChangeEffect | lanternAttest | safetyTrip | reset => exact absurd he.symm Bool.false_ne_true

/-- No instruction changes device or host memory as it issues. -/
theorem exec_mems {s t : State} {i : Instr} (he : Instr.isEvent i = false) (ht : exec i s = .next t) :
    t.mems = s.mems := by
  by_cases hr : Instr.reaches i
  · unfold Instr.reaches at hr
    split at hr
    · exact execEndS_mems ht
    · exact execWend_mems ht
    · exact execGleave_mems ht
    · exact execTlbiDataAll_mems ht
    · exact execTlbiDataPage_mems ht
    · exact execTlbiInstrAll_mems ht
    · exact execTlbiInstrPage_mems ht
    · exact hr.elim
  · exact (exec_outside he hr ht).mems

/-- Settles O58: an instruction's body reaches the rest of the module in few places, and none of them is a memory. -/
theorem instructionsLeaveMemoryToPackets : Obligations.InstructionsLeaveMemoryToPackets := by
  intro s t e i ha ht
  obtain ⟨hm, hh⟩ := Prod.mk.inj (exec_mems (Instr.isEvent_of_accepted ha) ht)
  refine ⟨fun a => by rw [hm], fun a => by rw [hh], fun hend hwend hleave _ htlbi => ?_⟩
  have hr : ¬ Instr.reaches i := by
    unfold Instr.reaches
    split
    · exact absurd rfl (hend _)
    · exact absurd rfl (hwend _)
    · exact absurd rfl (hleave _ _)
    · exact absurd rfl (htlbi _ _ _).1
    · exact absurd rfl (htlbi _ _ _).2.1
    · exact absurd rfl (htlbi _ _ _).2.2.1
    · exact absurd rfl (htlbi _ _ _).2.2.2
    · exact id
  exact (exec_outside (Instr.isEvent_of_accepted ha) hr ht).others

end Sys2Proof.Machine
end

section
/-!
PROOF. Device memory and host memory: which functions of the module leave them as they are.
-/

namespace Sys2Proof.Machine

/-! ### Updates of other fields -/

@[simp] theorem State.mems_todo (s : State) (l : List Turn) : ({ s with todo := l } : State).mems = s.mems := rfl
@[simp] theorem State.mems_cur (s : State) (x : Ctx) : ({ s with cur := x } : State).mems = s.mems := rfl
@[simp] theorem State.mems_ring (s : State) (r : Ring) : ({ s with ring := r } : State).mems = s.mems := rfl
@[simp] theorem State.mems_net (s : State) (n : List Packet) : ({ s with net := n } : State).mems = s.mems := rfl
@[simp] theorem State.mems_sent (s : State) (n : List Packet) (i : Nat) :
    ({ s with net := n, nextId := i } : State).mems = s.mems := rfl
@[simp] theorem State.mems_nextId (s : State) (i : Nat) : ({ s with nextId := i } : State).mems = s.mems := rfl
@[simp] theorem State.mems_freeCtr (s : State) (i : Nat) : ({ s with freeCtr := i } : State).mems = s.mems := rfl
@[simp] theorem State.mems_soft (s : State) (l : List Soft) : ({ s with soft := l } : State).mems = s.mems := rfl
@[simp] theorem State.mems_cores (s : State) (m : SMap Core) : ({ s with cores := m } : State).mems = s.mems := rfl
@[simp] theorem State.mems_partitions (s : State) (m : SMap Nat) : ({ s with partitions := m } : State).mems = s.mems := rfl
@[simp] theorem State.mems_windows (s : State) (m : SMap Window) : ({ s with windows := m } : State).mems = s.mems := rfl
@[simp] theorem State.mems_moduleId (s : State) (n : Nat) : ({ s with moduleId := n } : State).mems = s.mems := rfl
@[simp] theorem State.mems_lantern (s : State) (c l : Nat) : ({ s with lcmd := c, lstat := l } : State).mems = s.mems := rfl
@[simp] theorem State.mems_tripped (s : State) (d : Nat) :
    ({ s with trip := true, tripDie := d, todo := [] } : State).mems = s.mems := rfl
@[simp] theorem State.mems_setRouter (s : State) (r : Nat) (v : Router) : (s.setRouter r v).mems = s.mems := rfl
@[simp] theorem State.mems_setLink (s : State) (k : Nat) (l : MLink) : (s.setLink k l).mems = s.mems := rfl
@[simp] theorem State.mems_lanternEnd (s : State) (n : Nat) : (s.lanternEnd n).mems = s.mems := rfl

/-! ### The fabric -/

@[simp] theorem State.mems_countUncorr (s : State) (a : Nat) : (s.countUncorr a).mems = s.mems := rfl

@[simp] theorem State.mems_stamp (s : State) (d r i : Nat) (p : Packet) : (s.stamp d r i p).mems = s.mems := rfl

@[simp] theorem State.mems_applied (s : State) (q : Packet) : (s.applied q).mems = s.mems := rfl

@[simp] theorem State.mems_answer (s : State) (q : Packet) (k : PKind) (bs : List Byte) (as : List Nat) :
    (s.answer q k bs as).mems = s.mems := by simp [State.answer]

@[simp] theorem State.mems_forward (s : State) (r o i v : Nat) : (s.forward r o i v).mems = s.mems := by
  unfold State.forward
  dsimp only
  split
  · rfl
  · simp

theorem State.mems_arbitrate {s s1 : State} {r o n i v : Nat} (h : s.arbitrate r o n = some (s1, i, v)) : s1.mems = s.mems := by
  induction n generalizing s with
  | zero => cases h
  | succ n ih =>
    unfold State.arbitrate at h
    dsimp only at h
    split at h
    · cases h; rfl
    · exact (ih h).trans rfl

@[simp] theorem State.mems_forwardN (s : State) (r o n : Nat) : (s.forwardN r o n).mems = s.mems := by
  induction n generalizing s with
  | zero => rfl
  | succ n ih =>
    unfold State.forwardN
    split
    · simp [ih]
    · split
      · simp [ih]
      · split
        · next h => simp [ih, State.mems_arbitrate h]
        · rfl

@[simp] theorem State.mems_promoteHeads (s : State) (r : Nat) : (s.promoteHeads r).mems = s.mems := rfl

@[simp] theorem State.mems_routerTurn (s : State) (r : Nat) : (s.routerTurn r).mems = s.mems := by simp [State.routerTurn]

@[simp] theorem State.mems_walkGo (s : State) (d : Nat) (w : Walker) (st : WStep) : (s.walkGo d w st).mems = s.mems := by
  cases st with
  | done r => rfl
  | next l a => rfl

@[simp] theorem State.mems_walkAnswer (s : State) (d id : Nat) (bs : Option (List Byte)) :
    (s.walkAnswer d id bs).mems = s.mems := by
  unfold State.walkAnswer
  split
  · rfl
  · split
    · simp
    · simp

@[simp] theorem State.mems_takeWalk (s : State) (d c dt p : Nat) : (s.takeWalk d c dt p).mems = s.mems := by
  unfold State.takeWalk
  dsimp only
  split
  · simp
  · simp

@[simp] theorem State.mems_takeWalks (s : State) : s.takeWalks.mems = s.mems := by simp [State.takeWalks]

@[simp] theorem State.mems_walkEnd (s : State) (d : Nat) (w : Walker) (r : Walk) : (s.walkEnd d w r).mems = s.mems := by
  simp [State.walkEnd]

@[simp] theorem State.mems_dropPacket (s : State) (p : Packet) : (s.dropPacket p).mems = s.mems := by simp [State.dropPacket]

@[simp] theorem State.mems_wantLine (s : State) (c leaf va line : Nat) : (s.wantLine c leaf va line).mems = s.mems :=
  (s.wantLine_outside ..).mems

/-! ### Groups and jobs -/

@[simp] theorem State.mems_joinGroup (s : State) (c k g : Nat) : (s.joinGroup c k g).mems = s.mems := (s.joinGroup_outside ..).mems

@[simp] theorem State.mems_acquireGroup (s : State) (c g : Nat) (sc : Scope) : (s.acquireGroup c g sc).mems = s.mems := by
  simp [State.acquireGroup, State.joinDone]

@[simp] theorem State.mems_gbarEnd (s : State) (c g k : Nat) : (s.gbarEnd c g k).mems = s.mems := by
  unfold State.gbarEnd
  dsimp only
  split <;> simp

@[simp] theorem State.mems_releaseRdzv (s : State) (c j n : Nat) : (s.releaseRdzv c j n).mems = s.mems := by
  simp [State.releaseRdzv]

@[simp] theorem State.mems_sendImage (s : State) (c j : Nat) (r : Saved) : (s.sendImage c j r).mems = s.mems := rfl

@[simp] theorem State.mems_ckptSave (s : State) (c j : Nat) (rs : List LiveRange) : (s.ckptSave c j rs).mems = s.mems := by
  simp [State.ckptSave]

@[simp] theorem State.mems_switchWrite (s : State) (c j : Nat) : (s.switchWrite c j).mems = s.mems := by simp [State.switchWrite]

@[simp] theorem State.mems_switchEnd (s : State) (c j : Nat) : (s.switchEnd c j).mems = s.mems := rfl

@[simp] theorem State.mems_prefetch (s : State) (c it va : Nat) : (s.prefetch c it va).1.mems = s.mems := by
  unfold State.prefetch
  dsimp only
  split
  · rfl
  · simp

@[simp] theorem State.mems_prefetchAll (s : State) (c it img : Nat) : (s.prefetchAll c it img).1.mems = s.mems := by
  unfold State.prefetchAll
  refine List.foldlRecOn _ _ (motive := fun (x : State × List Nat) => x.1.mems = s.mems) rfl fun x hx e _ => ?_
  simp [hx]

@[simp] theorem State.mems_startJob (s : State) (c j : Nat) : (s.startJob c j).mems = s.mems := rfl

@[simp] theorem State.mems_restoreCatches (s : State) (c : Nat) (r : Saved) : (s.restoreCatches c r).mems = s.mems := rfl

@[simp] theorem State.mems_freshStreams (s : State) (c j : Nat) : (s.freshStreams c j).mems = s.mems := by
  simp [State.freshStreams]

@[simp] theorem State.mems_resumeJob (s : State) (c j : Nat) : (s.resumeJob c j).mems = s.mems := by
  simp [State.resumeJob]

/-! ### The loader -/

@[simp] theorem State.mems_installPlane (s : State) (c p : Nat) : (s.installPlane c p).mems = s.mems := rfl

@[simp] theorem State.mems_load (s : State) (c d : Nat) (p : Place) (sec : SMap Word) : (s.load c d p sec).mems = s.mems := by
  simp [State.load]

@[simp] theorem State.mems_unleave (s : State) (d : Nat) : (s.unleave d).mems = s.mems := rfl

@[simp] theorem State.mems_loadSaved (s : State) (c d : Nat) (p : Place) (sec : SMap Word) (r : Saved) :
    (s.loadSaved c d p sec r).mems = s.mems := rfl

@[simp] theorem State.mems_stageJob (s : State) (c d : Nat) : (s.stageJob c d).mems = s.mems := by
  simp [State.stageJob]

@[simp] theorem State.mems_consider (s : State) (c q n : Nat) : (s.consider c q n).mems = s.mems := by
  induction n generalizing s q with
  | zero => rfl
  | succ n ih =>
    unfold State.consider
    split
    · exact ih ..
    · dsimp only
      split
      · simp
      · simp
      · simp
      · simp
      · rw [ih]
        split
        · rfl
        · simp

@[simp] theorem State.mems_startLoaded (s : State) (c j : Nat) : (s.startLoaded c j).mems = s.mems := by
  unfold State.startLoaded
  dsimp only
  split
  · split <;> simp
  · simp
  · simp
  · split
    · simp
    · split <;> simp

@[simp] theorem State.mems_startStaged (s : State) (c d : Nat) : (s.startStaged c d).mems = s.mems := by
  unfold State.startStaged
  dsimp only
  split
  · split
    · simp
    · split <;> simp
  · split <;> simp

@[simp] theorem State.mems_remove (s : State) (c j : Nat) : (s.remove c j).mems = s.mems := by simp [State.remove]

@[simp] theorem State.mems_rerun (s : State) (c j : Nat) : (s.rerun c j).mems = s.mems := by
  unfold State.rerun
  dsimp only
  split
  · split <;> simp
  · simp

@[simp] theorem State.mems_mboxCommand (s : State) (c cmd j : Nat) : (s.mboxCommand c cmd j).mems = s.mems := by
  unfold State.mboxCommand
  dsimp only
  split <;> simp

@[simp] theorem State.mems_mboxWrite (s : State) (fn c off v : Nat) : (s.mboxWrite fn c off v).mems = s.mems := by
  simp [State.mboxWrite]

/-! ### Commands and the carousel -/

@[simp] theorem State.mems_startXe (s : State) (c k : Nat) (late : Bool) : (s.startXe c k late).mems = s.mems := by
  unfold State.startXe
  dsimp only
  split
  · rfl
  · split
    · rfl
    · split <;> simp

@[simp] theorem State.mems_ringClock (s : State) (c k : Nat) (m : Cmd) : (s.ringClock c k m).mems = s.mems := by
  simp [State.ringClock]

@[simp] theorem State.mems_xeClock (s : State) (c k i : Nat) (late : Bool) : (s.xeClock c k i late).mems = s.mems := by
  unfold State.xeClock
  dsimp only
  split
  · rfl
  · next m _ =>
    split
    · rfl
    · split
      · simp
      · split
        · simp
        · split
          case h_1 | h_2 | h_3 | h_4 | h_5 => split <;> simp
          all_goals simp

@[simp] theorem State.mems_confirmTile (s : State) (p k : Nat) (t : Tile) : (s.confirmTile p k t).mems = s.mems := by
  unfold State.confirmTile
  split
  · rfl
  · simp

@[simp] theorem State.mems_board (s : State) (k : Nat) (x : RingCmd) : (s.board k x).mems = s.mems := rfl

@[simp] theorem State.mems_replaceTile (s : State) (k : Nat) (x : RingCmd) (t : Tile) : (s.replaceTile k x t).mems = s.mems := rfl

@[simp] theorem State.mems_dropTile (s : State) (k : Nat) (x : RingCmd) (t : Tile) : (s.dropTile k x t).mems = s.mems := rfl

@[simp] theorem State.mems_losers (s : State) (d : Nat) (t : Tile) (x : RingCmd) : (s.losers d t x).mems = s.mems := by
  simp [State.losers]

@[simp] theorem State.mems_change (s : State) (d k : Nat) : (s.change d k).mems = s.mems := by
  unfold State.change
  dsimp only
  split
  · rfl
  · split <;> simp

@[simp] theorem State.mems_catchTile (s : State) (t : Tile) (x : RingCmd) : (s.catchTile t x).mems = s.mems := by
  simp [State.catchTile]

@[simp] theorem State.mems_catches (s : State) (d : Nat) (t : Tile) : (s.catches d t).mems = s.mems := by
  simp [State.catches]

@[simp] theorem State.mems_weCatch (s : State) (k : Catch) : (s.weCatch k).mems = s.mems := by
  unfold State.weCatch
  dsimp only
  split
  · simp
  · simp

/-! ### Reset -/

theorem State.mems_loadWick (s : State) : s.loadWick.mems = s.mems := by
  unfold State.loadWick
  generalize List.range _ = l
  exact State.mems_foldl (by simp) l s

theorem State.mems_setTables (s : State) : s.setTables.mems = s.mems := by
  unfold State.setTables
  generalize List.range _ = l
  exact State.mems_foldl (by simp) l s

theorem State.mems_broughtUp (s : State) : ({ s with bootStep := 6, ready := true } : State).mems = s.mems := rfl

/-! ### Turns and clocks -/

@[simp] theorem State.mems_settleHold (s : State) (c : Nat) (e : Eng) : (s.settleHold c e).mems = s.mems := by
  simp [State.settleHold]

@[simp] theorem State.mems_markReady (s : State) (c : Nat) (e : Eng) : (s.markReady c e).mems = s.mems := by
  simp [State.markReady]

@[simp] theorem State.mems_stallCur (s : State) (k : Nat) : (s.stallCur k).mems = s.mems := by simp [State.stallCur]

@[simp] theorem State.mems_absentCur (s : State) (k : Nat) : (s.absentCur k).mems = s.mems := by simp [State.absentCur]

@[simp] theorem State.mems_ahead (s : State) (c root n va : Nat) : (s.ahead c root n va).mems = s.mems := by
  induction n generalizing va with
  | zero => rfl
  | succ n ih =>
    unfold State.ahead
    dsimp only
    split
    · rfl
    · split
      · rfl
      · split
        · rfl
        · split
          · exact ih _
          · simp

@[simp] theorem State.mems_weAhead (s : State) : s.weAhead.mems = s.mems := by simp [State.weAhead]

@[simp] theorem State.mems_softError (s : State) (e : Soft) : (s.softError e).mems = s.mems := by simp [State.softError]

@[simp] theorem State.mems_softErrors (s : State) : s.softErrors.mems = s.mems := by simp [State.softErrors]

@[simp] theorem State.mems_endClock (s : State) : s.endClock.mems = s.mems :=
  (State.mems_takeWalks _).trans (by simp)

@[simp] theorem State.mems_newClock (s : State) : s.newClock.mems = s.mems := by
  unfold State.newClock
  split
  · rfl
  · exact s.mems_endClock

end Sys2Proof.Machine
end

section
/-!
PROOF. Every step keeps device memory and host memory in canonical form.
-/

namespace Sys2Proof.Machine

/-! ### What an outcome's next state satisfies -/

/-- The state that an outcome goes on with, if it does, satisfies P. -/
inductive Ends (P : State → Prop) : Host.Outcome State Fault Refusal → Prop
  | next {t : State} (h : P t) : Ends P (.next t)
  | fault (f : Fault) : Ends P (.fault f)
  | refused (r : Refusal) : Ends P (.refused r)

@[simp] theorem ends_next (P : State → Prop) (t : State) : Ends P (.next t) ↔ P t := ⟨fun h => by cases h; assumption, .next⟩
@[simp] theorem ends_fault (P : State → Prop) (f : Fault) : Ends P (.fault f) ↔ True := iff_true_intro (.fault f)
@[simp] theorem ends_refused (P : State → Prop) (r : Refusal) : Ends P (.refused r) ↔ True := iff_true_intro (.refused r)

theorem Ends.ite {P : State → Prop} {p : Prop} {_ : Decidable p} {a b : Host.Outcome State Fault Refusal} (ha : Ends P a)
    (hb : Ends P b) : Ends P (if p then a else b) := by
  split
  · exact ha
  · exact hb

theorem Ends.of_next {P : State → Prop} {o : Host.Outcome State Fault Refusal} (h : ∀ t, o = .next t → P t) : Ends P o := by
  cases o with
  | next t => exact .next (h t rfl)
  | fault f => exact .fault f
  | refused r => exact .refused r

theorem Ends.of_eq {P : State → Prop} {o : Host.Outcome State Fault Refusal} {t : State} (h : Ends P o) (ht : o = .next t) :
    P t := by
  subst ht
  exact (ends_next ..).1 h

theorem Ends.imp {P Q : State → Prop} {o : Host.Outcome State Fault Refusal} (h : Ends P o) (hpq : ∀ t, P t → Q t) :
    Ends Q o := .of_next fun _ ht => hpq _ (h.of_eq ht)

/-- An outcome leaves both memories. -/
def KeepsMems (s : State) : Host.Outcome State Fault Refusal → Prop := Ends fun t => t.mems = s.mems

@[simp] theorem keepsMems_next (s t : State) : KeepsMems s (.next t) ↔ t.mems = s.mems := ends_next ..
@[simp] theorem keepsMems_fault (s : State) (f : Fault) : KeepsMems s (.fault f) ↔ True := ends_fault ..
@[simp] theorem keepsMems_ite (s : State) (p : Prop) [Decidable p] (a b : Host.Outcome State Fault Refusal) :
    KeepsMems s (if p then a else b) ↔ if p then KeepsMems s a else KeepsMems s b := by split <;> rfl

/-- What a packet goes through at AQ: nothing, its drop, or its application. -/
theorem State.onPacket_ends {P : State → Prop} {s : State} {id : Nat} {ks : List PKind} {own : Packet → Bool}
    {go : Packet → State → State} (h : P s) (hdrop : ∀ p, P (s.dropPacket p)) (hgo : ∀ p, P (go p (s.applied p))) :
    Ends P (s.onPacket id ks own go) := by
  unfold State.onPacket
  split
  · exact .next h
  · exact .ite (.next h) (.ite (.next (hdrop _)) (.next (hgo _)))

theorem State.onPacket_keepsMems {s : State} {id : Nat} {ks : List PKind} {own : Packet → Bool} {go : Packet → State → State}
    (hgo : ∀ p t, (go p t).mems = t.mems) : KeepsMems s (s.onPacket id ks own go) :=
  State.onPacket_ends rfl (by simp) fun p => by simp [hgo]

theorem State.onAnswer_keepsMems {s : State} {id : Nat} {ks : List PKind} {go : Packet → Req → Core → Core} :
    KeepsMems s (s.onAnswer id ks go) := State.onPacket_keepsMems fun _ _ => rfl

/-! ### The events that write no memory -/

@[simp] theorem execInstructionRetire_keepsMems (cid k : Nat) (s : State) : KeepsMems s (execInstructionRetire cid k s) := by simp [execInstructionRetire]

@[simp] theorem execResultLands_keepsMems (cid : Nat) (s : State) : KeepsMems s (execResultLands cid s) := by
  unfold execResultLands
  dsimp only
  repeat' split
  all_goals simp

@[simp] theorem execRendezvousRelease_keepsMems (cid j : Nat) (s : State) : KeepsMems s (execRendezvousRelease cid j s) := by
  unfold execRendezvousRelease
  dsimp only
  repeat' split
  all_goals simp

@[simp] theorem execJobRetire_keepsMems (cid j : Nat) (s : State) : KeepsMems s (execJobRetire cid j s) := by simp [execJobRetire]

@[simp] theorem execMarkerReachesHead_keepsMems (cid k : Nat) (s : State) : KeepsMems s (execMarkerReachesHead cid k s) := by simp [execMarkerReachesHead]

@[simp] theorem execGroupPhaseComplete_keepsMems (g : Nat) (s : State) : KeepsMems s (execGroupPhaseComplete g s) := by simp [execGroupPhaseComplete]

@[simp] theorem execBlockWatchdogExpiry_keepsMems (cid k : Nat) (s : State) : KeepsMems s (execBlockWatchdogExpiry cid k s) := by simp [execBlockWatchdogExpiry]

@[simp] theorem execAgePromotion_keepsMems (cid k : Nat) (s : State) : KeepsMems s (execAgePromotion cid k s) := by simp [execAgePromotion]

@[simp] theorem execCkptConditionsMet_keepsMems (cid j : Nat) (s : State) : KeepsMems s (execCkptConditionsMet cid j s) := by
  unfold execCkptConditionsMet
  dsimp only
  repeat' split
  all_goals simp

@[simp] theorem execLoaderConsider_keepsMems (c : Nat) (s : State) : KeepsMems s (execLoaderConsider c s) := by simp [execLoaderConsider]

@[simp] theorem execJobLoadDone_keepsMems (c j : Nat) (s : State) : KeepsMems s (execJobLoadDone c j s) := by simp [execJobLoadDone]

@[simp] theorem execStagedJobStart_keepsMems (c : Nat) (s : State) : KeepsMems s (execStagedJobStart c s) := by
  unfold execStagedJobStart
  dsimp only
  repeat' split
  all_goals simp

@[simp] theorem execBudgetOverrun_keepsMems (cid j : Nat) (s : State) : KeepsMems s (execBudgetOverrun cid j s) := by simp [execBudgetOverrun]

@[simp] theorem execGraceExpiry_keepsMems (cid j : Nat) (s : State) : KeepsMems s (execGraceExpiry cid j s) := by simp [execGraceExpiry]

@[simp] theorem execProgramTrapStop_keepsMems (cid j : Nat) (s : State) : KeepsMems s (execProgramTrapStop cid j s) := by simp [execProgramTrapStop]

@[simp] theorem execLocalFaultFreeze_keepsMems (cid : Nat) (s : State) : KeepsMems s (execLocalFaultFreeze cid s) := by
  unfold execLocalFaultFreeze
  dsimp only
  repeat' split
  all_goals simp

@[simp] theorem execHandlerTimeLimit_keepsMems (cid : Nat) (s : State) : KeepsMems s (execHandlerTimeLimit cid s) := by simp [execHandlerTimeLimit]

@[simp] theorem execPageWalkComplete_keepsMems (d dt page : Nat) (s : State) : KeepsMems s (execPageWalkComplete d dt page s) := by
  simp only [execPageWalkComplete, keepsMems_next]
  refine State.mems_foldl (fun t w => ?_) _ _
  split <;> simp

@[simp] theorem execMissQueueAdmit_keepsMems (cid : Nat) (s : State) : KeepsMems s (execMissQueueAdmit cid s) := by
  unfold execMissQueueAdmit
  dsimp only
  repeat' split
  all_goals simp

@[simp] theorem execCodeLineArrive_keepsMems (cid line : Nat) (s : State) : KeepsMems s (execCodeLineArrive cid line s) := by
  unfold execCodeLineArrive
  dsimp only
  repeat' split
  all_goals simp

@[simp] theorem execCommandStart_keepsMems (cid k : Nat) (s : State) : KeepsMems s (execCommandStart cid k s) := by simp [execCommandStart]

@[simp] theorem execCommandComplete_keepsMems (cid k i : Nat) (s : State) : KeepsMems s (execCommandComplete cid k i s) := by simp [execCommandComplete]

@[simp] theorem execNestStepCommit_keepsMems (c : Nat) (s : State) : KeepsMems s (execNestStepCommit c s) := by simp [execNestStepCommit]

@[simp] theorem execFlushGroupWrite_keepsMems (cid : Nat) (s : State) : KeepsMems s (execFlushGroupWrite cid s) := by
  unfold execFlushGroupWrite
  dsimp only
  repeat' split
  all_goals simp

@[simp] theorem execWsegReadsComplete_keepsMems (cid k : Nat) (s : State) : KeepsMems s (execWsegReadsComplete cid k s) := by
  unfold execWsegReadsComplete
  dsimp only
  repeat' split
  all_goals simp

@[simp] theorem execLlsGroupWrite_keepsMems (cid : Nat) (s : State) : KeepsMems s (execLlsGroupWrite cid s) := by
  unfold execLlsGroupWrite
  dsimp only
  repeat' split
  all_goals simp

@[simp] theorem execLlsStart_keepsMems (cid : Nat) (s : State) : KeepsMems s (execLlsStart cid s) := by
  unfold execLlsStart
  dsimp only
  repeat' split
  all_goals simp

@[simp] theorem execPortAccept_keepsMems (cid : Nat) (s : State) : KeepsMems s (execPortAccept cid s) := by simp [execPortAccept]

@[simp] theorem execOutboundStamp_keepsMems (cid : Nat) (s : State) : KeepsMems s (execOutboundStamp cid s) := by simp [execOutboundStamp]

@[simp] theorem execRequestTimeout_keepsMems (cid i : Nat) (s : State) : KeepsMems s (execRequestTimeout cid i s) := by
  unfold execRequestTimeout
  dsimp only
  repeat' split
  all_goals simp

@[simp] theorem execSlotWindowSend_keepsMems (c k : Nat) (s : State) : KeepsMems s (execSlotWindowSend c k s) := by simp [execSlotWindowSend]

@[simp] theorem execCarouselPassage_keepsMems (p : Nat) (s : State) : KeepsMems s (execCarouselPassage p s) := by
  unfold execCarouselPassage
  dsimp only
  repeat' split
  all_goals simp

@[simp] theorem execCarouselWeCatch_keepsMems (c : Nat) (s : State) : KeepsMems s (execCarouselWeCatch c s) := by simp [execCarouselWeCatch]

@[simp] theorem execIlUnload_keepsMems (d : Nat) (s : State) : KeepsMems s (execIlUnload d s) := by simp [execIlUnload]

@[simp] theorem execLinkTransmitAccept_keepsMems (k : Nat) (s : State) : KeepsMems s (execLinkTransmitAccept k s) := by
  unfold execLinkTransmitAccept
  dsimp only
  repeat' split
  all_goals simp

@[simp] theorem execLinkReceive_keepsMems (k : Nat) (s : State) : KeepsMems s (execLinkReceive k s) := by
  unfold execLinkReceive
  dsimp only
  repeat' split
  all_goals simp

@[simp] theorem execApplyReadRequest_keepsMems (id : Nat) (s : State) : KeepsMems s (execApplyReadRequest id s) := by
  refine State.onPacket_keepsMems fun p t => ?_
  simp

@[simp] theorem execApplyRemoteSignal_keepsMems (id : Nat) (s : State) : KeepsMems s (execApplyRemoteSignal id s) := by
  refine State.onPacket_keepsMems fun p t => ?_
  dsimp only
  split <;> simp

@[simp] theorem execApplyReduce_keepsMems (id : Nat) (s : State) : KeepsMems s (execApplyReduce id s) := by
  refine State.onPacket_keepsMems fun p t => ?_
  simp

@[simp] theorem execApplyArrival_keepsMems (id : Nat) (s : State) : KeepsMems s (execApplyArrival id s) := by
  refine State.onPacket_keepsMems fun p t => ?_
  simp

@[simp] theorem execApplyPlaneRecord_keepsMems (id : Nat) (s : State) : KeepsMems s (execApplyPlaneRecord id s) := by
  refine State.onPacket_keepsMems fun p t => ?_
  dsimp only
  split <;> simp

@[simp] theorem execApplyDescriptorPost_keepsMems (id : Nat) (s : State) : KeepsMems s (execApplyDescriptorPost id s) := by
  refine State.onPacket_keepsMems fun p t => ?_
  dsimp only
  split <;> simp

@[simp] theorem execReadReplyArrive_keepsMems (id : Nat) (s : State) : KeepsMems s (execReadReplyArrive id s) := by
  unfold execReadReplyArrive
  split
  · exact State.onPacket_keepsMems fun _ _ => by simp
  · exact State.onAnswer_keepsMems

@[simp] theorem execWriteAckArrive_keepsMems (id : Nat) (s : State) : KeepsMems s (execWriteAckArrive id s) := State.onAnswer_keepsMems

@[simp] theorem execSignalReplyArrive_keepsMems (id : Nat) (s : State) : KeepsMems s (execSignalReplyArrive id s) := State.onAnswer_keepsMems

@[simp] theorem execPlaneAnswerArrive_keepsMems (id : Nat) (s : State) : KeepsMems s (execPlaneAnswerArrive id s) := State.onAnswer_keepsMems

@[simp] theorem execPostAnswerArrive_keepsMems (id : Nat) (s : State) : KeepsMems s (execPostAnswerArrive id s) := State.onAnswer_keepsMems

@[simp] theorem execErrorReplyArrive_keepsMems (id : Nat) (s : State) : KeepsMems s (execErrorReplyArrive id s) := by
  unfold execErrorReplyArrive
  split
  · exact State.onPacket_keepsMems fun _ _ => by simp
  · exact State.onAnswer_keepsMems

@[simp] theorem execRouterPromotion_keepsMems (r : Nat) (s : State) : KeepsMems s (execRouterPromotion r s) := by simp [execRouterPromotion]

@[simp] theorem execRouterFlitForward_keepsMems (r out : Nat) (s : State) : KeepsMems s (execRouterFlitForward r out s) := by simp [execRouterFlitForward]

@[simp] theorem execHostDoorbellWrite_keepsMems (fn c q v : Nat) (s : State) : KeepsMems s (execHostDoorbellWrite fn c q v s) := by simp [execHostDoorbellWrite]

@[simp] theorem execMboxRemove_keepsMems (c j : Nat) (s : State) : KeepsMems s (execMboxRemove c j s) := by simp [execMboxRemove]

@[simp] theorem execMboxPreempt_keepsMems (c j : Nat) (s : State) : KeepsMems s (execMboxPreempt c j s) := by simp [execMboxPreempt]

@[simp] theorem execMboxRerun_keepsMems (c j : Nat) (s : State) : KeepsMems s (execMboxRerun c j s) := by simp [execMboxRerun]

@[simp] theorem execEventPop_keepsMems (c : Nat) (s : State) : KeepsMems s (execEventPop c s) := by simp [execEventPop]

@[simp] theorem execCarouselChangeRequest_keepsMems (v : Nat) (s : State) : KeepsMems s (execCarouselChangeRequest v s) := by simp [execCarouselChangeRequest]

@[simp] theorem execHostWindowWrite_keepsMems (fn w reg v : Nat) (s : State) : KeepsMems s (execHostWindowWrite fn w reg v s) := by
  unfold execHostWindowWrite
  repeat' split
  all_goals simp

@[simp] theorem execPartitionWrite_keepsMems (fn v mask : Nat) (s : State) : KeepsMems s (execPartitionWrite fn v mask s) := by simp [execPartitionWrite]

@[simp] theorem execModuleIdWrite_keepsMems (fn v : Nat) (s : State) : KeepsMems s (execModuleIdWrite fn v s) := by simp [execModuleIdWrite]

@[simp] theorem execLinkEnableWrite_keepsMems (fn k v : Nat) (s : State) : KeepsMems s (execLinkEnableWrite fn k v s) := by simp [execLinkEnableWrite]

@[simp] theorem execLinkTrained_keepsMems (k peer lanes : Nat) (s : State) : KeepsMems s (execLinkTrained k peer lanes s) := by simp [execLinkTrained]

@[simp] theorem execLinkTrainingLoss_keepsMems (k : Nat) (s : State) : KeepsMems s (execLinkTrainingLoss k s) := by simp [execLinkTrainingLoss]

@[simp] theorem execHostBar2Access_keepsMems (l a n : Nat) (w : Option (List Byte)) (s : State) : KeepsMems s (execHostBar2Access l a n w s) := by simp [execHostBar2Access]

@[simp] theorem execRegisterWrite_keepsMems (fn off v : Nat) (s : State) : KeepsMems s (execRegisterWrite fn off v s) := by
  unfold execRegisterWrite
  dsimp only
  repeat' split
  all_goals simp

@[simp] theorem execSensorUpdate_keepsMems (d v : Nat) (s : State) : KeepsMems s (execSensorUpdate d v s) := by simp [execSensorUpdate]

@[simp] theorem execCarouselChangeEffect_keepsMems (s : State) : KeepsMems s (execCarouselChangeEffect s) := by simp [execCarouselChangeEffect]

@[simp] theorem execSafetyTrip_keepsMems (s : State) : KeepsMems s (execSafetyTrip s) := by
  unfold execSafetyTrip
  repeat' split
  all_goals simp

@[simp] theorem execReset_keepsMems (s : State) : KeepsMems s (execReset s) := by
  unfold execReset
  refine .ite (.next rfl) (.ite (.next rfl) (.ite (.next rfl) (.ite (.next rfl) (.next ?_))))
  exact (State.mems_broughtUp _).trans ((State.mems_setTables _).trans (State.mems_loadWick _))

/-! ### The functions that write a memory -/

theorem State.memOk_writeHome {s : State} (h : s.memOk) (p : Packet) : (s.writeHome p).memOk := by
  unfold State.writeHome
  split
  · exact ⟨h.1, wrBytes_wf h.2 ..⟩
  · split
    · exact ⟨wrMasked_wf h.1 .., h.2⟩
    · exact State.memOk_of_mems_eq (s.mems_updCore ..) h

theorem State.memOk_poke {s : State} (h : s.memOk) (a : Nat) (bs : List Byte) : (s.poke a bs).memOk := ⟨poke_wf h.1 .., h.2⟩

theorem State.memOk_foldl {β : Type} {f : State → β → State} (hf : ∀ s b, s.memOk → (f s b).memOk) (l : List β) {s : State}
    (h : s.memOk) : (l.foldl f s).memOk := by
  induction l generalizing s with
  | nil => exact h
  | cons b l ih => exact ih (hf s b h)

theorem State.memOk_doLoad {s : State} (h : s.memOk) (d handle : Nat) (v : Bool) (x : LoadCtx) (qs : List Patch) :
    (s.doLoad d handle v x qs).memOk := by
  unfold State.doLoad
  dsimp only
  generalize List.range _ = l
  refine State.memOk_of_mems_eq ((State.mems_setDie ..).trans (State.mems_foldl (by simp) ..)) ?_
  exact State.memOk_foldl (fun _ _ ht => ⟨pokeVa_wf ht.1 .., ht.2⟩) _ h

theorem publish_wf {m : Memory} (h : Memory.wf m = true) {c : RosCmd} {l1 : Nat} {code : List (Nat × List Byte)} {p : RosPub}
    (hp : publish m c l1 code = .ok p) : Memory.wf p.mem = true := by
  unfold publish at hp
  dsimp only at hp
  split at hp
  · cases hp
  · cases hp
    exact foldl_wf (fun _ _ hx => wrBytes_wf hx ..) _ (foldl_wf (fun _ _ hx => wrLe_wf (copyMem_wf hx ..) ..) _
      (foldl_wf (fun _ _ hx => wrLe_wf hx ..) _ (foldl_wf (fun _ _ hx => wrLe_wf hx ..) _
        (foldl_wf (fun _ _ hx => copyMem_wf hx ..) _ (foldl_wf (fun _ _ hx => copyMem_wf hx ..) _ (copyMem_wf h ..))))))

theorem rosWrite_wf {m : Memory} (h : Memory.wf m = true) (c : RosCmd) (x : RosRun) : Memory.wf (rosWrite m c x) = true := by
  unfold rosWrite
  dsimp only
  split
  · exact wrLe_wf (wrLe_wf (wrLe_wf h ..) ..) ..
  · split
    · exact wrLe_wf (wrLe_wf (wrLe_wf h ..) ..) ..
    · next p hp =>
      have hm : Memory.wf p.mem = true := by
        split at hp
        · cases hp; exact h
        · exact publish_wf h hp
      refine foldl_wf (fun _ _ hx => wrLe_wf hx ..) _ (foldl_wf (fun _ _ hx => wrLe_wf hx ..) _ ?_)
      have h2 := foldl_wf (f := fun x (f : Nat × Nat × Nat) => wrLe x (c.out + f.1) f.2.1 f.2.2)
        (fun _ _ hx => wrLe_wf hx ..) [(0, 4, 0), (4, 4, 0), (8, 8, x.out.entry), (16, 4, x.out.rows), (20, 4, x.out.bundles),
          (24, 8, x.out.ovfl), (32, 4, p.used), (36, 4, p.retired.length)] (wrLe_wf hm c.root 8 p.l1)
      split
      · exact h2
      · exact foldl_wf (fun _ _ hx => wrLe_wf hx ..) _ h2

theorem State.memOk_roslorTurn {s : State} (h : s.memOk) (cid j : Nat) : (s.roslorTurn cid j).memOk := by
  unfold State.roslorTurn
  dsimp only
  split
  · exact h
  · split
    · split <;> exact h
    · split
      · exact h
      · refine State.memOk_of_mems_eq (State.mems_foldl (by simp) ..) ?_
        exact ⟨rosWrite_wf h.1 .., h.2⟩

theorem execIlLoad_memOk {s : State} (h : s.memOk) (d : Nat) : Ends State.memOk (execIlLoad d s) := by
  have hdie : ∀ x, (s.setDie d x).memOk := fun x => State.memOk_of_mems_eq (s.mems_setDie d x) h
  unfold execIlLoad
  refine .ite (.next h) (.ite (.next (hdie _)) (.ite (.next h) ?_))
  dsimp only
  split
  · exact .next (hdie _)
  · exact .next (State.memOk_doLoad h ..)

theorem execApplyWrite_memOk {s : State} (h : s.memOk) (id : Nat) : Ends State.memOk (execApplyWrite id s) := by
  refine State.onPacket_ends h (fun p => State.memOk_of_mems_eq (s.mems_dropPacket p) h) fun p => ?_
  have hw : ((s.applied p).writeHome p).memOk := State.memOk_writeHome (State.memOk_of_mems_eq (s.mems_applied p) h) p
  split
  · exact State.memOk_of_mems_eq (by simp) hw
  · exact State.memOk_of_mems_eq (by simp) hw

theorem execLanternAttest_memOk {s : State} (h : s.memOk) : Ends State.memOk (execLanternAttest s) := by
  have hend : ∀ t : State, t.memOk → ∀ n, (t.lanternEnd n).memOk := fun t ht n =>
    State.memOk_of_mems_eq (t.mems_lanternEnd n) ht
  unfold execLanternAttest
  refine .ite (.next h) (.ite (.next (hend s h 2)) (.ite (.next (hend s h 1)) (.ite (.next (hend s h 3)) (.next ?_))))
  exact hend _ (State.memOk_poke (State.memOk_of_mems_eq rfl h) _ _) 0

/-! ### Heads that are satisfied -/

theorem Res.To.imp {R Q : State → State → Prop} {s : State} {r : Res} (h : r.To R s) (hrq : ∀ t, R s t → Q s t) :
    r.To Q s := by
  cases r with
  | done t f lat => exact hrq t h
  | stall t => exact hrq t h
  | hold t => exact hrq t h
  | trap a st => trivial
  | unsat i => trivial

theorem execBlockHeadSatisfied_keepsMems (cid k : Nat) (s : State) : KeepsMems s (execBlockHeadSatisfied cid k s) := by
  have hrun : ∀ (x : Ctx) len tp pop push sp i, KeepsMems s (.next (runWord { s with cur := x } len tp pop push true
      (headBody { s with cur := x } tp sp i))) := fun x len tp pop push sp i => .next <|
    runWord_to (State.mems_closed _) (s := { s with cur := x }) fun _ => (headBody_outside ..).imp fun _ h => h.mems
  unfold execBlockHeadSatisfied
  refine .ite (.next rfl) ?_
  dsimp only
  split
  · split
    · exact hrun ..
    · exact hrun ..
    · exact .next rfl
  all_goals exact .next rfl

/-! ### Every micro-step -/

theorem KeepsMems.memOk {s : State} {o : Host.Outcome State Fault Refusal} (hk : KeepsMems s o) (h : s.memOk) :
    Ends State.memOk o := hk.imp fun _ ht => State.memOk_of_mems_eq ht h

theorem exec_memOk {s : State} (h : s.memOk) (i : Instr) : Ends State.memOk (exec i s) := by
  by_cases he : Instr.isEvent i = true
  · unfold Instr.isEvent at he
    split at he
    · exact (execInstructionRetire_keepsMems ..).memOk h
    · exact (execResultLands_keepsMems ..).memOk h
    · exact (execBlockHeadSatisfied_keepsMems ..).memOk h
    · exact (execRendezvousRelease_keepsMems ..).memOk h
    · exact (execJobRetire_keepsMems ..).memOk h
    · exact (execMarkerReachesHead_keepsMems ..).memOk h
    · exact (execGroupPhaseComplete_keepsMems ..).memOk h
    · exact (execBlockWatchdogExpiry_keepsMems ..).memOk h
    · exact (execAgePromotion_keepsMems ..).memOk h
    · exact (execCkptConditionsMet_keepsMems ..).memOk h
    · exact (execLoaderConsider_keepsMems ..).memOk h
    · exact (execJobLoadDone_keepsMems ..).memOk h
    · exact (execStagedJobStart_keepsMems ..).memOk h
    · exact (execBudgetOverrun_keepsMems ..).memOk h
    · exact (execGraceExpiry_keepsMems ..).memOk h
    · exact (execProgramTrapStop_keepsMems ..).memOk h
    · exact (execLocalFaultFreeze_keepsMems ..).memOk h
    · exact (execHandlerTimeLimit_keepsMems ..).memOk h
    · exact (execPageWalkComplete_keepsMems ..).memOk h
    · exact (execMissQueueAdmit_keepsMems ..).memOk h
    · exact (execCodeLineArrive_keepsMems ..).memOk h
    · exact (execCommandStart_keepsMems ..).memOk h
    · exact (execCommandComplete_keepsMems ..).memOk h
    · exact (execNestStepCommit_keepsMems ..).memOk h
    · exact (execFlushGroupWrite_keepsMems ..).memOk h
    · exact (execWsegReadsComplete_keepsMems ..).memOk h
    · exact (execLlsGroupWrite_keepsMems ..).memOk h
    · exact (execLlsStart_keepsMems ..).memOk h
    · exact (execPortAccept_keepsMems ..).memOk h
    · exact (execOutboundStamp_keepsMems ..).memOk h
    · exact (execRequestTimeout_keepsMems ..).memOk h
    · exact (execSlotWindowSend_keepsMems ..).memOk h
    · exact (execCarouselPassage_keepsMems ..).memOk h
    · exact (execCarouselWeCatch_keepsMems ..).memOk h
    · exact execIlLoad_memOk h _
    · exact (execIlUnload_keepsMems ..).memOk h
    · exact (execLinkTransmitAccept_keepsMems ..).memOk h
    · exact (execLinkReceive_keepsMems ..).memOk h
    · exact execApplyWrite_memOk h _
    · exact (execApplyReadRequest_keepsMems ..).memOk h
    · exact (execApplyRemoteSignal_keepsMems ..).memOk h
    · exact (execApplyReduce_keepsMems ..).memOk h
    · exact (execApplyArrival_keepsMems ..).memOk h
    · exact (execApplyPlaneRecord_keepsMems ..).memOk h
    · exact (execApplyDescriptorPost_keepsMems ..).memOk h
    · exact (execReadReplyArrive_keepsMems ..).memOk h
    · exact (execWriteAckArrive_keepsMems ..).memOk h
    · exact (execSignalReplyArrive_keepsMems ..).memOk h
    · exact (execPlaneAnswerArrive_keepsMems ..).memOk h
    · exact (execPostAnswerArrive_keepsMems ..).memOk h
    · exact (execErrorReplyArrive_keepsMems ..).memOk h
    · exact (execRouterPromotion_keepsMems ..).memOk h
    · exact (execRouterFlitForward_keepsMems ..).memOk h
    · exact (execHostDoorbellWrite_keepsMems ..).memOk h
    · exact (execMboxRemove_keepsMems ..).memOk h
    · exact (execMboxPreempt_keepsMems ..).memOk h
    · exact (execMboxRerun_keepsMems ..).memOk h
    · exact (execEventPop_keepsMems ..).memOk h
    · exact (execCarouselChangeRequest_keepsMems ..).memOk h
    · exact (execHostWindowWrite_keepsMems ..).memOk h
    · exact (execPartitionWrite_keepsMems ..).memOk h
    · exact (execModuleIdWrite_keepsMems ..).memOk h
    · exact (execLinkEnableWrite_keepsMems ..).memOk h
    · exact (execLinkTrained_keepsMems ..).memOk h
    · exact (execLinkTrainingLoss_keepsMems ..).memOk h
    · exact (execHostBar2Access_keepsMems ..).memOk h
    · exact (execRegisterWrite_keepsMems ..).memOk h
    · exact (execSensorUpdate_keepsMems ..).memOk h
    · exact (execCarouselChangeEffect_keepsMems ..).memOk h
    · exact execLanternAttest_memOk h
    · exact (execSafetyTrip_keepsMems ..).memOk h
    · exact (execReset_keepsMems ..).memOk h
    · exact absurd he Bool.false_ne_true
  · exact .of_next fun t ht => State.memOk_of_mems_eq (exec_mems (Bool.eq_false_iff.2 he) ht) h

theorem applyTurn_memOk {s : State} (h : s.memOk) (id : Nat) : Ends State.memOk (applyTurn id s) := by
  unfold applyTurn
  split
  · exact .next h
  · split
    · exact (execApplyReadRequest_keepsMems ..).memOk h
    · exact execApplyWrite_memOk h id
    · exact execApplyWrite_memOk h id
    · exact (execApplyReduce_keepsMems ..).memOk h
    · exact (execApplyRemoteSignal_keepsMems ..).memOk h
    · exact (execApplyArrival_keepsMems ..).memOk h
    · exact (execApplyPlaneRecord_keepsMems ..).memOk h
    · exact (execApplyDescriptorPost_keepsMems ..).memOk h
    · exact (execReadReplyArrive_keepsMems ..).memOk h
    · exact (execWriteAckArrive_keepsMems ..).memOk h
    · exact (execSignalReplyArrive_keepsMems ..).memOk h
    · exact (execPlaneAnswerArrive_keepsMems ..).memOk h
    · exact (execPostAnswerArrive_keepsMems ..).memOk h
    · exact (execErrorReplyArrive_keepsMems ..).memOk h

theorem State.fetch_wait_mems {s t : State} {cid k : Nat} (h : s.fetch cid k = .wait t) : t.mems = s.mems := by
  unfold State.fetch at h
  dsimp only at h
  split at h
  · split at h <;> cases h
  · exact (State.fetchVa_wait_outside h).mems

/-- The state that an engine's turn comes to. -/
def Pick.state : Pick → State
  | .idle s => s
  | .run _ s => s

@[simp] theorem State.mems_tryStream (s : State) (cid : Nat) (e : Eng) (i : Nat) (tried : List Nat) :
    (Pick.state (s.tryStream cid e i tried)).mems = s.mems := by
  unfold State.tryStream
  dsimp only
  split
  · rfl
  · split
    · next h => exact (State.mems_absentCur ..).trans ((State.fetch_wait_mems h).trans rfl)
    · rfl
    · split
      · split
        · exact State.mems_stallCur ..
        · rfl
      · rfl

@[simp] theorem State.mems_issueTurn (s : State) (cid : Nat) (e : Eng) (tried : List Nat) :
    (Pick.state (s.issueTurn cid e tried)).mems = s.mems := by
  unfold State.issueTurn
  split
  · rfl
  · exact State.mems_tryStream ..

theorem endTurn_memOk {cid : Nat} {e : Eng} {o : Host.Outcome State Fault Refusal} (h : Ends State.memOk o) :
    Ends State.memOk (endTurn cid e o) := by
  cases h with
  | next h => exact .next (State.memOk_of_mems_eq (State.mems_settleHold ..) h)
  | fault f => exact .fault f
  | refused r => exact .refused r

theorem step_memOk {s : State} (h : s.memOk) : Ends State.memOk (step s) := by
  have htodo : ∀ r, ({ s with todo := r } : State).memOk := fun r => State.memOk_of_mems_eq (s.mems_todo r) h
  unfold step
  split
  · exact .next (State.memOk_of_mems_eq s.mems_newClock h)
  · exact exec_memOk (htodo _) _
  · exact applyTurn_memOk (htodo _) _
  · exact .next (State.memOk_of_mems_eq (State.mems_routerTurn ..) (htodo _))
  · exact .next (State.memOk_roslorTurn (htodo _) ..)
  · next _ cid e tried r _ =>
    dsimp only
    generalize hs : (if tried.isEmpty = true then State.markReady { s with todo := r } cid e else { s with todo := r }) = s0
    have h0 : s0.mems = s.mems := by subst hs; simp
    have ht := (State.mems_issueTurn s0 cid e tried).trans h0
    split
    · next hp => exact endTurn_memOk (.next (State.memOk_of_mems_eq (by rwa [hp] at ht) h))
    · next hp => exact endTurn_memOk (exec_memOk (State.memOk_of_mems_eq (by rwa [hp] at ht) h) _)

/-- Settles O59: the few functions that write a memory keep its form, and no other micro-step touches one. -/
theorem stepKeepsMemoryForm : Obligations.StepKeepsMemoryForm := fun _ _ h ht => (step_memOk h).of_eq ht

end Sys2Proof.Machine
end

section
/-!
PROOF. The fields of instruction words: what a packed form reads as, and what operands, immediates and control fields read as
(R66, R68 to R73).
-/

namespace Sys2Proof

/-! ### Fields -/

theorem bitN_beq_one (b : Bool) : (bitN b == 1) = b := by cases b <;> rfl

theorem bitN_eq_one (b : Bool) : bitN b = 1 ↔ b = true := by cases b <;> decide

theorem bitN_lt (b : Bool) : bitN b < 2 := Nat.lt_succ_of_le (bitN_le_one b)

/-- The field of bits lo to lo + n - 1 of a word that is v there. -/
theorem fld_eq {w lo n v : Nat} (h : w / 2 ^ lo % 2 ^ n = v) : fld w lo n = v := h

theorem fld_lt (w lo n : Nat) : fld w lo n < 2 ^ n := Nat.mod_lt _ (Nat.two_pow_pos n)

/-- A bit above a low field. -/
theorem fld_bit_above {m : Nat} {k v : Nat} (b : Bool) (hv : v < 2 ^ k) (hm : m = v + bitN b * 2 ^ k) :
    fld m 0 k = v ∧ (fld m k 1 == 1) = b := by
  subst hm
  constructor
  · simp [fld, Nat.add_mul_mod_self_right, Nat.mod_eq_of_lt hv]
  · have h : fld (v + bitN b * 2 ^ k) k 1 = bitN b := by
      rw [fld, Nat.add_mul_div_right _ _ (Nat.two_pow_pos k), Nat.div_eq_of_lt hv, Nat.zero_add, pow_one]
      exact Nat.mod_eq_of_lt (bitN_lt b)
    rw [h, bitN_beq_one]

/-! ### The head of a 64-bit word -/

/-- A 64-bit word: opcode, guard and token fields, and the 43 bits below (R66). -/
def scalarWord (opc : Nat) (h : Head) (low : Nat) : Nat := opc * 2 ^ 56 + headBits h + low

/-- Guard and token fields as a number of 13 bits. -/
def headNo (h : Head) : Nat := h.tp * 2 ^ 10 + bitN h.pop * 2 ^ 9 + bitN h.push * 2 ^ 8 + h.guard * 2 + bitN h.gneg

theorem Head.fits {e : Eng} {h : Head} (hh : h.ok e = true) : h.tp < 8 ∧ h.guard < 128 := by
  simp only [Head.ok, tpOk, Bool.and_eq_true, Bool.or_eq_true, decide_eq_true_eq, beq_iff_eq] at hh
  obtain ⟨hg, ht⟩ := hh
  constructor
  · split at ht
    · omega
    · simp only [Bool.and_eq_true, decide_eq_true_eq] at ht; omega
  · omega

section
variable {e : Eng} {opc low w : Nat} {h : Head}

theorem scalarWord_lt (hh : h.ok e = true) (ho : opc < 256) (hl : low < 2 ^ 43) : scalarWord opc h low < 2 ^ 64 := by
  have hb := headBits_add_le hh
  simp only [scalarWord]
  omega

theorem opcOf_scalarWord (hh : h.ok e = true) (ho : opc < 256) (hl : low < 2 ^ 43) : opcOf (scalarWord opc h low) = opc := by
  have hb := headBits_add_le hh
  simp only [scalarWord, opcOf, fld]
  omega

theorem scalarWord_mod (hl : low < 2 ^ 43) : scalarWord opc h low % 2 ^ 43 = low := by
  simp only [scalarWord, headBits]
  omega

theorem unHead_scalarWord (hh : h.ok e = true) (hl : low < 2 ^ 43) : unHead (scalarWord opc h low) = h := by
  obtain ⟨htp, hg⟩ := Head.fits hh
  obtain ⟨tp, pop, push, guard, gneg⟩ := h
  have h1 := bitN_lt pop
  have h2 := bitN_lt push
  have h3 := bitN_lt gneg
  have e1 : fld (scalarWord opc ⟨tp, pop, push, guard, gneg⟩ low) 53 3 = tp := by
    simp only [scalarWord, headBits, fld] at *; omega
  have e2 : fld (scalarWord opc ⟨tp, pop, push, guard, gneg⟩ low) 52 1 = bitN pop := by
    simp only [scalarWord, headBits, fld] at *; omega
  have e3 : fld (scalarWord opc ⟨tp, pop, push, guard, gneg⟩ low) 51 1 = bitN push := by
    simp only [scalarWord, headBits, fld] at *; omega
  have e4 : fld (scalarWord opc ⟨tp, pop, push, guard, gneg⟩ low) 44 7 = guard := by
    simp only [scalarWord, headBits, fld] at *; omega
  have e5 : fld (scalarWord opc ⟨tp, pop, push, guard, gneg⟩ low) 43 1 = bitN gneg := by
    simp only [scalarWord, headBits, fld] at *; omega
  simp only [unHead, e1, e2, e3, e4, e5, bitN_beq_one]

end

/-! ### The forms (R68) -/

section
variable {w d a b c m imm : Nat}

theorem unR_of_mod (ha : a < 2 ^ 9) (hb : b < 2 ^ 9) (hc : c < 2 ^ 9) (hm : m < 2 ^ 7)
    (hw : w % 2 ^ 43 = d * 2 ^ 34 + a * 2 ^ 25 + b * 2 ^ 16 + c * 2 ^ 7 + m) : unR w = ⟨d, a, b, c, m⟩ := by
  simp only [unR, fld, RForm.mk.injEq]
  omega

theorem unI_of_mod (ha : a < 2 ^ 9) (hi : imm < 2 ^ 12) (hm : m < 2 ^ 13)
    (hw : w % 2 ^ 43 = d * 2 ^ 34 + a * 2 ^ 25 + imm * 2 ^ 13 + m) : unI w = ⟨d, a, imm, m⟩ := by
  simp only [unI, fld, IForm.mk.injEq]
  omega

theorem unU_of_mod (hi : imm < 2 ^ 20) (hm : m < 2 ^ 14)
    (hw : w % 2 ^ 43 = d * 2 ^ 34 + imm * 2 ^ 14 + m) : unU w = ⟨d, imm, m⟩ := by
  simp only [unU, fld, UForm.mk.injEq]
  omega

theorem unJ_of_mod (ha : a < 2 ^ 9) (hm : m < 2 ^ 10)
    (hw : w % 2 ^ 43 = imm * 2 ^ 19 + a * 2 ^ 10 + m) : unJ w = ⟨imm, a, m⟩ := by
  simp only [unJ, fld, JForm.mk.injEq]
  omega

theorem unK_of_mod {wt sg aq rl sc : Nat} (hb : b < 2 ^ 9) (hwt : wt < 2 ^ 8) (hsg : sg < 2 ^ 8) (haq : aq < 2)
    (hrl : rl < 2) (hsc : sc < 2 ^ 3) (hm : m < 2 ^ 4)
    (hw : w % 2 ^ 43 = a * 2 ^ 34 + b * 2 ^ 25 + wt * 2 ^ 17 + sg * 2 ^ 9 + aq * 2 ^ 8 + rl * 2 ^ 7 + sc * 2 ^ 4 + m) :
    unK w = ⟨a, b, wt, sg, aq, rl, sc, m⟩ := by
  simp only [unK, fld, KForm.mk.injEq]
  omega

theorem unV_of_mod {z am bm fm st : Nat} (ha : a < 2 ^ 8) (hb : b < 2 ^ 8) (hc : c < 2 ^ 8) (hz : z < 4)
    (ham : am < 8) (hbm : bm < 8) (hfm : fm < 4) (hst : st < 2)
    (hw : w % 2 ^ 43 = d * 2 ^ 35 + a * 2 ^ 27 + b * 2 ^ 19 + c * 2 ^ 11 + z * 2 ^ 9 + am * 2 ^ 6 + bm * 2 ^ 3 + fm * 2 + st) :
    unV w = ⟨d, a, b, c, z, am, bm, fm, st⟩ := by
  simp only [unV, fld, VForm.mk.injEq]
  omega

end

/-! ### Operands (R69, R70) -/

theorem xOk_lt_sixtyFour {e : Eng} {n : Nat} (h : xOk e n = true) : n < 64 := by
  simp only [xOk, decide_eq_true_eq] at h
  split at h <;> omega

theorem rdX_of_lt {n : Nat} (h : n < 64) : rdX n = some n := if_pos h

theorem rdX_of_xOk {e : Eng} {n : Nat} (h : xOk e n = true) : rdX n = some n := rdX_of_lt (xOk_lt_sixtyFour h)

theorem rdSt_stBits {n : Nat} (h : n < 32) : rdSt (stBits n) = some n := by
  rw [rdSt, if_pos (by simp only [stBits]; omega)]
  simp [stBits]

theorem stBits_lt {n : Nat} (h : n < 32) : stBits n < 2 ^ 9 := by simp only [stBits]; omega

theorem rdStR_stBits {a : StOpnd} (h : a.n < 32) : rdStR (stBits a.n) a.rot = some a := by simp [rdStR, rdSt_stBits h]

theorem pOk_lt {p : Nat} (h : pOk p = true) : p < 96 := of_decide_eq_true h

theorem pBits_lt {p : Nat} (h : pOk p = true) : pBits p < 2 ^ 9 := by have := pOk_lt h; simp only [pBits]; omega

theorem rdP_pBits {p : Nat} (h : pOk p = true) : rdP (pBits p) = some p := by
  have := pOk_lt h
  rw [rdP, if_pos (by simp only [pBits]; omega)]
  simp [pBits]

theorem poBits_lt {p : Option Nat} (h : poOk p = true) : poBits p < 2 ^ 9 := by
  cases p with
  | none => decide
  | some p => exact pBits_lt h

theorem rdPo_poBits {p : Option Nat} (h : poOk p = true) : rdPo (poBits p) = some p := by
  cases p with
  | none => rfl
  | some p =>
    have h0 : pBits p ≠ 0 := by simp only [pBits]; omega
    simp [rdPo, poBits, h0, rdP_pBits h]

theorem rdOpnd_bits {a : Opnd} (h : a.bits < 320) (hx : ∀ n, a = .x n → n < 64) (hq : ∀ n, a = .q n → n < 64) :
    rdOpnd a.bits = some a := by
  cases a with
  | x n => exact if_pos (hx n rfl)
  | q n =>
    have := hq n rfl
    have h0 : ¬ Opnd.bits (.q n) < 64 := by simp only [Opnd.bits]; omega
    rw [rdOpnd, if_neg h0, if_pos (by simp only [Opnd.bits]; omega)]
    simp [Opnd.bits]
  | peek n =>
    simp only [Opnd.bits] at h
    have h0 : ¬ Opnd.bits (.peek n) < 64 := by simp only [Opnd.bits]; omega
    have h1 : ¬ (192 ≤ Opnd.bits (.peek n) ∧ Opnd.bits (.peek n) < 256) := by simp only [Opnd.bits]; omega
    rw [rdOpnd, if_neg h0, if_neg h1, if_pos (by simp only [Opnd.bits]; omega)]
    simp [Opnd.bits]

/-- A scalar operand field that reads as operand a. -/
structure OpndField (a : Opnd) : Prop where
  lt : a.bits < 2 ^ 9
  read : rdOpnd a.bits = some a

theorem opndField_src {e : Eng} {a : Opnd} (h : a.srcOk e = true) : OpndField a := by
  have hlt : a.bits < 320 ∧ (∀ n, a = .x n → n < 64) ∧ ∀ n, a = .q n → n < 64 := by
    cases a with
    | x n =>
      have := xOk_lt_sixtyFour (show xOk e n = true from h)
      exact ⟨by simp only [Opnd.bits]; omega, fun _ he => by cases he; exact this, nofun⟩
    | q n =>
      simp only [Opnd.srcOk, Bool.and_eq_true, decide_eq_true_eq] at h
      exact ⟨by simp only [Opnd.bits]; omega, nofun, fun _ he => by cases he; omega⟩
    | peek n =>
      simp only [Opnd.srcOk, Bool.and_eq_true, decide_eq_true_eq] at h
      exact ⟨by simp only [Opnd.bits]; omega, nofun, nofun⟩
  exact ⟨by omega, rdOpnd_bits hlt.1 hlt.2.1 hlt.2.2⟩

theorem opndField_dst {e : Eng} {d : Opnd} (h : d.dstOk e = true) : OpndField d := by
  cases d with
  | x n => exact opndField_src (e := e) (a := .x n) h
  | q n =>
    simp only [Opnd.dstOk, Bool.and_eq_true, decide_eq_true_eq] at h
    exact ⟨by simp only [Opnd.bits]; omega,
      rdOpnd_bits (by simp only [Opnd.bits]; omega) nofun fun _ he => by cases he; omega⟩
  | peek n => cases h

theorem rdQd_add {q : Nat} (h : q < 64) : rdQd (192 + q) = some q := by
  rw [rdQd, if_pos (by omega)]
  simp

theorem VSrc.bits_lt {a : VSrc} (h : a.ok = true) : a.bits < 2 ^ 8 := by
  cases a <;> simp only [VSrc.ok, decide_eq_true_eq] at h <;> simp only [VSrc.bits] <;> omega

theorem rdVS_bits {a : VSrc} (h : a.ok = true) : rdVS a.bits = a := by
  cases a with
  | v n => exact if_pos (of_decide_eq_true h)
  | rot n =>
    have hn : n < 64 := of_decide_eq_true h
    have h1 : ¬ 64 + n < 64 := by omega
    have h2 : 64 + n < 128 := by omega
    simp [rdVS, VSrc.bits, h1, h2]
  | pop n =>
    have hn : n < 8 := of_decide_eq_true h
    have h1 : ¬ 128 + n < 64 := by omega
    have h2 : 128 + n < 192 := by omega
    simp [rdVS, VSrc.bits, h1, h2]
  | peek n =>
    have h1 : ¬ 192 + n < 64 := by omega
    have h2 : ¬ 192 + n < 128 := by omega
    simp [rdVS, VSrc.bits, h1, h2]

theorem VDst.bits_lt {d : VDst} (h : d.ok = true) : d.bits < 2 ^ 8 := by
  cases d <;> simp only [VDst.ok, Bool.and_eq_true, decide_eq_true_eq] at h <;> simp only [VDst.bits] <;> omega

theorem rdVD_bits {d : VDst} (h : d.ok = true) : rdVD d.bits = some d := by
  cases d with
  | v n => exact if_pos (of_decide_eq_true h)
  | rot n =>
    have hn : n < 64 := of_decide_eq_true h
    have h1 : ¬ 64 + n < 64 := by omega
    have h2 : 64 + n < 128 := by omega
    simp [rdVD, VDst.bits, h1, h2]
  | push n =>
    simp only [VDst.ok, Bool.and_eq_true, decide_eq_true_eq] at h
    have h1 : ¬ 128 + n < 64 := by omega
    have h2 : 128 + n < 192 := by omega
    simp [rdVD, VDst.bits, h1, h2]

/-! ### Immediates -/

theorem uN_lt (n : Nat) (i : Int) : uN n i < 2 ^ n := by
  have h : (0 : Int) < 2 ^ n := by positivity
  have h1 := Int.emod_lt_of_pos i h
  have h0 := Int.emod_nonneg i h.ne'
  have h2 : ((2 ^ n : Nat) : Int) = 2 ^ n := by norm_cast
  simp only [uN]
  omega

/-- A signed immediate reads as what it is (R5). -/
theorem sextN_uN {n : Nat} {i : Int} (hn : 0 < n) (h : immOk n i = true) : sextN n (uN n i) = i := by
  obtain ⟨k, rfl⟩ : ∃ k, n = k + 1 := ⟨n - 1, by omega⟩
  simp only [immOk, Bool.and_eq_true, decide_eq_true_eq, Nat.add_sub_cancel] at h
  have hp : (0 : Int) < 2 ^ k := by positivity
  have h2 : (2 : Int) ^ (k + 1) = 2 * 2 ^ k := by rw [pow_succ, mul_comm]
  have h3 : ((2 ^ k : Nat) : Int) = 2 ^ k := by norm_cast
  simp only [sextN, uN, Nat.add_sub_cancel, h2]
  generalize (2 : Int) ^ k = P at *
  by_cases hi : 0 ≤ i
  · rw [Int.emod_eq_of_lt hi (by omega), if_pos (by omega)]
    omega
  · have he : i % (2 * P) = i + 2 * P := by
      rw [← Int.add_emod_right, Int.emod_eq_of_lt (by omega) (by omega)]
    rw [he, if_neg (by omega)]
    omega

/-! ### Control fields -/

theorem Scope.bits_lt (s : Scope) : s.bits < 5 := by cases s <;> decide

theorem rdScope_bits (s : Scope) : rdScope s.bits = some s := by cases s <;> rfl

theorem rdSync_of_ok {s : Sync} (h : s.ok = true) : rdSync (bitN s.acq) (bitN s.rel) s.scope.bits = some s := by
  obtain ⟨acq, rel, scope⟩ := s
  simp only [rdSync, rdScope_bits, Option.map_some, bitN_eq_one, bitN_beq_one, Option.some.injEq]
  split
  · rfl
  · next hn =>
    simp only [Sync.ok, Bool.or_eq_true, beq_iff_eq] at h
    obtain hb | rfl := h
    · exact absurd hb hn
    · simp only [not_or, Bool.not_eq_true] at hn
      rw [hn.1, hn.2]

theorem Sync.bits_lt (s : Sync) : s.bits < 32 := by
  have h1 := bitN_lt s.acq
  have h2 := bitN_lt s.rel
  have h3 := s.scope.bits_lt
  simp only [Sync.bits]
  omega

/-- Acquire, release and scope as a word's low bits. -/
theorem rdSync_low {w : Nat} {s : Sync} (h : s.ok = true) (hw : w % 32 = s.bits) :
    rdSync (fld w 4 1) (fld w 3 1) (fld w 0 3) = some s := by
  have h1 := bitN_lt s.acq
  have h2 := bitN_lt s.rel
  have h3 := s.scope.bits_lt
  simp only [Sync.bits] at hw
  have e1 : fld w 4 1 = bitN s.acq := by simp only [fld]; omega
  have e2 : fld w 3 1 = bitN s.rel := by simp only [fld]; omega
  have e3 : fld w 0 3 = s.scope.bits := by simp only [fld]; omega
  rw [e1, e2, e3, rdSync_of_ok h]

theorem rdCond_bits (c : Cond) : rdCond c.bits = some c := by cases c <;> rfl

theorem Cond.bits_lt (c : Cond) : c.bits < 6 := by cases c <;> decide

theorem Rm.bits_lt (r : Rm) : r.bits < 4 := by cases r <;> decide

theorem rmBits_lt (r : Option Rm) : rmBits r < 8 := by
  cases r with
  | none => decide
  | some r => have := r.bits_lt; simp only [rmBits, Option.elim]; omega

theorem rdRm_rmBits (r : Option Rm) : rdRm (rmBits r) = r := by
  cases r with
  | none => rfl
  | some r => cases r <;> rfl

theorem rmOf_bits (r : Rm) : rmOf r.bits = r := by cases r <;> rfl

theorem rdCvt_cvtBits {f : Fmt} (h1 : f ≠ .pw2) (h2 : f ≠ .i64) : rdCvt (cvtBits f) = some f := by
  cases f <;> first | rfl | exact absurd rfl h1 | exact absurd rfl h2

theorem cvtBits_lt (f : Fmt) : cvtBits f < 16 := by cases f <;> decide

end Sys2Proof
end

section
/-!
PROOF. A word that is laid out for an instruction reads as that instruction: the forms of 64-bit words, and the common group
(R68, R74).
-/

namespace Sys2Proof

/-! ### What it takes for a 64-bit word to decode -/

/-- Engine e, with privilege, takes the word w as instruction i, as far as checks 1, 2 and 4 of R78 go. -/
structure Takes (e : Eng) (i : Instr) (w : Nat) : Prop where
  scalar : e ≠ .we
  lt : w < 2 ^ 64
  assigned : opcAssigned e (opcOf w) = true
  free : opcPrivileged e true (opcOf w) = false
  read : parse e w = some i

/-- The opcode op of engine e is read by the parser P. -/
structure ReadBy (e : Eng) (op : Nat) (P : Head → Nat → Option Instr) : Prop where
  scalar : e ≠ .we
  lt : op < 256
  assigned : opcAssigned e op = true
  free : opcPrivileged e true op = false
  read : ∀ w, opcOf w = op → parse e w = P (unHead w) w

theorem opcPrivileged_of_ne {e : Eng} {op : Nat} (h : op ≠ 0xF0) : opcPrivileged e true op = false := by
  simp [opcPrivileged, h]

theorem scalar_ne_we {e : Eng} (he : e.scalar = true) : e ≠ .we := by
  rintro rfl
  cases he

/-- The opcodes of the common group that every engine of 64-bit words assigns. -/
theorem readBy_common {e : Eng} {op : Nat} (he : e.scalar = true) (hlt : op < 0x40) (ha : opcAssigned e op = true) :
    ReadBy e op parseCommon :=
  ⟨scalar_ne_we he, by omega, ha, opcPrivileged_of_ne (by omega), fun w ho => by simp [parse, scalar_ne_we he, ho, hlt]⟩

theorem opcAssigned_common {e : Eng} {op : Nat} (he : e.scalar = true) (hop : op < 0x16 ∧ op ≠ 0x0B ∧ op ≠ 0x0F) :
    opcAssigned e op = true := by
  obtain ⟨h16, hB, hF⟩ := hop
  have h40 : op < 0x40 := by omega
  have h16' : op ≠ 0x16 ∧ op ≠ 0x17 ∧ op ≠ 0x18 ∧ op ≠ 0x19 := by omega
  delta opcAssigned
  cases e
  case we => cases he
  all_goals simp [h40, h16, h16', hB, hF]

theorem readBy_every {e : Eng} {op : Nat} (he : e.scalar = true) (hop : op < 0x16 ∧ op ≠ 0x0B ∧ op ≠ 0x0F) :
    ReadBy e op parseCommon := readBy_common he (by omega) (opcAssigned_common he hop)

section
variable {e : Eng} {op : Nat} {P : Head → Nat → Option Instr} {h : Head} {i : Instr}

theorem takes_scalarWord {low : Nat} (hr : ReadBy e op P) (hh : h.ok e = true) (hl : low < 2 ^ 43)
    (hp : ∀ w, opcOf w = op → w % 2 ^ 43 = low → P h w = some i) : Takes e i (scalarWord op h low) := by
  have ho := opcOf_scalarWord hh hr.lt hl
  refine ⟨hr.scalar, scalarWord_lt hh hr.lt hl, ho.symm ▸ hr.assigned, ho.symm ▸ hr.free, ?_⟩
  rw [hr.read _ ho, unHead_scalarWord hh hl]
  exact hp _ ho (scalarWord_mod hl)

theorem takes_encR {d a b c m : Nat} (hr : ReadBy e op P) (hh : h.ok e = true) (hd : d < 2 ^ 9) (ha : a < 2 ^ 9) (hb : b < 2 ^ 9)
    (hc : c < 2 ^ 9) (hm : m < 2 ^ 7) (hp : ∀ w, opcOf w = op → unR w = ⟨d, a, b, c, m⟩ → P h w = some i) :
    Takes e i (encR op h d a b c m) := by
  have hw : encR op h d a b c m = scalarWord op h (d * 2 ^ 34 + a * 2 ^ 25 + b * 2 ^ 16 + c * 2 ^ 7 + m) := by
    simp only [encR, packR, scalarWord]; omega
  rw [hw]
  exact takes_scalarWord hr hh (by omega) fun w ho hw => hp w ho (unR_of_mod ha hb hc hm hw)

theorem takes_encI {d a imm m : Nat} (hr : ReadBy e op P) (hh : h.ok e = true) (hd : d < 2 ^ 9) (ha : a < 2 ^ 9)
    (hi : imm < 2 ^ 12) (hm : m < 2 ^ 13) (hp : ∀ w, opcOf w = op → unI w = ⟨d, a, imm, m⟩ → P h w = some i) :
    Takes e i (encI op h d a imm m) := by
  have hw : encI op h d a imm m = scalarWord op h (d * 2 ^ 34 + a * 2 ^ 25 + imm * 2 ^ 13 + m) := by
    simp only [encI, packI, scalarWord]; omega
  rw [hw]
  exact takes_scalarWord hr hh (by omega) fun w ho hw => hp w ho (unI_of_mod ha hi hm hw)

theorem takes_packU {d imm m : Nat} (hr : ReadBy e op P) (hh : h.ok e = true) (hd : d < 2 ^ 9)
    (hi : imm < 2 ^ 20) (hm : m < 2 ^ 14) (hp : ∀ w, opcOf w = op → unU w = ⟨d, imm, m⟩ → P h w = some i) :
    Takes e i (packU op h ⟨d, imm, m⟩) := by
  have hw : packU op h ⟨d, imm, m⟩ = scalarWord op h (d * 2 ^ 34 + imm * 2 ^ 14 + m) := by
    simp only [packU, scalarWord]; omega
  rw [hw]
  exact takes_scalarWord hr hh (by omega) fun w ho hw => hp w ho (unU_of_mod hi hm hw)

theorem takes_encJ {imm a m : Nat} (hr : ReadBy e op P) (hh : h.ok e = true) (hi : imm < 2 ^ 24) (ha : a < 2 ^ 9)
    (hm : m < 2 ^ 10) (hp : ∀ w, opcOf w = op → unJ w = ⟨imm, a, m⟩ → P h w = some i) : Takes e i (encJ op h imm a m) := by
  have hw : encJ op h imm a m = scalarWord op h (imm * 2 ^ 19 + a * 2 ^ 10 + m) := by
    simp only [encJ, packJ, scalarWord]; omega
  rw [hw]
  exact takes_scalarWord hr hh (by omega) fun w ho hw => hp w ho (unJ_of_mod ha hm hw)

theorem takes_packK {a b wt sg aq rl sc m : Nat} (hr : ReadBy e op P) (hh : h.ok e = true) (ha : a < 2 ^ 9) (hb : b < 2 ^ 9)
    (hwt : wt < 2 ^ 8) (hsg : sg < 2 ^ 8) (haq : aq < 2) (hrl : rl < 2) (hsc : sc < 2 ^ 3) (hm : m < 2 ^ 4)
    (hp : ∀ w, opcOf w = op → unK w = ⟨a, b, wt, sg, aq, rl, sc, m⟩ → P h w = some i) :
    Takes e i (packK op h ⟨a, b, wt, sg, aq, rl, sc, m⟩) := by
  have hw : packK op h ⟨a, b, wt, sg, aq, rl, sc, m⟩ = scalarWord op h
      (a * 2 ^ 34 + b * 2 ^ 25 + wt * 2 ^ 17 + sg * 2 ^ 9 + aq * 2 ^ 8 + rl * 2 ^ 7 + sc * 2 ^ 4 + m) := by
    simp only [packK, scalarWord]; omega
  rw [hw]
  exact takes_scalarWord hr hh (by omega) fun w ho hw => hp w ho (unK_of_mod hb hwt hsg haq hrl hsc hm hw)

theorem takes_encV {d a b c : Nat} {f : VFmt} (hr : ReadBy e op P) (hh : h.ok e = true) (hd : d < 2 ^ 8) (ha : a < 2 ^ 8)
    (hb : b < 2 ^ 8) (hc : c < 2 ^ 8) (hz : f.esz < 4) (ham : f.amod < 8) (hbm : f.bmod < 8) (hf : f.fmt < 4)
    (hp : ∀ w, opcOf w = op → unV w = ⟨d, a, b, c, f.esz, f.amod, f.bmod, f.fmt, bitN f.sat⟩ → P h w = some i) :
    Takes e i (encV op h d a b c f) := by
  have hs := bitN_lt f.sat
  have hw : encV op h d a b c f = scalarWord op h (d * 2 ^ 35 + a * 2 ^ 27 + b * 2 ^ 19 + c * 2 ^ 11 + f.esz * 2 ^ 9
      + f.amod * 2 ^ 6 + f.bmod * 2 ^ 3 + f.fmt * 2 + bitN f.sat) := by
    simp only [encV, packV, scalarWord]; omega
  rw [hw]
  exact takes_scalarWord hr hh (by omega) fun w ho hw => hp w ho (unV_of_mod ha hb hc hz ham hbm hf hs hw)

end

/-! ### The groups of opcodes -/

/-- Who reads an instruction's opcode: the common group, the system range, an engine, or nobody. -/
inductive OpGroup where
  | common | sys | own (e : Eng) | none
  deriving DecidableEq

/-- The group of an instruction's opcode (R74 to R77). -/
def Instr.opGroup : Instr → OpGroup
  | .nop .. | .endS .. | .rdzv .. | .br .. | .brc .. | .call .. | .callg .. | .jr .. | .loop .. | .loopi .. | .looph ..
  | .trap .. | .csrr .. | .csrw .. | .add .. | .sub .. | .and .. | .or .. | .xor .. | .andn .. | .shl .. | .shr .. | .sra ..
  | .mul .. | .mulh .. | .mulhu .. | .min .. | .max .. | .minu .. | .maxu .. | .slt .. | .sltu .. | .clz .. | .popc ..
  | .sel .. | .addi .. | .andi .. | .ori .. | .xori .. | .shli .. | .shri .. | .srai .. | .slti .. | .sltiu .. | .lih ..
  | .cmp .. | .cmpi .. | .pand .. | .por .. | .pxor .. | .pandn .. | .pmov .. | .pseti .. | .ld .. | .st .. | .ldg ..
  | .stg .. | .blkh .. => .common
  | .ssig .. | .sset .. | .sget .. | .mark .. | .mjoin .. | .mpost .. | .gjoin .. | .gleave .. | .garv .. | .gbar ..
  | .ckpt .. | .planeQuery .. | .planeStage .. | .planeDrop .. => .own .sq
  | .rft .. | .resume .. | .ctxsv .. | .ctxld .. | .tlbiDataAll .. | .tlbiDataPage .. | .tlbiInstrAll .. | .tlbiInstrPage ..
  | .keyopLoad .. | .keyopDestroy .. | .keyopQuery .. | .capw .. | .tnset .. => .sys
  | .sdef .. | .slvl .. | .sfib .. | .sint .. | .suni .. | .sskip .. | .spos .. | .scrd .. | .ldq .. | .ldqc .. | .ldqa ..
  | .stq .. | .lls .. | .mrgb .. | .mrgi .. | .mrge .. | .bfxp .. | .bfxpSet .. | .loopt .. | .prf .. | .srel .. => .own .va
  | .vfadd .. | .vfsub .. | .vfmul .. | .vfma .. | .vfms .. | .vfnma .. | .vfmin .. | .vfmax .. | .vfcmp .. | .vlog2 ..
  | .vexp2 .. | .vrcp .. | .vrsq .. | .vcvt .. | .vscl .. | .vpks .. | .vadd .. | .vsub .. | .vmul .. | .vmulh .. | .vmad ..
  | .vand .. | .vor .. | .vxor .. | .vshl .. | .vshr .. | .vsra .. | .vmin .. | .vmax .. | .vadds .. | .vsubs .. | .vcmp ..
  | .vsel .. | .vmov .. | .vli .. | .vbcst .. | .vbcstX .. | .vperm .. | .vrot .. | .vlane .. | .vhash .. | .vradd ..
  | .vrmax .. | .vrmaxi .. | .vrmini .. | .vrfadd .. | .vext .. | .vacrF32 .. | .vacrRaw .. | .vacwF32 .. | .vacwAdd ..
  | .vacwRaw .. | .loopq .. | .vqlen .. | .vqlenZero .. => .own .ve
  | .wnop .. | .wt .. | .wg .. | .wf .. | .wtf .. | .wrow .. | .wsegFull .. | .wsegKeep .. | .whook .. | .wret .. | .wjmp ..
  | .wjmpLink .. | .wjmpRet .. | .wend .. | .wwait .. | .wlink .. | .wrdzv .. => .own .we
  | .mtw .. | .mtws .. | .mgo .. | .mdrn .. | .mbyp .. | .mrqt .. | .mzero .. | .midx .. | .mnms .. | .mrpr .. | .mrst .. =>
    .own .me
  | .xcp .. | .xcpg .. | .xred .. | .xexp .. | .xarv .. | .xstep .. | .xpln .. | .xbrd .. | .xalt .. | .xrep .. | .xdrp ..
  | .xsigr .. | .xkeyEnc .. | .xkeyDec .. | .xqryRing .. | .xqryPeek .. => .own .xe
  | _ => .none

/-! ### The common group -/

/-- The words of BR and BRC keep their two mode bits apart. -/
theorem fld_branch (x z : Bool) :
    (fld (bitN x * 2 + bitN z) 0 1 == 1) = z ∧ (fld (bitN x * 2 + bitN z) 1 1 == 1) = x := by
  cases x <;> cases z <;> decide

theorem csrOk_lt {n : Nat} (h : csrOk n = true) : n < 2 ^ 12 := by
  have hall : ∀ m ∈ [0x000, 0x001, 0x002, 0x003, 0x004, 0x010, 0x020, 0x021, 0x022, 0x023, 0x024, 0x030, 0x040, 0x041, 0x042,
      0x050, 0x060, 0x070], m < 2 ^ 12 := by decide
  exact hall n (List.contains_iff_mem.1 h)

theorem takes_blkh {e : Eng} {h : Head} {s : HeadSpec} (hacc : Instr.accepted e (.blkh h s) = true)
    (hcl : Instr.clean (.blkh h s) = true) : Takes e (.blkh h s) (encode (.blkh h s)) := by
  simp only [Instr.accepted, HeadSpec.ok, Bool.and_eq_true, decide_eq_true_eq] at hacc
  obtain ⟨⟨hh, he⟩, ⟨⟨⟨⟨⟨⟨⟨⟨hsem, hscnt⟩, htcnt⟩, hqin⟩, hqout⟩, hqn⟩, hgreg⟩, -⟩, -⟩, -⟩ := hacc
  simp only [Instr.clean, Bool.and_eq_true] at hcl
  obtain ⟨-, -, hsync⟩ := hcl
  have hb := s.sync.bits_lt
  have hw : scalarWord 0x01 h (s.sem * 2 ^ 35 + s.scnt * 2 ^ 33 + s.tcnt * 2 ^ 30 + s.qin * 2 ^ 22 + s.qout * 2 ^ 14
      + s.qn * 2 ^ 11 + s.greg * 2 ^ 5 + s.sync.bits) = 0x01 * 2 ^ 56 + headBits h + s.sem * 2 ^ 35 + s.scnt * 2 ^ 33
      + s.tcnt * 2 ^ 30 + s.qin * 2 ^ 22 + s.qout * 2 ^ 14 + s.qn * 2 ^ 11 + s.greg * 2 ^ 5 + s.sync.bits := by
    simp only [scalarWord, Nat.add_assoc]
  refine cast (congrArg (Takes e (.blkh h s)) hw) ?_
  refine takes_scalarWord (readBy_every he (by decide)) hh (by omega) fun w ho hlow => ?_
  have hs := rdSync_low (w := w) hsync (by omega)
  have hf : fld w 35 8 = s.sem ∧ fld w 33 2 = s.scnt ∧ fld w 30 3 = s.tcnt ∧ fld w 22 8 = s.qin ∧ fld w 14 8 = s.qout
      ∧ fld w 11 3 = s.qn ∧ fld w 5 6 = s.greg := by simp only [fld]; omega
  simp [parseCommon, ho, parseBlkh, hs, hf]

theorem takes_common {e : Eng} {i : Instr} (hg : Instr.opGroup i = .common) (hacc : i.accepted e = true)
    (hcl : i.clean = true) : Takes e i (encode i) := by
  cases i with
  | add h d a b | sub h d a b | and h d a b | or h d a b | xor h d a b | andn h d a b | shl h d a b | shr h d a b
  | sra h d a b | mul h d a b | mulh h d a b | mulhu h d a b | min h d a b | max h d a b | minu h d a b | maxu h d a b
  | slt h d a b | sltu h d a b =>
    simp only [Instr.accepted, Bool.and_eq_true] at hacc
    obtain ⟨⟨⟨⟨hh, he⟩, hd⟩, ha⟩, hb⟩ := hacc
    have hd := opndField_dst hd
    have ha := opndField_src ha
    have hb := opndField_src hb
    refine takes_encR (readBy_every he (by decide)) hh hd.lt ha.lt hb.lt (by decide) (by decide) fun w ho hr => ?_
    simp [parseCommon, ho, hr, parseAlu, hd.read, ha.read, hb.read]
  | nop h | endS h =>
    simp only [Instr.accepted, Bool.and_eq_true] at hacc
    obtain ⟨hh, he⟩ := hacc
    refine takes_encR (readBy_every he (by decide)) hh (by decide) (by decide) (by decide) (by decide) (by decide) fun w ho hr => ?_
    simp [parseCommon, ho]
  | rdzv h n =>
    simp only [Instr.accepted, Bool.and_eq_true, decide_eq_true_eq] at hacc
    obtain ⟨⟨hh, he⟩, hn⟩ := hacc
    refine takes_encI (readBy_every he (by decide)) hh (by decide) (by decide) hn (by decide) fun w ho hr => ?_
    simp [parseCommon, ho, hr]
  | br h x off =>
    simp only [Instr.accepted, Bool.and_eq_true] at hacc
    obtain ⟨⟨hh, he⟩, hoff⟩ := hacc
    have hx := bitN_lt x
    have hbit := (fld_branch x false).2
    refine takes_encJ (readBy_every he (by decide)) hh (uN_lt ..) (by decide) (by omega) fun w ho hr => ?_
    simp only [parseCommon, ho, hr, sextN_uN (by decide) hoff]
    simpa [bitN] using hbit
  | brc h z x p off =>
    simp only [Instr.accepted, Bool.and_eq_true] at hacc
    obtain ⟨⟨⟨hh, he⟩, hpk⟩, hoff⟩ := hacc
    have hx := bitN_lt x
    have hz := bitN_lt z
    obtain ⟨hbz, hbx⟩ := fld_branch x z
    refine takes_encJ (readBy_every he (by decide)) hh (uN_lt ..) (pBits_lt hpk) (by omega) fun w ho hr => ?_
    simp [parseCommon, ho, hr, sextN_uN (by decide) hoff, rdP_pBits hpk, hbz, hbx]
  | call h a off =>
    simp only [Instr.accepted, Bool.and_eq_true] at hacc
    obtain ⟨⟨⟨hh, he⟩, ha⟩, hoff⟩ := hacc
    refine takes_encJ (readBy_every he (by decide)) hh (uN_lt ..) (xOk_lt ha) (by decide) fun w ho hr => ?_
    simp [parseCommon, ho, hr, sextN_uN (by decide) hoff, rdX_of_xOk ha]
  | callg h d a imm =>
    simp only [Instr.accepted, Bool.and_eq_true] at hacc
    obtain ⟨⟨⟨⟨hh, he⟩, hd⟩, ha⟩, hi⟩ := hacc
    refine takes_encI (readBy_every he (by decide)) hh (xOk_lt hd) (xOk_lt ha) (uN_lt ..) (by decide) fun w ho hr => ?_
    simp [parseCommon, ho, hr, sextN_uN (by decide) hi, rdX_of_xOk ha, rdX_of_xOk hd]
  | jr h a =>
    simp only [Instr.accepted, Bool.and_eq_true] at hacc
    obtain ⟨⟨hh, he⟩, ha⟩ := hacc
    refine takes_encR (readBy_every he (by decide)) hh (by decide) (xOk_lt ha) (by decide) (by decide) (by decide) fun w ho hr => ?_
    simp [parseCommon, ho, hr, rdX_of_xOk ha]
  | loop h a off =>
    simp only [Instr.accepted, Bool.and_eq_true, decide_eq_true_eq] at hacc
    obtain ⟨⟨⟨⟨hh, he⟩, ha⟩, -⟩, hoff⟩ := hacc
    refine takes_encJ (readBy_every he (by decide)) hh (by omega) (xOk_lt ha) (by decide) fun w ho hr => ?_
    simp [parseCommon, ho, hr, rdX_of_xOk ha]
  | loopi h n off =>
    simp only [Instr.accepted, Bool.and_eq_true, decide_eq_true_eq] at hacc
    obtain ⟨⟨⟨⟨hh, he⟩, hn⟩, -⟩, hoff⟩ := hacc
    refine takes_encI (readBy_every he (by decide)) hh (by decide) (by decide) hn hoff fun w ho hr => ?_
    simp [parseCommon, ho, hr]
  | looph h a off n =>
    simp only [Instr.accepted, Bool.and_eq_true, Bool.or_eq_true, beq_iff_eq, decide_eq_true_eq] at hacc
    obtain ⟨⟨⟨⟨⟨⟨hh, he⟩, ha⟩, -⟩, hoff⟩, hn0⟩, hn⟩ := hacc
    have hn1 : fld (n - 1) 0 6 + 1 = n := by simp only [fld]; omega
    have hr : ReadBy e 0x0B parseCommon := by obtain rfl | rfl := he <;> exact readBy_common rfl (by decide) rfl
    refine takes_encJ hr hh (by omega) (xOk_lt ha) (by omega) fun w ho hr => ?_
    simp [parseCommon, ho, hr, rdX_of_xOk ha, hn1]
  | trap h c =>
    simp only [Instr.accepted, Bool.and_eq_true, decide_eq_true_eq] at hacc
    obtain ⟨⟨hh, he⟩, hc⟩ := hacc
    refine takes_packU (readBy_every he (by decide)) hh (by decide) hc (by decide) fun w ho hr => ?_
    simp [parseCommon, ho, hr]
  | csrr h d n =>
    simp only [Instr.accepted, Bool.and_eq_true] at hacc
    obtain ⟨⟨⟨hh, he⟩, hd⟩, hn⟩ := hacc
    have hd := opndField_dst hd
    refine takes_encI (readBy_every he (by decide)) hh hd.lt (by decide) (csrOk_lt hn) (by decide) fun w ho hr => ?_
    simp [parseCommon, ho, hr, hd.read]
  | csrw h a n =>
    simp only [Instr.accepted, Bool.and_eq_true] at hacc
    obtain ⟨⟨⟨hh, he⟩, ha⟩, hn⟩ := hacc
    have ha := opndField_src ha
    refine takes_encI (readBy_every he (by decide)) hh (by decide) ha.lt (csrOk_lt hn) (by decide) fun w ho hr => ?_
    simp [parseCommon, ho, hr, ha.read]
  | clz h d a | popc h d a =>
    simp only [Instr.accepted, Bool.and_eq_true] at hacc
    obtain ⟨⟨⟨hh, he⟩, hd⟩, ha⟩ := hacc
    have hd := opndField_dst hd
    have ha := opndField_src ha
    refine takes_encR (readBy_every he (by decide)) hh hd.lt ha.lt (by decide) (by decide) (by decide) fun w ho hr => ?_
    simp [parseCommon, ho, hr, parseAlu, hd.read, ha.read]
  | sel h d a b p =>
    simp only [Instr.accepted, Bool.and_eq_true] at hacc
    obtain ⟨⟨⟨⟨⟨hh, he⟩, hd⟩, ha⟩, hb⟩, hpk⟩ := hacc
    have hd := opndField_dst hd
    have ha := opndField_src ha
    have hb := opndField_src hb
    refine takes_encR (readBy_every he (by decide)) hh hd.lt ha.lt hb.lt (pBits_lt hpk) (by decide) fun w ho hr => ?_
    simp [parseCommon, ho, hr, parseAlu, hd.read, ha.read, hb.read, rdP_pBits hpk]
  | addi h d a v | andi h d a v | ori h d a v | xori h d a v | slti h d a v | sltiu h d a v =>
    simp only [Instr.accepted, Bool.and_eq_true] at hacc
    obtain ⟨⟨⟨⟨hh, he⟩, hd⟩, ha⟩, hv⟩ := hacc
    have hd := opndField_dst hd
    have ha := opndField_src ha
    refine takes_encI (readBy_every he (by decide)) hh hd.lt ha.lt (uN_lt ..) (by decide) fun w ho hr => ?_
    simp [parseCommon, ho, hr, parseAlui, hd.read, ha.read, sextN_uN (by decide) hv]
  | shli h d a n | shri h d a n | srai h d a n =>
    simp only [Instr.accepted, Bool.and_eq_true, decide_eq_true_eq] at hacc
    obtain ⟨⟨⟨⟨hh, he⟩, hd⟩, ha⟩, hn⟩ := hacc
    have hd := opndField_dst hd
    have ha := opndField_src ha
    have hf : fld n 0 6 = n := by simp only [fld]; omega
    refine takes_encI (readBy_every he (by decide)) hh hd.lt ha.lt (by omega) (by decide) fun w ho hr => ?_
    simp [parseCommon, ho, hr, parseAlui, hd.read, ha.read, hf]
  | lih h d v =>
    simp only [Instr.accepted, Bool.and_eq_true] at hacc
    obtain ⟨⟨⟨hh, he⟩, hd⟩, hv⟩ := hacc
    have hd := opndField_dst hd
    refine takes_packU (readBy_every he (by decide)) hh hd.lt (uN_lt ..) (by decide) fun w ho hr => ?_
    simp [parseCommon, ho, hr, hd.read, sextN_uN (by decide) hv]
  | cmp h c p a b =>
    simp only [Instr.accepted, Bool.and_eq_true] at hacc
    obtain ⟨⟨⟨⟨hh, he⟩, hpk⟩, ha⟩, hb⟩ := hacc
    have ha := opndField_src ha
    have hb := opndField_src hb
    have hc := c.bits_lt
    refine takes_encR (readBy_every he (by decide)) hh (pBits_lt hpk) ha.lt hb.lt (by decide) (by omega) fun w ho hr => ?_
    simp [parseCommon, ho, hr, ha.read, hb.read, rdP_pBits hpk, rdCond_bits]
  | cmpi h c p a v =>
    simp only [Instr.accepted, Bool.and_eq_true] at hacc
    obtain ⟨⟨⟨⟨hh, he⟩, hpk⟩, ha⟩, hv⟩ := hacc
    have ha := opndField_src ha
    have hc := c.bits_lt
    refine takes_encI (readBy_every he (by decide)) hh (pBits_lt hpk) ha.lt (uN_lt ..) (by omega) fun w ho hr => ?_
    simp [parseCommon, ho, hr, ha.read, rdP_pBits hpk, rdCond_bits, sextN_uN (by decide) hv]
  | pand h d a b | por h d a b | pxor h d a b | pandn h d a b =>
    simp only [Instr.accepted, Bool.and_eq_true] at hacc
    obtain ⟨⟨⟨⟨hh, he⟩, hd⟩, ha⟩, hb⟩ := hacc
    refine takes_encR (readBy_every he (by decide)) hh (pBits_lt hd) (pBits_lt ha) (pBits_lt hb) (by decide) (by decide)
      fun w ho hr => ?_
    simp [parseCommon, ho, hr, parsePlog, rdP_pBits hd, rdP_pBits ha, rdP_pBits hb]
  | pmov h d a =>
    simp only [Instr.accepted, Bool.and_eq_true] at hacc
    obtain ⟨⟨⟨hh, he⟩, hd⟩, ha⟩ := hacc
    refine takes_encR (readBy_every he (by decide)) hh (pBits_lt hd) (pBits_lt ha) (by decide) (by decide) (by decide)
      fun w ho hr => ?_
    simp [parseCommon, ho, hr, parsePlog, rdP_pBits hd, rdP_pBits ha]
  | pseti h d v =>
    simp only [Instr.accepted, Bool.and_eq_true] at hacc
    obtain ⟨⟨hh, he⟩, hd⟩ := hacc
    have hv := bitN_lt v
    have hb : (bitN v % 2 == 1) = v := by cases v <;> rfl
    refine takes_encR (readBy_every he (by decide)) hh (pBits_lt hd) (by decide) (by omega) (by decide) (by decide)
      fun w ho hr => ?_
    simp [parseCommon, ho, hr, parsePlog, rdP_pBits hd, hb]
  | ld h d a v n z =>
    simp only [Instr.accepted, Bool.and_eq_true, Bool.or_eq_true, beq_iff_eq, decide_eq_true_eq] at hacc
    obtain ⟨⟨⟨⟨⟨hh, he⟩, hd⟩, ha⟩, hv⟩, hn⟩ := hacc
    have hd := opndField_dst hd
    have ha := opndField_src ha
    have hz := bitN_lt z
    obtain ⟨hf, hb⟩ := fld_bit_above z (k := 2) hn rfl
    have hr : ReadBy e 0x16 parseCommon := by obtain (rfl | rfl) | rfl := he <;> exact readBy_common rfl (by decide) rfl
    refine takes_encI hr hh hd.lt ha.lt (uN_lt ..) (by omega) fun w ho hr => ?_
    simp only [parseCommon, ho, hr, hd.read, ha.read, sextN_uN (by decide) hv]
    simpa using ⟨hf, hb⟩
  | st h d a v n =>
    simp only [Instr.accepted, Bool.and_eq_true, Bool.or_eq_true, beq_iff_eq, decide_eq_true_eq] at hacc
    obtain ⟨⟨⟨⟨⟨hh, he⟩, hd⟩, ha⟩, hv⟩, hn⟩ := hacc
    have ha := opndField_src ha
    have hf : fld n 0 2 = n := by simp only [fld]; omega
    have hr : ReadBy e 0x17 parseCommon := by obtain (rfl | rfl) | rfl := he <;> exact readBy_common rfl (by decide) rfl
    refine takes_encI hr hh (xOk_lt hd) ha.lt (uN_lt ..) (by omega) fun w ho hr => ?_
    simp [parseCommon, ho, hr, rdX_of_xOk hd, ha.read, sextN_uN (by decide) hv, hf]
  | ldg h d a v n z =>
    simp only [Instr.accepted, Bool.and_eq_true, Bool.or_eq_true, beq_iff_eq, decide_eq_true_eq] at hacc
    obtain ⟨⟨⟨⟨⟨hh, he⟩, hd⟩, ha⟩, hv⟩, hn⟩ := hacc
    have hz := bitN_lt z
    obtain ⟨hf, hb⟩ := fld_bit_above z (k := 2) hn rfl
    have hr : ReadBy e 0x18 parseCommon := by obtain rfl | rfl := he <;> exact readBy_common rfl (by decide) rfl
    refine takes_encI hr hh (xOk_lt hd) (xOk_lt ha) (uN_lt ..) (by omega) fun w ho hr => ?_
    simp only [parseCommon, ho, hr, rdX_of_xOk hd, rdX_of_xOk ha, sextN_uN (by decide) hv]
    simpa using ⟨hf, hb⟩
  | stg h d a v n =>
    simp only [Instr.accepted, Bool.and_eq_true, Bool.or_eq_true, beq_iff_eq, decide_eq_true_eq] at hacc
    obtain ⟨⟨⟨⟨⟨hh, he⟩, hd⟩, ha⟩, hv⟩, hn⟩ := hacc
    have hf : fld n 0 2 = n := by simp only [fld]; omega
    have hr : ReadBy e 0x19 parseCommon := by obtain rfl | rfl := he <;> exact readBy_common rfl (by decide) rfl
    refine takes_encI hr hh (xOk_lt hd) (xOk_lt ha) (uN_lt ..) (by omega) fun w ho hr => ?_
    simp [parseCommon, ho, hr, rdX_of_xOk hd, rdX_of_xOk ha, sextN_uN (by decide) hv, hf]
  | blkh h sp => exact takes_blkh hacc hcl
  | _ => cases hg

end Sys2Proof
end

section
/-!
PROOF. The sequencer's words, the system range and the access half read as the instructions they are laid out for (R75, R76).
-/

namespace Sys2Proof

/-! ### The sequencer's own instructions (R122) -/

theorem readBy_sq {op : Nat} (hop : 0x40 ≤ op ∧ op < 0x4C) : ReadBy .sq op parseSq := by
  have h1 : ¬ op < 0x40 := by omega
  have h2 : ¬ 0xF0 ≤ op := by omega
  refine ⟨by decide, by omega, ?_, opcPrivileged_of_ne (by omega), fun w ho => by simp [parse, ho, h1, h2]⟩
  delta opcAssigned
  exact (if_neg h1).trans ((if_neg h2).trans (decide_eq_true hop.2))

theorem takes_sq {e : Eng} {i : Instr} (hg : Instr.opGroup i = .own .sq) (hacc : i.accepted e = true)
    (hcl : i.clean = true) : Takes e i (encode i) := by
  cases i with
  | ssig h sem n s =>
    simp only [Instr.accepted, Bool.and_eq_true, beq_iff_eq, decide_eq_true_eq] at hacc
    obtain ⟨⟨⟨⟨hh, rfl⟩, hsem⟩, -⟩, hn⟩ := hacc
    simp only [Instr.clean, Bool.and_eq_true] at hcl
    have hs := s.bits_lt
    have hsy := rdSync_low (w := sem * 32 + s.bits) hcl.2 (by omega)
    have hf : fld (sem * 32 + s.bits) 5 8 = sem := by simp only [fld]; omega
    refine takes_encI (readBy_sq (by decide)) hh (by decide) (by decide) hn (by omega) fun w ho hr => ?_
    simp [parseSq, ho, hr, hsy, hf]
  | sset h sem a =>
    simp only [Instr.accepted, Bool.and_eq_true, beq_iff_eq, decide_eq_true_eq] at hacc
    obtain ⟨⟨⟨hh, rfl⟩, hsem⟩, ha⟩ := hacc
    have hf : fld (sem * 32) 5 8 = sem := by simp only [fld]; omega
    refine takes_encI (readBy_sq (by decide)) hh (by decide) (xOk_lt ha) (by decide) (by omega) fun w ho hr => ?_
    simp [parseSq, ho, hr, rdX_of_xOk ha, hf]
  | sget h d sem =>
    simp only [Instr.accepted, Bool.and_eq_true, beq_iff_eq, decide_eq_true_eq] at hacc
    obtain ⟨⟨⟨hh, rfl⟩, hsem⟩, hd⟩ := hacc
    have hf : fld (sem * 32) 5 8 = sem := by simp only [fld]; omega
    refine takes_encI (readBy_sq (by decide)) hh (xOk_lt hd) (by decide) (by decide) (by omega) fun w ho hr => ?_
    simp [parseSq, ho, hr, rdX_of_xOk hd, hf]
  | mark h j m =>
    simp only [Instr.accepted, Bool.and_eq_true, beq_iff_eq, decide_eq_true_eq] at hacc
    obtain ⟨⟨⟨hh, rfl⟩, hj⟩, hm⟩ := hacc
    simp only [Instr.clean, Bool.and_eq_true, beq_iff_eq] at hcl
    have hf : fld j 0 3 = j ∧ fld m 1 5 * 2 = m := by simp only [fld]; omega
    refine takes_encI (readBy_sq (by decide)) hh (by decide) (by decide) (by omega) (by omega) fun w ho hr => ?_
    simp [parseSq, ho, hr, hf]
  | mjoin h j =>
    simp only [Instr.accepted, Bool.and_eq_true, beq_iff_eq, decide_eq_true_eq] at hacc
    obtain ⟨⟨hh, rfl⟩, hj⟩ := hacc
    have hf : fld j 0 3 = j := by simp only [fld]; omega
    refine takes_encI (readBy_sq (by decide)) hh (by decide) (by decide) (by decide) (by omega) fun w ho hr => ?_
    simp [parseSq, ho, hr, hf]
  | mpost h d a ch =>
    simp only [Instr.accepted, Bool.and_eq_true, beq_iff_eq, decide_eq_true_eq] at hacc
    obtain ⟨⟨⟨⟨hh, rfl⟩, hd⟩, ha⟩, hch⟩ := hacc
    have hf : fld ch 0 6 = ch := by simp only [fld]; omega
    refine takes_encI (readBy_sq (by decide)) hh (xOk_lt hd) (xOk_lt ha) (by omega) (by decide) fun w ho hr => ?_
    simp [parseSq, ho, hr, rdX_of_xOk hd, rdX_of_xOk ha, hf]
  | gjoin h ch | gleave h ch =>
    simp only [Instr.accepted, Bool.and_eq_true, beq_iff_eq, decide_eq_true_eq] at hacc
    obtain ⟨⟨hh, rfl⟩, hch⟩ := hacc
    have hf : fld ch 0 6 = ch := by simp only [fld]; omega
    refine takes_encI (readBy_sq (by decide)) hh (by decide) (by decide) (by omega) (by decide) fun w ho hr => ?_
    simp [parseSq, ho, hr, hf]
  | garv h d ch s | gbar h d ch s =>
    simp only [Instr.accepted, Bool.and_eq_true, beq_iff_eq, decide_eq_true_eq] at hacc
    obtain ⟨⟨⟨hh, rfl⟩, hd⟩, hch⟩ := hacc
    simp only [Instr.clean, Bool.and_eq_true] at hcl
    have hs := s.bits_lt
    have hsy := rdSync_low (w := s.bits) hcl.2 (by omega)
    have hf : fld ch 0 6 = ch := by simp only [fld]; omega
    refine takes_encI (readBy_sq (by decide)) hh (xOk_lt hd) (by decide) (by omega) (by omega) fun w ho hr => ?_
    simp [parseSq, ho, hr, rdX_of_xOk hd, hsy, hf]
  | ckpt h a n =>
    simp only [Instr.accepted, Bool.and_eq_true, beq_iff_eq, decide_eq_true_eq] at hacc
    obtain ⟨⟨⟨⟨hh, rfl⟩, ha⟩, -⟩, hn⟩ := hacc
    refine takes_encI (readBy_sq (by decide)) hh (by decide) (xOk_lt ha) hn (by decide) fun w ho hr => ?_
    simp [parseSq, ho, hr, rdX_of_xOk ha]
  | planeQuery h d a | planeStage h d a | planeDrop h d a =>
    simp only [Instr.accepted, Bool.and_eq_true, beq_iff_eq] at hacc
    obtain ⟨⟨⟨hh, rfl⟩, hd⟩, ha⟩ := hacc
    refine takes_encI (readBy_sq (by decide)) hh (xOk_lt hd) (xOk_lt ha) (by decide) (by decide) fun w ho hr => ?_
    simp [parseSq, ho, hr, rdX_of_xOk hd, rdX_of_xOk ha, fld]
  | _ => cases hg

/-! ### The system range (R131) -/

theorem readBy_sys {e : Eng} {op : Nat} (he : e = .sq ∨ e = .wick) (hop : 0xF0 ≤ op ∧ op < 0xF8)
    (h0 : e = .sq → op ≠ 0xF0) : ReadBy e op parseSys := by
  have h1 : ¬ op < 0x40 := by omega
  have hne : e ≠ .we := by obtain rfl | rfl := he <;> decide
  refine ⟨hne, by omega, ?_, ?_, fun w ho => by simp [parse, hne, ho, h1, hop.1]⟩
  · rw [opcAssigned_system hne hop.1]
    obtain rfl | rfl := he <;> simp [hop.2]
  · obtain rfl | rfl := he
    · exact opcPrivileged_of_ne (h0 rfl)
    · simp [opcPrivileged]

theorem takes_sys {e : Eng} {i : Instr} (hg : Instr.opGroup i = .sys) (hacc : i.accepted e = true) : Takes e i (encode i) := by
  cases i with
  | rft h k =>
    simp only [Instr.accepted, Bool.and_eq_true, beq_iff_eq] at hacc
    obtain ⟨hh, rfl⟩ := hacc
    have hk := bitN_lt k
    have hf : (fld (bitN k) 0 1 == 1) = k := by cases k <;> rfl
    refine takes_encR (readBy_sys (.inr rfl) (by decide) nofun) hh (by decide) (by decide) (by decide) (by decide) (by omega)
      fun w ho hr => ?_
    simp [parseSys, ho, hr, hf]
  | resume h a =>
    simp only [Instr.accepted, Bool.and_eq_true, Bool.or_eq_true, beq_iff_eq] at hacc
    obtain ⟨⟨hh, he⟩, ha⟩ := hacc
    refine takes_encR (readBy_sys he (by decide) fun _ => by decide) hh (by decide) (xOk_lt ha) (by decide) (by decide) (by decide)
      fun w ho hr => ?_
    simp [parseSys, ho, hr, rdX_of_xOk ha]
  | ctxsv h a b =>
    simp only [Instr.accepted, Bool.and_eq_true, Bool.or_eq_true, beq_iff_eq] at hacc
    obtain ⟨⟨⟨hh, he⟩, ha⟩, hb⟩ := hacc
    refine takes_encR (readBy_sys he (by decide) fun _ => by decide) hh (by decide) (xOk_lt ha) (xOk_lt hb) (by decide) (by decide)
      fun w ho hr => ?_
    simp [parseSys, ho, hr, rdX_of_xOk ha, rdX_of_xOk hb]
  | ctxld h d a b =>
    simp only [Instr.accepted, Bool.and_eq_true, Bool.or_eq_true, beq_iff_eq] at hacc
    obtain ⟨⟨⟨⟨hh, he⟩, hd⟩, ha⟩, hb⟩ := hacc
    refine takes_encR (readBy_sys he (by decide) fun _ => by decide) hh (xOk_lt hd) (xOk_lt ha) (xOk_lt hb) (by decide) (by decide)
      fun w ho hr => ?_
    simp [parseSys, ho, hr, rdX_of_xOk hd, rdX_of_xOk ha, rdX_of_xOk hb]
  | tlbiDataAll h a g | tlbiDataPage h a g | tlbiInstrAll h a g | tlbiInstrPage h a g =>
    simp only [Instr.accepted, Bool.and_eq_true, Bool.or_eq_true, beq_iff_eq] at hacc
    obtain ⟨⟨hh, he⟩, ha⟩ := hacc
    have hg := bitN_lt g
    refine takes_encR (readBy_sys he (by decide) fun _ => by decide) hh (by decide) (xOk_lt ha) (by decide) (by decide) (by omega)
      fun w ho hr => ?_
    cases g <;> simp [parseSys, ho, hr, rdX_of_xOk ha, fld, bitN]
  | keyopLoad h d a b | keyopDestroy h d a b | keyopQuery h d a b =>
    simp only [Instr.accepted, Bool.and_eq_true, Bool.or_eq_true, beq_iff_eq] at hacc
    obtain ⟨⟨⟨⟨hh, he⟩, hd⟩, ha⟩, hb⟩ := hacc
    refine takes_encR (readBy_sys he (by decide) fun _ => by decide) hh (xOk_lt hd) (xOk_lt ha) (xOk_lt hb) (by decide) (by decide)
      fun w ho hr => ?_
    simp [parseSys, ho, hr, rdX_of_xOk hd, rdX_of_xOk ha, rdX_of_xOk hb, fld]
  | capw h ch g a b =>
    simp only [Instr.accepted, Bool.and_eq_true, Bool.or_eq_true, beq_iff_eq, decide_eq_true_eq] at hacc
    obtain ⟨⟨⟨⟨hh, he⟩, hch⟩, ha⟩, hb⟩ := hacc
    have hg := bitN_lt g
    obtain ⟨hf, hbit⟩ := fld_bit_above g (k := 6) hch rfl
    refine takes_encR (readBy_sys he (by decide) fun _ => by decide) hh (by decide) (xOk_lt ha) (xOk_lt hb) (by decide) (by omega)
      fun w ho hr => ?_
    simp only [parseSys, ho, hr, rdX_of_xOk ha, rdX_of_xOk hb]
    simpa using ⟨hf, hbit⟩
  | tnset h g a b =>
    simp only [Instr.accepted, Bool.and_eq_true, Bool.or_eq_true, beq_iff_eq] at hacc
    obtain ⟨⟨⟨hh, he⟩, ha⟩, hb⟩ := hacc
    have hg := bitN_lt g
    have hf : (fld (bitN g) 0 1 == 1) = g := by cases g <;> rfl
    refine takes_encR (readBy_sys he (by decide) fun _ => by decide) hh (by decide) (xOk_lt ha) (xOk_lt hb) (by decide) (by omega)
      fun w ho hr => ?_
    simp [parseSys, ho, hr, rdX_of_xOk ha, rdX_of_xOk hb, hf]
  | _ => cases hg

/-! ### The access half (R212) -/

theorem readBy_va {op : Nat} (hop : 0x40 ≤ op ∧ op < 0x54) : ReadBy .va op parseVa := by
  have h1 : ¬ op < 0x40 := by omega
  have h2 : ¬ 0xF0 ≤ op := by omega
  refine ⟨by decide, by omega, ?_, opcPrivileged_of_ne (by omega), fun w ho => by simp [parse, ho, h1, h2]⟩
  delta opcAssigned
  exact (if_neg h1).trans ((if_neg h2).trans (decide_eq_true hop.2))

/-- Mode bits 0 to 2 and ROT of an access word. -/
theorem fld_modes (a b c r : Bool) :
    (fld (bitN a + bitN b * 2 + bitN c * 4 + bitN r * 8) 0 1 == 1) = a
      ∧ (fld (bitN a + bitN b * 2 + bitN c * 4 + bitN r * 8) 1 1 == 1) = b
      ∧ (fld (bitN a + bitN b * 2 + bitN c * 4 + bitN r * 8) 2 1 == 1) = c
      ∧ (fld (bitN a + bitN b * 2 + bitN c * 4 + bitN r * 8) 3 1 == 1) = r := by
  cases a <;> cases b <;> cases c <;> cases r <;> decide

/-- The mode bits of an access word, as its encoding leaves out the ones that are clear. -/
theorem fld_modes_of_eq {m : Nat} (a b c r : Bool) (hm : m = bitN a + bitN b * 2 + bitN c * 4 + bitN r * 8) :
    m < 16 ∧ (fld m 0 1 == 1) = a ∧ (fld m 1 1 == 1) = b ∧ (fld m 2 1 == 1) = c ∧ (fld m 3 1 == 1) = r := by
  have ha := bitN_lt a
  have hb := bitN_lt b
  have hc := bitN_lt c
  have hr := bitN_lt r
  exact ⟨by omega, hm ▸ fld_modes a b c r⟩

/-- A number of two bits, and ROT. -/
theorem fld_two_rot {n : Nat} (r : Bool) (hn : n < 4) :
    n + bitN r * 8 < 16 ∧ fld (n + bitN r * 8) 0 2 = n ∧ (fld (n + bitN r * 8) 3 1 == 1) = r := by
  have hr := bitN_lt r
  have h3 : fld (n + bitN r * 8) 3 1 = bitN r := by simp only [fld]; omega
  refine ⟨by omega, by simp only [fld]; omega, ?_⟩
  rw [h3, bitN_beq_one]

theorem rdQ_bits {q : Nat} (pk : Bool) (hq : q < 64) :
    rdQ ((if pk then 256 else 192) + q) = some (q, pk) ∧ (if pk then 256 else 192) + q < 2 ^ 9 := by
  cases pk with
  | false =>
    refine ⟨?_, by simp; omega⟩
    rw [rdQ, if_pos (by simp; omega)]
    simp
  | true =>
    refine ⟨?_, by simp; omega⟩
    rw [rdQ, if_neg (by simp), if_pos (by simp; omega)]
    simp

theorem takes_va {e : Eng} {i : Instr} (hg : Instr.opGroup i = .own .va) (hacc : i.accepted e = true) :
    Takes e i (encode i) := by
  cases i with
  | sdef h d a v | slvl h d a v =>
    simp only [Instr.accepted, Bool.and_eq_true, beq_iff_eq, decide_eq_true_eq] at hacc
    obtain ⟨⟨⟨⟨hh, rfl⟩, hd⟩, ha⟩, hv⟩ := hacc
    refine takes_encI (readBy_va (by decide)) hh (stBits_lt hd) (xOk_lt ha) (uN_lt ..) (by decide) fun w ho hr => ?_
    simp [parseVa, ho, hr, rdSt_stBits hd, rdX_of_xOk ha, sextN_uN (by decide) hv]
  | sfib h a b l =>
    simp only [Instr.accepted, Bool.and_eq_true, beq_iff_eq, decide_eq_true_eq] at hacc
    obtain ⟨⟨⟨⟨hh, rfl⟩, ha⟩, hb⟩, hl⟩ := hacc
    obtain ⟨hm, h0, h3⟩ := fld_two_rot a.rot hl
    refine takes_encR (readBy_va (by decide)) hh (by decide) (stBits_lt ha) (xOk_lt hb) (by decide) (by omega) fun w ho hr => ?_
    simp [parseVa, ho, hr, h0, h3, rdStR_stBits ha, rdX_of_xOk hb]
  | sint h d a b | suni h d a b =>
    simp only [Instr.accepted, Bool.and_eq_true, beq_iff_eq, decide_eq_true_eq] at hacc
    obtain ⟨⟨⟨⟨hh, rfl⟩, hd⟩, ha⟩, hb⟩ := hacc
    refine takes_encR (readBy_va (by decide)) hh (stBits_lt hd) (stBits_lt ha) (stBits_lt hb) (by decide) (by decide)
      fun w ho hr => ?_
    simp [parseVa, ho, hr, rdSt_stBits hd, rdSt_stBits ha, rdSt_stBits hb]
  | sskip h a b | mrgi h a b | prf h a b =>
    simp only [Instr.accepted, Bool.and_eq_true, beq_iff_eq, decide_eq_true_eq] at hacc
    obtain ⟨⟨⟨hh, rfl⟩, ha⟩, hb⟩ := hacc
    obtain ⟨hm, -, -, -, h3⟩ := fld_modes_of_eq (m := bitN a.rot * 8) false false false a.rot (by simp [bitN])
    refine takes_encR (readBy_va (by decide)) hh (by decide) (stBits_lt ha) (xOk_lt hb) (by decide) (by omega) fun w ho hr => ?_
    simp [parseVa, ho, hr, h3, rdStR_stBits ha, rdX_of_xOk hb]
  | srel h a =>
    simp only [Instr.accepted, Bool.and_eq_true, beq_iff_eq, decide_eq_true_eq] at hacc
    obtain ⟨⟨hh, rfl⟩, ha⟩ := hacc
    obtain ⟨hm, -, -, -, h3⟩ := fld_modes_of_eq (m := bitN a.rot * 8) false false false a.rot (by simp [bitN])
    refine takes_encR (readBy_va (by decide)) hh (by decide) (stBits_lt ha) (by decide) (by decide) (by omega) fun w ho hr => ?_
    simp [parseVa, ho, hr, h3, rdStR_stBits ha]
  | spos h d a s =>
    simp only [Instr.accepted, Bool.and_eq_true, beq_iff_eq, decide_eq_true_eq] at hacc
    obtain ⟨⟨⟨hh, rfl⟩, hd⟩, ha⟩ := hacc
    obtain ⟨hm, -, -, h2, h3⟩ := fld_modes_of_eq (m := bitN s * 4 + bitN a.rot * 8) false false s a.rot (by simp [bitN])
    refine takes_encR (readBy_va (by decide)) hh (xOk_lt hd) (stBits_lt ha) (by decide) (by decide) (by omega) fun w ho hr => ?_
    simp [parseVa, ho, hr, h2, h3, rdStR_stBits ha, rdX_of_xOk hd]
  | scrd h d a m =>
    simp only [Instr.accepted, Bool.and_eq_true, beq_iff_eq, decide_eq_true_eq] at hacc
    obtain ⟨⟨⟨⟨hh, rfl⟩, hd⟩, ha⟩, hl⟩ := hacc
    obtain ⟨hm, h0, h3⟩ := fld_two_rot a.rot hl
    refine takes_encR (readBy_va (by decide)) hh (xOk_lt hd) (stBits_lt ha) (by decide) (by decide) (by omega) fun w ho hr => ?_
    simp [parseVa, ho, hr, h0, h3, rdStR_stBits ha, rdX_of_xOk hd]
  | ldq h q a b p wd kp s =>
    simp only [Instr.accepted, Bool.and_eq_true, beq_iff_eq, decide_eq_true_eq] at hacc
    obtain ⟨⟨⟨⟨⟨hh, rfl⟩, hq⟩, ha⟩, hb⟩, hpo⟩ := hacc
    obtain ⟨hm, h0, h1, h2, h3⟩ := fld_modes_of_eq wd kp s a.rot rfl
    refine takes_encR (readBy_va (by decide)) hh (by omega) (stBits_lt ha) (xOk_lt hb) (poBits_lt hpo) (by omega)
      fun w ho hr => ?_
    simp [parseVa, ho, hr, h0, h1, h2, h3, rdStR_stBits ha, rdX_of_xOk hb, rdPo_poBits hpo, rdQd_add (show q < 64 by omega)]
  | ldqc h q a b p kp =>
    simp only [Instr.accepted, Bool.and_eq_true, beq_iff_eq, decide_eq_true_eq] at hacc
    obtain ⟨⟨⟨⟨⟨hh, rfl⟩, hq⟩, ha⟩, hb⟩, hpo⟩ := hacc
    obtain ⟨hm, -, h1, -, h3⟩ := fld_modes_of_eq (m := bitN kp * 2 + bitN a.rot * 8) false kp false a.rot (by simp [bitN])
    refine takes_encR (readBy_va (by decide)) hh (by omega) (stBits_lt ha) (xOk_lt hb) (poBits_lt hpo) (by omega)
      fun w ho hr => ?_
    simp [parseVa, ho, hr, h1, h3, rdStR_stBits ha, rdX_of_xOk hb, rdPo_poBits hpo, rdQd_add (show q < 64 by omega)]
  | ldqa h q a b p kp s =>
    simp only [Instr.accepted, Bool.and_eq_true, beq_iff_eq, decide_eq_true_eq] at hacc
    obtain ⟨⟨⟨⟨⟨hh, rfl⟩, hq⟩, ha⟩, hb⟩, hpo⟩ := hacc
    obtain ⟨hm, -, h1, h2, h3⟩ := fld_modes_of_eq (m := bitN kp * 2 + bitN s * 4 + bitN a.rot * 8) false kp s a.rot
      (by simp [bitN])
    refine takes_encR (readBy_va (by decide)) hh (by omega) (stBits_lt ha) (xOk_lt hb) (poBits_lt hpo) (by omega)
      fun w ho hr => ?_
    simp [parseVa, ho, hr, h1, h2, h3, rdStR_stBits ha, rdX_of_xOk hb, rdPo_poBits hpo, rdQd_add (show q < 64 by omega)]
  | stq h d q pk b nar sat =>
    simp only [Instr.accepted, Bool.and_eq_true, beq_iff_eq, decide_eq_true_eq] at hacc
    obtain ⟨⟨⟨⟨⟨hh, rfl⟩, hd⟩, -⟩, hq⟩, hb⟩ := hacc
    obtain ⟨hqr, hql⟩ := rdQ_bits pk (show q < 64 by omega)
    obtain ⟨hm, h0, h1, -, h3⟩ := fld_modes_of_eq (m := bitN nar + bitN sat * 2 + bitN d.rot * 8) nar sat false d.rot
      (by simp [bitN])
    refine takes_encR (readBy_va (by decide)) hh (stBits_lt hd) hql (xOk_lt hb) (by decide) (by omega) fun w ho hr => ?_
    simp only [parseVa, ho, hr, h0, h1, h3, rdStR_stBits hd, rdX_of_xOk hb, hqr]
    rfl
  | lls h a b c =>
    simp only [Instr.accepted, Bool.and_eq_true, beq_iff_eq] at hacc
    obtain ⟨⟨⟨⟨hh, rfl⟩, ha⟩, hb⟩, hc⟩ := hacc
    refine takes_encR (readBy_va (by decide)) hh (by decide) (xOk_lt ha) (xOk_lt hb) (xOk_lt hc) (by decide) fun w ho hr => ?_
    simp [parseVa, ho, hr, rdX_of_xOk ha, rdX_of_xOk hb, rdX_of_xOk hc]
  | mrgb h q q2 v =>
    simp only [Instr.accepted, Bool.and_eq_true, beq_iff_eq, decide_eq_true_eq] at hacc
    obtain ⟨⟨⟨hh, rfl⟩, hq⟩, hq2⟩ := hacc
    have hv := bitN_lt v
    obtain ⟨hf, hb⟩ := fld_bit_above v (k := 3) hq2 rfl
    refine takes_encR (readBy_va (by decide)) hh (by omega) (by decide) (by decide) (by decide) (by omega) fun w ho hr => ?_
    simp only [parseVa, ho, hr, rdQd_add (show q < 64 by omega)]
    simpa using ⟨hf, hb⟩
  | mrge h b p =>
    simp only [Instr.accepted, Bool.and_eq_true, beq_iff_eq] at hacc
    obtain ⟨⟨⟨hh, rfl⟩, hb⟩, hpo⟩ := hacc
    refine takes_encR (readBy_va (by decide)) hh (by decide) (by decide) (xOk_lt hb) (poBits_lt hpo) (by decide) fun w ho hr => ?_
    simp [parseVa, ho, hr, rdX_of_xOk hb, rdPo_poBits hpo]
  | bfxp h q a b bp =>
    simp only [Instr.accepted, Bool.and_eq_true, beq_iff_eq, decide_eq_true_eq] at hacc
    obtain ⟨⟨⟨⟨⟨hh, rfl⟩, hq⟩, ha⟩, hb⟩, hbp⟩ := hacc
    have hf : fld bp 0 3 = bp ∧ fld bp 3 1 = 0 := by simp only [fld]; omega
    refine takes_encR (readBy_va (by decide)) hh (by omega) (xOk_lt ha) (xOk_lt hb) (by decide) (by omega) fun w ho hr => ?_
    simp [parseVa, ho, hr, hf, rdX_of_xOk ha, rdX_of_xOk hb, rdQd_add (show q < 64 by omega)]
  | bfxpSet h a bp =>
    simp only [Instr.accepted, Bool.and_eq_true, beq_iff_eq, decide_eq_true_eq] at hacc
    obtain ⟨⟨⟨hh, rfl⟩, ha⟩, hbp⟩ := hacc
    have hf : fld (bp + 8) 0 3 = bp ∧ fld (bp + 8) 3 1 = 1 := by simp only [fld]; omega
    refine takes_encR (readBy_va (by decide)) hh (by decide) (xOk_lt ha) (by decide) (by decide) (by omega) fun w ho hr => ?_
    simp [parseVa, ho, hr, hf, rdX_of_xOk ha]
  | loopt h a off k =>
    simp only [Instr.accepted, Bool.and_eq_true, beq_iff_eq, decide_eq_true_eq] at hacc
    obtain ⟨⟨⟨⟨⟨⟨hh, rfl⟩, ha⟩, -⟩, hoff⟩, hk0⟩, hk⟩ := hacc
    have hr := bitN_lt a.rot
    obtain ⟨hf, hb⟩ := fld_bit_above a.rot (v := k - 1) (k := 7) (by omega) rfl
    have hk1 : k - 1 + 1 = k := by omega
    refine takes_encJ (readBy_va (by decide)) hh (by omega) (stBits_lt ha) (by omega) fun w ho hr => ?_
    simp only [parseVa, ho, hr, rdSt_stBits ha]
    have hf' : fld (k - 1 + bitN a.rot * 128) 0 7 + 1 = k := by rw [← hk1]; exact congrArg (· + 1) hf
    have hb' : (fld (k - 1 + bitN a.rot * 128) 7 1 == 1) = a.rot := hb
    rw [hf', hb']
    rfl
  | _ => cases hg

end Sys2Proof
end

section
/-!
PROOF. The execute half's words read as the instructions they are laid out for (R71, R72, R231).
-/

namespace Sys2Proof

/-! ### Format fields -/

/-- The format and modifier fields fit their places in a word. -/
structure VFmt.Fits (f : VFmt) : Prop where
  esz : f.esz < 4
  amod : f.amod < 8
  bmod : f.bmod < 8
  fmt : f.fmt < 4

/-- The V-form with these operands and format fields. -/
def vform (d a b c : Nat) (f : VFmt) : VForm := ⟨d, a, b, c, f.esz, f.amod, f.bmod, f.fmt, bitN f.sat⟩

theorem modOk_lt {flt : Bool} {z n m : Nat} (h : modOk flt z n m = true) : m < 8 := by
  unfold modOk at h
  split at h
  all_goals first | decide | cases h

theorem fltOk_lt {f : VFmt} {wid : Bool} (h : f.fltOk wid = true) : f.esz < 2 ∧ f.fmt < 2 := by
  simp only [VFmt.fltOk, Bool.or_eq_true, Bool.and_eq_true, beq_iff_eq, decide_eq_true_eq] at h
  omega

theorem modsOk_lt {f : VFmt} {flt : Bool} (h : f.modsOk flt = true) : f.amod < 8 ∧ f.bmod < 8 := by
  simp only [VFmt.modsOk, Bool.and_eq_true] at h
  exact ⟨modOk_lt h.1, modOk_lt h.2⟩

theorem fits_of_flt {f : VFmt} {wid : Bool} (h : f.fltOk wid = true) (hm : f.modsOk true = true) : f.Fits := by
  obtain ⟨hz, hf⟩ := fltOk_lt h
  obtain ⟨ha, hb⟩ := modsOk_lt hm
  exact ⟨by omega, ha, hb, by omega⟩

section
variable {f : VFmt} {d a b c : Nat}

/-- A word's format fields, where those that its entry does not use are zero. -/
theorem vf_vform {am bm st : Bool} (ha : am = false → f.amod = 0) (hb : bm = false → f.bmod = 0)
    (hs : st = false → f.sat = false) : vf (vform d a b c f) am bm st = f := by
  obtain ⟨z, fm, fa, fb, fs⟩ := f
  simp only [vf, vform, VFmt.mk.injEq, true_and, bitN_beq_one]
  refine ⟨?_, ?_, ?_⟩
  · cases am with
    | true => rfl
    | false => exact (ha rfl).symm
  · cases bm with
    | true => rfl
    | false => exact (hb rfl).symm
  · cases st with
    | true => rfl
    | false => exact (hs rfl).symm

theorem VFmt.of_flt2 (h : f.flt2 = true) : f.Fits ∧ vf (vform d a b c f) true true false = f := by
  simp only [VFmt.flt2, Bool.and_eq_true, Bool.not_eq_true'] at h
  obtain ⟨⟨hf, hm⟩, hs⟩ := h
  exact ⟨fits_of_flt hf hm, vf_vform nofun nofun fun _ => hs⟩

theorem VFmt.of_flt1 (h : f.flt1 = true) : f.Fits ∧ vf (vform d a b c f) true false false = f := by
  simp only [VFmt.flt1, Bool.and_eq_true, Bool.not_eq_true', beq_iff_eq] at h
  obtain ⟨⟨⟨hf, hm⟩, hb⟩, hs⟩ := h
  exact ⟨fits_of_flt hf hm, vf_vform nofun (fun _ => hb) fun _ => hs⟩

theorem VFmt.of_f32a (h : f.f32a = true) : f.Fits ∧ vf (vform d a b c f) true false false = f := by
  simp only [VFmt.f32a, Bool.and_eq_true] at h
  exact VFmt.of_flt1 h.2

theorem VFmt.of_int2 {st : Bool} (h : f.int2 st = true) : f.Fits ∧ vf (vform d a b c f) true true st = f := by
  simp only [VFmt.int2, Bool.and_eq_true, Bool.or_eq_true, Bool.not_eq_true', decide_eq_true_eq] at h
  obtain ⟨⟨⟨hz, hf⟩, hm⟩, hs⟩ := h
  obtain ⟨ha, hb⟩ := modsOk_lt hm
  exact ⟨⟨hz, ha, hb, by omega⟩, vf_vform nofun nofun fun h => hs.resolve_left (by simp [h])⟩

theorem VFmt.of_int1 {st : Bool} (h : f.int1 st = true) : f.Fits ∧ vf (vform d a b c f) true false st = f := by
  simp only [VFmt.int1, VFmt.int2, Bool.and_eq_true, Bool.or_eq_true, Bool.not_eq_true', decide_eq_true_eq, beq_iff_eq] at h
  obtain ⟨⟨⟨⟨hz, hf⟩, hm⟩, hs⟩, hb⟩ := h
  obtain ⟨ha, -⟩ := modsOk_lt hm
  exact ⟨⟨hz, ha, by omega, by omega⟩, vf_vform nofun (fun _ => hb) fun h => hs.resolve_left (by simp [h])⟩

theorem VFmt.of_e32 (h : f.e32 = true) : f.Fits ∧ vf (vform d a b c f) false false false = f := by
  simp only [VFmt.e32, Bool.and_eq_true, Bool.not_eq_true', beq_iff_eq, decide_eq_true_eq] at h
  obtain ⟨⟨⟨⟨hz, hf⟩, ha⟩, hb⟩, hs⟩ := h
  exact ⟨⟨by omega, by omega, by omega, by omega⟩, vf_vform (fun _ => ha) (fun _ => hb) fun _ => hs⟩

end

/-! ### The execute half (R231) -/

theorem readBy_ve {op : Nat} (hop : 0x40 ≤ op ∧ op < 0x72) : ReadBy .ve op parseVe := by
  have h1 : ¬ op < 0x40 := by omega
  have h2 : ¬ 0xF0 ≤ op := by omega
  refine ⟨by decide, by omega, ?_, opcPrivileged_of_ne (by omega), fun w ho => by simp [parse, ho, h1, h2]⟩
  delta opcAssigned
  exact (if_neg h1).trans ((if_neg h2).trans (decide_eq_true hop.2))

theorem takes_vform {op d a b c : Nat} {f : VFmt} {h : Head} {i : Instr} (hop : 0x40 ≤ op ∧ op < 0x72) (hh : h.ok .ve = true)
    (hd : d < 2 ^ 8) (ha : a < 2 ^ 8) (hb : b < 2 ^ 8) (hc : c < 2 ^ 8) (hf : f.Fits)
    (hp : ∀ w, opcOf w = op → unV w = vform d a b c f → parseVe h w = some i) : Takes .ve i (encV op h d a b c f) :=
  takes_encV (readBy_ve hop) hh hd ha hb hc hf.esz hf.amod hf.bmod hf.fmt hp

theorem rm_lt (r : Option Rm) : rmBits r < 2 ^ 8 := by have := rmBits_lt r; omega

/-- A vector compare's destination and condition read from D and C. -/
theorem rdCmpDst_bits {d : CmpDst} (c : VCond) (h : d.ok = true) :
    d.bits < 2 ^ 8 ∧ c.bits + d.kind * 8 < 2 ^ 8 ∧ rdCmpDst d.bits (c.bits + d.kind * 8) = some d
      ∧ vcondOf (c.bits + d.kind * 8) = c := by
  have hc : c.bits < 8 := by cases c <;> decide
  have hv : vcondOf (c.bits + d.kind * 8) = c := by
    unfold vcondOf
    rw [Nat.add_mul_mod_self_right]
    cases c <;> rfl
  cases d with
  | mask d =>
    have hf : fld (c.bits + CmpDst.kind (.mask d) * 8) 3 2 = 0 := by simp only [CmpDst.kind, fld]; omega
    exact ⟨VDst.bits_lt h, by simp only [CmpDst.kind]; omega, by simp [rdCmpDst, hf, CmpDst.bits, rdVD_bits h], hv⟩
  | any p =>
    have hp := pOk_lt h
    have hf : fld (c.bits + CmpDst.kind (.any p) * 8) 3 2 = 1 := by simp only [CmpDst.kind, fld]; omega
    have hm : p % 128 = p := by omega
    exact ⟨by simp only [CmpDst.bits]; omega, by simp only [CmpDst.kind]; omega, by simp [rdCmpDst, hf, CmpDst.bits, hm], hv⟩
  | all p =>
    have hp := pOk_lt h
    have hf : fld (c.bits + CmpDst.kind (.all p) * 8) 3 2 = 2 := by simp only [CmpDst.kind, fld]; omega
    have hm : p % 128 = p := by omega
    exact ⟨by simp only [CmpDst.bits]; omega, by simp only [CmpDst.kind]; omega, by simp [rdCmpDst, hf, CmpDst.bits, hm], hv⟩

theorem takes_vcvt {e : Eng} {h : Head} {d : VDst} {a : VSrc} {src : Fmt} {ti : Bool} {r : Option Rm} {f : VFmt}
    (hacc : Instr.accepted e (.vcvt h d a src ti r f) = true) :
    Takes e (.vcvt h d a src ti r f) (encode (.vcvt h d a src ti r f)) := by
  simp only [Instr.accepted, VFmt.cvtOk, Bool.and_eq_true, beq_iff_eq, bne_iff_ne, decide_eq_true_eq] at hacc
  obtain ⟨⟨⟨⟨hh, rfl⟩, hd⟩, ha⟩, ⟨⟨⟨⟨⟨⟨h1, h2⟩, hz⟩, hfm⟩, hm⟩, -⟩, hpart⟩, hsat⟩ := hacc
  have hb : f.bmod < 8 := by
    have hns : 32 / src.bits / lanesN f.esz ≤ 8 := (Nat.div_le_self _ _).trans (by cases src <;> decide)
    split at hpart
    · have := eq_of_beq hpart; omega
    · have := of_decide_eq_true hpart; omega
  have hfmt : f.fmt < 4 := by
    split at hfm
    · have := of_decide_eq_true hfm; omega
    · simp only [Bool.or_eq_true, Bool.and_eq_true, beq_iff_eq, decide_eq_true_eq] at hfm
      obtain hfm | hfm := hfm
      · have := fltOk_lt hfm; omega
      · omega
  have hs := cvtBits_lt src
  have ht := bitN_lt ti
  have hr := rmBits_lt r
  have hf : fld (cvtBits src * 16 + bitN ti * 8 + rmBits r) 4 4 = cvtBits src
      ∧ fld (cvtBits src * 16 + bitN ti * 8 + rmBits r) 3 1 = bitN ti
      ∧ fld (cvtBits src * 16 + bitN ti * 8 + rmBits r) 0 3 = rmBits r := by simp only [fld]; omega
  have hv : ∀ c, vf (vform d.bits a.bits 0 c f) true true (ti && !src.isFlt && decide (32 / src.bits < lanesN f.esz)) = f := by
    refine fun c => vf_vform nofun nofun fun hn => ?_
    rw [hn] at hsat
    simpa using hsat
  refine takes_vform (by decide) hh (VDst.bits_lt hd) (VSrc.bits_lt ha) (by decide) (by omega) ⟨hz, modOk_lt hm, hb, hfmt⟩
    fun w ho hr => ?_
  have hv := hv (cvtBits src * 16 + bitN ti * 8 + rmBits r)
  simp only [parseVe, ho, hr]
  simp only [vform] at hv ⊢
  simp [hf, rdCvt_cvtBits h1 h2, rdVD_bits hd, rdVS_bits ha, rdRm_rmBits, bitN_beq_one]
  exact hv

theorem takes_vli {e : Eng} {h : Head} {d : VDst} {v z : Nat} (hacc : Instr.accepted e (.vli h d v z) = true) :
    Takes e (.vli h d v z) (encode (.vli h d v z)) := by
  simp only [Instr.accepted, Bool.and_eq_true, beq_iff_eq, decide_eq_true_eq] at hacc
  obtain ⟨⟨⟨⟨hh, rfl⟩, hd⟩, hz⟩, hv⟩ := hacc
  have hlt : v < 2 ^ 32 := hv.trans_le (Nat.pow_le_pow_right (by decide) (Nat.div_le_self _ _))
  have hsum : fld v 24 8 * 2 ^ 24 + fld v 16 8 * 2 ^ 16 + fld v 8 8 * 2 ^ 8 + fld v 5 3 * 2 ^ 5 + fld v 2 3 * 2 ^ 2 + fld v 0 2
      = v := by simp only [fld]; omega
  refine takes_vform (by decide) hh (VDst.bits_lt hd) (fld_lt ..) (fld_lt ..) (fld_lt ..)
    ⟨hz, fld_lt .., fld_lt .., fld_lt ..⟩ fun w ho hr => ?_
  simp only [parseVe, ho, hr, vform, hsum, Nat.mod_eq_of_lt hv, rdVD_bits hd]
  rfl

theorem immOk_succ {v : Int} (h : immOk 7 v = true) : immOk 8 v = true := by
  simp only [immOk, Bool.and_eq_true, decide_eq_true_eq] at *
  omega

theorem f00_fits : f00.Fits := ⟨by decide, by decide, by decide, by decide⟩

theorem takes_loopq {e : Eng} {h : Head} {q off k : Nat} {pk : Bool} (hacc : Instr.accepted e (.loopq h q pk off k) = true) :
    Takes e (.loopq h q pk off k) (encode (.loopq h q pk off k)) := by
  simp only [Instr.accepted, Bool.and_eq_true, beq_iff_eq, decide_eq_true_eq] at hacc
  obtain ⟨⟨⟨⟨⟨⟨hh, rfl⟩, hq⟩, -⟩, hoff⟩, hk0⟩, hk⟩ := hacc
  have hsrc : rdVS ((if pk then 192 else 128) + q) = if pk then .peek q else .pop q := by
    cases pk with
    | false => exact rdVS_bits (a := .pop q) (decide_eq_true hq)
    | true => exact rdVS_bits (a := .peek q) (decide_eq_true hq)
  have hal : (if pk then 192 else 128) + q < 2 ^ 8 := by split <;> omega
  have ho1 : 256 * (off / 256) + off % 256 = off := by omega
  have hk1 : k - 1 + 1 = k := by omega
  refine takes_vform (by decide) hh (by omega) hal (by omega) (by omega) f00_fits fun w ho hr => ?_
  simp only [parseVe, ho, hr, vform, hsrc, ho1, hk1]
  cases pk <;> rfl

theorem takes_ve {e : Eng} {i : Instr} (hg : Instr.opGroup i = .own .ve) (hacc : i.accepted e = true) :
    Takes e i (encode i) := by
  cases i with
  | vfadd h d a b r f | vfsub h d a b r f | vfmul h d a b r f =>
    simp only [Instr.accepted, Bool.and_eq_true, beq_iff_eq] at hacc
    obtain ⟨⟨⟨⟨⟨hh, rfl⟩, hd⟩, ha⟩, hb⟩, hf⟩ := hacc
    obtain ⟨hfit, hv⟩ := VFmt.of_flt2 (d := d.bits) (a := a.bits) (b := b.bits) (c := rmBits r) hf
    refine takes_vform (by decide) hh (VDst.bits_lt hd) (VSrc.bits_lt ha) (VSrc.bits_lt hb) (rm_lt r) hfit fun w ho hr => ?_
    simp only [parseVe, ho, hr, hv]
    simp [vform, rdVD_bits hd, rdVS_bits ha, rdVS_bits hb, rdRm_rmBits]
  | vfma h d a b c f | vfms h d a b c f | vfnma h d a b c f =>
    simp only [Instr.accepted, Bool.and_eq_true, beq_iff_eq] at hacc
    obtain ⟨⟨⟨⟨⟨⟨hh, rfl⟩, hd⟩, ha⟩, hb⟩, hc⟩, hf⟩ := hacc
    obtain ⟨hfit, hv⟩ := VFmt.of_flt2 (d := d.bits) (a := a.bits) (b := b.bits) (c := c.bits) hf
    refine takes_vform (by decide) hh (VDst.bits_lt hd) (VSrc.bits_lt ha) (VSrc.bits_lt hb) (VSrc.bits_lt hc) hfit
      fun w ho hr => ?_
    simp only [parseVe, ho, hr, hv]
    simp [vform, rdVD_bits hd, rdVS_bits ha, rdVS_bits hb, rdVS_bits hc]
  | vfmin h d a b f | vfmax h d a b f =>
    simp only [Instr.accepted, Bool.and_eq_true, beq_iff_eq] at hacc
    obtain ⟨⟨⟨⟨⟨hh, rfl⟩, hd⟩, ha⟩, hb⟩, hf⟩ := hacc
    obtain ⟨hfit, hv⟩ := VFmt.of_flt2 (d := d.bits) (a := a.bits) (b := b.bits) (c := 0) hf
    refine takes_vform (by decide) hh (VDst.bits_lt hd) (VSrc.bits_lt ha) (VSrc.bits_lt hb) (by decide) hfit fun w ho hr => ?_
    simp only [parseVe, ho, hr, hv]
    simp [vform, rdVD_bits hd, rdVS_bits ha, rdVS_bits hb]
  | vfcmp h d c a b f =>
    simp only [Instr.accepted, Bool.and_eq_true, beq_iff_eq] at hacc
    obtain ⟨⟨⟨⟨⟨hh, rfl⟩, hd⟩, ha⟩, hb⟩, hf⟩ := hacc
    obtain ⟨hdl, hcl, hrd, hrc⟩ := rdCmpDst_bits c hd
    obtain ⟨hfit, hv⟩ := VFmt.of_flt2 (d := d.bits) (a := a.bits) (b := b.bits) (c := c.bits + d.kind * 8) hf
    refine takes_vform (by decide) hh hdl (VSrc.bits_lt ha) (VSrc.bits_lt hb) hcl hfit fun w ho hr => ?_
    simp only [parseVe, ho, hr, hv]
    simp [vform, hrd, hrc, rdVS_bits ha, rdVS_bits hb]
  | vcmp h d c a b f =>
    simp only [Instr.accepted, Bool.and_eq_true, beq_iff_eq] at hacc
    obtain ⟨⟨⟨⟨⟨⟨⟨hh, rfl⟩, hd⟩, ha⟩, hb⟩, hf⟩, -⟩, -⟩ := hacc
    obtain ⟨hdl, hcl, hrd, hrc⟩ := rdCmpDst_bits c hd
    obtain ⟨hfit, hv⟩ := VFmt.of_int2 (d := d.bits) (a := a.bits) (b := b.bits) (c := c.bits + d.kind * 8) hf
    refine takes_vform (by decide) hh hdl (VSrc.bits_lt ha) (VSrc.bits_lt hb) hcl hfit fun w ho hr => ?_
    simp only [parseVe, ho, hr, hv]
    simp [vform, hrd, hrc, rdVS_bits ha, rdVS_bits hb]
  | vlog2 h d a f | vexp2 h d a f | vrcp h d a f | vrsq h d a f =>
    simp only [Instr.accepted, Bool.and_eq_true, beq_iff_eq] at hacc
    obtain ⟨⟨⟨⟨hh, rfl⟩, hd⟩, ha⟩, hf⟩ := hacc
    obtain ⟨hfit, hv⟩ := VFmt.of_f32a (d := d.bits) (a := a.bits) (b := 0) (c := 0) hf
    refine takes_vform (by decide) hh (VDst.bits_lt hd) (VSrc.bits_lt ha) (by decide) (by decide) hfit fun w ho hr => ?_
    simp only [parseVe, ho, hr, hv]
    simp [vform, rdVD_bits hd, rdVS_bits ha]
  | vcvt h d a src ti r f => exact takes_vcvt hacc
  | vscl h d a b r f =>
    simp only [Instr.accepted, Bool.and_eq_true, beq_iff_eq, Bool.not_eq_true'] at hacc
    obtain ⟨⟨⟨⟨⟨⟨⟨⟨hh, rfl⟩, hd⟩, ha⟩, hb⟩, hf⟩, hm⟩, -⟩, hs⟩ := hacc
    have hv := vf_vform (d := d.bits) (a := a.bits) (b := b.bits) (c := rmBits r) (am := true) (bm := true) (st := false) nofun nofun
      fun _ => hs
    refine takes_vform (by decide) hh (VDst.bits_lt hd) (VSrc.bits_lt ha) (VSrc.bits_lt hb) (rm_lt r) (fits_of_flt hf hm)
      fun w ho hr => ?_
    simp only [parseVe, ho, hr, hv]
    simp [vform, rdVD_bits hd, rdVS_bits ha, rdVS_bits hb, rdRm_rmBits]
  | vpks h d a r f =>
    simp only [Instr.accepted, Bool.and_eq_true, Bool.or_eq_true, beq_iff_eq, Bool.not_eq_true', decide_eq_true_eq] at hacc
    obtain ⟨⟨⟨⟨⟨⟨⟨hh, rfl⟩, hd⟩, ha⟩, hf⟩, ham⟩, hbm⟩, hs⟩ := hacc
    have hv := vf_vform (d := d.bits) (a := a.bits) (b := 0) (c := rmBits r) (am := true) (bm := false) (st := false) nofun
      (fun _ => hbm) fun _ => hs
    refine takes_vform (by decide) hh (VDst.bits_lt hd) (VSrc.bits_lt ha) (by decide) (rm_lt r)
      ⟨by omega, by omega, by omega, by omega⟩ fun w ho hr => ?_
    simp only [parseVe, ho, hr, hv]
    simp [vform, rdVD_bits hd, rdVS_bits ha, rdRm_rmBits]
  | vadd h d a b f | vsub h d a b f | vmulh h d a b f | vand h d a b f | vor h d a b f | vxor h d a b f | vshl h d a b f
  | vshr h d a b f | vsra h d a b f | vmin h d a b f | vmax h d a b f | vadds h d a b f | vsubs h d a b f | vmul h d a b f =>
    simp only [Instr.accepted, Bool.and_eq_true, beq_iff_eq] at hacc
    obtain ⟨⟨⟨⟨⟨hh, rfl⟩, hd⟩, ha⟩, hb⟩, hf⟩ := hacc
    obtain ⟨hfit, hv⟩ := VFmt.of_int2 (d := d.bits) (a := a.bits) (b := b.bits) (c := 0) hf
    refine takes_vform (by decide) hh (VDst.bits_lt hd) (VSrc.bits_lt ha) (VSrc.bits_lt hb) (by decide) hfit fun w ho hr => ?_
    simp only [parseVe, ho, hr, hv]
    simp [vform, rdVD_bits hd, rdVS_bits ha, rdVS_bits hb]
  | vmad h d a b c f | vsel h d a b c f =>
    simp only [Instr.accepted, Bool.and_eq_true, beq_iff_eq] at hacc
    obtain ⟨⟨⟨⟨⟨⟨hh, rfl⟩, hd⟩, ha⟩, hb⟩, hc⟩, hf⟩ := hacc
    obtain ⟨hfit, hv⟩ := VFmt.of_int2 (d := d.bits) (a := a.bits) (b := b.bits) (c := c.bits) hf
    refine takes_vform (by decide) hh (VDst.bits_lt hd) (VSrc.bits_lt ha) (VSrc.bits_lt hb) (VSrc.bits_lt hc) hfit
      fun w ho hr => ?_
    simp only [parseVe, ho, hr, hv]
    simp [vform, rdVD_bits hd, rdVS_bits ha, rdVS_bits hb, rdVS_bits hc]
  | vmov h d a f | vradd h d a f =>
    simp only [Instr.accepted, Bool.and_eq_true, beq_iff_eq] at hacc
    obtain ⟨⟨⟨⟨hh, rfl⟩, hd⟩, ha⟩, hf⟩ := hacc
    obtain ⟨hfit, hv⟩ := VFmt.of_int1 (d := d.bits) (a := a.bits) (b := 0) (c := 0) hf
    refine takes_vform (by decide) hh (VDst.bits_lt hd) (VSrc.bits_lt ha) (by decide) (by decide) hfit fun w ho hr => ?_
    simp only [parseVe, ho, hr, hv]
    simp [vform, rdVD_bits hd, rdVS_bits ha]
  | vli h d v z => exact takes_vli hacc
  | vbcst h d a k f | vrot h d a k f =>
    simp only [Instr.accepted, Bool.and_eq_true, beq_iff_eq, decide_eq_true_eq] at hacc
    obtain ⟨⟨⟨⟨⟨hh, rfl⟩, hd⟩, ha⟩, hk⟩, hf⟩ := hacc
    obtain ⟨hfit, hv⟩ := VFmt.of_e32 (d := d.bits) (a := a.bits) (b := k) (c := 0) hf
    refine takes_vform (by decide) hh (VDst.bits_lt hd) (VSrc.bits_lt ha) (by omega) (by decide) hfit fun w ho hr => ?_
    simp only [parseVe, ho, hr, hv]
    simp [vform, rdVD_bits hd, rdVS_bits ha]
  | vbcstX h d a f =>
    simp only [Instr.accepted, Bool.and_eq_true, beq_iff_eq, decide_eq_true_eq] at hacc
    obtain ⟨⟨⟨⟨hh, rfl⟩, hd⟩, ha⟩, hf⟩ := hacc
    obtain ⟨hfit, hv⟩ := VFmt.of_e32 (d := d.bits) (a := a) (b := 0) (c := 1) hf
    refine takes_vform (by decide) hh (VDst.bits_lt hd) (by omega) (by decide) (by decide) hfit fun w ho hr => ?_
    simp only [parseVe, ho, hr, hv]
    simp [vform, rdVD_bits hd]
  | vlane h d a f =>
    simp only [Instr.accepted, Bool.and_eq_true, beq_iff_eq, decide_eq_true_eq] at hacc
    obtain ⟨⟨⟨⟨hh, rfl⟩, hd⟩, ha⟩, hf⟩ := hacc
    obtain ⟨hfit, hv⟩ := VFmt.of_e32 (d := d.bits) (a := a) (b := 0) (c := 0) hf
    refine takes_vform (by decide) hh (VDst.bits_lt hd) (by omega) (by decide) (by decide) hfit fun w ho hr => ?_
    simp only [parseVe, ho, hr, hv]
    simp [vform, rdVD_bits hd]
  | vperm h d a b f =>
    simp only [Instr.accepted, Bool.and_eq_true, beq_iff_eq] at hacc
    obtain ⟨⟨⟨⟨⟨hh, rfl⟩, hd⟩, ha⟩, hb⟩, hf⟩ := hacc
    obtain ⟨hfit, hv⟩ := VFmt.of_e32 (d := d.bits) (a := a.bits) (b := b.bits) (c := 0) hf
    refine takes_vform (by decide) hh (VDst.bits_lt hd) (VSrc.bits_lt ha) (VSrc.bits_lt hb) (by decide) hfit fun w ho hr => ?_
    simp only [parseVe, ho, hr, hv]
    simp [vform, rdVD_bits hd, rdVS_bits ha, rdVS_bits hb]
  | vhash h d a b f =>
    simp only [Instr.accepted, Bool.and_eq_true, beq_iff_eq] at hacc
    obtain ⟨⟨⟨⟨⟨⟨hh, rfl⟩, hd⟩, ha⟩, hb⟩, hf⟩, -⟩ := hacc
    obtain ⟨hfit, hv⟩ := VFmt.of_int2 (d := d.bits) (a := a.bits) (b := b.bits) (c := 0) hf
    refine takes_vform (by decide) hh (VDst.bits_lt hd) (VSrc.bits_lt ha) (VSrc.bits_lt hb) (by decide) hfit fun w ho hr => ?_
    simp only [parseVe, ho, hr, hv]
    simp [vform, rdVD_bits hd, rdVS_bits ha, rdVS_bits hb]
  | vrmax h d a mn fl f =>
    simp only [Instr.accepted, Bool.and_eq_true, beq_iff_eq] at hacc
    obtain ⟨⟨⟨⟨hh, rfl⟩, hd⟩, ha⟩, hf⟩ := hacc
    have hl : bitN mn + bitN fl * 2 < 2 ^ 8 := by have := bitN_lt mn; have := bitN_lt fl; omega
    have hbits : (fld (bitN mn + bitN fl * 2) 0 1 == 1) = mn ∧ (fld (bitN mn + bitN fl * 2) 1 1 == 1) = fl := by
      cases mn <;> cases fl <;> decide
    have hfv : f.Fits ∧ vf (vform d.bits a.bits 0 (bitN mn + bitN fl * 2) f) true false false = f := by
      split at hf
      · exact VFmt.of_flt1 hf
      · exact VFmt.of_int1 hf
    obtain ⟨hfit, hv⟩ := hfv
    refine takes_vform (by decide) hh (VDst.bits_lt hd) (VSrc.bits_lt ha) (by decide) hl hfit fun w ho hr => ?_
    simp only [parseVe, ho, hr, hv]
    simp [vform, rdVD_bits hd, rdVS_bits ha, hbits]
  | vrmaxi h d a b p f | vrmini h d a b p f =>
    simp only [Instr.accepted, Bool.and_eq_true, beq_iff_eq] at hacc
    obtain ⟨⟨⟨⟨⟨⟨hh, rfl⟩, hd⟩, ha⟩, hb⟩, hpo⟩, hf⟩ := hacc
    have hpl : p.getD 126 < 2 ^ 8 ∧ (if p.getD 126 = 126 then none else some (p.getD 126)) = p := by
      cases p with
      | none => exact ⟨by decide, rfl⟩
      | some p =>
        have := pOk_lt hpo
        exact ⟨by simp only [Option.getD_some]; omega, if_neg (by simp only [Option.getD_some]; omega)⟩
    obtain ⟨hfit, hv⟩ := VFmt.of_f32a (d := d.bits) (a := a.bits) (b := b.bits) (c := p.getD 126) hf
    refine takes_vform (by decide) hh (VDst.bits_lt hd) (VSrc.bits_lt ha) (VSrc.bits_lt hb) hpl.1 hfit fun w ho hr => ?_
    simp only [parseVe, ho, hr, hv]
    simp only [vform, rdVD_bits hd, rdVS_bits ha, rdVS_bits hb, Option.map_some, Option.some.injEq]
    congr 1
    exact hpl.2
  | vrfadd h d a r f =>
    simp only [Instr.accepted, Bool.and_eq_true, beq_iff_eq] at hacc
    obtain ⟨⟨⟨⟨hh, rfl⟩, hd⟩, ha⟩, hf⟩ := hacc
    obtain ⟨hfit, hv⟩ := VFmt.of_flt1 (d := d.bits) (a := a.bits) (b := 0) (c := rmBits r) hf
    refine takes_vform (by decide) hh (VDst.bits_lt hd) (VSrc.bits_lt ha) (by decide) (rm_lt r) hfit fun w ho hr => ?_
    simp only [parseVe, ho, hr, hv]
    simp [vform, rdVD_bits hd, rdVS_bits ha, rdRm_rmBits]
  | vext h d a k el f =>
    simp only [Instr.accepted, Bool.and_eq_true, beq_iff_eq, decide_eq_true_eq] at hacc
    obtain ⟨⟨⟨⟨⟨⟨⟨hh, rfl⟩, hd⟩, ha⟩, hk⟩, hel⟩, hf⟩, ham⟩ := hacc
    obtain ⟨hfit, hv⟩ := VFmt.of_int1 (d := d) (a := a.bits) (b := k) (c := el) hf
    have hz : lanesN f.esz ≤ 2 ^ 4 := Nat.pow_le_pow_right (by decide) hfit.esz.le
    have hv0 : vf (vform d a.bits k el f) false false false = f := by
      rw [← hv]
      simp [vf, vform, ham]
    refine takes_vform (by decide) hh (by omega) (VSrc.bits_lt ha) (by omega) (by omega) hfit fun w ho hr => ?_
    simp only [parseVe, ho, hr, hv0]
    simp [vform, rdVS_bits ha]
  | vacrF32 h d a l | vacrRaw h d a l =>
    simp only [Instr.accepted, Bool.and_eq_true, beq_iff_eq, decide_eq_true_eq] at hacc
    obtain ⟨⟨⟨⟨hh, rfl⟩, hd⟩, ha⟩, hl⟩ := hacc
    refine takes_vform (by decide) hh (VDst.bits_lt hd) (by omega) (uN_lt ..) (by decide) f00_fits fun w ho hr => ?_
    simp [parseVe, ho, hr, vform, f00, fld, rdVD_bits hd, sextN_uN (by decide) (immOk_succ hl)]
  | vacwF32 h d a l | vacwAdd h d a l | vacwRaw h d a l =>
    simp only [Instr.accepted, Bool.and_eq_true, beq_iff_eq, decide_eq_true_eq] at hacc
    obtain ⟨⟨⟨⟨hh, rfl⟩, hd⟩, ha⟩, hl⟩ := hacc
    refine takes_vform (by decide) hh (by omega) (VSrc.bits_lt ha) (uN_lt ..) (by decide) f00_fits fun w ho hr => ?_
    simp [parseVe, ho, hr, vform, f00, fld, rdVS_bits ha, sextN_uN (by decide) (immOk_succ hl)]
  | loopq h q pk off k => exact takes_loopq hacc
  | vqlen h p q n =>
    simp only [Instr.accepted, Bool.and_eq_true, beq_iff_eq, decide_eq_true_eq] at hacc
    obtain ⟨⟨⟨⟨⟨hh, rfl⟩, hp⟩, hq⟩, -⟩, hn⟩ := hacc
    have := pOk_lt hp
    have hm : p % 128 = p ∧ q % 16 = q := by omega
    refine takes_vform (by decide) hh (by omega) (by omega) (by omega) (by decide) f00_fits fun w ho hr => ?_
    simp [parseVe, ho, hr, vform, hm]
  | vqlenZero h p q =>
    simp only [Instr.accepted, Bool.and_eq_true, beq_iff_eq, decide_eq_true_eq] at hacc
    obtain ⟨⟨⟨hh, rfl⟩, hp⟩, hq⟩ := hacc
    have := pOk_lt hp
    have hm : p % 128 = p ∧ q % 16 = q := by omega
    refine takes_vform (by decide) hh (by omega) (by omega) (by decide) (by decide) f00_fits fun w ho hr => ?_
    simp [parseVe, ho, hr, vform, hm]
  | _ => cases hg

end Sys2Proof
end

section
/-!
PROOF. The words of the matrix engine and the exchange engine read as the instructions they are laid out for (R334, R384).
-/

namespace Sys2Proof

/-! ### Commands (R16, R68) -/

/-- The K-form of a command with these operands, control fields and low mode bits. -/
def kform (a b : Nat) (k : KCtl) (m : Nat) : KForm :=
  ⟨a, b, k.wait.getD 0, k.sig.getD 0, bitN k.sync.acq, bitN k.sync.rel, k.sync.scope.bits,
    bitN k.wait.isSome * 8 + bitN k.sig.isSome * 4 + m⟩

theorem getD_lt {o : Option Nat} {n : Nat} (h : o.all (· < n) = true) (hn : 0 < n) : o.getD 0 < n := by
  cases o with
  | none => exact hn
  | some v => exact of_decide_eq_true h

/-- A semaphore field counts where its mode bit enables it. -/
theorem ite_getD (o : Option Nat) : (if bitN o.isSome = 1 then some (o.getD 0) else none) = o := by
  cases o <;> rfl

theorem fld_kform {a b m : Nat} {k : KCtl} (hm : m < 4) :
    fld (kform a b k m).m 3 1 = bitN k.wait.isSome ∧ fld (kform a b k m).m 2 1 = bitN k.sig.isSome
      ∧ fld (kform a b k m).m 0 2 = m ∧ fld (kform a b k m).m 0 1 = m % 2 := by
  have hw := bitN_lt k.wait.isSome
  have hs := bitN_lt k.sig.isSome
  simp only [kform, fld]
  omega

theorem rdK_kform {a b m : Nat} {k : KCtl} (hk : k.ok = true) (hm : m < 4) : rdK (kform a b k m) = some k := by
  simp only [KCtl.ok, Bool.and_eq_true] at hk
  obtain ⟨-, hsync⟩ := hk
  obtain ⟨hw, hs, -, -⟩ := fld_kform (a := a) (b := b) (k := k) hm
  simp only [rdK, hw, hs]
  simp only [kform, rdSync_of_ok hsync, Option.map_some]
  exact congrArg₂ (fun w s => some (⟨w, s, k.sync⟩ : KCtl)) (ite_getD _) (ite_getD _)

theorem takes_encK {e : Eng} {op a b m : Nat} {P : Head → Nat → Option Instr} {h : Head} {k : KCtl} {i : Instr}
    (hr : ReadBy e op P) (hh : h.ok e = true) (hk : k.ok = true) (ha : a < 2 ^ 9) (hb : b < 2 ^ 9) (hm : m < 4)
    (hp : ∀ w, opcOf w = op → unK w = kform a b k m → P h w = some i) : Takes e i (encK op h k a b m) := by
  simp only [KCtl.ok, Bool.and_eq_true] at hk
  obtain ⟨⟨hwait, hsig⟩, -⟩ := hk
  have hsc := k.sync.scope.bits_lt
  have hw := bitN_lt k.wait.isSome
  have hs := bitN_lt k.sig.isSome
  exact takes_packK hr hh ha hb (getD_lt hwait (by decide)) (getD_lt hsig (by decide)) (bitN_lt _) (bitN_lt _) (by omega)
    (by omega) hp

/-! ### The matrix engine (R384) -/

theorem readBy_me {op : Nat} (hop : 0x40 ≤ op ∧ op < 0x4B) : ReadBy .me op parseMe := by
  have h1 : ¬ op < 0x40 := by omega
  have h2 : ¬ 0xF0 ≤ op := by omega
  refine ⟨by decide, by omega, ?_, opcPrivileged_of_ne (by omega), fun w ho => by simp [parse, ho, h1, h2]⟩
  delta opcAssigned
  exact (if_neg h1).trans ((if_neg h2).trans (decide_eq_true hop.2))

theorem takes_me {e : Eng} {i : Instr} (hg : Instr.opGroup i = .own .me) (hacc : i.accepted e = true) :
    Takes e i (encode i) := by
  cases i with
  | mtw h a b =>
    simp only [Instr.accepted, Bool.and_eq_true, beq_iff_eq] at hacc
    obtain ⟨⟨⟨hh, rfl⟩, ha⟩, hb⟩ := hacc
    refine takes_packK (readBy_me (by decide)) hh (xOk_lt ha) (xOk_lt hb) (by decide) (by decide) (by decide) (by decide)
      (by decide) (by decide) fun w ho hr => ?_
    simp [parseMe, ho, hr, rdX_of_xOk ha, rdX_of_xOk hb]
  | mtws h k d b | mdrn h k d b | mrqt h k d b | midx h k d b | mnms h k d b =>
    simp only [Instr.accepted, Bool.and_eq_true, beq_iff_eq, decide_eq_true_eq] at hacc
    obtain ⟨⟨⟨⟨hh, rfl⟩, hk⟩, hd⟩, hb⟩ := hacc
    have hd : d < 32 := by omega
    refine takes_encK (readBy_me (by decide)) hh hk (stBits_lt hd) (xOk_lt hb) (by decide) fun w ho hr => ?_
    simp only [parseMe, ho, hr, rdK_kform hk (show 0 < 4 by decide)]
    simp [kform, rdSt_stBits hd, rdX_of_xOk hb]
  | mgo h k x =>
    simp only [Instr.accepted, Bool.and_eq_true, beq_iff_eq] at hacc
    obtain ⟨⟨hh, rfl⟩, hk⟩ := hacc
    have hx : bitN x < 4 := (bitN_lt x).trans (by decide)
    have hf : fld (kform 0 0 k (bitN x)).m 0 1 = bitN x := by rw [(fld_kform hx).2.2.2, Nat.mod_eq_of_lt (bitN_lt x)]
    refine takes_encK (readBy_me (by decide)) hh hk (by decide) (by decide) hx fun w ho hr => ?_
    simp only [parseMe, ho, hr, rdK_kform hk hx, hf, bitN_beq_one]
    rfl
  | mbyp h k b | mzero h k b =>
    simp only [Instr.accepted, Bool.and_eq_true, beq_iff_eq] at hacc
    obtain ⟨⟨⟨hh, rfl⟩, hk⟩, hb⟩ := hacc
    refine takes_encK (readBy_me (by decide)) hh hk (by decide) (xOk_lt hb) (by decide) fun w ho hr => ?_
    simp only [parseMe, ho, hr, rdK_kform hk (show 0 < 4 by decide)]
    simp [kform, rdX_of_xOk hb]
  | mrpr h k b x | mrst h k b x =>
    simp only [Instr.accepted, Bool.and_eq_true, beq_iff_eq] at hacc
    obtain ⟨⟨⟨hh, rfl⟩, hk⟩, hb⟩ := hacc
    have hx : bitN x < 4 := (bitN_lt x).trans (by decide)
    have hf : fld (kform 0 b k (bitN x)).m 0 1 = bitN x := by rw [(fld_kform hx).2.2.2, Nat.mod_eq_of_lt (bitN_lt x)]
    refine takes_encK (readBy_me (by decide)) hh hk (by decide) (xOk_lt hb) hx fun w ho hr => ?_
    simp only [parseMe, ho, hr, rdK_kform hk hx, hf, bitN_beq_one]
    simp [kform, rdX_of_xOk hb]
  | _ => cases hg

/-! ### The exchange engine (R334) -/

theorem readBy_xe {op : Nat} (hop : 0x40 ≤ op ∧ op < 0x4E) : ReadBy .xe op parseXe := by
  have h1 : ¬ op < 0x40 := by omega
  have h2 : ¬ 0xF0 ≤ op := by omega
  refine ⟨by decide, by omega, ?_, opcPrivileged_of_ne (by omega), fun w ho => by simp [parse, ho, h1, h2]⟩
  delta opcAssigned
  exact (if_neg h1).trans ((if_neg h2).trans (decide_eq_true hop.2))

theorem rdX_kform_a {a b m : Nat} {k : KCtl} (h : a < 64) : rdX (kform a b k m).a = some a := rdX_of_lt h

theorem rdX_kform_b {a b m : Nat} {k : KCtl} (h : b < 64) : rdX (kform a b k m).b = some b := rdX_of_lt h

/-- Two commands share opcode 0x4C, and two 0x4D; the low mode bits tell them apart. -/
theorem takes_xe_word {e : Eng} {op a b m : Nat} {h : Head} {k : KCtl} {i : Instr} (hop : 0x40 ≤ op ∧ op < 0x4E) (hx : e = .xe)
    (hh : h.ok e = true) (hk : k.ok = true) (ha : a < 64) (hb : b < 64) (hm : m < 4)
    (hp : ∀ w, opcOf w = op → unK w = kform a b k m → rdK (unK w) = some k → rdX (unK w).a = some a → rdX (unK w).b = some b →
      fld (unK w).m 0 2 = m → fld (unK w).m 0 1 = m % 2 → parseXe h w = some i) : Takes e i (encK op h k a b m) := by
  subst hx
  refine takes_encK (readBy_xe hop) hh hk (by omega) (by omega) hm fun w ho hr => ?_
  obtain ⟨-, -, h2, h1⟩ := fld_kform (a := a) (b := b) (k := k) hm
  rw [← hr] at h1 h2
  exact hp w ho hr (hr ▸ rdK_kform hk hm) (hr ▸ rdX_kform_a ha) (hr ▸ rdX_kform_b hb) h2 h1

theorem takes_xe {e : Eng} {i : Instr} (hg : Instr.opGroup i = .own .xe) (hacc : i.accepted e = true) :
    Takes e i (encode i) := by
  cases i with
  | xcp h k a b | xcpg h k a b | xred h k a b | xpln h k a b | xbrd h k a b | xalt h k a b | xrep h k a b | xexp h k a b
  | xarv h k a b | xdrp h k a b | xsigr h k a b =>
    simp only [Instr.accepted, Bool.and_eq_true, beq_iff_eq, decide_eq_true_eq] at hacc
    obtain ⟨⟨⟨⟨hh, he⟩, hk⟩, ha⟩, hb⟩ := hacc
    refine takes_xe_word (by decide) he hh hk (by omega) (by omega) (by decide) fun w ho hr hrk hra hrb _ _ => ?_
    simp [parseXe, ho, hrk, hra, hrb]
  | xkeyEnc h k a b | xkeyDec h k a b =>
    simp only [Instr.accepted, Bool.and_eq_true, beq_iff_eq, decide_eq_true_eq] at hacc
    obtain ⟨⟨⟨⟨hh, he⟩, hk⟩, ha⟩, hb⟩ := hacc
    refine takes_xe_word (by decide) he hh hk (by omega) (by omega) (by decide) fun w ho hr hrk hra hrb _ h1 => ?_
    simp [parseXe, ho, hrk, hra, hrb, h1]
  | xstep h k a =>
    simp only [Instr.accepted, Bool.and_eq_true, beq_iff_eq, decide_eq_true_eq] at hacc
    obtain ⟨⟨⟨hh, he⟩, hk⟩, ha⟩ := hacc
    refine takes_xe_word (by decide) he hh hk (by omega) (by decide) (by decide) fun w ho hr hrk hra _ _ _ => ?_
    simp [parseXe, ho, hrk, hra]
  | xqryRing h k b =>
    simp only [Instr.accepted, Bool.and_eq_true, beq_iff_eq, decide_eq_true_eq] at hacc
    obtain ⟨⟨⟨hh, he⟩, hk⟩, hb⟩ := hacc
    refine takes_xe_word (by decide) he hh hk (by decide) (by omega) (by decide) fun w ho hr hrk hra hrb h2 _ => ?_
    simp [parseXe, ho, hrk, hra, hrb, h2]
  | xqryPeek h k a b =>
    simp only [Instr.accepted, Bool.and_eq_true, beq_iff_eq, decide_eq_true_eq] at hacc
    obtain ⟨⟨⟨⟨hh, he⟩, hk⟩, ha⟩, hb⟩ := hacc
    refine takes_xe_word (by decide) he hh hk (by omega) (by omega) (by decide) fun w ho hr hrk hra hrb h2 _ => ?_
    simp [parseXe, ho, hrk, hra, hrb, h2]
  | _ => cases hg

end Sys2Proof
end

section
/-!
PROOF. Bundles read as the instructions they are laid out for (R73, R285), and the bytes of words (R5).
-/

namespace Sys2Proof

/-! ### The slots of a bundle -/

theorem packSlots_lt {l : List Nat} (h : ∀ v ∈ l, v < 2 ^ 14) : packSlots l < 2 ^ (14 * l.length) := by
  induction l with
  | nil => decide
  | cons v r ih =>
    have hv := h v List.mem_cons_self
    have hr := ih fun x hx => h x (List.mem_cons_of_mem _ hx)
    have h2 : 2 ^ (14 * (v :: r).length) = 2 ^ 14 * 2 ^ (14 * r.length) := by
      rw [List.length_cons, Nat.mul_succ, pow_add, mul_comm]
    rw [h2, packSlots]
    have := Nat.mul_le_mul_left (2 ^ 14) (Nat.succ_le_of_lt hr)
    omega

/-- Slot j stands in bits 14j to 14j + 13. -/
theorem packSlots_fld {l : List Nat} (h : ∀ v ∈ l, v < 2 ^ 14) {j : Nat} (hj : j < l.length) :
    fld (packSlots l) (14 * j) 14 = l[j] := by
  induction l generalizing j with
  | nil => exact absurd hj (Nat.not_lt_zero _)
  | cons v r ih =>
    have hv := h v List.mem_cons_self
    cases j with
    | zero => simp only [packSlots, fld, List.getElem_cons_zero]; omega
    | succ j =>
      have hr := ih (fun x hx => h x (List.mem_cons_of_mem _ hx)) (Nat.lt_of_succ_lt_succ hj)
      have hd : (v + 2 ^ 14 * packSlots r) / 2 ^ 14 = packSlots r := by
        rw [Nat.add_mul_div_left _ _ (by decide), Nat.div_eq_of_lt hv, Nat.zero_add]
      rw [List.getElem_cons_succ, ← hr]
      simp only [fld, packSlots, Nat.mul_succ, Nat.add_comm (14 * j) 14, pow_add, ← Nat.div_div_eq_div_mul, hd]

/-- The sixteen slots that a bundle's low bits hold. -/
theorem unSlots_of_mod {w : Nat} {l : List Nat} (h : ∀ v ∈ l, v < 2 ^ 14) (hl : l.length = 16)
    (hw : w % 2 ^ 224 = packSlots l) : unSlots w = l := by
  refine List.ext_getElem (by simp [unSlots, hl]) fun j h1 h2 => ?_
  have hj : j < 16 := hl ▸ h2
  rw [← packSlots_fld h h2, ← hw]
  simp only [unSlots, List.getElem_map, List.getElem_range, fld]
  have h14 : 224 = 14 * j + (14 + (210 - 14 * j)) := by omega
  rw [h14, pow_add 2 (14 * j), Nat.mod_mul_right_div_self, pow_add, Nat.mod_mul_right_mod]

theorem slotBits_lt {o : Option WSlot} (h : o.all (fun t => t.off < 32 && t.code < 256) = true) : slotBits o < 2 ^ 14 := by
  cases o with
  | none => decide
  | some t =>
    simp only [Option.all_some, Bool.and_eq_true, decide_eq_true_eq] at h
    simp only [slotBits, Option.elim]
    omega

theorem rdSlot_slotBits {o : Option WSlot} (h : o.all (fun t => t.off < 32 && t.code < 256) = true) :
    rdSlot (slotBits o) = o := by
  cases o with
  | none => rfl
  | some t =>
    simp only [Option.all_some, Bool.and_eq_true, decide_eq_true_eq] at h
    have hf : fld (slotBits (some t)) 13 1 = 1 ∧ fld (slotBits (some t)) 8 5 = t.off ∧ fld (slotBits (some t)) 0 8 = t.code := by
      simp only [slotBits, Option.elim, fld]; omega
    simp [rdSlot, hf]

/-- The slots of a term bundle are read as they are laid out. -/
theorem slots_read {s : WSlots} (h : slotsOk s = true) :
    (s.map slotBits).length = 16 ∧ (∀ v ∈ s.map slotBits, v < 2 ^ 14) ∧ (s.map slotBits).map rdSlot = s := by
  simp only [slotsOk, Bool.and_eq_true, beq_iff_eq, List.all_eq_true] at h
  obtain ⟨hl, hs⟩ := h
  refine ⟨by simpa using hl, fun v hv => ?_, ?_⟩
  · obtain ⟨o, ho, rfl⟩ := List.mem_map.1 hv
    exact slotBits_lt (hs o ho)
  · rw [List.map_map]
    exact (List.map_congr_left fun o ho => rdSlot_slotBits (hs o ho)).trans s.map_id

/-! ### Bundles (R73) -/

/-- Engine e is WE, and takes the word w as bundle i. -/
structure TakesBundle (e : Eng) (i : Instr) (w : Nat) : Prop where
  we : e = .we
  lt : w < 2 ^ 256
  assigned : opcAssigned .we (fld w 248 8) = true
  read : parse .we w = some i

theorem WHead.fits {h : WHead} (hh : h.ok = true) : h.tp < 8 := by
  simp only [WHead.ok, tpOk] at hh
  split at hh
  · omega
  · simp only [Bool.and_eq_true, decide_eq_true_eq] at hh; omega

theorem takes_encB {e : Eng} {op mode hdr : Nat} {h : WHead} {l : List Nat} {i : Instr} (he : (e == .we) = true)
    (hop : op < 0x0E) (hh : h.ok = true) (hm : mode < 8)
    (hhdr : hdr < 2 ^ 16) (hlen : l.length = 16) (hl : ∀ v ∈ l, v < 2 ^ 14)
    (hp : ∀ w, fld w 248 8 = op → unWHead w = h → unB w = ⟨mode, hdr, l⟩ → parseWe w = some i) :
    TakesBundle e i (encB op h mode hdr l) := by
  have htp := WHead.fits hh
  have h1 := bitN_lt h.pop
  have h2 := bitN_lt h.push
  have hs : packSlots l < 2 ^ 224 := by
    have := packSlots_lt hl
    rwa [hlen] at this
  generalize hw : encB op h mode hdr l = w
  simp only [encB, packB] at hw
  generalize hS : packSlots l = S at hw hs
  have hf : fld w 248 8 = op ∧ fld w 245 3 = h.tp ∧ fld w 244 1 = bitN h.pop ∧ fld w 243 1 = bitN h.push ∧ fld w 240 3 = mode
      ∧ fld w 224 16 = hdr ∧ w % 2 ^ 224 = S := by simp only [fld]; omega
  obtain ⟨f1, f2, f3, f4, f5, f6, f7⟩ := hf
  have hhead : unWHead w = h := by simp only [unWHead, f2, f3, f4, bitN_beq_one]
  refine ⟨eq_of_beq he, by omega, ?_, ?_⟩
  · rw [f1]
    exact decide_eq_true hop
  · exact hp w f1 hhead (by simp only [unB, f5, f6, unSlots_of_mod hl hlen (f7.trans hS.symm)])

theorem noSlots_length : noSlots.length = 16 := rfl

theorem noSlots_lt : ∀ v ∈ noSlots, v < 2 ^ 14 := by decide

theorem WMode.bits_lt (m : WMode) : m.bits < 8 := by cases m <;> decide

/-- The mode field names the mode. -/
theorem mode_read (m : WMode) :
    (match m.bits with
      | 0 => some .pw2
      | 1 => some .i8
      | _ => none : Option WMode) = some m := by cases m <;> rfl

/-- The slots of a WG hold no factor (R290). -/
theorem map_off_of_clean {s : WSlots} (h : (s.all fun o => o.all fun t => t.code == 0) = true) :
    (s.map fun o => o.map fun t => (⟨t.off, 0⟩ : WSlot)) = s := by
  rw [List.all_eq_true] at h
  refine (List.map_congr_left fun o ho => ?_).trans s.map_id
  cases o with
  | none => rfl
  | some t =>
    have hc := h (some t) ho
    simp only [Option.all_some, beq_iff_eq] at hc
    simp [← hc]

/-- A jump's offset is read from its first two slots (R296). -/
theorem jmpSlots_read {off : Int} (h : immOk 26 off = true) :
    sextN 26 (fld ((jmpSlots off).getD 1 0) 0 13 * 2 ^ 13 + fld ((jmpSlots off).getD 0 0) 0 13) = off := by
  have hu := uN_lt 26 off
  have h01 : fld ((jmpSlots off).getD 1 0) 0 13 * 2 ^ 13 + fld ((jmpSlots off).getD 0 0) 0 13 = uN 26 off := by
    simp only [jmpSlots, List.getD_cons_zero, List.getD_cons_succ, fld]
    omega
  rw [h01, sextN_uN (by decide) h]

theorem jmpSlots_lt (off : Int) : ∀ v ∈ jmpSlots off, v < 2 ^ 14 := by
  have h0 := fld_lt (uN 26 off) 0 13
  have h1 := fld_lt (uN 26 off) 13 13
  simp only [jmpSlots, List.mem_cons, List.mem_replicate]
  rintro v (rfl | rfl | ⟨-, rfl⟩) <;> omega

theorem takes_wrow {e : Eng} {h : WHead} {f : WFlush} {o : Bool} {en : Int} (hacc : Instr.accepted e (.wrow h f o en) = true)
    (hcl : Instr.clean (.wrow h f o en) = true) : TakesBundle e (.wrow h f o en) (encode (.wrow h f o en)) := by
  simp only [Instr.accepted, Bool.and_eq_true] at hacc
  obtain ⟨⟨hh, he⟩, hen⟩ := hacc
  simp only [Instr.clean, Bool.and_eq_true, Bool.or_eq_true, beq_iff_eq] at hcl
  have hu := uN_lt 7 en
  have ho := bitN_lt o
  have hf : f.bits < 3 := by cases f <;> decide
  have hfld : fld (f.bits * 2 ^ 14 + bitN o * 2 ^ 13 + uN 7 en) 13 1 = bitN o
      ∧ fld (f.bits * 2 ^ 14 + bitN o * 2 ^ 13 + uN 7 en) 14 2 = f.bits
      ∧ fld (f.bits * 2 ^ 14 + bitN o * 2 ^ 13 + uN 7 en) 0 7 = uN 7 en := by simp only [fld]; omega
  refine takes_encB he (by decide) hh (by decide) (by omega) noSlots_length noSlots_lt fun w hop hhd hb => ?_
  have hen' : (if o then en else 0) = en := by
    obtain rfl | rfl := hcl.2
    · rfl
    · split <;> rfl
  obtain ⟨f1, f2, f3⟩ := hfld
  generalize f.bits * 2 ^ 14 + bitN o * 2 ^ 13 + uN 7 en = hdr at f1 f2 f3 hb
  cases f <;> simp [parseWe, hop, hhd, hb, f1, f2, f3, bitN_beq_one, sextN_uN (by decide) hen, WFlush.bits, hen']

theorem takes_wsegFull {e : Eng} {h : WHead} {b r : Nat} {l : Int} {g : Bool} {m : Rm}
    (hacc : Instr.accepted e (.wsegFull h b r l g m) = true) :
    TakesBundle e (.wsegFull h b r l g m) (encode (.wsegFull h b r l g m)) := by
  simp only [Instr.accepted, Bool.and_eq_true, decide_eq_true_eq] at hacc
  obtain ⟨⟨⟨⟨⟨hh, he⟩, hb⟩, hr0⟩, hr⟩, hl⟩ := hacc
  have hu := uN_lt 7 l
  have hg := bitN_lt g
  have hm := m.bits_lt
  have hf : fld (2 ^ 13 + b) 0 13 = b ∧ fld b 0 7 = b ∧ fld (2 ^ 13 + (r - 1)) 0 13 = r - 1 ∧ fld (r - 1) 0 7 = r - 1
      ∧ fld (2 ^ 13 + m.bits * 256 + bitN g * 128 + uN 7 l) 0 13 = m.bits * 256 + bitN g * 128 + uN 7 l
      ∧ fld (m.bits * 256 + bitN g * 128 + uN 7 l) 0 7 = uN 7 l ∧ fld (m.bits * 256 + bitN g * 128 + uN 7 l) 7 1 = bitN g
      ∧ fld (m.bits * 256 + bitN g * 128 + uN 7 l) 8 2 = m.bits := by simp only [fld]; omega
  obtain ⟨f1, f2, f3, f4, f5, f6, f7, f8⟩ := hf
  have hr1 : r - 1 + 1 = r := by omega
  refine takes_encB he (by decide) hh (by decide) (by decide) rfl ?_ fun w hop hhd hb => ?_
  · simp only [List.mem_cons, List.mem_replicate]
    rintro v (rfl | rfl | rfl | ⟨-, rfl⟩) <;> omega
  · simp only [parseWe, hop, hhd, hb, List.getD_cons_zero, List.getD_cons_succ, f1, f2, f3, f4, f5, f6, f7, f8, hr1,
      sextN_uN (by decide) hl, bitN_beq_one, rmOf_bits]
    rfl

theorem takes_wwait {e : Eng} {h : WHead} {sem sc tc : Nat} {s : Option Sync} (hacc : Instr.accepted e (.wwait h sem sc tc s) = true)
    (hcl : Instr.clean (.wwait h sem sc tc s) = true) :
    TakesBundle e (.wwait h sem sc tc s) (encode (.wwait h sem sc tc s)) := by
  simp only [Instr.accepted, Bool.and_eq_true, decide_eq_true_eq] at hacc
  obtain ⟨⟨⟨⟨⟨hh, he⟩, hsem⟩, hsc⟩, htc⟩, -⟩ := hacc
  simp only [Instr.clean, Bool.and_eq_true] at hcl
  have hf : fld (sem * 256 + sc * 64 + tc * 8) 8 8 = sem ∧ fld (sem * 256 + sc * 64 + tc * 8) 6 2 = sc
      ∧ fld (sem * 256 + sc * 64 + tc * 8) 3 3 = tc := by simp only [fld]; omega
  cases s with
  | none =>
    refine takes_encB he (by decide) hh (by decide) (by omega) rfl (by decide) fun w hop hhd hb => ?_
    have hv : fld 0 13 1 = 0 := rfl
    simp only [parseWe, hop, hhd, hb, hf, Option.elim, List.getD_cons_zero, hv]
    rfl
  | some y =>
    have hy := y.bits_lt
    have hv : fld (2 ^ 13 + y.bits) 0 13 = y.bits ∧ fld (2 ^ 13 + y.bits) 13 1 = 1 := by simp only [fld]; omega
    have hsy := rdSync_low (w := y.bits) hcl.2.2 (by omega)
    refine takes_encB he (by decide) hh (by decide) (by omega) rfl ?_ fun w hop hhd hb => ?_
    · simp only [Option.elim, List.mem_cons, List.mem_replicate]
      rintro v (rfl | ⟨-, rfl⟩) <;> omega
    · simp only [parseWe, hop, hhd, hb, hf, Option.elim, List.getD_cons_zero, hv, hsy]
      rfl

theorem takes_we {e : Eng} {i : Instr} (hg : Instr.opGroup i = .own .we) (hacc : i.accepted e = true)
    (hcl : i.clean = true) : TakesBundle e i (encode i) := by
  cases i with
  | wnop h | wret h | wend h | wsegKeep h | wjmpRet h =>
    simp only [Instr.accepted, Bool.and_eq_true] at hacc
    refine takes_encB hacc.2 (by decide) hacc.1 (by decide) (by decide) noSlots_length noSlots_lt fun w hop hhd hb => ?_
    simp only [parseWe, hop, hhd, hb]
    rfl
  | wt h m d s | wtf h m d s =>
    simp only [Instr.accepted, Bool.and_eq_true, decide_eq_true_eq] at hacc
    obtain ⟨⟨⟨hh, he⟩, hd⟩, hs⟩ := hacc
    obtain ⟨hlen, hlt, hread⟩ := slots_read hs
    have hf : fld d 0 5 = d := by simp only [fld]; omega
    refine takes_encB he (by decide) hh m.bits_lt (by omega) hlen hlt fun w hop hhd hb => ?_
    cases m <;> simp only [parseWe, hop, hhd, hb, hread, hf, WMode.bits] <;> rfl
  | wg h m c d s =>
    simp only [Instr.accepted, Bool.and_eq_true, decide_eq_true_eq] at hacc
    obtain ⟨⟨⟨⟨hh, he⟩, hc⟩, hd⟩, hs⟩ := hacc
    simp only [Instr.clean, Bool.and_eq_true] at hcl
    obtain ⟨hlen, hlt, hread⟩ := slots_read hs
    have hf : fld (d * 256 + c) 0 8 = c ∧ fld (d * 256 + c) 8 5 = d := by simp only [fld]; omega
    refine takes_encB he (by decide) hh m.bits_lt (by omega) hlen hlt fun w hop hhd hb => ?_
    cases m <;> simp only [parseWe, hop, hhd, hb, hread, hf, WMode.bits, map_off_of_clean hcl.2] <;> rfl
  | wf h acc k s =>
    simp only [Instr.accepted, Bool.and_eq_true, decide_eq_true_eq] at hacc
    obtain ⟨⟨⟨hh, he⟩, hk⟩, hs⟩ := hacc
    obtain ⟨hlen, hlt, hread⟩ := slots_read hs
    have ha := bitN_lt acc
    have hf : fld (bitN acc * 32 + k) 0 5 = k ∧ fld (bitN acc * 32 + k) 5 1 = bitN acc := by simp only [fld]; omega
    refine takes_encB he (by decide) hh (by decide) (by omega) hlen hlt fun w hop hhd hb => ?_
    simp only [parseWe, hop, hhd, hb, hread, hf, bitN_beq_one]
    rfl
  | wrow h f o en => exact takes_wrow hacc hcl
  | wsegFull h b r l g m => exact takes_wsegFull hacc
  | whook h n | wlink h n | wrdzv h n =>
    simp only [Instr.accepted, Bool.and_eq_true, decide_eq_true_eq] at hacc
    obtain ⟨⟨hh, he⟩, hn⟩ := hacc
    have hf : fld n 0 12 = n := by simp only [fld]; omega
    refine takes_encB he (by decide) hh (by decide) (by omega) noSlots_length noSlots_lt fun w hop hhd hb => ?_
    simp [parseWe, hop, hhd, hb, hf]
  | wjmp h off | wjmpLink h off =>
    simp only [Instr.accepted, Bool.and_eq_true] at hacc
    obtain ⟨⟨hh, he⟩, hoff⟩ := hacc
    refine takes_encB he (by decide) hh (by decide) (by decide) rfl (jmpSlots_lt off) fun w hop hhd hb => ?_
    simp only [parseWe, hop, hhd, hb, jmpSlots_read hoff]
    rfl
  | wwait h sem sc tc s => exact takes_wwait hacc hcl
  | _ => cases hg

end Sys2Proof
end

section
/-!
PROOF. Decoding and encoding invert each other (R66, R68, R73, R78).
-/

namespace Sys2Proof

/-! ### The bytes of a word (R5) -/

theorem toBytes_leBytes (bs : List Byte) : toBytes bs.length (leBytes bs) = bs := by
  induction bs with
  | nil => rfl
  | cons b r ih =>
    have hb : b.toNat < 256 := b.isLt
    have hdiv : (b.toNat + 256 * leBytes r) / 256 = leBytes r := by omega
    have hlow : BitVec.ofNat 8 (b.toNat + 256 * leBytes r) = b := by
      apply BitVec.eq_of_toNat_eq
      rw [BitVec.toNat_ofNat]
      omega
    simp only [List.length_cons, toBytes, leBytes, hlow, hdiv, ih]

theorem leBytes_toBytes (n w : Nat) : leBytes (toBytes n w) = w % 256 ^ n := by
  induction n generalizing w with
  | zero => simp [toBytes, leBytes, Nat.mod_one]
  | succ n ih =>
    have h0 : (BitVec.ofNat 8 w).toNat = w % 256 := by simp
    rw [toBytes, leBytes, ih, h0, pow_succ', Nat.mod_mul]

theorem toBytes_mod (n w : Nat) : toBytes n (w % 256 ^ n) = toBytes n w := by
  have hlen : (toBytes n w).length = n := Machine.toBytes_length n w
  have h := toBytes_leBytes (toBytes n w)
  rwa [leBytes_toBytes, hlen] at h

theorem toBytes_eight_leBytes {bs : List Byte} (h : bs.length = 8) {w : Nat} (hw : w % 2 ^ 64 = leBytes bs) :
    toBytes 8 w = bs := by
  rw [← toBytes_mod, show (256 : Nat) ^ 8 = 2 ^ 64 by decide, hw, ← h, toBytes_leBytes]

theorem bytesOf_length (e : Eng) (w : Nat) : (bytesOf e w).length = instrLen e := by
  unfold bytesOf instrLen
  split
  · simp [Machine.toBytes_length]
  · exact Machine.toBytes_length ..

theorem wordOf_bytesOf_scalar {e : Eng} {w : Nat} (he : e ≠ .we) (hw : w < 2 ^ 64) : wordOf e (bytesOf e w) = w := by
  have hlen : (toBytes 8 w).length = 8 := Machine.toBytes_length 8 w
  rw [bytesOf, if_neg he, wordOf_of_length_eight he hlen, leBytes_toBytes]
  exact Nat.mod_eq_of_lt hw

theorem wordOf_bytesOf_we {w : Nat} (hw : w < 2 ^ 256) : wordOf .we (bytesOf .we w) = w := by
  have h1 : (toBytes 8 (w / 2 ^ 192)).length = 8 := Machine.toBytes_length ..
  have h2 : (toBytes 8 (w / 2 ^ 128)).length = 8 := Machine.toBytes_length ..
  have h3 : (toBytes 8 (w / 2 ^ 64)).length = 8 := Machine.toBytes_length ..
  have h4 : (toBytes 8 w).length = 8 := Machine.toBytes_length ..
  simp only [bytesOf, wordOf, if_true, List.append_assoc]
  rw [List.take_left' h1, List.drop_left' h1, List.take_left' h2,
    show (16 : Nat) = 8 + 8 from rfl, ← List.drop_drop, List.drop_left' h1, List.drop_left' h2, List.take_left' h3,
    show (24 : Nat) = 8 + (8 + 8) from rfl, ← List.drop_drop, ← List.drop_drop, List.drop_left' h1, List.drop_left' h2,
    List.drop_left' h3, List.take_of_length_le h4.le]
  simp only [leBytes_toBytes]
  omega

/-- The bytes of the word that an engine reads are the bytes it read. -/
theorem bytesOf_wordOf {e : Eng} {bs : List Byte} (hl : instrLen e ≤ bs.length) : bytesOf e (wordOf e bs) = bs.take (instrLen e) := by
  unfold bytesOf instrLen at *
  split
  · next he =>
    subst he
    rw [if_pos rfl] at hl
    have l0 : (bs.take 8).length = 8 := by simp; omega
    have l1 : ((bs.drop 8).take 8).length = 8 := by simp; omega
    have l2 : ((bs.drop 16).take 8).length = 8 := by simp; omega
    have l3 : ((bs.drop 24).take 8).length = 8 := by simp; omega
    have b0 := leBytes_take_eight_lt bs
    have b1 := leBytes_take_eight_lt (bs.drop 8)
    have b2 := leBytes_take_eight_lt (bs.drop 16)
    have b3 := leBytes_take_eight_lt (bs.drop 24)
    have hw : wordOf .we bs / 2 ^ 192 % 2 ^ 64 = leBytes (bs.take 8) ∧ wordOf .we bs / 2 ^ 128 % 2 ^ 64 = leBytes ((bs.drop 8).take 8)
        ∧ wordOf .we bs / 2 ^ 64 % 2 ^ 64 = leBytes ((bs.drop 16).take 8) ∧ wordOf .we bs % 2 ^ 64 = leBytes ((bs.drop 24).take 8) := by
      simp only [wordOf, if_true]
      omega
    obtain ⟨w0, w1, w2, w3⟩ := hw
    rw [toBytes_eight_leBytes l0 w0, toBytes_eight_leBytes l1 w1, toBytes_eight_leBytes l2 w2, toBytes_eight_leBytes l3 w3]
    have hcat : ∀ k n : Nat, (bs.drop k).take (8 + n) = (bs.drop k).take 8 ++ (bs.drop (k + 8)).take n := fun k n => by
      rw [List.take_add, List.drop_drop]
    rw [show (32 : Nat) = 8 + (8 + (8 + 8)) from rfl, ← List.drop_zero (l := bs), hcat, hcat, hcat]
    simp
  · next he =>
    rw [if_neg he] at hl
    have l0 : (bs.take 8).length = 8 := by simp; omega
    have hw : wordOf e bs = leBytes (bs.take 8) := by rw [wordOf, if_neg he]
    rw [hw]
    exact toBytes_eight_leBytes l0 (Nat.mod_eq_of_lt (leBytes_take_eight_lt bs))

/-! ### Encoding, then decoding -/

/-- An accepted instruction has an opcode. -/
theorem opGroup_of_accepted {e : Eng} {i : Instr} (hacc : i.accepted e = true) : Instr.opGroup i ≠ .none := by
  intro hg
  cases i <;> first | (cases hg; done) | exact absurd hacc Bool.false_ne_true

theorem decodeWord_of_takes {e : Eng} {priv : Bool} {i : Instr} (ht : Takes e i (encode i))
    (hp : e = .sq → priv = true) (hacc : i.accepted e = true) (hcl : i.clean = true) :
    decodeWord e priv (encode i) = .ok i := by
  have hfree : opcPrivileged e priv (opcOf (encode i)) = false := by
    have hf := ht.free
    cases e
    case sq => rwa [hp rfl]
    all_goals simp [opcPrivileged]
  simp [decodeWord, ht.scalar, ht.assigned, hfree, ht.read, hacc, hcl]

theorem decodeWord_of_takesBundle {e : Eng} {priv : Bool} {i : Instr} (ht : TakesBundle e i (encode i))
    (hacc : i.accepted e = true) (hcl : i.clean = true) : decodeWord e priv (encode i) = .ok i := by
  obtain ⟨rfl, -, hass, hread⟩ := ht
  have hfree : ∀ op, opcPrivileged .we priv op = false := by simp [opcPrivileged]
  simp [decodeWord, hass, hfree, hread, hacc, hcl]

theorem decode_of_takes {e : Eng} {priv : Bool} {i : Instr} (ht : Takes e i (encode i)) (hp : e = .sq → priv = true)
    (hacc : i.accepted e = true) (hcl : i.clean = true) : decode e priv (encodeBytes e i) = .ok i := by
  rw [encodeBytes, decode_of_length_le (bytesOf_length e _).ge, wordOf_bytesOf_scalar ht.scalar ht.lt]
  exact decodeWord_of_takes ht hp hacc hcl

theorem decode_of_takesBundle {e : Eng} {priv : Bool} {i : Instr} (ht : TakesBundle e i (encode i))
    (hacc : i.accepted e = true) (hcl : i.clean = true) : decode e priv (encodeBytes e i) = .ok i := by
  rw [encodeBytes, decode_of_length_le (bytesOf_length e _).ge]
  obtain rfl := ht.we
  rw [wordOf_bytesOf_we ht.lt]
  exact decodeWord_of_takesBundle ht hacc hcl

theorem decode_encodeBytes {e : Eng} {priv : Bool} {i : Instr} (hacc : i.accepted e = true) (hcl : i.clean = true)
    (hp : e = .sq → priv = true) : decode e priv (encodeBytes e i) = .ok i := by
  cases hg : Instr.opGroup i with
  | none => exact absurd hg (opGroup_of_accepted hacc)
  | common => exact decode_of_takes (takes_common hg hacc hcl) hp hacc hcl
  | sys => exact decode_of_takes (takes_sys hg hacc) hp hacc hcl
  | own x =>
    cases x with
    | sq => exact decode_of_takes (takes_sq hg hacc hcl) hp hacc hcl
    | va => exact decode_of_takes (takes_va hg hacc) hp hacc hcl
    | ve => exact decode_of_takes (takes_ve hg hacc) hp hacc hcl
    | me => exact decode_of_takes (takes_me hg hacc) hp hacc hcl
    | xe => exact decode_of_takes (takes_xe hg hacc) hp hacc hcl
    | we => exact decode_of_takesBundle (takes_we hg hacc hcl) hacc hcl
    | wick => exact absurd hg (by cases i <;> exact nofun)

/-! ### Decoding, then encoding -/

theorem decodeWord_clean {e : Eng} {priv : Bool} {w : Nat} {i : Instr} (h : decodeWord e priv w = .ok i) : i.clean = true := by
  simp only [decodeWord] at h
  generalize (if e = .we then fld w 248 8 else opcOf w) = opc at h
  split at h
  · cases h
  split at h
  · cases h
  split at h
  · cases h
  split at h
  · cases h
  split at h
  · cases h
  next hc =>
    cases h
    simp only [Bool.not_eq_true', Bool.not_eq_false, Bool.and_eq_true] at hc
    exact hc.1

theorem length_of_decode {e : Eng} {priv : Bool} {bs : List Byte} {i : Instr} (h : decode e priv bs = .ok i) :
    instrLen e ≤ bs.length := by
  unfold decode at h
  split at h
  · cases h
  · omega

theorem wellFormed_of_decode {e : Eng} {priv : Bool} {bs : List Byte} {i : Instr} (h : decode e priv bs = .ok i) :
    i.wellFormed e = true := by
  have hw := h
  rw [decode_of_length_le (length_of_decode h)] at hw
  rw [Instr.wellFormed, Bool.and_eq_true]
  exact ⟨(decode_eq_ok h).2.1, decodeWord_clean hw⟩

end Sys2Proof

namespace Sys2Proof.Machine

/-- Settles O7: each field of a word reads back as what is laid out in it, form by form; and a word that decodes is the
encoding of what it reads as, by the last check. -/
theorem decodeAndEncodeAgree : Obligations.DecodeAndEncodeAgree := by
  refine ⟨fun e priv i hwf hp => ?_, fun e priv bs i h => ⟨wellFormed_of_decode h, ?_⟩⟩
  · rw [Instr.wellFormed, Bool.and_eq_true] at hwf
    exact decode_encodeBytes hwf.1 hwf.2 hp
  · rw [encodeBytes, (decode_eq_ok h).2.2, bytesOf_wordOf (length_of_decode h)]

end Sys2Proof.Machine
end

section
/-!
PROOF. One step of the module: the engine's turn (R78, R97, R100), the other micro-steps (log 4), words that do not decode
(R78, R144), words written out from the spec, and the reset values.
-/

namespace Sys2Proof.Machine

/-! ### Words that do not decode -/

theorem opcodeByte_eq (e : Eng) (bs : List Byte) :
    opcodeByte e bs = if e = .we then wordOf e bs / 2 ^ 248 % 2 ^ 8 else wordOf e bs / 2 ^ 56 % 2 ^ 8 := rfl

/-- Settles O2: the trap of a decoding error has the error's cause and the opcode byte. -/
theorem undecodableWordsTrap : Obligations.UndecodableWordsTrap := by
  unfold Obligations.UndecodableWordsTrap
  intro s s1 cid slot e bs er hF hd
  have htrap := hF.traps_of_decode_error hd
  rw [opcodeByte_eq] at htrap
  cases er <;> exact htrap

/-! ### The turn of an engine -/

theorem endTurn_of_not_next (cid : Nat) (e : Eng) (o : Host.Outcome State Fault Refusal) (h : ∀ s, o ≠ .next s) :
    endTurn cid e o = o := by
  cases o with
  | next s => exact absurd rfl (h s)
  | fault r => rfl
  | refused r => rfl

/-- Marking a stream as ready changes that mark alone. -/
structure MarksReady (s t : State) (cid : Nat) : Prop where
  rest : ({ t with cores := s.cores } : State) = s
  others : ∀ j, j ≠ cid → t.core j = s.core j
  core : ({ t.core cid with streams := (s.core cid).streams } : Core) = s.core cid
  streams : ∀ k, ∃ b, (t.core cid).stream k = { (s.core cid).stream k with ready := b }

theorem MarksReady.refl (s : State) (cid : Nat) : MarksReady s s cid :=
  ⟨rfl, fun _ _ => rfl, rfl, fun _ => ⟨_, rfl⟩⟩

theorem MarksReady.trans {s t u : State} {cid : Nat} (h : MarksReady s t cid) (h' : MarksReady t u cid) :
    MarksReady s u cid := by
  refine ⟨?_, fun j hj => (h'.others j hj).trans (h.others j hj), ?_, fun k => ?_⟩
  · have hr := congrArg (fun x : State => { x with cores := s.cores }) h'.rest
    exact hr.trans h.rest
  · have hc := congrArg (fun x : Core => { x with streams := (s.core cid).streams }) h'.core
    exact hc.trans h.core
  · obtain ⟨b, hb⟩ := h.streams k
    obtain ⟨b', hb'⟩ := h'.streams k
    exact ⟨b', by rw [hb', hb]⟩

theorem MarksReady.mark (s : State) (cid k : Nat) :
    MarksReady s (s.updCore cid fun c => c.updStream k fun t => { t with ready := true }) cid := by
  refine ⟨rfl, fun j hj => by simp [State.core_updCore, hj], by simp, fun j => ?_⟩
  simp only [State.core_updCore, Core.stream_updStream, if_true]
  split
  · exact ⟨true, by subst_vars; rfl⟩
  · exact ⟨_, rfl⟩

theorem MarksReady.marks (cid : Nat) (e : Eng) (is : List Nat) (s : State) :
    MarksReady s (is.foldl (fun s1 i => s1.updCore cid fun c => c.updStream (skey e i) fun t =>
      { t with ready := true }) s) cid := by
  induction is generalizing s with
  | nil => exact .refl s cid
  | cons i is ih => exact (MarksReady.mark s cid (skey e i)).trans (ih _)

theorem State.marksReady (s : State) (cid : Nat) (e : Eng) : MarksReady s (s.markReady cid e) cid := by
  unfold State.markReady
  dsimp only
  split
  · exact .refl s cid
  · exact .marks cid e _ s

/-- The step of an engine's turn that runs an instruction. -/
theorem step_of_issueTurn_run {s s2 : State} {cid : Nat} {e : Eng} {tried : List Nat} {r : List Turn} {i : Instr}
    (ht : s.todo = .issue cid e tried :: r) (hi : (s.atTurn cid e tried r).issueTurn cid e tried = .run i s2) :
    step s = endTurn cid e (exec i s2) := by
  simp only [State.atTurn] at hi
  simp only [step, ht, List.isEmpty_iff, hi]

/-- A stream whose fetched bytes decode to an instruction that nothing holds runs it. -/
theorem tryStream_of_decode_ok {s : State} {cid i : Nat} {e : Eng} {tried : List Nat} {bs : List Byte} {x : Instr}
    (hw : ((s.core cid).stream (skey e i)).wait = .none)
    (hf : ({ s with cur := ⟨cid, e, i, tried⟩ } : State).fetch cid (skey e i) = .ok bs)
    (hd : decode e ((s.core cid).privileged (skey e i)) bs = .ok x)
    (hh : (s.core cid).interlocked (skey e i) x = false) :
    s.tryStream cid e i tried = .run x { s with cur := ⟨cid, e, i, tried⟩ } := by
  simp [State.tryStream, hw, hf, hd, hh]

/-- Settles O1: the turn chooses the stream, whose instruction nothing holds. -/
theorem stepRunsDecodedInstruction : Obligations.StepRunsDecodedInstruction := by
  unfold Obligations.StepRunsDecodedInstruction
  refine ⟨fun s s1 cid slot e bs i hF hd hh => ?_, fun _ _ _ => rfl, endTurn_of_not_next, fun s cid e => ?_⟩
  · obtain ⟨⟨tried, r, htodo, hchoose, rfl⟩, hfree, hbytes⟩ := hF
    refine step_of_issueTurn_run htodo ?_
    simp only [State.issueTurn, hchoose]
    exact tryStream_of_decode_ok hfree hbytes hd hh
  · obtain ⟨hrest, hothers, hcore, hstreams⟩ := s.marksReady cid e
    exact ⟨hrest, hothers, hcore, hstreams⟩

/-! ### The end of a clock -/

/-- The clock count and the safety trip. -/
def State.clockState (s : State) : Nat × Bool := (s.cycles, s.trip)

theorem State.clockState_foldl {β : Type} {f : State → β → State} (hf : ∀ s b, (f s b).clockState = s.clockState)
    (l : List β) (s : State) : (l.foldl f s).clockState = s.clockState := by
  induction l generalizing s with
  | nil => rfl
  | cons b l ih => rw [List.foldl_cons, ih, hf]

theorem State.clockState_wantLine (s : State) (c leaf va line : Nat) :
    (s.wantLine c leaf va line).clockState = s.clockState := by
  unfold State.wantLine
  dsimp only
  repeat' split
  all_goals rfl

theorem State.clockState_ahead (s : State) (c root n va : Nat) : (s.ahead c root n va).clockState = s.clockState := by
  induction n generalizing va with
  | zero => rfl
  | succ n ih =>
    unfold State.ahead
    dsimp only
    split
    · rfl
    · split
      · rfl
      · split
        · rfl
        · split
          · exact ih _
          · exact s.clockState_wantLine ..

theorem State.clockState_weAhead (s : State) : s.weAhead.clockState = s.clockState := by
  refine State.clockState_foldl (fun s e => ?_) _ _
  split
  · rfl
  · refine State.clockState_foldl (fun s k => ?_) _ _
    dsimp only
    split
    · rfl
    · exact s.clockState_ahead ..

theorem State.clockState_softErrors (s : State) : s.softErrors.clockState = s.clockState := by
  refine State.clockState_foldl (fun s e => ?_) _ _
  unfold State.softError
  dsimp only
  split
  · rfl
  · rfl

theorem State.clockState_walkGo (s : State) (d : Nat) (w : Walker) (st : WStep) :
    (s.walkGo d w st).clockState = s.clockState := by
  cases st with
  | done r => rfl
  | next l a => rfl

theorem State.clockState_takeWalks (s : State) : s.takeWalks.clockState = s.clockState := by
  refine State.clockState_foldl (fun s k => ?_) _ _
  unfold State.takeWalk
  split
  · rfl
  · split
    · rfl
    · exact State.clockState_walkGo ..

theorem State.clockState_endClock (s : State) : s.endClock.clockState = (s.cycles + 1, s.trip) := by
  have h : s.softErrors.weAhead.takeWalks.clockState = s.clockState :=
    calc _ = s.softErrors.weAhead.clockState := State.clockState_takeWalks _
      _ = s.softErrors.clockState := State.clockState_weAhead _
      _ = s.clockState := State.clockState_softErrors s
  obtain ⟨hc, ht⟩ := Prod.mk.inj h
  exact Prod.ext (congrArg (· + 1) hc) ht

/-- Settles O3: the turns that are no engine's run what they name; the end of a clock counts it, and after the safety trip
nothing moves. -/
theorem stepTakesTheNextTurn : Obligations.StepTakesTheNextTurn := by
  unfold Obligations.StepTakesTheNextTurn
  refine ⟨fun s i r ht => by simp only [step, ht], fun s n r ht => by simp only [step, ht],
    fun s n r ht => by simp only [step, ht], fun s c j r ht => by simp only [step, ht], fun s ht htrip => ?_,
    fun s ht htrip => ?_⟩
  · have hstep : step s = .next s.newClock := by simp only [step, ht]
    obtain ⟨hcyc, htr⟩ := Prod.mk.inj s.clockState_endClock
    have hmem : s.newClock.mem = s.mem := congrArg Prod.fst s.mems_newClock
    have hnew : s.newClock = { s.endClock with todo := s.endClock.plan, agenda := [], freeCtr := s.freeCtr + 4 } :=
      if_neg (by simp [htrip])
    exact ⟨_, hstep, by rw [hnew]; exact hcyc, hmem, by rw [hnew]; exact htr.trans htrip⟩
  · have hnew : s.newClock = { s with todo := (s.agenda.filter tripInput).map .event, agenda := [] } := by
      simp only [State.newClock, htrip, if_true]
    exact ⟨s.newClock, by simp only [step, ht], by rw [hnew], by rw [hnew], by rw [hnew], by rw [hnew]⟩

/-! ### The reset values -/

theorem Stream.fpstat_fresh : ({} : Stream).fpstat = 0 := by decide +kernel

/-- Settles O60: every map of the reset state is empty, and reads as its default. -/
theorem resetValues : Obligations.ResetValues := by
  unfold Obligations.ResetValues
  intro s
  exact ⟨rfl, rfl, rfl, rfl, rfl, ⟨rfl, rfl⟩, fun _ => ⟨rfl, rfl⟩, by decide, rfl,
    fun _ => ⟨rfl, rfl, rfl, fun _ => ⟨rfl, rfl⟩, fun _ => ⟨rfl, Stream.fpstat_fresh⟩, fun _ => rfl⟩,
    fun _ _ => ⟨rfl, rfl, rfl⟩, fun _ => ⟨rfl, rfl, rfl, rfl, rfl⟩⟩

/-! ### Words of the spec -/

/-- Settles O6, by running the decoder on the nine words. -/
theorem decodesSpecWords : Obligations.DecodesSpecWords := by
  unfold Obligations.DecodesSpecWords
  decide +kernel

end Sys2Proof.Machine
end

section
/-!
PROOF. Words whose guard is false (R67): every word runs in one frame, which tests the guard before the word's own meaning.
-/

namespace Sys2Proof.Machine

/-- The outcome is that of the word frame with head h, around some meaning. -/
def WordFrame (s : State) (h : Head) (o : Host.Outcome State Fault Refusal) : Prop := ∃ body, o = runI s h body

theorem WordFrame.ite {s : State} {h : Head} {p : Prop} [Decidable p] {a b : Host.Outcome State Fault Refusal}
    (ha : WordFrame s h a) (hb : WordFrame s h b) : WordFrame s h (if p then a else b) := by
  split
  · exact ha
  · exact hb

theorem WordFrame.runCmp (s : State) (h : Head) (d : CmpDst) (a b : VSrc) (f : VFmt) (md : ElMode) (lat : Nat)
    (op : Nat → Nat → Bool × Nat) : WordFrame s h (runCmp s h d a b f md lat op) := by
  cases d <;> exact ⟨_, rfl⟩

/-- Every instruction with a word's head runs in the word frame. -/
theorem exec_wordFrame {i : Instr} {h : Head} (hh : i.head = some h) (s : State) : WordFrame s h (exec i s) := by
  cases i <;> cases hh
  case trap => exact .ite ⟨_, rfl⟩ ⟨_, rfl⟩
  case vfcmp => exact .runCmp ..
  case vcmp => exact .runCmp ..
  case xqryRing => exact .ite ⟨_, rfl⟩ ⟨_, rfl⟩
  all_goals exact ⟨_, rfl⟩

/-- In the word frame a false guard leaves what the tokens do. -/
theorem runI_guard_false {s : State} {h : Head} {c : Core} (body : State → Res) (hg : s.self.guardTrue h = false)
    (ht : (s.here.unpop s.cur.key).tokens s.cur.key h.tp h.pop h.push = .ok c) :
    runI s h body = .next ((s.setCore s.cur.core c).updCore s.cur.core fun x => s.issued h x .seq 1) := by
  simp only [State.here, State.self] at hg ht
  simp only [runI, runWord, hg, ht, State.issued, State.self, State.here, Core.unpop_stream_job, Bool.false_eq_true,
    if_false]

theorem coreStep_setUpd (s : State) (cid : Nat) (a : Core) (g : Core → Core) :
    CoreStep s ((s.setCore cid a).updCore cid g) cid (g a) := by
  rw [State.updCore]
  generalize hv : g ((s.setCore cid a).core cid) = v
  rw [State.core_setCore_same] at hv
  subst hv
  exact ⟨State.core_setCore_same .., fun j hj => by simp [State.core_setCore, hj], rfl⟩

/-- Settles O8: the word frame tests the guard, whatever the instruction. -/
theorem falseGuardActsAsNop : Obligations.FalseGuardActsAsNop := by
  unfold Obligations.FalseGuardActsAsNop
  intro s i h c hh hg ht
  obtain ⟨body, hb⟩ := exec_wordFrame hh s
  exact ⟨_, hb.trans (runI_guard_false body hg ht), coreStep_setUpd ..⟩

end Sys2Proof.Machine
end

section
/-!
PROOF. Scalar arithmetic, comparisons and predicates (R116 to R118): the values as the entries state them.
-/

namespace Sys2Proof.Machine

/-! ### Values of R116 -/

theorem ofNat_toNat_add (x y : Word) : BitVec.ofNat 64 (x.toNat + y.toNat) = x + y := by
  simp [BitVec.ofNat_add]

theorem ofInt_toInt_sub (x y : Word) : BitVec.ofInt 64 (x.toInt - y.toInt) = x - y := by
  simp [Int.sub_eq_add_neg, BitVec.ofInt_add, BitVec.ofInt_neg, BitVec.sub_eq_add_neg]

theorem ofInt_toInt_add (x : Word) (i : Int) : BitVec.ofInt 64 (x.toInt + i) = x + immW i := by
  simp [BitVec.ofInt_add, immW]

theorem ofNat_toNat_mul (x y : Word) : BitVec.ofNat 64 (x.toNat * y.toNat) = x * y := by
  simp [BitVec.ofNat_mul]

theorem ofNat_toNat_shiftLeft (x : Word) (n : Nat) : BitVec.ofNat 64 (x.toNat * 2 ^ n) = x <<< n := by
  refine BitVec.eq_of_toNat_eq ?_
  simp [Nat.shiftLeft_eq]

theorem ofNat_toNat_shiftRight (x : Word) (n : Nat) : BitVec.ofNat 64 (x.toNat / 2 ^ n) = x >>> n := by
  refine BitVec.eq_of_toNat_eq ?_
  have hlt : x.toNat / 2 ^ n < 2 ^ 64 := lt_of_le_of_lt (Nat.div_le_self ..) x.isLt
  rw [BitVec.toNat_ofNat, BitVec.toNat_ushiftRight, Nat.shiftRight_eq_div_pow, Nat.mod_eq_of_lt hlt]

theorem ofInt_toInt_sshiftRight (x : Word) (n : Nat) : BitVec.ofInt 64 (x.toInt / 2 ^ n) = x.sshiftRight n := by
  rw [← BitVec.ofInt_toInt (x := x.sshiftRight n), BitVec.toInt_sshiftRight, Int.shiftRight_eq_div_pow]
  norm_cast

theorem slt_eq_decide (x y : Word) : x.slt y = decide (x.toInt < y.toInt) := by
  rw [Bool.eq_iff_iff, BitVec.slt_iff_toInt_lt, decide_eq_true_eq]

theorem ult_eq_decide (x y : Word) : x.ult y = decide (x.toNat < y.toNat) := rfl

theorem ofInt_min_toInt (x y : Word) : BitVec.ofInt 64 (min x.toInt y.toInt) = if x.slt y then x else y := by
  rw [slt_eq_decide]
  by_cases h : x.toInt < y.toInt
  · simp [h, min_eq_left h.le]
  · simp [h, min_eq_right (not_lt.mp h)]

theorem ofInt_max_toInt (x y : Word) : BitVec.ofInt 64 (max x.toInt y.toInt) = if x.slt y then y else x := by
  rw [slt_eq_decide]
  by_cases h : x.toInt < y.toInt
  · simp [h, max_eq_right h.le]
  · simp [h, max_eq_left (not_lt.mp h)]

theorem ofNat_min_toNat (x y : Word) : BitVec.ofNat 64 (min x.toNat y.toNat) = if x.ult y then x else y := by
  rw [ult_eq_decide]
  by_cases h : x.toNat < y.toNat
  · simp [h, min_eq_left h.le]
  · simp [h, min_eq_right (not_lt.mp h)]

theorem ofNat_max_toNat (x y : Word) : BitVec.ofNat 64 (max x.toNat y.toNat) = if x.ult y then y else x := by
  rw [ult_eq_decide]
  by_cases h : x.toNat < y.toNat
  · simp [h, max_eq_right h.le]
  · simp [h, max_eq_left (not_lt.mp h)]

/-! ### One result of scalar sources -/

/-- An ALU instruction whose operands pass writes its one result. -/
theorem aluBody_done {s : State} {lat : Nat} {d : Opnd} {srcs : List Opnd} {f : List Word → Word} {c : Core}
    (hq : c.opndCheck s.cur.key srcs (some d) = none) :
    aluBody s lat d srcs f c = .done ((c.opndPop srcs).opndWrite s.cur.key (comLat s.cur.eng lat 1) d
      (f (srcs.map (c.opndVal s.cur.key))) 0) .seq (comLat s.cur.eng lat 1) := by
  simp only [aluBody, hq]

/-- A predicate instruction whose operands pass writes its one result. -/
theorem predBody_done {s : State} {p : Nat} {srcs : List Opnd} {f : List Word → Bool} {c : Core}
    (hq : c.opndCheck s.cur.key srcs none = none) :
    predBody s p srcs f c = .done ((c.opndPop srcs).result s.cur.key (comLat s.cur.eng 1 1)
      (.p p (f (srcs.map (c.opndVal s.cur.key)))) 0) .seq (comLat s.cur.eng 1 1) := by
  simp only [predBody, hq]

/-- An instruction that runs as a two-source ALU form takes the values of the form's function. -/
theorem AluTwo.of_exec {mk : Head → Opnd → Opnd → Opnd → Instr} {lat : Nat} {f : Word → Word → Word}
    (g : Word → Word → Word) (hx : ∀ s h d a b, exec (mk h d a b) s = runAlu s h lat d a b g) (hg : ∀ x y, f x y = g x y) :
    AluTwo mk lat f := by
  intro s h d a b c hI hq l
  simp only [Runs, Completes, hx, hg]
  exact runC_done hI (aluBody_done hq)

/-- An instruction that runs as a one-source ALU form takes the values of the form's function. -/
theorem AluOne.of_exec {α : Type} {mk : Head → Opnd → Opnd → α → Instr} {f : Word → α → Word} (g : Word → α → Word)
    (hx : ∀ s h d a i, exec (mk h d a i) s = runAlu1 s h d a fun x => g x i) (hg : ∀ x i, f x i = g x i) :
    AluOne mk f := by
  intro s h d a i c hI hq l
  simp only [Runs, Completes, hx, hg]
  exact runC_done hI (aluBody_done hq)

/-- Settles O9: each form runs with the function of its entry. -/
theorem twoSourceResults : Obligations.TwoSourceResults := by
  unfold Obligations.TwoSourceResults
  exact ⟨.of_exec (· + ·) (fun _ _ _ _ _ => rfl) ofNat_toNat_add,
    .of_exec (· - ·) (fun _ _ _ _ _ => rfl) ofInt_toInt_sub,
    .of_exec (· &&& ·) (fun _ _ _ _ _ => rfl) fun _ _ => rfl,
    .of_exec (· ||| ·) (fun _ _ _ _ _ => rfl) fun _ _ => rfl,
    .of_exec (· ^^^ ·) (fun _ _ _ _ _ => rfl) fun _ _ => rfl,
    .of_exec (fun x y => x &&& ~~~y) (fun _ _ _ _ _ => rfl) fun _ _ => rfl,
    .of_exec (fun x y => x <<< shAmt y) (fun _ _ _ _ _ => rfl) fun x _ => ofNat_toNat_shiftLeft x _,
    .of_exec (fun x y => x >>> shAmt y) (fun _ _ _ _ _ => rfl) fun x _ => ofNat_toNat_shiftRight x _,
    .of_exec (fun x y => x.sshiftRight (shAmt y)) (fun _ _ _ _ _ => rfl) fun x _ => ofInt_toInt_sshiftRight x _,
    .of_exec (· * ·) (fun _ _ _ _ _ => rfl) ofNat_toNat_mul,
    .of_exec (fun x y => BitVec.ofInt 64 (x.toInt * y.toInt / 2 ^ 64)) (fun _ _ _ _ _ => rfl) fun _ _ => rfl,
    .of_exec (fun x y => word (x.toNat * y.toNat / 2 ^ 64)) (fun _ _ _ _ _ => rfl) fun _ _ => rfl,
    .of_exec (fun x y => if x.slt y then x else y) (fun _ _ _ _ _ => rfl) ofInt_min_toInt,
    .of_exec (fun x y => if x.slt y then y else x) (fun _ _ _ _ _ => rfl) ofInt_max_toInt,
    .of_exec (fun x y => if x.ult y then x else y) (fun _ _ _ _ _ => rfl) ofNat_min_toNat,
    .of_exec (fun x y => if x.ult y then y else x) (fun _ _ _ _ _ => rfl) ofNat_max_toNat,
    .of_exec (fun x y => if x.slt y then 1 else 0) (fun _ _ _ _ _ => rfl) fun x y => by simp [slt_eq_decide],
    .of_exec (fun x y => if x.ult y then 1 else 0) (fun _ _ _ _ _ => rfl) fun x y => by simp [ult_eq_decide]⟩

/-! ### Counts of R116 -/

theorem clz64_eq (x : Word) : (if x = 0 then 64 else BitVec.ofNat 64 (63 - Nat.log2 x.toNat)) = clz64 x := by
  by_cases h : x = 0
  · simp [h, clz64, bitLen, word]
  · have hn : x.toNat ≠ 0 := fun h0 => h (BitVec.eq_of_toNat_eq h0)
    simp only [clz64, bitLen, word, h, hn, if_false]
    congr 1
    omega

theorem bit_toNat (x : Word) (i : Nat) : bit x.toNat i = x.getLsbD i := by
  rw [BitVec.getLsbD, Nat.testBit_eq_decide_div_mod_eq]
  rfl

theorem popc64_eq (x : Word) : BitVec.ofNat 64 ((List.range 64).countP fun i => x.getLsbD i) = popc64 x := by
  simp only [popc64, word, bit_toNat, List.countP_eq_length_filter]

/-! ### Comparisons and predicates -/

theorem condHolds_iff (cd : Cond) (x y : Word) : condHolds cd x y = true ↔ CondSpec cd x y := by
  cases cd <;> simp [condHolds, CondSpec, slt_eq_decide, ult_eq_decide]

theorem Core.opndCheck_nil (c : Core) (k : Nat) : c.opndCheck k [] none = none := rfl

theorem Core.opndPop_nil (c : Core) : c.opndPop [] = c := rfl

/-- An instruction that runs as a predicate form gives its predicate the value of the form's function. -/
theorem PredTwo.of_exec {mk : Head → Nat → Nat → Nat → Instr} {f : Bool → Bool → Bool}
    (hx : ∀ s h d a b, exec (mk h d a b) s = runC s h fun c =>
      predBody s d [] (fun _ => f ((c.stream s.cur.key).getP a) ((c.stream s.cur.key).getP b)) c) : PredTwo mk f := by
  intro s h d a b c hI t l
  simp only [Runs, Completes, hx]
  exact runC_done hI (predBody_done (c.opndCheck_nil _))

theorem sel_runs {s : State} {h : Head} {d a b : Opnd} {p : Nat} {c : Core} (hI : Issues s h c)
    (hq : c.opndCheck s.cur.key [a, b] (some d) = none) :
    let l := comLat s.cur.eng 1 1
    Runs (.sel h d a b p) h s ((c.opndPop [a, b]).opndWrite s.cur.key l d
      (if (c.stream s.cur.key).getP p then c.opndVal s.cur.key a else c.opndVal s.cur.key b) 0) .seq l := by
  simp only [Runs, Completes, exec_sel, execSel]
  exact runC_done hI (aluBody_done hq)

theorem lih_runs {s : State} {h : Head} {d : Opnd} {i : Int} {c : Core} (hI : Issues s h c)
    (hq : c.opndCheck s.cur.key [] (some d) = none) :
    let l := comLat s.cur.eng 1 1
    Runs (.lih h d i) h s (c.opndWrite s.cur.key l d (BitVec.ofInt 64 (4096 * i)) 0) .seq l := by
  simp only [Runs, Completes, exec_lih, execLih]
  refine runC_done hI ((aluBody_done hq).trans ?_)
  rw [Core.opndPop_nil, immW, show i * 2 ^ 12 = 4096 * i by omega]

theorem cmp_runs {s : State} {h : Head} {cd : Cond} {p : Nat} {a b : Opnd} {c : Core} (hI : Issues s h c)
    (hq : c.opndCheck s.cur.key [a, b] none = none) :
    let l := comLat s.cur.eng 1 1
    Runs (.cmp h cd p a b) h s ((c.opndPop [a, b]).result s.cur.key l
      (.p p (condHolds cd (c.opndVal s.cur.key a) (c.opndVal s.cur.key b))) 0) .seq l := by
  simp only [Runs, Completes, exec_cmp, execCmp]
  exact runC_done hI (predBody_done hq)

theorem cmpi_runs {s : State} {h : Head} {cd : Cond} {p : Nat} {a : Opnd} {i : Int} {c : Core} (hI : Issues s h c)
    (hq : c.opndCheck s.cur.key [a] none = none) :
    let l := comLat s.cur.eng 1 1
    Runs (.cmpi h cd p a i) h s ((c.opndPop [a]).result s.cur.key l
      (.p p (condHolds cd (c.opndVal s.cur.key a) (immW i))) 0) .seq l := by
  simp only [Runs, Completes, exec_cmpi, execCmpi]
  exact runC_done hI (predBody_done hq)

/-- Settles O10: each form runs with the function of its entry; a comparison's predicate is that of its condition. -/
theorem oneSourceAndPredicateResults : Obligations.OneSourceAndPredicateResults := by
  unfold Obligations.OneSourceAndPredicateResults
  refine ⟨⟨.of_exec (fun x i => x + immW i) (fun _ _ _ _ _ => rfl) ofInt_toInt_add,
    .of_exec (fun x i => x &&& immW i) (fun _ _ _ _ _ => rfl) fun _ _ => rfl,
    .of_exec (fun x i => x ||| immW i) (fun _ _ _ _ _ => rfl) fun _ _ => rfl,
    .of_exec (fun x i => x ^^^ immW i) (fun _ _ _ _ _ => rfl) fun _ _ => rfl,
    .of_exec (fun x n => x <<< n) (fun _ _ _ _ _ => rfl) ofNat_toNat_shiftLeft,
    .of_exec (fun x n => x >>> n) (fun _ _ _ _ _ => rfl) ofNat_toNat_shiftRight,
    .of_exec (fun x n => x.sshiftRight n) (fun _ _ _ _ _ => rfl) ofInt_toInt_sshiftRight,
    .of_exec (fun x i => if x.slt (immW i) then 1 else 0) (fun _ _ _ _ _ => rfl)
      fun x i => by simp [slt_eq_decide, immW],
    .of_exec (fun x i => if x.ult (immW i) then 1 else 0) (fun _ _ _ _ _ => rfl)
      fun x i => by simp [ult_eq_decide, immW],
    .of_exec (fun x _ => clz64 x) (fun _ _ _ _ _ => rfl) fun x _ => clz64_eq x,
    .of_exec (fun x _ => popc64 x) (fun _ _ _ _ _ => rfl) fun x _ => popc64_eq x,
    fun _ _ _ _ _ _ _ hI hq => sel_runs hI hq, fun _ _ _ _ _ hI hq => lih_runs hI hq⟩,
    fun _ _ _ _ _ _ _ hI hq => ⟨_, condHolds_iff .., cmp_runs hI hq⟩,
    fun _ _ _ _ _ _ _ hI hq => ⟨_, condHolds_iff .., cmpi_runs hI hq⟩,
    .of_exec fun _ _ _ _ _ => rfl, .of_exec fun _ _ _ _ _ => rfl, .of_exec fun _ _ _ _ _ => rfl,
    .of_exec fun _ _ _ _ _ => rfl, .of_exec fun _ _ _ _ _ => rfl, .of_exec fun _ _ _ _ _ => rfl,
    .of_exec fun _ _ _ _ _ => rfl⟩

end Sys2Proof.Machine
end

section
/-!
PROOF. Control flow (R110 to R113, R121): NOP, END, RDZV, transfers, hardware loops and TRAP.
-/

namespace Sys2Proof.Machine

/-! ### Words and bundles by what their bodies give -/

theorem Runs.of_runC {i : Instr} {s : State} {h : Head} {c c2 : Core} {body : Core → CRes} {f : Flow} {lat : Nat}
    (hx : exec i s = runC s h body) (hI : Issues s h c) (hb : body c = .done c2 f lat) : Runs i h s c2 f lat := by
  simp only [Runs, Completes, hx]
  exact runC_done hI hb

theorem Traps.of_runC {i : Instr} {s : State} {h : Head} {c : Core} {body : Core → CRes} {a st : Nat}
    (hx : exec i s = runC s h body) (hI : Issues s h c) (hb : body c = .trap a st) : Traps i s a st := by
  simp only [Traps, Completes, hx]
  exact ⟨_, runC_trap hI hb, rfl⟩

theorem Acts.of_runI {i : Instr} {s s2 : State} {h : Head} {c : Core} {body : State → Res} {f : Flow} {lat : Nat}
    (hx : exec i s = runI s h body) (hI : Issues s h c) (hb : body (s.setCore s.cur.core c) = .done s2 f lat) :
    Acts i h s s2 f lat := by
  simp only [Acts, Completes, hx]
  exact ⟨_, runI_done hI hb, rfl⟩

theorem Traps.of_runI {i : Instr} {s : State} {h : Head} {c : Core} {body : State → Res} {a st : Nat}
    (hx : exec i s = runI s h body) (hI : Issues s h c) (hb : body (s.setCore s.cur.core c) = .trap a st) :
    Traps i s a st := by
  simp only [Traps, Completes, hx]
  exact ⟨_, runI_trap hI hb, rfl⟩

/-! ### NOP, END and RDZV -/

/-- Where a stream has ended, what is left to do of its END leaves its slot fresh. -/
theorem Core.stream_finish_gone {c : Core} {x : Ctx} (hf : c.stream x.key = {}) (clk job len tp : Nat) (push : Bool) :
    (c.finish clk job x len tp push .gone 1).stream x.key = {} := by
  have hu : (c.updStream x.key fun t => t.after clk len .gone).stream x.key = {} := by
    rw [Core.stream_updStream_same, hf]
    rfl
  simp only [Core.finish, Core.retireIn]
  split <;> simp_all [Core.stream]

theorem State.stream_endStream (s : State) (cid k : Nat) : ((s.endStream cid k).core cid).stream k = {} := by
  simp [State.endStream]

/-- Settles O11. -/
theorem endingResults : Obligations.EndingResults := by
  unfold Obligations.EndingResults
  refine ⟨fun s h c hI => .of_runC rfl hI rfl, fun s h c hI hw => ?_, fun s h n c hI hw => ?_⟩
  · refine ⟨_, runI_done hI (s2 := (s.setCore s.cur.core c).endStream s.cur.core s.cur.key) (f := .gone) (lat := 1) ?_,
      rfl, ?_⟩
    · simp [hw]
    · rw [State.core_updCore_same]
      exact Core.stream_finish_gone (State.stream_endStream ..) ..
  · refine Runs.of_runC (exec_rdzv h n s) hI ?_
    simp [hw]

/-! ### Transfers (R111) -/

theorem uI_natCast {w a : Nat} (h : a < 2 ^ w) : uI w (a : Int) = a := by
  simp only [uI]
  norm_cast
  simp [Nat.mod_eq_of_lt h]

theorem targetCheck_natCast {a : Nat} (hlt : a < 2 ^ 48) (h8 : a % 8 = 0) : targetCheck (a : Int) = none := by
  have hu : uI 64 (a : Int) = a := uI_natCast (by omega)
  simp only [targetCheck, hu, h8, Nat.not_le.mpr hlt]
  simp

theorem targetCheck_of_le {a : Nat} (hge : 2 ^ 48 ≤ a) (h64 : a < 2 ^ 64) :
    targetCheck (a : Int) = some (0x0B, addrStatus a) := by
  simp only [targetCheck, uI_natCast h64, hge, if_true]

theorem targetCheck_of_misaligned {a : Nat} (hlt : a < 2 ^ 48) (h8 : a % 8 ≠ 0) :
    targetCheck (a : Int) = some (0x07, addrStatus a) := by
  have hu : uI 64 (a : Int) = a := uI_natCast (by omega)
  simp only [targetCheck, hu, Nat.not_le.mpr hlt]
  simp [h8]

/-- A branch that leaves the address space, in either direction. -/
theorem targetCheck_of_outside {a : Int} (hlo : -2 ^ 48 ≤ a) (hhi : a < 2 ^ 63) (ho : a < 0 ∨ 2 ^ 48 ≤ a) :
    targetCheck a = some (0x0B, addrStatus (a % 2 ^ 64).toNat) := by
  have hu : 2 ^ 48 ≤ uI 64 a := by simp only [uI]; omega
  simp only [targetCheck, hu, if_true]
  rfl

theorem jumpTo_natCast (c : Core) {a : Nat} (lat : Nat) (hlt : a < 2 ^ 48) (h8 : a % 8 = 0) :
    jumpTo c (a : Int) lat = .done c (.jump a) lat := by
  have hu : uI 64 (a : Int) = a := uI_natCast (by omega)
  simp only [jumpTo, targetCheck_natCast hlt h8, hu]

theorem jumpTo_trap {c : Core} {a : Int} {lat x st : Nat} (h : targetCheck a = some (x, st)) : jumpTo c a lat = .trap x st := by
  simp only [jumpTo, h]

theorem branchBody_taken {s : State} {exit : Bool} {off : Int} {c : Core} {a : Nat}
    (ha : relTarget (c.stream s.cur.key).pc off = a) (hlt : a < 2 ^ 48) (h8 : a % 8 = 0) :
    branchBody s true exit off c = .done (c.exitLoop s.cur.key exit) (.jump a) 1 := by
  simp only [branchBody, if_true, ha, jumpTo_natCast _ _ hlt h8]

theorem br_runs {s : State} {h : Head} {x : Bool} {off : Int} {c : Core} {a : Nat} (hI : Issues s h c)
    (ha : relTarget (c.stream s.cur.key).pc off = a) (hlt : a < 2 ^ 48) (h8 : a % 8 = 0) :
    Runs (.br h x off) h s (c.exitLoop s.cur.key x) (.jump a) 1 :=
  .of_runC (exec_br ..) hI (branchBody_taken ha hlt h8)

theorem brc_runs {s : State} {h : Head} {z x : Bool} {p : Nat} {off : Int} {c : Core} {a : Nat} (hI : Issues s h c)
    (ha : relTarget (c.stream s.cur.key).pc off = a) (hlt : a < 2 ^ 48) (h8 : a % 8 = 0)
    (hp : (c.stream s.cur.key).getP p = !z) : Runs (.brc h z x p off) h s (c.exitLoop s.cur.key x) (.jump a) 1 := by
  refine .of_runC (exec_brc ..) hI ?_
  have ht : ((c.stream s.cur.key).getP p != z) = true := by simp [hp]
  rw [ht]
  exact branchBody_taken ha hlt h8

theorem brc_not_taken {s : State} {h : Head} {z x : Bool} {p : Nat} {off : Int} {c : Core} (hI : Issues s h c)
    (hp : (c.stream s.cur.key).getP p = z) : Runs (.brc h z x p off) h s c .seq 1 := by
  refine .of_runC (exec_brc ..) hI ?_
  simp [hp, branchBody]

theorem call_runs {s : State} {h : Head} {d : Nat} {off : Int} {c : Core} {a : Nat} (hI : Issues s h c)
    (ha : relTarget (c.stream s.cur.key).pc off = a) (hlt : a < 2 ^ 48) (h8 : a % 8 = 0) :
    let l := comLat s.cur.eng 1 1
    Runs (.call h d off) h s (c.result s.cur.key l (.x d (linkWord c s.cur.key)) 0) (.jump a) l := by
  refine .of_runC (exec_call ..) hI ?_
  simp only [ha]
  exact jumpTo_natCast _ _ hlt h8

theorem jr_runs {s : State} {h : Head} {a : Nat} {c : Core} (hI : Issues s h c)
    (hlt : ((c.stream s.cur.key).getX a).toNat < 2 ^ 48) (h8 : ((c.stream s.cur.key).getX a).toNat % 8 = 0) :
    Runs (.jr h a) h s c (.jump ((c.stream s.cur.key).getX a).toNat) 1 :=
  .of_runC (exec_jr ..) hI (jumpTo_natCast _ _ hlt h8)

theorem callg_runs {s : State} {h : Head} {d a : Nat} {imm : Int} {c c1 : Core} {v : Nat} (hI : Issues s h c)
    (hr : c.readData (c.sender s.cur.core s.cur.key s.cycles) (addrOf c s.cur.key a imm) 8 = .ok v c1)
    (hlt : v < 2 ^ 48) (h8 : v % 8 = 0) :
    let l := comLat s.cur.eng 1 1
    Runs (.callg h d a imm) h s ((c1.returnCredit s.cur.key).result s.cur.key l (.x d (linkWord c s.cur.key)) 0)
      (.jump v) l := by
  refine .of_runC (exec_callg ..) hI ?_
  simp only [hr]
  exact jumpTo_natCast _ _ hlt h8

theorem br_traps {s : State} {h : Head} {x : Bool} {off : Int} {c : Core} (hI : Issues s h c) (hoff : immOk 24 off = true)
    (hpc : (c.stream s.cur.key).pc < 2 ^ 48)
    (ho : ((c.stream s.cur.key).pc : Int) + 8 * off < 0 ∨ 2 ^ 48 ≤ ((c.stream s.cur.key).pc : Int) + 8 * off) :
    Traps (.br h x off) s 0x0B (addrStatus ((((c.stream s.cur.key).pc : Int) + 8 * off) % 2 ^ 64).toNat) := by
  simp only [immOk, Bool.and_eq_true, decide_eq_true_eq] at hoff
  refine .of_runC (exec_br ..) hI ?_
  simp only [branchBody, if_true, relTarget]
  exact jumpTo_trap (targetCheck_of_outside (by omega) (by omega) ho)

/-- Settles O12. -/
theorem transferResults : Obligations.TransferResults := by
  unfold Obligations.TransferResults
  refine ⟨⟨fun s h x off c a hI ha hlt h8 => ⟨br_runs hI ha hlt h8, fun z p hp => brc_runs hI ha hlt h8 hp,
      fun d => call_runs hI ha hlt h8⟩,
    fun s h x z p off c hI hp => brc_not_taken hI hp, fun s h a c hI hlt h8 => jr_runs hI hlt h8,
    fun s h d a imm c c1 v hI hr hlt h8 => callg_runs hI hr hlt h8⟩,
    fun s h c hI => ⟨fun a => ⟨fun hge => ?_, fun hlt h8 => ?_⟩, fun x off hoff hpc ho => br_traps hI hoff hpc ho⟩⟩
  · exact .of_runC (exec_jr ..) hI (jumpTo_trap (targetCheck_of_le hge (BitVec.isLt _)))
  · exact .of_runC (exec_jr ..) hI (jumpTo_trap (targetCheck_of_misaligned hlt h8))

/-! ### Hardware loops (R112, R113) -/

/-- The outcomes of entering a loop. -/
theorem loop_results {mk : Instr} {s : State} {h : Head} {c : Core} {n off w : Nat} {body : Core → CRes} (hI : Issues s h c)
    (hx : exec mk s = runC s h body) (hb : body c = loopBody s n off w c) :
    let t := c.stream s.cur.key
    let fin := (t.pc + 8 * off) % 2 ^ 48
    (n = 0 → Runs mk h s c (.skip ((fin + 8) % 2 ^ 48)) 1)
      ∧ (n ≠ 0 → t.loops.length < 4 →
          Runs mk h s (c.setStream s.cur.key { t with loops := ⟨(t.pc + 8) % 2 ^ 48, fin, n, w, 0⟩ :: t.loops }) .seq 1)
      ∧ (n ≠ 0 → 4 ≤ t.loops.length → Traps mk s 0x0C 4) := by
  refine ⟨fun h0 => .of_runC hx hI (hb.trans ?_), fun h0 hl => .of_runC hx hI (hb.trans ?_),
    fun h0 hl => .of_runC hx hI (hb.trans ?_)⟩
  · simp only [loopBody, h0, if_true]
  · simp only [loopBody, h0, if_false, Nat.not_le.mpr hl]
  · simp only [loopBody, h0, if_false, hl, if_true]

/-- Settles O13: the three forms enter a loop with their count and window. -/
theorem loopResults : Obligations.LoopResults := by
  unfold Obligations.LoopResults
  rintro s h c hI mk n off w (⟨rfl, rfl⟩ | ⟨a, rfl, rfl, rfl⟩ | ⟨a, rfl, rfl⟩)
  · exact loop_results hI (exec_loopi ..) rfl
  · exact loop_results hI (exec_loop ..) rfl
  · exact loop_results hI (exec_looph ..) rfl

/-! ### TRAP (R121) -/

theorem execTrap_of_wick {s : State} (hw : s.cur.eng = .wick) (h : Head) (code : Nat) :
    execTrap h code s = runC s h fun c => .done ((c.dropFault.recordFault s.cycles c.trapJob
      { (c.job c.trapJob).trap with cause := 0x01, status := 2 ^ 31 + code }).thawNext) .gone 1 :=
  if_pos hw

theorem execTrap_of_not_wick {s : State} (hw : s.cur.eng ≠ .wick) (h : Head) (code : Nat) :
    execTrap h code s = runC s h fun _ => .trap 0x01 (2 ^ 31 + code) :=
  if_neg hw

theorem packU_imm (opc : Nat) (h : Head) (n : Nat) :
    packU opc h ⟨0, n, 0⟩ = opc * 2 ^ 56 + headBits h + n * 2 ^ 14 := by
  change opc * 2 ^ 56 + headBits h + 0 * 2 ^ 34 + n * 2 ^ 14 + 0 = _
  omega

theorem encode_trap (h : Head) (code : Nat) : encode (.trap h code) = packU 0x0C h ⟨0, code, 0⟩ := rfl

/-- Settles O14. -/
theorem trapResults : Obligations.TrapResults := by
  unfold Obligations.TrapResults
  intro s h code c hI
  exact ⟨(encode_trap h code).trans (packU_imm ..), fun hw => .of_runC ((exec_trap ..).trans (execTrap_of_not_wick hw ..)) hI rfl,
    fun hw => .of_runC ((exec_trap ..).trans (execTrap_of_wick hw ..)) hI rfl⟩

end Sys2Proof.Machine
end

section
/-!
PROOF. Control registers (R79, R120): which a stream may read and write, and what a write takes.
-/

namespace Sys2Proof.Machine

theorem Runs.of_runI {i : Instr} {s : State} {h : Head} {c c2 : Core} {body : State → Res} {f : Flow} {lat : Nat}
    (hx : exec i s = runI s h body) (hI : Issues s h c)
    (hb : body (s.setCore s.cur.core c) = .done ((s.setCore s.cur.core c).setCore s.cur.core c2) f lat) :
    Runs i h s c2 f lat := by
  simp only [Runs, Completes, hx]
  exact ⟨_, runI_done hI hb, coreStep_upd ..⟩

/-! ### CSRR -/

theorem csrr_traps {s : State} {h : Head} {d : Opnd} {n : Nat} {c : Core} (hI : Issues s h c)
    (hr : csrReadOk c s.cur.key n = false) : Traps (.csrr h d n) s 0x03 0x0D := by
  refine .of_runC (exec_csrr ..) hI ?_
  simp [hr, opcCsrr]

theorem csrReadOk_eq (c : Core) (k n : Nat) :
    csrReadOk c k n = (if n ∈ [0x020, 0x021, 0x022, 0x023, 0x024, 0x040, 0x041] then c.privileged k
      else if n = 0x070 then decide (k = 16 ∨ k < 2) else true) := by
  have hn : (0x020 ≤ n && n ≤ 0x024 || n == 0x040 || n == 0x041) = true
      ↔ n ∈ [0x020, 0x021, 0x022, 0x023, 0x024, 0x040, 0x041] := by
    simp only [Bool.or_eq_true, Bool.and_eq_true, decide_eq_true_eq, beq_iff_eq, List.mem_cons, List.not_mem_nil, or_false]
    omega
  have hk : (k == 16 || decide (k < 2)) = decide (k = 16 ∨ k < 2) := by
    rw [Bool.eq_iff_iff]
    simp
  simp only [csrReadOk, hn, hk]

/-! ### CSRW -/

theorem csrWriteOk_fpstat (c : Core) (k : Nat) : csrWriteOk c k 0x010 = true := rfl

theorem csrWriteOk_of_unprivileged {c : Core} {k n : Nat} (hp : c.privileged k = false) (hn : n ≠ 0x010) :
    csrWriteOk c k n = false := by
  simp [csrWriteOk, hn, hp]

theorem csrWriteOk_of_unlisted {c : Core} {k n : Nat}
    (hn : n ∉ [0x010, 0x020, 0x021, 0x022, 0x023, 0x024, 0x030, 0x040, 0x041, 0x042, 0x060]) :
    csrWriteOk c k n = false := by
  simp only [List.mem_cons, List.not_mem_nil, or_false, not_or] at hn
  obtain ⟨h10, h20, h21, h22, h23, h24, h30, h40, h41, h42, h60⟩ := hn
  have hr : (0x020 ≤ n && n ≤ 0x024) = false := by
    rw [Bool.and_eq_false_iff, decide_eq_false_iff_not, decide_eq_false_iff_not]
    omega
  simp [csrWriteOk, hr, h10, h30, h40, h41, h42, h60]

theorem csrWriteOk_of_privileged {c : Core} {k n : Nat} (hp : c.privileged k = true)
    (hn : n ∈ [0x020, 0x021, 0x022, 0x023, 0x024, 0x030, 0x040, 0x041, 0x042, 0x060]) : csrWriteOk c k n = true := by
  simp only [List.mem_cons, List.not_mem_nil, or_false] at hn
  obtain rfl | rfl | rfl | rfl | rfl | rfl | rfl | rfl | rfl | rfl := hn <;> simp [csrWriteOk, hp]

section
variable {s : State} {h : Head} {a : Opnd} {n : Nat} {c : Core} (hI : Issues s h c)
  (hq : c.opndCheck s.cur.key [a] none = none) (hw : csrWriteOk c s.cur.key n = true)
include hI hq hw

theorem csrw_runs {c2 : Core} (hn : n ≠ 0x060)
    (hv : (c.opndPop [a]).csrWrite s.cur.key n (c.opndVal s.cur.key a).toNat = some c2) :
    Runs (.csrw h a n) h s c2 .seq 1 := by
  refine .of_runI (exec_csrw ..) hI ?_
  simp [hw, hq, hn, hv]

/-- A value with a reserved bit. -/
theorem csrw_traps (hn : n ≠ 0x060)
    (hv : (c.opndPop [a]).csrWrite s.cur.key n (c.opndVal s.cur.key a).toNat = none) :
    Traps (.csrw h a n) s 0x02 0x0E := by
  refine .of_runI (exec_csrw ..) hI ?_
  simp [hw, hq, hn, hv, opcCsrw]

end

/-! ### Writing a core twice -/

theorem mdel_mset {α : Type} (k : Nat) (u : α) (m : SMap α) : mdel k (mset k u m) = mdel k m := by
  induction m with
  | nil => simp [mset, mdel]
  | cons e r ih =>
    obtain ⟨a, w⟩ := e
    unfold mdel at ih ⊢
    unfold mset
    split
    · simp
    · split
      · simp_all
      · simp [List.filter_cons, ih]

theorem mset_mset {α : Type} (k : Nat) (u v : α) (m : SMap α) : mset k v (mset k u m) = mset k v m := by
  induction m with
  | nil => simp [mset]
  | cons e r ih =>
    obtain ⟨a, w⟩ := e
    by_cases h1 : k < a
    · simp [mset, h1]
    · by_cases h2 : k = a
      · simp [mset, h2]
      · simp [mset, h1, h2, ih]

/-- A second write to a key hides the first, unless the first removed the key and the second brings it back. -/
theorem mput_mput {α : Type} [DecidableEq α] (d : α) (k : Nat) {u v : α} (m : SMap α) (h : u = d → v = d) :
    mput d k v (mput d k u m) = mput d k v m := by
  by_cases hv : v = d
  · subst hv
    by_cases hu : u = v
    · simp [mput, hu, mdel, List.filter_filter]
    · simp [mput, hu, mdel_mset]
  · have hu : u ≠ d := fun hu => hv (h hu)
    simp [mput, hv, hu, mset_mset]

theorem State.setCore_setCore (s : State) (cid : Nat) {u v : Core} (h : u = {} → v = {}) :
    (s.setCore cid u).setCore cid v = s.setCore cid v := by
  simp only [State.setCore, mput_mput _ _ _ h]

/-- A core that holds nothing has no queue to pop. -/
theorem Core.opndPop_fresh {c : Core} {k : Nat} {a : Opnd} (hq : c.opndCheck k [a] none = none) (hc : c = {}) :
    c.opndPop [a] = {} := by
  subst hc
  cases a with
  | x n => rfl
  | q n => simp [Core.opndCheck, Core.queueCheck, Opnd.uses, bit, Core.job, Core.stream] at hq
  | peek n => simp [Core.opndCheck, Core.queueCheck, Opnd.uses, bit, Core.job, Core.stream] at hq

/-! ### CAROUSEL_SLOTS -/

section
variable {s : State} {h : Head} {a : Opnd} {c : Core} (hI : Issues s h c)
  (hq : c.opndCheck s.cur.key [a] none = none) (hp : c.privileged s.cur.key = true)
include hI hq hp

/-- A write to the carousel's slots asks for the change of them (R321). -/
theorem csrw_slots_acts (hv : (2 ^ 12 ≤ (c.opndVal s.cur.key a).toNat || fld (c.opndVal s.cur.key a).toNat 3 5 != 0
      || 6 ≤ fld (c.opndVal s.cur.key a).toNat 8 3) = false) :
    Acts (.csrw h a 0x060) h s { s.setCore s.cur.core (c.opndPop [a]) with
      ring := s.ring.request (c.opndVal s.cur.key a).toNat } .seq 1 := by
  have hw : csrWriteOk c s.cur.key 0x060 = true := csrWriteOk_of_privileged hp (by decide)
  refine .of_runI (exec_csrw ..) hI ?_
  dsimp only
  rw [State.core_setCore_same, State.setCore_setCore s s.cur.core (Core.opndPop_fresh hq)]
  simp only [hw, hq, hv, Bool.not_true, Bool.false_eq_true, if_false, if_true, State.setCore_ring]

theorem csrw_slots_traps (hv : (2 ^ 12 ≤ (c.opndVal s.cur.key a).toNat || fld (c.opndVal s.cur.key a).toNat 3 5 != 0
      || 6 ≤ fld (c.opndVal s.cur.key a).toNat 8 3) = true) : Traps (.csrw h a 0x060) s 0x02 0x0E := by
  have hw : csrWriteOk c s.cur.key 0x060 = true := csrWriteOk_of_privileged hp (by decide)
  refine .of_runI (exec_csrw ..) hI ?_
  dsimp only
  rw [State.core_setCore_same]
  simp only [hw, hq, hv, Bool.not_true, Bool.false_eq_true, if_false, if_true, opcCsrw]

end

/-! ### What a write takes -/

theorem trapEng_reserved (v : Nat) : (2 ^ 32 ≤ v || fld v 11 3 != 0 || fld v 2 3 != 0) = true
    ↔ 2 ^ 32 ≤ v ∨ v / 2 ^ 11 % 2 ^ 3 ≠ 0 ∨ v / 2 ^ 2 % 2 ^ 3 ≠ 0 := by
  simp only [Bool.or_eq_true, decide_eq_true_eq, bne_iff_ne, fld, or_assoc]

theorem slots_reserved (v : Nat) : (2 ^ 12 ≤ v || fld v 3 5 != 0 || 6 ≤ fld v 8 3) = true
    ↔ 2 ^ 12 ≤ v ∨ v / 2 ^ 3 % 2 ^ 5 ≠ 0 ∨ 6 ≤ v / 2 ^ 8 % 8 := by
  simp only [Bool.or_eq_true, decide_eq_true_eq, bne_iff_ne, or_assoc]
  exact Iff.rfl

theorem csrWrite_budget (c : Core) (k : Nat) {v : Nat} (hv : v / 2 ^ 48 % 2 ^ 14 = 0) :
    c.csrWrite k 0x030 v = some (c.updJob (c.jobOf k) fun b =>
      { b with unlim := bit v 63, grace := bit v 62, remain := v % 2 ^ 48 }) := by
  have hz : ¬ (fld v 48 14 != 0) = true := by rw [fld, hv]; decide
  have hf : fld v 0 48 = v % 2 ^ 48 := by rw [fld, pow_zero, Nat.div_one]
  exact (if_neg hz).trans (by rw [hf])

theorem csrWrite_budget_reserved (c : Core) (k : Nat) {v : Nat} (hv : v / 2 ^ 48 % 2 ^ 14 ≠ 0) :
    c.csrWrite k 0x030 v = none :=
  if_pos (bne_iff_ne.mpr hv)

/-- Settles O15. -/
theorem controlRegisterResults : Obligations.ControlRegisterResults := by
  unfold Obligations.ControlRegisterResults
  refine ⟨fun s h d n c hI => ⟨csrr_traps hI, fun hr hq => csrr_runs hI hq hr, csrReadOk_eq ..⟩,
    fun s h a n c hI hq => ?_⟩
  intro k v c1 upd
  refine ⟨fun hv => ?_, fun hv => ?_, fun hp hn => ?_, fun hp => ?_⟩
  · exact csrw_traps hI hq rfl (by decide) (if_pos hv)
  · exact csrw_runs hI hq rfl (by decide) (if_neg (Nat.not_le.mpr hv))
  · exact csrw_traps_of_not_writeOk hI (csrWriteOk_of_unprivileged hp hn)
  · have hw {n : Nat} (hn : n ∈ [0x020, 0x021, 0x022, 0x023, 0x024, 0x030, 0x040, 0x041, 0x042, 0x060]) :
        csrWriteOk c s.cur.key n = true := csrWriteOk_of_privileged hp hn
    have runs {n : Nat} {c2 : Core} (hn : n ∈ [0x020, 0x021, 0x022, 0x023, 0x024, 0x030, 0x040, 0x041, 0x042])
        (hv : c1.csrWrite s.cur.key n v = some c2) : Runs (.csrw h a n) h s c2 .seq 1 :=
      csrw_runs hI hq (hw (by revert hn; simp; omega)) (by rintro rfl; revert hn; decide) hv
    have traps {n : Nat} (hn : n ∈ [0x020, 0x021, 0x022, 0x023, 0x024, 0x030, 0x040, 0x041, 0x042])
        (hv : c1.csrWrite s.cur.key n v = none) : Traps (.csrw h a n) s 0x02 0x0E :=
      csrw_traps hI hq (hw (by revert hn; simp; omega)) (by rintro rfl; revert hn; decide) hv
    refine ⟨fun hv => runs (by decide) (if_neg (Nat.not_le.mpr hv)), fun hv => traps (by decide) (if_pos hv),
      fun hv => ⟨runs (by decide) (if_neg (Nat.not_le.mpr hv)), runs (by decide) (if_neg (Nat.not_le.mpr hv))⟩,
      fun hv => ⟨traps (by decide) (if_pos hv), traps (by decide) (if_pos hv)⟩,
      runs (by decide) rfl, fun h1 h2 h3 => runs (by decide) (if_neg ?_),
      fun hv => traps (by decide) (if_pos ((trapEng_reserved v).mpr hv)),
      fun hv => runs (by decide) (csrWrite_budget _ _ hv), fun hv => traps (by decide) (csrWrite_budget_reserved _ _ hv),
      runs (by decide) rfl, runs (by decide) rfl, runs (by decide) rfl,
      fun hn => csrw_traps_of_not_writeOk hI (csrWriteOk_of_unlisted hn),
      fun hv => csrw_slots_traps hI hq hp ((slots_reserved v).mpr hv), fun h1 h2 h3 => csrw_slots_acts hI hq hp ?_⟩
    · rw [trapEng_reserved]
      omega
    · refine Bool.eq_false_iff.mpr fun hr => ?_
      obtain hr | hr | hr := (slots_reserved v).mp hr <;> omega

end Sys2Proof.Machine
end

section
/-!
PROOF. Scalar memory (R119): LD and ST in the scratchpad and the wick core's memory, LDG and STG in device memory.
-/

namespace Sys2Proof.Machine

/-! ### The checks of an address -/

theorem spadCheck_misaligned (j : Job) {a n align : Nat} (h : a % align ≠ 0) :
    spadCheck j a n align = some (0x07, addrStatus a) :=
  if_pos (bne_iff_ne.mpr h)

theorem spadCheck_past (j : Job) {a n align : Nat} (h : a % align = 0) (hp : 2 ^ 19 ≤ a) :
    spadCheck j a n align = some (0x0C, 5) := by
  simp only [spadCheck, h, hp, bne_self_eq_false, Bool.false_eq_true, if_false, if_true]

theorem spadCheck_foreign {j : Job} {a n align : Nat} (h : a % align = 0) (hp : a < 2 ^ 19) (hr : j.inRegions a n = false) :
    spadCheck j a n align = some (0x0E, 0x3FF) := by
  simp only [spadCheck, h, hr, Nat.not_le.mpr hp, bne_self_eq_false, Bool.false_eq_true, if_false, Bool.not_false, if_true]
  rfl

theorem memCheck_of_not_wick {s : State} (hw : s.cur.eng ≠ .wick) (c : Core) (a n : Nat) :
    memCheck s c a n = spadCheck (c.job (c.stream s.cur.key).job) a n n :=
  if_neg hw

theorem dataCheck_misaligned {a n : Nat} (h : a % n ≠ 0) : dataCheck a n = some (0x07, addrStatus a) :=
  if_pos (bne_iff_ne.mpr h)

theorem dataCheck_past {a n : Nat} (h : a % n = 0) (hp : 2 ^ 48 ≤ a) : dataCheck a n = some (0x0C, 5) := by
  simp only [dataCheck, h, hp, bne_self_eq_false, Bool.false_eq_true, if_false, if_true]

/-! ### LD and ST -/

section
variable {s : State} {h : Head} {d a : Opnd} {imm : Int} {size : Nat} {c : Core} (hI : Issues s h c)
include hI

theorem ld_runs {z : Bool} (hq : c.opndCheck s.cur.key [a] (some d) = none)
    (hm : memCheck s c (c.opndVal s.cur.key a + immW imm).toNat (2 ^ size) = none) :
    Runs (.ld h d a imm size z) h s ((c.opndPop [a]).opndWrite s.cur.key (comLat s.cur.eng 6 6) d (extend (2 ^ size) z
      (leBytes (if s.cur.eng = .wick then rdBytes c.wickMem (c.opndVal s.cur.key a + immW imm).toNat (2 ^ size)
        else c.spadRead (c.opndVal s.cur.key a + immW imm).toNat (2 ^ size)))) 0) .seq (comLat s.cur.eng 6 6) := by
  refine .of_runC (exec_ld ..) hI ?_
  simp only [hq, hm]

theorem ld_traps {z : Bool} {x st : Nat} (hq : c.opndCheck s.cur.key [a] (some d) = none)
    (hm : memCheck s c (c.opndVal s.cur.key a + immW imm).toNat (2 ^ size) = some (x, st)) :
    Traps (.ld h d a imm size z) s x st := by
  refine .of_runC (exec_ld ..) hI ?_
  simp only [hq, hm]

theorem st_runs {d : Nat} (hq : c.opndCheck s.cur.key [a] none = none)
    (hm : memCheck s c (c.opndVal s.cur.key a + immW imm).toNat (2 ^ size) = none) :
    let ad := (c.opndVal s.cur.key a + immW imm).toNat
    let bs := toBytes (2 ^ size) ((c.stream s.cur.key).getX d).toNat
    let c1 := c.opndPop [a]
    Runs (.st h d a imm size) h s
      (if s.cur.eng = .wick then { c1 with wickMem := wrBytes c1.wickMem ad bs } else c1.spadWrite s.cur.eng.num ad bs) .seq 1 := by
  refine .of_runC (exec_st ..) hI ?_
  simp only [hq, hm]

theorem st_traps {d x st : Nat} (hq : c.opndCheck s.cur.key [a] none = none)
    (hm : memCheck s c (c.opndVal s.cur.key a + immW imm).toNat (2 ^ size) = some (x, st)) :
    Traps (.st h d a imm size) s x st := by
  refine .of_runC (exec_st ..) hI ?_
  simp only [hq, hm]

end

/-- Settles O17: both forms access the address once its checks pass, and trap at the first check that fails. -/
theorem loadAndStoreResults : Obligations.LoadAndStoreResults := by
  unfold Obligations.LoadAndStoreResults
  refine ⟨fun s h d a imm size z c hI hq => ⟨fun hm => ld_runs hI hq hm, fun hw => ⟨fun hn => ?_, fun hn hp => ?_,
    fun hn hp hr => ?_⟩⟩, fun s h d a imm size c hI hq => ⟨fun hm => st_runs hI hq hm, fun hw => ⟨fun hn => ?_,
    fun hn hp => ?_, fun hn hp hr => ?_⟩⟩⟩
  · exact ld_traps hI hq ((memCheck_of_not_wick hw ..).trans (spadCheck_misaligned _ hn))
  · exact ld_traps hI hq ((memCheck_of_not_wick hw ..).trans (spadCheck_past _ hn hp))
  · exact ld_traps hI hq ((memCheck_of_not_wick hw ..).trans (spadCheck_foreign hn hp hr))
  · exact st_traps hI hq ((memCheck_of_not_wick hw ..).trans (spadCheck_misaligned _ hn))
  · exact st_traps hI hq ((memCheck_of_not_wick hw ..).trans (spadCheck_past _ hn hp))
  · exact st_traps hI hq ((memCheck_of_not_wick hw ..).trans (spadCheck_foreign hn hp hr))

/-! ### LDG and STG -/

theorem Core.readData_trap {c : Core} {w : Sender} {a n x st : Nat} (h : dataCheck a n = some (x, st)) :
    c.readData w a n = .trap x st := by
  simp only [Core.readData, h]

theorem Core.writeData_trap {c : Core} {w : Sender} {a n v x st : Nat} (h : dataCheck a n = some (x, st)) :
    c.writeData w a n v = .trap x st := by
  simp only [Core.writeData, h]

section
variable {s : State} {h : Head} {d a : Nat} {imm : Int} {size : Nat} {c : Core} (hI : Issues s h c)
include hI

theorem ldg_runs {z : Bool} {v : Nat} {c1 : Core}
    (hr : c.readData (c.sender s.cur.core s.cur.key s.cycles) (addrOf c s.cur.key a imm) (2 ^ size) = .ok v c1) :
    Runs (.ldg h d a imm size z) h s (c1.result s.cur.key 1 (.x d (extend (2 ^ size) z v)) 0) .seq 0 := by
  refine .of_runC (exec_ldg ..) hI ?_
  simp only [hr]

theorem ldg_waits {z : Bool} {pa : Nat} {c1 : Core}
    (hr : c.readData (c.sender s.cur.core s.cur.key s.cycles) (addrOf c s.cur.key a imm) (2 ^ size) = .sent c1 pa) :
    Runs (.ldg h d a imm size z) h s (c1.updStream s.cur.key fun t => { t with popd := if h.pop then some h.tp else none })
      (.wait (.load d size z pa (c1.nextQ - 1))) 0 := by
  refine .of_runC (exec_ldg ..) hI ?_
  simp only [hr]

theorem stg_runs {v : Nat} {c1 : Core} (hr : c.writeData (c.sender s.cur.core s.cur.key s.cycles)
      (addrOf c s.cur.key a imm) (2 ^ size) ((c.stream s.cur.key).getX d).toNat = .ok v c1) :
    Runs (.stg h d a imm size) h s c1 .seq 1 := by
  refine .of_runC (exec_stg ..) hI ?_
  simp only [hr]

theorem ldg_stg_trap {x st : Nat} (hc : dataCheck (addrOf c s.cur.key a imm) (2 ^ size) = some (x, st)) :
    (∀ z, Traps (.ldg h d a imm size z) s x st) ∧ Traps (.stg h d a imm size) s x st := by
  refine ⟨fun z => .of_runC (exec_ldg ..) hI ?_, .of_runC (exec_stg ..) hI ?_⟩
  · simp only [Core.readData_trap hc]
  · simp only [Core.writeData_trap hc]

end

/-- Settles O18. -/
theorem deviceAccessResults : Obligations.DeviceAccessResults := by
  unfold Obligations.DeviceAccessResults
  intro s h d a imm size c hI
  exact ⟨fun z v c1 hr => ldg_runs hI hr, fun z pa c1 hr => ldg_waits hI hr, fun v c1 hr => stg_runs hI hr,
    fun hn => ldg_stg_trap hI (dataCheck_misaligned hn), fun hn hp => ldg_stg_trap hI (dataCheck_past hn hp)⟩

end Sys2Proof.Machine
end

section
/-!
PROOF. Block heads, semaphores, markers and groups (R21, R22, R114, R115, R123 to R125, R127, R128).
-/

namespace Sys2Proof.Machine

/-! ### Returning credit -/

theorem Core.returnCredit_stream (c : Core) (k j : Nat) :
    (c.returnCredit k).stream j = if j = k then { c.stream k with credit := 0 } else c.stream j := by
  simp only [Core.returnCredit]
  split
  · next h0 =>
    split
    · next hj => subst hj; cases hs : c.stream j; simp_all
    · rfl
  · simp [Core.stream_updStream]

theorem Core.returnCredit_job_semSize (c : Core) (k j : Nat) : ((c.returnCredit k).job j).semSize = (c.job j).semSize := by
  simp only [Core.returnCredit]
  split
  · rfl
  · simp [Core.job_updJob, Job.setTok]
    split <;> simp_all

/-! ### Block heads -/

theorem Scope.wide_iff (sc : Scope) : Scope.wide sc = true ↔ sc ∈ [Scope.die, .device, .system] := by
  cases sc <;> decide

theorem Job.sem_of_le {b : Job} {n : Nat} (h : b.semSize ≤ n) : b.sem n = none := if_neg (Nat.not_lt.mpr h)

theorem Job.sem_of_lt {b : Job} {n : Nat} (h : n < b.semSize) : b.sem n = some (b.semBase + n) := if_pos h

/-- A head that names a semaphore outside its job's window fails its first check. -/
theorem headTest_foreign {s : State} {cid k tp : Nat} {sp : HeadSpec} (hs : sp.scnt ≠ 0) (hk : k ≠ 24)
    (hn : ((s.core cid).job ((s.core cid).stream k).job).semSize ≤ sp.sem) :
    headTest s cid k tp sp = .trap 0x0E (kindStatus 1 sp.sem) := by
  have hsem : (((s.core cid).returnCredit k).job (((s.core cid).returnCredit k).jobOf k)).sem sp.sem = none := by
    refine Job.sem_of_le ?_
    rw [Core.returnCredit_job_semSize, Core.jobOf, if_neg hk, Core.returnCredit_stream, if_pos rfl]
    exact hn
  simp [headTest, hsem, hs]

theorem headBody_ok {s s1 : State} {tp : Nat} {sp : HeadSpec} {i : Instr} {c : Core}
    (ht : headTest s1 s.cur.core s.cur.key tp sp = .ok c) :
    headBody s tp sp i s1 = .done (s1.passHead s.cur.core ((s1.core s.cur.core).stream s.cur.key) sp c) .seq 1 := by
  simp only [headBody, ht]

theorem headBody_unsat {s s1 : State} {tp : Nat} {sp : HeadSpec} {i : Instr}
    (ht : headTest s1 s.cur.core s.cur.key tp sp = .unsat) : headBody s tp sp i s1 = .unsat i := by
  simp only [headBody, ht]

theorem headBody_trap {s s1 : State} {tp x st : Nat} {sp : HeadSpec} {i : Instr}
    (ht : headTest s1 s.cur.core s.cur.key tp sp = .trap x st) : headBody s tp sp i s1 = .trap x st := by
  simp only [headBody, ht]

/-- A head without a group's acquire changes its core alone. -/
theorem State.passHead_of_not_acquires {s : State} {cid : Nat} {t : Stream} {sp : HeadSpec} {c : Core}
    (h : ¬(sp.greg ≠ 0 ∧ sp.sync.acq = true ∧ sp.sync.scope ∈ [Scope.die, .device, .system])) :
    s.passHead cid t sp c = s.setCore cid c := by
  refine if_neg fun hc => h ?_
  simp only [Bool.and_eq_true, bne_iff_ne, Scope.wide_iff, and_assoc] at hc
  exact hc

theorem runI_unsat {s : State} {h : Head} {c : Core} {body : State → Res} {i : Instr}
    (hI : Issues s h c) (hb : body (s.setCore s.cur.core c) = .unsat i) : runI s h body = .next (s.unsatisfied i) := by
  obtain ⟨hg, ht⟩ := hI
  simp only [State.here, State.self] at hg ht
  simp only [runI, runWord, hg, ht, if_true, hb]

/-- An unsatisfied head leaves its stream waiting at it. -/
theorem State.unsatisfied_stream (s : State) (i : Instr) :
    (((s.unsatisfied i).core s.cur.core).stream s.cur.key).wait = .head i
      ∧ (((s.unsatisfied i).core s.cur.core).stream s.cur.key).pc = s.self.pc := by
  have hcore (u : State) (cid : Nat) : u.yieldEng.core cid = u.core cid := rfl
  have hbubble (c : Core) (b : SMap Nat) (k : Nat) : ({ c with bubble := b } : Core).stream k = c.stream k := rfl
  simp only [State.unsatisfied]
  split
  · rw [State.core_setCore_same, hbubble]
    simp [Core.returnCredit_stream, State.self, State.here]
  · simp [hcore, Core.returnCredit_stream, State.self, State.here]

/-- Settles O19. -/
theorem headResults : Obligations.HeadResults := by
  unfold Obligations.HeadResults
  intro s h sp c hI
  refine ⟨fun c1 ht => ⟨?_, fun hna => ?_⟩, fun hs hn hk => ?_, fun ht => ?_⟩
  · refine .of_runI (exec_blkh ..) hI ((headBody_ok ht).trans ?_)
    rw [State.core_setCore_same]
  · refine .of_runI (exec_blkh ..) hI ((headBody_ok ht).trans ?_)
    rw [State.passHead_of_not_acquires hna]
  · refine .of_runI (exec_blkh ..) hI (headBody_trap (headTest_foreign hs hk ?_))
    rwa [State.core_setCore_same]
  · exact ⟨_, runI_unsat hI (headBody_unsat ht), s.unsatisfied_stream _⟩

/-! ### Semaphores and markers -/

section
variable {s : State} {h : Head} {n : Nat} {c : Core} (hI : Issues s h c)
include hI

/-- The three semaphore instructions trap at a semaphore outside the job's window. -/
theorem sem_traps (hn : (c.job (c.jobOf s.cur.key)).semSize ≤ n) (a d : Nat) :
    (∀ m sy, Traps (.ssig h n m sy) s 0x0E (kindStatus 1 n)) ∧ Traps (.sset h n a) s 0x0E (kindStatus 1 n)
      ∧ Traps (.sget h d n) s 0x0E (kindStatus 1 n) := by
  have hsem : (s.curJob c).sem n = none := Job.sem_of_le hn
  refine ⟨fun m sy => .of_runC (exec_ssig ..) hI ?_, .of_runC (exec_sset ..) hI ?_, .of_runC (exec_sget ..) hI ?_⟩
  all_goals simp only [hsem]

theorem ssig_runs (hn : n < (c.job (c.jobOf s.cur.key)).semSize) {m : Nat} {sy : Sync}
    (hr : sy.rel = true → c.released s.cur.key s.cycles sy.scope = true) :
    let c1 := if sy.acq then c.acquire s.cur.core sy.scope else c
    Runs (.ssig h n m sy) h s { c1 with pending := c1.pending
      ++ [⟨s.cur.key, 1, .sem ((c.job (c.jobOf s.cur.key)).semBase + n) m (c.stream s.cur.key).pc, 0, 1⟩] } .seq 1 := by
  have hsem : (s.curJob c).sem n = some ((c.job (c.jobOf s.cur.key)).semBase + n) := Job.sem_of_lt hn
  have hrel : (sy.rel && !c.released s.cur.key s.cycles sy.scope) = false := by
    cases hsy : sy.rel with
    | false => rfl
    | true => simp [hr hsy]
  refine .of_runC (exec_ssig ..) hI ?_
  simp only [hsem, hrel, Bool.false_eq_true, if_false]

theorem sset_runs (hn : n < (c.job (c.jobOf s.cur.key)).semSize) {a : Nat}
    (hv : ((c.stream s.cur.key).getX a).toNat < 2 ^ 32) :
    Runs (.sset h n a) h s (c.setSem ((c.job (c.jobOf s.cur.key)).semBase + n) ((c.stream s.cur.key).getX a).toNat) .seq 1 := by
  have hsem : (s.curJob c).sem n = some ((c.job (c.jobOf s.cur.key)).semBase + n) := Job.sem_of_lt hn
  refine .of_runC (exec_sset ..) hI ?_
  simp only [hsem, Nat.not_le.mpr hv, if_false]

theorem sset_traps (hn : n < (c.job (c.jobOf s.cur.key)).semSize) {a : Nat}
    (hv : 2 ^ 32 ≤ ((c.stream s.cur.key).getX a).toNat) : Traps (.sset h n a) s 0x11 0 := by
  have hsem : (s.curJob c).sem n = some ((c.job (c.jobOf s.cur.key)).semBase + n) := Job.sem_of_lt hn
  refine .of_runC (exec_sset ..) hI ?_
  simp only [hsem, hv, if_true]

theorem sget_runs (hn : n < (c.job (c.jobOf s.cur.key)).semSize) (d : Nat) :
    Runs (.sget h d n) h s (c.setReg s.cur.key d (mget 0 c.semStart ((c.job (c.jobOf s.cur.key)).semBase + n))) .seq 1 := by
  have hsem : (s.curJob c).sem n = some ((c.job (c.jobOf s.cur.key)).semBase + n) := Job.sem_of_lt hn
  refine .of_runC (exec_sget ..) hI ?_
  simp only [hsem]

/-- MARK places its markers where none of its engines holds eight. -/
theorem mark_runs {j m : Nat} (hm : ∀ x ∈ (maskBits 6 m).filterMap (c.marker s.cur.key j),
      ((c.job (c.jobOf s.cur.key)).markers.filter fun y => y.eng == x.eng).length < 8) :
    Runs (.mark h j m) h s (c.updJob (c.jobOf s.cur.key) fun b =>
      { b with markers := b.markers ++ (maskBits 6 m).filterMap (c.marker s.cur.key j) }) .seq 1 := by
  have hroom : ¬ ((maskBits 6 m).filterMap (c.marker s.cur.key j)).any (fun x =>
      decide (8 ≤ ((s.curJob c).markers.filter fun y => y.eng == x.eng).length)) = true := by
    rw [List.any_eq_true]
    rintro ⟨x, hx, h8⟩
    exact absurd (hm x hx) (Nat.not_lt.mpr (of_decide_eq_true h8))
  refine .of_runC (exec_mark ..) hI ?_
  exact if_neg hroom

theorem mjoin_runs {j : Nat} (hm : ∀ x ∈ (c.job (c.jobOf s.cur.key)).markers, ¬(x.key = s.cur.key ∧ x.join = j)) :
    Runs (.mjoin h j) h s c .seq 1 := by
  have hnone : ¬ (s.curJob c).markers.any (fun x => x.key == s.cur.key && x.join == j) = true := by
    rw [List.any_eq_true]
    rintro ⟨x, hx, hk⟩
    rw [Bool.and_eq_true, beq_iff_eq, beq_iff_eq] at hk
    exact hm x hx hk
  exact .of_runC (exec_mjoin ..) hI (if_neg hnone)

end

/-- Settles O20. -/
theorem semaphoreAndMarkerResults : Obligations.SemaphoreAndMarkerResults := by
  unfold Obligations.SemaphoreAndMarkerResults
  exact ⟨fun s h n a d c hI => ⟨fun hn => sem_traps hI hn a d, fun hn => ⟨fun m sy hr => ssig_runs hI hn hr,
    fun hv => sset_runs hI hn hv, fun hv => sset_traps hI hn hv, sget_runs hI hn d⟩⟩,
    fun s h j m c hI => ⟨fun hm => mark_runs hI hm, fun hm => mjoin_runs hI hm⟩⟩

/-! ### Groups -/

/-- Refutes O21: joining adds a stream to a group's members only where it is not one already, and the statement adds it always.
In Tests.sGroup [] true the group that channel 2 names has stream (0, 0) among its members while the stream itself lists no
group; GJOIN leaves the members as they are. -/
theorem not_groupResults : ¬ Obligations.GroupResults := by
  unfold Obligations.GroupResults
  rintro ⟨hjoin, -⟩
  obtain ⟨-, h⟩ := hjoin (Tests.sGroup [] true) Tests.h0 2 (Tests.sGroup [] true).here ⟨by decide +kernel, by decide +kernel⟩
  obtain ⟨-, -, hnew, -⟩ := h (by decide +kernel) (by decide +kernel)
  obtain ⟨-, hmembers, -⟩ := hnew (by decide +kernel) (by decide +kernel)
  revert hmembers
  decide +kernel

end Sys2Proof.Machine
end

section
/-!
PROOF. MPOST, CKPT, PLANE and RFT (R126, R129, R130, R132, R149).
-/

namespace Sys2Proof.Machine

/-! ### MPOST and CKPT -/

theorem mpost_runs {s : State} {h : Head} {c : Core} {d a ch : Nat} {cp : Cap} (hI : Issues s h c)
    (hc : mpostCheck c (c.job (c.jobOf s.cur.key)) ((c.stream s.cur.key).getX a).toNat ch = .ok cp)
    (hr : c.released s.cur.key s.cycles .device = true) :
    Runs (.mpost h d a ch) h s
      ((c.updJob (c.jobOf s.cur.key) fun b => b.charge ch 64).post (c.sender s.cur.core s.cur.key s.cycles)
        (sysPacket .post cp.coreNo cp.jslot c.nextQ (c.spadRead ((c.stream s.cur.key).getX a).toNat 64) []) (.post s.cur.key)
        (dieOf cp.coreNo) none none) (.wait (.post d)) 1 := by
  have hcj : mpostCheck c (s.curJob c) ((c.stream s.cur.key).getX a).toNat ch = .ok cp := hc
  refine .of_runC (exec_mpost ..) hI ?_
  simp only [hcj, hr, Bool.not_true, Bool.false_eq_true, if_false]

/-! ### PLANE -/

section
variable {s : State} {h : Head} {c : Core} {d a : Nat} (hI : Issues s h c)
include hI

theorem planeOp_traps {i : Instr} {go : Core → Nat → CRes} (hx : exec i s = planeOp s h a true go)
    (hp : c.privileged s.cur.key = false) : Traps i s 0x03 0x4B := by
  refine .of_runC hx hI ?_
  simp [hp, opcPlane]

/-- The record number of PLANE has 16 bits; the forms that change the staged plane need privilege. -/
theorem planeOp_runs {i : Instr} {priv : Bool} {go : Core → Nat → CRes} {c2 : Core} {f : Flow} {lat : Nat}
    (hx : exec i s = planeOp s h a priv go) (hp : priv = true → c.privileged s.cur.key = true)
    (hv : ((c.stream s.cur.key).getX a).toNat < 2 ^ 16)
    (hg : go c ((c.stream s.cur.key).getX a).toNat = .done c2 f lat) : Runs i h s c2 f lat := by
  refine .of_runC hx hI ?_
  have hp' : (priv && !c.privileged s.cur.key) = false := by cases priv <;> simp_all
  simp only [hp', Nat.not_le.mpr hv, hg, Bool.false_eq_true, if_false]

theorem planeOp_traps_later {i : Instr} {priv : Bool} {go : Core → Nat → CRes} {x st : Nat}
    (hx : exec i s = planeOp s h a priv go) (hp : priv = true → c.privileged s.cur.key = true)
    (hv : ((c.stream s.cur.key).getX a).toNat < 2 ^ 16)
    (hg : go c ((c.stream s.cur.key).getX a).toNat = .trap x st) : Traps i s x st := by
  refine .of_runC hx hI ?_
  have hp' : (priv && !c.privileged s.cur.key) = false := by cases priv <;> simp_all
  simp only [hp', Nat.not_le.mpr hv, hg, Bool.false_eq_true, if_false]

end

/-- A plane record that stands in memory has no uncorrectable error. -/
theorem State.planeBad_of_record {s : State} {die n : Nat} {r : Nat × SMap Word} (hr : s.planeRecord die n = some r) :
    s.planeBad die n = false := by
  cases hb : s.planeBad die n with
  | false => rfl
  | true => simp [State.planeRecord, hb] at hr

/-- Settles O22. -/
theorem postAndPlaneResults : Obligations.PostAndPlaneResults := by
  unfold Obligations.PostAndPlaneResults
  intro s h c hI
  refine ⟨fun d a ch cp hc hr => mpost_runs hI hc hr, fun a n => .of_runC (exec_ckpt ..) hI rfl, fun d a =>
    ⟨fun hv => planeOp_runs hI (exec_planeQuery ..) nofun hv rfl, fun hp => ⟨planeOp_traps hI (exec_planeStage ..) hp,
      planeOp_traps hI (exec_planeDrop ..) hp⟩, fun hp hv => ⟨fun h2 => ⟨?_, ?_⟩, fun h2 => ⟨fun hb => ?_, fun hb hn => ?_,
      fun r hr => ?_, ?_⟩⟩⟩⟩
  · exact planeOp_runs hI (exec_planeStage ..) (fun _ => hp) hv (if_pos h2)
  · exact planeOp_runs hI (exec_planeDrop ..) (fun _ => hp) hv (if_pos h2)
  · refine planeOp_traps_later hI (exec_planeStage ..) (fun _ => hp) hv ?_
    simp only [h2, hb, if_false, if_true]
  · refine planeOp_runs hI (exec_planeStage ..) (fun _ => hp) hv ?_
    simp only [h2, hb, hn, Bool.false_eq_true, if_false]
    rfl
  · refine planeOp_runs hI (exec_planeStage ..) (fun _ => hp) hv ?_
    simp only [h2, State.planeBad_of_record hr, hr, Bool.false_eq_true, if_false]
    rfl
  · exact planeOp_runs hI (exec_planeDrop ..) (fun _ => hp) hv (if_neg h2)

/-! ### RFT -/

theorem rft_traps {s : State} {h : Head} {c : Core} {skip : Bool} (hI : Issues s h c) (hw : s.cur.eng ≠ .wick) :
    Traps (.rft h skip) s 0x03 0xF0 := by
  refine .of_runC (exec_rft ..) hI ?_
  simp [hw, opcRft]

theorem causeAssigned_iff (n : Nat) : causeAssigned n = true ↔ 1 ≤ n ∧ n ≤ 0x18 := by
  simp [causeAssigned]

section
variable {s : State} {h : Head} {c : Core} {skip : Bool} (hI : Issues s h c) (hw : s.cur.eng = .wick)
include hI hw

/-- The trapped stream goes on: the handler has left the cause as it was. -/
theorem rft_goes_on (hn : (c.job c.trapJob).trap.cause = c.trapCause) :
    Runs (.rft h skip) h s ((c.rftStream skip).restoreTrap c.trapJob).thawNext .gone 1 := by
  refine .of_runC (exec_rft ..) hI ?_
  simp [hw, hn]

variable (hn : (c.job c.trapJob).trap.cause ≠ c.trapCause)
include hn

theorem rft_saved (hs : (c.job c.trapJob).st = .saved) :
    Runs (.rft h skip) h s (c.dropFault.restoreTrap c.trapJob).thawNext .gone 1 := by
  refine .of_runC (exec_rft ..) hI ?_
  simp [hw, hn, hs]

variable (hs : (c.job c.trapJob).st ≠ .saved)
include hs

omit hs in
theorem rft_switch_stopping (h16 : (c.job c.trapJob).trap.cause = 0x16) (hp : descPre (c.job c.trapJob).desc = true)
    (hst : (c.job c.trapJob).st = .stopping) :
    Runs (.rft h skip) h s (c.dropFault.restoreTrap c.trapJob).thawNext .gone 1 := by
  refine .of_runC (exec_rft ..) hI ?_
  rw [h16] at hn
  simp [hw, hn, h16, hp, hst]

theorem rft_switch (h16 : (c.job c.trapJob).trap.cause = 0x16) (hp : descPre (c.job c.trapJob).desc = true)
    (hst : (c.job c.trapJob).st ≠ .stopping) :
    Runs (.rft h skip) h s ((c.updJob c.trapJob fun b => { b with trap :=
      { (c.job c.trapJob).trap with eng := setFld (c.job c.trapJob).trap.eng 16 8 c.trapCause } }).switchOut
        c.trapJob 0x16).thawNext .gone 1 := by
  refine .of_runC (exec_rft ..) hI ?_
  rw [h16] at hn
  simp [hw, hn, hs, h16, hp, hst, withOrig]

variable (hsw : ¬((c.job c.trapJob).trap.cause = 0x16 ∧ descPre (c.job c.trapJob).desc = true))
include hsw

theorem rft_stops (ha : causeAssigned (c.job c.trapJob).trap.cause = true) :
    Runs (.rft h skip) h s (c.dropFault.recordFault s.cycles c.trapJob
      { (c.job c.trapJob).trap with eng := setFld (c.job c.trapJob).trap.eng 16 8 c.trapCause }).thawNext .gone 1 := by
  refine .of_runC (exec_rft ..) hI ?_
  simp [hw, hn, hs, hsw, ha, withOrig]

theorem rft_fails (ha : causeAssigned (c.job c.trapJob).trap.cause = false) :
    Runs (.rft h skip) h s (c.dropFault.recordFault s.cycles c.trapJob
      { (c.job c.trapJob).trap with cause := 0x01, eng := (c.job c.trapJob).trap.eng ||| 2 ^ 15 }).thawNext .gone 1 := by
  refine .of_runC (exec_rft ..) hI ?_
  simp [hw, hn, hs, hsw, ha, hfailBit]

end

/-! ### Where the stream goes on after RFT -/

theorem Core.thawNext_thaw (c : Core) : c.thawNext.thaw = true := rfl

theorem Core.thawNext_stream (c : Core) (j : Nat) :
    c.thawNext.stream j = if j = 24 then { c.stream 24 with st := .stopped } else c.stream j :=
  Core.stream_updStream ..

theorem Core.rftStream_pc {c : Core} {skip : Bool} (hc : c.trapCmd = false)
    (hk : (c.stream c.trapKey).we.hook.running = false) :
    ((c.rftStream skip).stream c.trapKey).pc = (if skip then ((c.job c.trapJob).trap.pc + instrLen (engOf c.trapKey)) % 2 ^ 48
      else (c.job c.trapJob).trap.pc) := by
  simp only [Core.rftStream, hc, hk, Bool.or_false, Bool.false_eq_true, if_false]
  generalize (if skip = true then _ else _ : Nat) = pc
  split
  · next he => exact he.symm
  · simp

theorem Core.rftStream_getX (c : Core) (skip : Bool) (n : Nat) :
    ((c.rftStream skip).stream c.trapKey).getX n = (c.stream c.trapKey).getX n := by
  simp only [Core.rftStream]
  generalize (if skip = true then _ else _ : Nat) = pc
  split
  · rfl
  · split
    · rfl
    · rw [Core.stream_updStream_same]
      exact Core.unpop_getX ..

/-- Settles O23. -/
theorem returnFromFault : Obligations.ReturnFromFault := by
  unfold Obligations.ReturnFromFault
  refine ⟨fun s h skip c hI => ⟨fun hw => rft_traps hI hw, fun hw => ⟨fun hn => rft_goes_on hI hw hn,
    fun hn hs => rft_saved hI hw hn hs, fun hn hs h16 hp => ⟨fun hst => rft_switch_stopping hI hw hn h16 hp hst,
      fun hst => rft_switch hI hw hn hs h16 hp hst⟩,
    fun hn hs hsw => ⟨fun h1 h2 => rft_stops hI hw hn hs hsw ((causeAssigned_iff _).mpr ⟨h1, h2⟩), fun ho =>
      rft_fails hI hw hn hs hsw ?_⟩⟩⟩, fun c skip hk hc hh => ⟨rfl, ?_, fun n => ?_, ?_⟩⟩
  · rw [← Bool.not_eq_true, causeAssigned_iff]
    omega
  · rw [Core.thawNext_stream, if_neg hk]
    exact Core.rftStream_pc hc hh
  · rw [Core.thawNext_stream, if_neg hk]
    exact Core.rftStream_getX ..
  · rw [Core.thawNext_stream, if_pos rfl]

end Sys2Proof.Machine
end

section
/-!
PROOF. Context images, TLBI, key slots, capability and tenant records (R133 to R136, R155).
-/

namespace Sys2Proof.Machine

/-! ### RESUME, CTXSV and CTXLD -/

section
variable {s : State} {h : Head} {c : Core} (hI : Issues s h c)
include hI

theorem resume_acts {a : Nat} (hj : ((c.stream s.cur.key).getX a).toNat < 8)
    (hs : (c.job ((c.stream s.cur.key).getX a).toNat).st = .held) :
    Acts (.resume h a) h s ((s.setCore s.cur.core c).resumeJob s.cur.core ((c.stream s.cur.key).getX a).toNat) .seq 1 := by
  refine .of_runI (exec_resume ..) hI ?_
  simp only [State.core_setCore_same, Nat.not_le.mpr hj, hs, if_false, bne_self_eq_false, Bool.false_eq_true]

theorem resume_traps {a : Nat} (hj : 8 ≤ ((c.stream s.cur.key).getX a).toNat
      ∨ (c.job ((c.stream s.cur.key).getX a).toNat).st ≠ .held) : Traps (.resume h a) s 0x0C 3 := by
  refine .of_runI (exec_resume ..) hI ?_
  simp only [State.core_setCore_same]
  by_cases h8 : 8 ≤ ((c.stream s.cur.key).getX a).toNat
  · exact if_pos h8
  · exact (if_neg h8).trans (if_pos (bne_iff_ne.mpr (hj.resolve_left h8)))

theorem ctxsv_runs {a b : Nat} {c1 : Core} {pas : List Nat} (hv : ((c.stream s.cur.key).getX a).toNat % 4096 = 0)
    (hj : ((c.stream s.cur.key).getX b).toNat < 8) (hs : (c.job ((c.stream s.cur.key).getX b).toNat).st = .stopped) :
    let j := ((c.stream s.cur.key).getX b).toNat
    let bs := (s.setCore s.cur.core c).imageOf s.cur.core j ((s.setCore s.cur.core c).capture s.cur.core j)
    c.xlatPieces s.cur.key true (pieces ((c.stream s.cur.key).getX a).toNat bs.length) = .ok c1 pas →
    Runs (.ctxsv h a b) h s (c1.drainImage (c1.sender s.cur.core s.cur.key s.cycles) (pas.map some) bs) .seq 1 := by
  intro j bs hx
  refine .of_runI (exec_ctxsv ..) hI ?_
  simp only [State.core_setCore_same, hv, Nat.not_le.mpr hj, hs, bne_self_eq_false, Bool.false_eq_true, if_false, hx, bs, j]

theorem ctxsv_traps_misaligned {a b : Nat} (hv : ((c.stream s.cur.key).getX a).toNat % 4096 ≠ 0) :
    Traps (.ctxsv h a b) s 0x07 (addrStatus ((c.stream s.cur.key).getX a).toNat) := by
  refine .of_runI (exec_ctxsv ..) hI ?_
  simp only [State.core_setCore_same]
  exact if_pos (bne_iff_ne.mpr hv)

theorem ctxsv_traps_job {a b : Nat} (hv : ((c.stream s.cur.key).getX a).toNat % 4096 = 0)
    (hj : 8 ≤ ((c.stream s.cur.key).getX b).toNat ∨ (c.job ((c.stream s.cur.key).getX b).toNat).st ≠ .stopped) :
    Traps (.ctxsv h a b) s 0x0C 3 := by
  refine .of_runI (exec_ctxsv ..) hI ?_
  simp only [State.core_setCore_same, hv, bne_self_eq_false, Bool.false_eq_true, if_false]
  by_cases h8 : 8 ≤ ((c.stream s.cur.key).getX b).toNat
  · exact if_pos h8
  · exact (if_neg h8).trans (if_pos (bne_iff_ne.mpr (hj.resolve_left h8)))

theorem ctxld_traps_job {d a b : Nat}
    (hj : 8 ≤ ((c.stream s.cur.key).getX b).toNat ∨ (c.job ((c.stream s.cur.key).getX b).toNat).st ≠ .free) :
    Traps (.ctxld h d a b) s 0x0C 3 := by
  refine .of_runI (exec_ctxld ..) hI ?_
  simp only [State.core_setCore_same]
  by_cases h8 : 8 ≤ ((c.stream s.cur.key).getX b).toNat
  · exact if_pos h8
  · exact (if_neg h8).trans (if_pos (bne_iff_ne.mpr (hj.resolve_left h8)))

variable {d a b : Nat} (hj : ((c.stream s.cur.key).getX b).toNat < 8)
  (hs : (c.job ((c.stream s.cur.key).getX b).toNat).st = .free)
include hj hs

theorem ctxld_traps_misaligned (hv : ((c.stream s.cur.key).getX a).toNat % 4096 ≠ 0) :
    Traps (.ctxld h d a b) s 0x07 (addrStatus ((c.stream s.cur.key).getX a).toNat) := by
  refine .of_runI (exec_ctxld ..) hI ?_
  simp only [State.core_setCore_same, Nat.not_le.mpr hj, hs, bne_self_eq_false, Bool.false_eq_true, if_false]
  exact if_pos (bne_iff_ne.mpr hv)

variable {c1 : Core} {hd : List Byte} (hv : ((c.stream s.cur.key).getX a).toNat % 4096 = 0)
  (hr : c.readImage (c.sender s.cur.core s.cur.key s.cycles) ((c.stream s.cur.key).getX a).toNat 256 = .ok c1 hd)
include hv hr

theorem ctxld_traps_header {e : ImgErr} (he : headerCheck hd = .error e) : Traps (.ctxld h d a b) s e.trap.1 e.trap.2 := by
  refine .of_runI (exec_ctxld ..) hI ?_
  simp only [State.core_setCore_same, Nat.not_le.mpr hj, hs, hv, hr, he, bne_self_eq_false, Bool.false_eq_true, if_false]

variable {c2 : Core} {bs : List Byte} (hok : headerCheck hd = .ok ())
  (hr2 : c1.readImage (c.sender s.cur.core s.cur.key s.cycles) ((c.stream s.cur.key).getX a).toNat (256 + bodyLen hd)
    = .ok c2 bs)
include hok hr2

theorem ctxld_traps_body {e : ImgErr} (he : (s.setCore s.cur.core c).plainBody s.cur.core hd (bs.drop 256) = .error e) :
    Traps (.ctxld h d a b) s e.trap.1 e.trap.2 := by
  refine .of_runI (exec_ctxld ..) hI ?_
  simp only [State.core_setCore_same, Nat.not_le.mpr hj, hs, hv, hr, hok, hr2, he, bne_self_eq_false, Bool.false_eq_true,
    if_false]

variable {body : List Byte} (hb : (s.setCore s.cur.core c).plainBody s.cur.core hd (bs.drop 256) = .ok body)
include hb

theorem ctxld_does_not_fit
    (hn : ((s.setCore s.cur.core c).setCore s.cur.core c2).restoreHeld s.cur.core ((c.stream s.cur.key).getX b).toNat
      (readImage hd body) = none) :
    Acts (.ctxld h d a b) h s (((s.setCore s.cur.core c).setCore s.cur.core c2).updCore s.cur.core fun c =>
      c.setReg s.cur.key d 1) .seq 1 := by
  refine .of_runI (exec_ctxld ..) hI ?_
  simp only [State.core_setCore_same, Nat.not_le.mpr hj, hs, hv, hr, hok, hr2, hb, hn, bne_self_eq_false, Bool.false_eq_true,
    if_false]

theorem ctxld_restores {s3 : State}
    (hn : ((s.setCore s.cur.core c).setCore s.cur.core c2).restoreHeld s.cur.core ((c.stream s.cur.key).getX b).toNat
      (readImage hd body) = some s3) :
    Acts (.ctxld h d a b) h s (s3.updCore s.cur.core fun c => c.setReg s.cur.key d 0) .seq 1 := by
  refine .of_runI (exec_ctxld ..) hI ?_
  simp only [State.core_setCore_same, Nat.not_le.mpr hj, hs, hv, hr, hok, hr2, hb, hn, bne_self_eq_false, Bool.false_eq_true,
    if_false]

end

/-- Settles O24. -/
theorem contextResults : Obligations.ContextResults := by
  unfold Obligations.ContextResults
  intro s h c hI
  exact ⟨fun a => ⟨fun hj hs => resume_acts hI hj hs, fun hj => resume_traps hI hj⟩,
    fun a b => ⟨fun c1 pas hv hj hs hx => ctxsv_runs hI hv hj hs hx, fun hv => ctxsv_traps_misaligned hI hv,
      fun hv hj => ctxsv_traps_job hI hv hj⟩,
    fun d a b => ⟨fun hj => ctxld_traps_job hI hj, fun hj hs hv => ctxld_traps_misaligned hI hj hs hv,
      fun c1 hd hj hs hv hr => ⟨fun e he => ctxld_traps_header hI hj hs hv hr he, fun c2 bs hok hr2 =>
        ⟨fun e he => ctxld_traps_body hI hj hs hv hr hok hr2 he, fun body hb =>
          ⟨fun hn => ctxld_does_not_fit hI hj hs hv hr hok hr2 hb hn,
            fun s3 hn => ctxld_restores hI hj hs hv hr hok hr2 hb hn⟩⟩⟩⟩⟩

end Sys2Proof.Machine
end

section
/-!
PROOF. TLBI, key slots, capability and tenant records (R134 to R136).
-/

namespace Sys2Proof.Machine

/-! ### The cores that an invalidation reaches -/

theorem core_foldl_updCore (f : Core → Core) (l : List Nat) (hn : l.Nodup) (s : State) (j : Nat) :
    (l.foldl (fun s o => s.updCore o f) s).core j = if j ∈ l then f (s.core j) else s.core j := by
  induction l generalizing s with
  | nil => simp
  | cons o l ih =>
    obtain ⟨ho, hl⟩ := List.nodup_cons.mp hn
    rw [List.foldl_cons, ih hl, State.core_updCore]
    by_cases hj : j = o
    · subst hj; simp [ho]
    · simp [hj]

theorem tlbiCores_nodup (cid : Nat) (die : Bool) : (tlbiCores cid die).Nodup := by
  cases die with
  | false => simp [tlbiCores]
  | true =>
    refine List.Nodup.map (fun a b hab => ?_) List.nodup_range
    simpa using hab

theorem mem_tlbiCores (cid : Nat) (die : Bool) : cid ∈ tlbiCores cid die := by
  cases die with
  | false => simp [tlbiCores]
  | true =>
    refine List.mem_map.mpr ⟨cid % 16, List.mem_range.mpr (Nat.mod_lt _ (by decide)), ?_⟩
    rw [dieOf]
    omega

/-- The module after core cid, which stands as c, has invalidated v in its own buffers or in those of its die. -/
def State.tlbi (s : State) (cid : Nat) (c : Core) (die : Bool) (v : Inval) : State :=
  ((tlbiCores cid die).foldl (fun s o => s.updCore o fun c => c.tlbi v) (s.setCore cid c)).updDie (dieOf cid) fun d =>
    d.closeWalks v

theorem State.tlbi_core_self (s : State) (cid : Nat) (c : Core) (die : Bool) (v : Inval) :
    (s.tlbi cid c die v).core cid = c.tlbi v := by
  rw [State.tlbi, State.core_updDie, core_foldl_updCore _ _ (tlbiCores_nodup ..), if_pos (mem_tlbiCores ..),
    State.core_setCore_same]

theorem State.tlbi_core_other (s : State) {cid j : Nat} (c : Core) (die : Bool) (v : Inval) (hj : j ∈ tlbiCores cid die)
    (hne : j ≠ cid) : (s.tlbi cid c die v).core j = (s.core j).tlbi v := by
  rw [State.tlbi, State.core_updDie, core_foldl_updCore _ _ (tlbiCores_nodup ..), if_pos hj, State.core_setCore_ne _ _ hne]

/-- No core that the invalidation reaches holds an entry that it takes. -/
theorem State.tlbi_taken (s : State) {cid j : Nat} (c : Core) (die : Bool) (v : Inval) (hj : j ∈ tlbiCores cid die) :
    (∀ e ∈ ((s.tlbi cid c die v).core j).dtlb, v.d e = false) ∧ ∀ e ∈ ((s.tlbi cid c die v).core j).itlb, v.i e = false := by
  have hcore : ∃ b : Core, (s.tlbi cid c die v).core j = b.tlbi v := by
    by_cases hne : j = cid
    · exact ⟨c, hne ▸ s.tlbi_core_self ..⟩
    · exact ⟨s.core j, s.tlbi_core_other _ _ _ hj hne⟩
  obtain ⟨b, hb⟩ := hcore
  rw [hb]
  refine ⟨fun e he => ?_, fun e he => ?_⟩
  · simpa using (List.mem_filter.mp he).2
  · simpa using (List.mem_filter.mp he).2

/-! ### TLBI -/

section
variable {s : State} {h : Head} {c : Core} {a : Nat} {die page : Bool} {i : Instr} {f : Core → Nat → Nat → Inval}
  (hI : Issues s h c) (hx : exec i s = runTlbi s h a die page f)
include hI hx

theorem tlbi_acts (hv : page = true → ((c.stream s.cur.key).getX a).toNat < 2 ^ 48) :
    Acts i h s (s.tlbi s.cur.core c die (f c s.cur.key ((c.stream s.cur.key).getX a).toNat)) .seq 1 := by
  refine .of_runI hx hI ?_
  have hp : ¬(page && decide (2 ^ 48 ≤ ((c.stream s.cur.key).getX a).toNat)) = true := by
    rw [Bool.and_eq_true, decide_eq_true_eq]
    rintro ⟨hp, hle⟩
    exact absurd (hv hp) (Nat.not_lt.mpr hle)
  dsimp only
  rw [State.core_setCore_same]
  exact if_neg hp

theorem tlbi_traps (hp : page = true) (hv : 2 ^ 48 ≤ ((c.stream s.cur.key).getX a).toNat) : Traps i s 0x0C 5 := by
  refine .of_runI hx hI ?_
  dsimp only
  rw [State.core_setCore_same]
  exact if_pos (by rw [hp, Bool.true_and, decide_eq_true hv])

end

theorem not_decide_lt (m n : Nat) : (!decide (m < n)) = decide (n ≤ m) :=
  decide_not.symm.trans (decide_eq_decide.mpr Nat.not_lt)

theorem not_decide_le (m n : Nat) : (!decide (m ≤ n)) = decide (n < m) :=
  decide_not.symm.trans (decide_eq_decide.mpr Nat.not_le)

theorem Core.tlbi_all_data (c : Core) : c.tlbi ⟨fun _ => true, fun _ => false, fun _ page => page < 2 ^ 32⟩
    = { c with dtlb := [], misses := c.misses.filter fun e => 2 ^ 32 ≤ e.page,
               missWait := c.missWait.filter fun e => 2 ^ 32 ≤ e.page } := by
  simp only [Core.tlbi, not_decide_lt, Bool.not_true, Bool.not_false, List.filter_false, List.filter_true]

theorem Core.tlbi_all_instr (c : Core) : c.tlbi ⟨fun _ => false, fun _ => true, fun _ page => 2 ^ 32 ≤ page⟩
    = { c with itlb := [], misses := c.misses.filter fun e => e.page < 2 ^ 32,
               missWait := c.missWait.filter fun e => e.page < 2 ^ 32 } := by
  simp only [Core.tlbi, not_decide_le, Bool.not_true, Bool.not_false, List.filter_false, List.filter_true]

section
variable {s : State} {h : Head} {c : Core} {a : Nat} {die : Bool} (hI : Issues s h c)
include hI

theorem tlbiDataAll_acts : ∃ t, Acts (.tlbiDataAll h a die) h s t .seq 1 ∧ (t.core s.cur.core).dtlb = []
    ∧ (t.core s.cur.core).itlb = c.itlb ∧ ∀ j ∈ tlbiCores s.cur.core die, j ≠ s.cur.core → t.core j =
      { s.core j with dtlb := [], misses := (s.core j).misses.filter fun e => 2 ^ 32 ≤ e.page,
                      missWait := (s.core j).missWait.filter fun e => 2 ^ 32 ≤ e.page } := by
  refine ⟨_, tlbi_acts hI (exec_tlbiDataAll ..) nofun, ?_, ?_, fun j hj hne => ?_⟩
  · rw [State.tlbi_core_self, Core.tlbi_all_data]
  · rw [State.tlbi_core_self, Core.tlbi_all_data]
  · rw [State.tlbi_core_other _ _ _ _ hj hne, Core.tlbi_all_data]

theorem tlbiInstrAll_acts : ∃ t, Acts (.tlbiInstrAll h a die) h s t .seq 1 ∧ (t.core s.cur.core).itlb = []
    ∧ (t.core s.cur.core).dtlb = c.dtlb ∧ ∀ j ∈ tlbiCores s.cur.core die, j ≠ s.cur.core → t.core j =
      { s.core j with itlb := [], misses := (s.core j).misses.filter fun e => e.page < 2 ^ 32,
                      missWait := (s.core j).missWait.filter fun e => e.page < 2 ^ 32 } := by
  refine ⟨_, tlbi_acts hI (exec_tlbiInstrAll ..) nofun, ?_, ?_, fun j hj hne => ?_⟩
  · rw [State.tlbi_core_self, Core.tlbi_all_instr]
  · rw [State.tlbi_core_self, Core.tlbi_all_instr]
  · rw [State.tlbi_core_other _ _ _ _ hj hne, Core.tlbi_all_instr]

variable (hv : ((c.stream s.cur.key).getX a).toNat < 2 ^ 48)
include hv

theorem tlbiDataPage_acts : ∃ t, Acts (.tlbiDataPage h a die) h s t .seq 1 ∧ (t.core s.cur.core).itlb = c.itlb
    ∧ ∀ j ∈ tlbiCores s.cur.core die, ∀ e ∈ (t.core j).dtlb, ¬(e.dt = c.dtOf s.cur.key
      ∧ (if e.large then e.page / 32 = ((c.stream s.cur.key).getX a).toNat / 2 ^ 21
        else e.page = ((c.stream s.cur.key).getX a).toNat / 2 ^ 16)) := by
  refine ⟨_, tlbi_acts hI (exec_tlbiDataPage ..) fun _ => hv, ?_, fun j hj e he => ?_⟩
  · rw [State.tlbi_core_self]
    simp only [Core.tlbi, Bool.not_false, List.filter_true]
  · have hd := (s.tlbi_taken c die _ hj).1 e he
    rintro ⟨hdt, hpage⟩
    cases hl : e.large <;> simp_all

theorem tlbiInstrPage_acts : ∃ t, Acts (.tlbiInstrPage h a die) h s t .seq 1 ∧ (t.core s.cur.core).dtlb = c.dtlb
    ∧ ∀ j ∈ tlbiCores s.cur.core die, ∀ e ∈ (t.core j).itlb,
      ¬(e.root = (c.stream (if s.cur.key = 24 then c.trapKey else s.cur.key)).fetchRoot
        ∧ e.page = ((c.stream s.cur.key).getX a).toNat / 2 ^ 18) := by
  refine ⟨_, tlbi_acts hI (exec_tlbiInstrPage ..) fun _ => hv, ?_, fun j hj e he => ?_⟩
  · rw [State.tlbi_core_self]
    simp only [Core.tlbi, Bool.not_false, List.filter_true]
  · have hi := (s.tlbi_taken c die _ hj).2 e he
    rintro ⟨hroot, hpage⟩
    simp [hroot, hpage] at hi

end

/-! ### Key slots -/

theorem State.setKey_keys (s : State) (cid n : Nat) (v : Option Nat) (m : Nat) :
    mget none ((s.setKey cid n v).die (cid / 16)).keys m = if m = n then v else mget none (s.die (cid / 16)).keys m := by
  simp only [State.setKey, State.die_updDie, dieOf, if_true, mget_mput]

section
variable {s : State} {h : Head} {c : Core} {a b d : Nat} (hI : Issues s h c)
include hI

theorem keyop_traps {i : Instr} {go : State → Core → Nat → Res} (hx : exec i s = runKeyop s h a go)
    (hn : 4096 ≤ ((c.stream s.cur.key).getX a).toNat) : Traps i s 0x0C 3 := by
  refine .of_runI hx hI ?_
  dsimp only
  rw [State.core_setCore_same]
  exact if_pos hn

theorem keyop_acts {i : Instr} {go : State → Core → Nat → Res} {t : State} (hx : exec i s = runKeyop s h a go)
    (hn : ((c.stream s.cur.key).getX a).toNat < 4096)
    (hg : go (s.setCore s.cur.core c) c ((c.stream s.cur.key).getX a).toNat = .done t .seq 1) : Acts i h s t .seq 1 := by
  refine .of_runI hx hI ?_
  dsimp only
  rw [State.core_setCore_same]
  exact (if_neg (Nat.not_le.mpr hn)).trans hg

/-- A KEYOP that gives slot n of the die a value, or takes it. -/
theorem keyop_sets {i : Instr} {go : State → Core → Nat → Res} {v : Option Nat} (hx : exec i s = runKeyop s h a go)
    (hn : ((c.stream s.cur.key).getX a).toNat < 4096)
    (hg : go (s.setCore s.cur.core c) c ((c.stream s.cur.key).getX a).toNat
      = .done ((s.setCore s.cur.core c).setKey s.cur.core ((c.stream s.cur.key).getX a).toNat v) .seq 1) :
    ∃ t, Acts i h s t .seq 1 ∧ mget none (t.die (s.cur.core / 16)).keys ((c.stream s.cur.key).getX a).toNat = v
      ∧ ∀ m, m ≠ ((c.stream s.cur.key).getX a).toNat →
        mget none (t.die (s.cur.core / 16)).keys m = mget none (s.die (s.cur.core / 16)).keys m := by
  refine ⟨_, keyop_acts hI hx hn hg, ?_, fun m hm => ?_⟩
  · rw [State.setKey_keys, if_pos rfl]
  · rw [State.setKey_keys, if_neg hm, State.die_setCore]

/-! ### Capability and tenant records -/

section
variable {ch : Nat} {bs : List Byte} (hs : sysBytes s c ((c.stream s.cur.key).getX b).toNat 16 = .ok bs)
include hs

theorem capw_runs (hok : (Cap.mk (leBytes (bs.drop 8)) (leBytes (bs.take 8))).ok = true)
    (hn : ((c.stream s.cur.key).getX a).toNat < 8) (hf : (c.job ((c.stream s.cur.key).getX a).toNat).st ≠ .free) :
    Runs (.capw h ch false a b) h s (c.updJob ((c.stream s.cur.key).getX a).toNat fun b => { b with
      sec := mput 0 (9 + 2 * ch) (word (leBytes (bs.drop 8))) (mput 0 (8 + 2 * ch) (word (leBytes (bs.take 8))) b.sec) })
      .seq 1 := by
  have hbeq : ((c.job ((c.stream s.cur.key).getX a).toNat).st == .free) = false := by simpa using hf
  refine .of_runC (exec_capw ..) hI ?_
  simp only [hs, hok, hbeq, Nat.not_le.mpr hn, Bool.not_true, Bool.or_false, Bool.false_eq_true, if_false]
  rfl

theorem capw_staged_runs (hok : (Cap.mk (leBytes (bs.drop 8)) (leBytes (bs.take 8))).ok = true)
    (hn : ((c.stream s.cur.key).getX a).toNat = 0) :
    Runs (.capw h ch true a b) h s { c with staged := (mput 0 (9 + 2 * ch) (word (leBytes (bs.drop 8)))
        (mput 0 (8 + 2 * ch) (word (leBytes (bs.take 8))) c.staged)) } .seq 1 := by
  refine .of_runC (exec_capw ..) hI ?_
  simp only [hs, hok, hn, bne_self_eq_false, Bool.not_true, Bool.or_false, Bool.false_eq_true, if_false, if_true]
  rfl

theorem capw_traps (hok : (Cap.mk (leBytes (bs.drop 8)) (leBytes (bs.take 8))).ok = false) (staged : Bool) :
    Traps (.capw h ch staged a b) s 0x0C 3 := by
  refine .of_runC (exec_capw ..) hI ?_
  simp only [hs, hok, Bool.not_false, Bool.or_true, if_true, ite_self]

end

section
variable {bs : List Byte} (hs : sysBytes s c ((c.stream s.cur.key).getX b).toNat 32 = .ok bs)
include hs

theorem tnset_runs (hn : ((c.stream s.cur.key).getX a).toNat < 16) (hok : tenantOk (leBytes bs) = true) (staged : Bool) :
    Runs (.tnset h staged a b) h s
      (if staged then { c with staged := putAll (dwordsAt (136 + 4 * ((c.stream s.cur.key).getX a).toNat) bs) c.staged }
        else { c with active := putAll (dwordsAt (136 + 4 * ((c.stream s.cur.key).getX a).toNat) bs) c.active }) .seq 1 := by
  refine .of_runC (exec_tnset ..) hI ?_
  simp only [hs, hok, Nat.not_le.mpr hn, decide_false, Bool.not_true, Bool.or_false, Bool.false_eq_true, if_false]

theorem tnset_traps (ho : 16 ≤ ((c.stream s.cur.key).getX a).toNat ∨ tenantOk (leBytes bs) = false) (staged : Bool) :
    Traps (.tnset h staged a b) s 0x0C 3 := by
  have hbad : (decide (16 ≤ ((c.stream s.cur.key).getX a).toNat) || !tenantOk (leBytes bs)) = true := by
    obtain ho | ho := ho <;> simp [ho]
  refine .of_runC (exec_tnset ..) hI ?_
  simp only [hs, hbad, if_true]

end

end

theorem bitN_eq_ite (b : Bool) : word (bitN b) = if b then 1 else 0 := by cases b <;> rfl

theorem keyopQuery_acts {s : State} {h : Head} {c : Core} {a b d : Nat} (hI : Issues s h c)
    (hn : ((c.stream s.cur.key).getX a).toNat < 4096) :
    Acts (.keyopQuery h d a b) h s ((s.setCore s.cur.core c).setCore s.cur.core (c.result s.cur.key 1 (.x d
      (if (mget none (s.die (s.cur.core / 16)).keys ((c.stream s.cur.key).getX a).toNat).isSome then 1 else 0)) 0)) .seq 1 := by
  refine keyop_acts hI (exec_keyopQuery ..) hn ?_
  rw [← bitN_eq_ite]
  rfl

/-- Settles O25. -/
theorem translationAndTableResults : Obligations.TranslationAndTableResults := by
  unfold Obligations.TranslationAndTableResults
  refine ⟨fun s h a die c hI => ⟨tlbiDataAll_acts hI, tlbiInstrAll_acts hI, fun hv => tlbiDataPage_acts hI hv,
    fun hv => tlbiInstrPage_acts hI hv, fun hv => ⟨tlbi_traps hI (exec_tlbiDataPage ..) rfl hv,
      tlbi_traps hI (exec_tlbiInstrPage ..) rfl hv⟩⟩, fun s h a b d c hI => ⟨fun hn => ⟨fun bs hb => ?_, ?_, ?_⟩,
    fun hn => ⟨keyop_traps hI (exec_keyopLoad ..) hn, keyop_traps hI (exec_keyopDestroy ..) hn,
      keyop_traps hI (exec_keyopQuery ..) hn⟩,
    fun bs ch hb => ⟨fun hok hn hf => capw_runs hI hb hok hn hf, fun hok hn => capw_staged_runs hI hb hok hn,
      fun hok _ => ⟨capw_traps hI hb hok false, capw_traps hI hb hok true⟩⟩,
    fun bs hb => ⟨fun hn hok => ⟨tnset_runs hI hb hn hok false, tnset_runs hI hb hn hok true⟩,
      fun ho => ⟨tnset_traps hI hb ho false, tnset_traps hI hb ho true⟩⟩⟩⟩
  · refine keyop_sets hI (exec_keyopLoad ..) hn ?_
    simp only [hb]
  · exact keyop_sets hI (exec_keyopDestroy ..) hn rfl
  · exact keyopQuery_acts hI hn

end Sys2Proof.Machine
end

section
/-!
PROOF. Stream registers (R213 to R215): SDEF, SLVL, SREL and SFIB.
-/

namespace Sys2Proof.Machine

/-! ### What the checks of a stream instruction let through -/

theorem withSt_ok {s : State} {c : Core} {a : StOpnd} {n : Nat} {go : Nat → CRes}
    (h : StOpnd.idx a (c.stream s.cur.key) = .ok n) : withSt s c a go = go n := by
  simp only [withSt, h]

theorem withWalker_ok {s : State} {c : Core} {n : Nat} {w : SWalk} {go : SWalk → CRes}
    (h : (c.stream s.cur.key).walker n = .ok w) : withWalker s c n go = go w := by
  simp only [withWalker, h]

theorem withRead_ok {α : Type} {s : State} {c : Core} {x : Rd α} {v : α} {go : α → CRes} (h : x = .ok v) :
    withRead s c x go = go v := by
  simp only [withRead, h]

theorem withStream_ok {α : Type} {s : State} {c : Core} {n : Nat} {x : Rd α} {v : α} {go : α → CRes} (h : x = .ok v) :
    withStream s c n x go = go v := by
  simp only [withStream, withRead, h]

/-! ### Records -/

section
variable {s : State} {c : Core} {a n : Nat} {go : Nat → CRes}

theorem readRecord_misaligned (h : a % n ≠ 0) : readRecord s c a n go = .trap 0x07 (addrStatus a) :=
  if_pos (bne_iff_ne.mpr h)

theorem readRecord_foreign (h : a % n = 0) (hr : (c.job (c.stream s.cur.key).job).inRegions a n = false) :
    readRecord s c a n go = .trap 0x0E 0x3FF := by
  simp only [readRecord, h, hr, bne_self_eq_false, Bool.false_eq_true, if_false, Bool.not_false, if_true]
  rfl

theorem readRecord_ok (h : a % n = 0) (hr : (c.job (c.stream s.cur.key).job).inRegions a n = true) :
    readRecord s c a n go = go (leBytes (c.spadRead a n)) := by
  simp only [readRecord, h, hr, bne_self_eq_false, Bool.false_eq_true, if_false, Bool.not_true]

end

/-! ### SDEF -/

theorem dDims_le (d : Nat) : dDims d ≤ 4 := by
  have h : fld d 120 2 < 4 := Nat.mod_lt _ (by decide)
  rw [dDims]
  omega

/-- The dimensions of a descriptor that passes its checks are not empty. -/
theorem dSize_ne_zero {d i : Nat} (h : descOk d = true) (hi : i < dDims d) : dSize d i ≠ 0 := by
  have hi4 : i < 4 := lt_of_lt_of_le hi (dDims_le d)
  simp only [descOk, Bool.and_eq_true, List.all_eq_true, List.mem_range] at h
  obtain ⟨⟨⟨⟨⟨⟨-, hsizes⟩, -⟩, -⟩, -⟩, -⟩, -⟩ := h
  have := hsizes i hi4
  rw [if_pos hi] at this
  exact bne_iff_ne.mp this

theorem foldl_mul_ne_zero {f : Nat → Nat} (l : List Nat) (hl : ∀ i ∈ l, f i ≠ 0) {n : Nat} (hn : n ≠ 0) :
    l.foldl (fun n i => n * f i) n ≠ 0 := by
  induction l generalizing n with
  | nil => exact hn
  | cons i l ih =>
    exact ih (fun j hj => hl j (.tail _ hj)) (Nat.mul_ne_zero hn (hl i (.head _)))

/-- A stream with a descriptor that passes its checks has elements. -/
theorem dTotal_ne_zero {d : Nat} (h : descOk d = true) : dTotal d ≠ 0 :=
  foldl_mul_ne_zero _ (fun _ hi => dSize_ne_zero h (List.mem_range.mp hi)) Nat.one_ne_zero

section
variable {s : State} {h : Head} {c : Core} {d a : Nat} {imm : Int} (hI : Issues s h c)
include hI

theorem sdef_traps_misaligned (hm : addrOf c s.cur.key a imm % 64 ≠ 0) :
    Traps (.sdef h d a imm) s 0x07 (addrStatus (addrOf c s.cur.key a imm)) :=
  .of_runC (exec_sdef ..) hI (readRecord_misaligned hm)

theorem sdef_traps_foreign (hm : addrOf c s.cur.key a imm % 64 = 0)
    (hr : (c.job (c.stream s.cur.key).job).inRegions (addrOf c s.cur.key a imm) 64 = false) :
    Traps (.sdef h d a imm) s 0x0E 0x3FF :=
  .of_runC (exec_sdef ..) hI (readRecord_foreign hm hr)

theorem sdef_traps_bad (hm : addrOf c s.cur.key a imm % 64 = 0)
    (hr : (c.job (c.stream s.cur.key).job).inRegions (addrOf c s.cur.key a imm) 64 = true)
    (hb : ((c.stream s.cur.key).sreg d).tied = true
      ∨ descOk (leBytes (c.spadRead (addrOf c s.cur.key a imm) 64)) = false) : Traps (.sdef h d a imm) s 0x0D 0 := by
  refine .of_runC (exec_sdef ..) hI ((readRecord_ok hm hr).trans (if_pos ?_))
  obtain hb | hb := hb <;> simp [hb]

theorem sdef_runs (hm : addrOf c s.cur.key a imm % 64 = 0)
    (hr : (c.job (c.stream s.cur.key).job).inRegions (addrOf c s.cur.key a imm) 64 = true)
    (ht : ((c.stream s.cur.key).sreg d).tied = false)
    (hd : descOk (leBytes (c.spadRead (addrOf c s.cur.key a imm) 64)) = true) :
    Runs (.sdef h d a imm) h s (c.updStream s.cur.key fun t => t.setSreg d
      { valid := true, desc := leBytes (c.spadRead (addrOf c s.cur.key a imm) 64), done := false }) .seq 1 := by
  refine .of_runC (exec_sdef ..) hI ((readRecord_ok hm hr).trans ((if_neg ?_).trans ?_))
  · simp [ht, hd]
  · rw [beq_false_of_ne (dTotal_ne_zero hd)]
    rfl

/-! ### SLVL -/

theorem slvl_traps_bad (hm : addrOf c s.cur.key a imm % 32 = 0)
    (hr : (c.job (c.stream s.cur.key).job).inRegions (addrOf c s.cur.key a imm) 32 = true)
    (hb : ((c.stream s.cur.key).sreg d).tied = true ∨ ((c.stream s.cur.key).sreg d).valid = false
      ∨ dDims ((c.stream s.cur.key).sreg d).desc ≠ 1 ∨ 4 ≤ ((c.stream s.cur.key).sreg d).levels.length
      ∨ levelOk (leBytes (c.spadRead (addrOf c s.cur.key a imm) 32)) = false) : Traps (.slvl h d a imm) s 0x0D 0 := by
  refine .of_runC (exec_slvl ..) hI ((readRecord_ok hm hr).trans (if_pos ?_))
  obtain hb | hb | hb | hb | hb := hb <;> simp [hb]

theorem slvl_runs (hm : addrOf c s.cur.key a imm % 32 = 0)
    (hr : (c.job (c.stream s.cur.key).job).inRegions (addrOf c s.cur.key a imm) 32 = true)
    (ht : ((c.stream s.cur.key).sreg d).tied = false) (hv : ((c.stream s.cur.key).sreg d).valid = true)
    (h1 : dDims ((c.stream s.cur.key).sreg d).desc = 1) (h4 : ((c.stream s.cur.key).sreg d).levels.length < 4)
    (hl : levelOk (leBytes (c.spadRead (addrOf c s.cur.key a imm) 32)) = true) :
    Runs (.slvl h d a imm) h s (c.updStream s.cur.key fun u => u.setSreg d { (c.stream s.cur.key).sreg d with
      levels := ((c.stream s.cur.key).sreg d).levels ++ [leBytes (c.spadRead (addrOf c s.cur.key a imm) 32)],
      mode := 1, done := false }) .seq 1 := by
  refine .of_runC (exec_slvl ..) hI ((readRecord_ok hm hr).trans ((if_neg ?_).trans rfl))
  simp [ht, hv, h1, h4, hl]

/-! ### SREL -/

variable {a : StOpnd} {n : Nat} (hn : StOpnd.idx a (c.stream s.cur.key) = .ok n)
include hn

theorem srel_traps (hb : ((c.stream s.cur.key).sreg n).bound.isSome = true) : Traps (.srel h a) s 0x0D 0 :=
  .of_runC (exec_srel ..) hI ((withSt_ok hn).trans (if_pos hb))

theorem srel_runs (hb : ((c.stream s.cur.key).sreg n).bound = none) :
    Runs (.srel h a) h s
      (c.updStream s.cur.key fun u => (u.unbindOps ((c.stream s.cur.key).sreg n)).setSreg n {}) .seq 1 :=
  .of_runC (exec_srel ..) hI ((withSt_ok hn).trans (if_neg (by simp [hb])))

/-! ### SFIB -/

variable {b lvl : Nat}

theorem sfib_traps_bad (hg : ((c.stream s.cur.key).sreg n).valid = false ∨ ((c.stream s.cur.key).sreg n).tied = true) :
    Traps (.sfib h a b lvl) s 0x0D 0 := by
  refine .of_runC (exec_sfib ..) hI ((withSt_ok hn).trans (if_pos ?_))
  obtain hg | hg := hg <;> simp [hg]

variable (hv : ((c.stream s.cur.key).sreg n).valid = true) (ht : ((c.stream s.cur.key).sreg n).tied = false)
include hv ht

theorem sfib_dense_runs (hm : ((c.stream s.cur.key).sreg n).mode = 0) (hl : lvl = 0)
    (hp : ((c.stream s.cur.key).getX b).toNat < dTotal ((c.stream s.cur.key).sreg n).desc) :
    Runs (.sfib h a b lvl) h s (c.updStream s.cur.key fun t => t.setSreg n
      { (c.stream s.cur.key).sreg n with idx := ((c.stream s.cur.key).getX b).toNat, done := false }) .seq 1 := by
  refine .of_runC (exec_sfib ..) hI ((withSt_ok hn).trans ?_)
  simp [hv, ht, hm, hl, Nat.not_le.mpr hp, updDone]

theorem sfib_dense_traps (hm : ((c.stream s.cur.key).sreg n).mode = 0) (hl : lvl = 0)
    (hp : dTotal ((c.stream s.cur.key).sreg n).desc ≤ ((c.stream s.cur.key).getX b).toNat) :
    Traps (.sfib h a b lvl) s 0x0C 1 := by
  refine .of_runC (exec_sfib ..) hI ((withSt_ok hn).trans ?_)
  simp [hv, ht, hm, hl, hp]

variable (hm : ((c.stream s.cur.key).sreg n).mode ≠ 0) (hl : lvl < ((c.stream s.cur.key).sreg n).levels.length)
include hm hl

theorem sfib_traps_past (hp : positions ((c.stream s.cur.key).sreg n).levels lvl ≤ ((c.stream s.cur.key).getX b).toNat) :
    Traps (.sfib h a b lvl) s 0x0C 1 := by
  refine .of_runC (exec_sfib ..) hI ((withSt_ok hn).trans ?_)
  simp [hv, ht, hm, Nat.not_le.mpr hl, hp]

theorem sfib_runs {f : Fib} {e : Bool}
    (hp : ((c.stream s.cur.key).getX b).toNat < positions ((c.stream s.cur.key).sreg n).levels lvl)
    (hf : (s.rdr c).fibre (dSpace ((c.stream s.cur.key).sreg n).desc) (((c.stream s.cur.key).sreg n).levels.getD lvl 0)
      ((c.stream s.cur.key).getX b).toNat = .ok f)
    (he : (s.rdr c).empty (dSpace ((c.stream s.cur.key).sreg n).desc) (((c.stream s.cur.key).sreg n).levels.getD lvl 0) f
      = .ok e) :
    Runs (.sfib h a b lvl) h s (c.updStream s.cur.key fun t => t.setSreg n
      { ({ (c.stream s.cur.key).sreg n with lvl := lvl } : StReg).setFib f with done := e }) .seq 1 := by
  refine .of_runC (exec_sfib ..) hI ((withSt_ok hn).trans ?_)
  simp only [hv, ht, hm, Nat.not_le.mpr hl, Nat.not_le.mpr hp, Bool.not_true, Bool.or_self, Bool.false_eq_true, if_false]
  refine withRead_ok (v := (f, e)) ?_
  simp only [hf, he, bind, Except.bind]

end

/-- Settles O26. -/
theorem streamRegisterResults : Obligations.StreamRegisterResults := by
  unfold Obligations.StreamRegisterResults
  exact ⟨fun s h c hI => ⟨fun d a imm => ⟨fun hm => sdef_traps_misaligned hI hm, fun hm hr => sdef_traps_foreign hI hm hr,
      fun hm hr hb => sdef_traps_bad hI hm hr hb, fun hm hr ht hd => sdef_runs hI hm hr ht hd,
      fun hm hr hb => slvl_traps_bad hI hm hr hb, fun hm hr ht hv h1 h4 hl => slvl_runs hI hm hr ht hv h1 h4 hl⟩,
    fun a n hn => ⟨fun hb => srel_traps hI hn hb, fun hb => srel_runs hI hn hb⟩⟩,
    fun s h c a b lvl n hI hn => ⟨fun hg => sfib_traps_bad hI hn hg,
      fun hv ht hm hl => ⟨fun hp => sfib_dense_runs hI hn hv ht hm hl hp, fun hp => sfib_dense_traps hI hn hv ht hm hl hp⟩,
      fun hv ht hm hl => ⟨fun hp => sfib_traps_past hI hn hv ht hm hl hp,
        fun f e hp hf he => sfib_runs hI hn hv ht hm hl hp hf he⟩⟩⟩

end Sys2Proof.Machine
end

section
/-!
PROOF. Walks of streams (R216 to R218): SINT, SUNI, SSKIP, SPOS and SCRD.
-/

namespace Sys2Proof.Machine

/-! ### SINT and SUNI -/

/-- A register that a co-iterator may take as an operand: levelled, free, with a started fibre (R216). -/
def StReg.joinable (g : StReg) : Prop := g.valid = true ∧ g.mode = 1 ∧ g.bound = none ∧ g.fib.isSome = true

theorem StReg.joinable_iff (g : StReg) :
    g.joinable ↔ (!g.valid || g.mode != 1 || g.bound.isSome || g.fib.isNone) = false := by
  cases hf : g.fib <;> simp [StReg.joinable, hf, and_assoc]

/-- The stream with register d as the co-iterator of a and b. -/
def Stream.joined (t : Stream) (d a b mode : Nat) : Stream :=
  (((t.unbindOps (t.sreg d)).setSreg d { valid := true, mode := mode, opA := a, opB := b }).setSreg a
    { t.sreg a with bound := some d }).setSreg b { t.sreg b with bound := some d }

section
variable {s : State} {h : Head} {c : Core} {d a b mode : Nat} {i : Instr} (hI : Issues s h c)
  (hx : exec i s = bindOps s h mode d a b)
include hI hx

theorem bindOps_traps (hb : a = b ∨ a = d ∨ b = d ∨ ((c.stream s.cur.key).sreg d).bound.isSome = true
      ∨ ¬((c.stream s.cur.key).sreg a).joinable ∨ ¬((c.stream s.cur.key).sreg b).joinable) : Traps i s 0x0D 0 := by
  refine .of_runC hx hI (if_pos ?_)
  rw [StReg.joinable_iff, StReg.joinable_iff, Bool.not_eq_false, Bool.not_eq_false] at hb
  obtain hb | hb | hb | hb | hb | hb := hb <;> simp only [hb, beq_self_eq_true, Bool.or_true, Bool.true_or]

theorem bindOps_runs {w : SWalk} {e : Bool} (hab : a ≠ b) (had : a ≠ d) (hbd : b ≠ d)
    (hd : ((c.stream s.cur.key).sreg d).bound = none) (ha : ((c.stream s.cur.key).sreg a).joinable)
    (hb : ((c.stream s.cur.key).sreg b).joinable) (hw : ((c.stream s.cur.key).joined d a b mode).walker d = .ok w)
    (hf : (s.rdr c).finished w = .ok e) :
    Runs i h s (c.updStream s.cur.key fun _ => ((c.stream s.cur.key).joined d a b mode).setSreg d
      { ((c.stream s.cur.key).joined d a b mode).sreg d with done := e }) .seq 1 := by
  rw [StReg.joinable_iff] at ha hb
  refine .of_runC hx hI ((if_neg ?_).trans ?_)
  · simp only [hd, Option.isSome_none, beq_false_of_ne hab, beq_false_of_ne had, beq_false_of_ne hbd, ha, hb, Bool.or_self,
      Bool.false_eq_true, not_false_eq_true]
  · rw [Stream.joined] at hw
    simp only [hw]
    exact withRead_ok hf

end

/-! ### SSKIP, SPOS and SCRD -/

section
variable {s : State} {h : Head} {c : Core} {a : StOpnd} {n : Nat} {w : SWalk} (hI : Issues s h c)
  (hn : StOpnd.idx a (c.stream s.cur.key) = .ok n) (hw : (c.stream s.cur.key).walker n = .ok w)
include hI hn hw

theorem sskip_runs {b : Nat} {v : SWalk} {e : Bool}
    (hs : (s.rdr c).skipTo ((c.stream s.cur.key).getX b).toNat w = .ok v)
    (ho : v ≠ w → (s.rdr c).ontoWalk (c.stream s.cur.key) n v = .ok ()) (hf : (s.rdr c).finished v = .ok e) :
    Runs (.sskip h a b) h s (c.updStream s.cur.key fun t => t.moveTo n v e) .seq 1 := by
  refine .of_runC (exec_sskip ..) hI ((withSt_ok hn).trans ((withWalker_ok hw).trans (withRead_ok (v := (v, e)) ?_)))
  by_cases hvw : v = w
  · simp only [hs, bind, Except.bind, hvw, if_true]
    rw [← hvw, hf]
  · simp only [hs, bind, Except.bind, hvw, if_false, ho hvw, hf]

theorem spos_runs {d : Nat} {side : Bool} {e : Option Nat × Option Nat} (he : (s.rdr c).spot w = .ok e)
    (hs : side = true → 2 ≤ ((c.stream s.cur.key).sreg n).mode) :
    Runs (.spos h d a side) h s (c.result s.cur.key 2 (.x d (word (spos side w e))) 0) .seq 2 := by
  refine .of_runC (exec_spos ..) hI ((withSt_ok hn).trans ((withWalker_ok hw).trans ((if_neg ?_).trans (withRead_ok he))))
  rw [Bool.and_eq_true, decide_eq_true_eq]
  rintro ⟨hside, hlt⟩
  exact absurd (hs hside) (Nat.not_le.mpr hlt)

theorem spos_traps {d : Nat} (hm : ((c.stream s.cur.key).sreg n).mode < 2) : Traps (.spos h d a true) s 0x02 0x46 := by
  refine .of_runC (exec_spos ..) hI ((withSt_ok hn).trans ((withWalker_ok hw).trans (if_pos ?_)))
  rw [Bool.true_and, decide_eq_true hm]

theorem scrd_traps {d dim : Nat} (hm : ((c.stream s.cur.key).sreg n).mode ≠ 0) (hd : dim ≠ 0) :
    Traps (.scrd h d a dim) s 0x02 0x47 := by
  refine .of_runC (exec_scrd ..) hI ((withSt_ok hn).trans ((withWalker_ok hw).trans (if_pos ?_)))
  simp [hm, hd]

theorem scrd_runs {d dim : Nat} {e : Option Elt} (he : (s.rdr c).peek w = .ok e)
    (hl : ((c.stream s.cur.key).sreg n).mode ≠ 0 → dim = 0)
    (hd : ((c.stream s.cur.key).sreg n).mode = 0 → dim < dDims ((c.stream s.cur.key).sreg n).desc) :
    Runs (.scrd h d a dim) h s (c.result s.cur.key 2 (.x d (word (match e with
      | none => ones64
      | some x => if ((c.stream s.cur.key).sreg n).mode = 0
        then (denseCoords ((c.stream s.cur.key).sreg n).desc ((c.stream s.cur.key).sreg n).idx).getD dim 0 else x.c))) 0)
      .seq 2 := by
  refine .of_runC (exec_scrd ..) hI ((withSt_ok hn).trans ((withWalker_ok hw).trans ((if_neg ?_).trans
    ((if_neg ?_).trans ((withRead_ok he).trans ?_)))))
  · rw [Bool.and_eq_true, bne_iff_ne, bne_iff_ne]
    rintro ⟨hm, hdim⟩
    exact hdim (hl hm)
  · rw [Bool.and_eq_true, beq_iff_eq, decide_eq_true_eq]
    rintro ⟨hm, hle⟩
    exact absurd (hd hm) (Nat.not_lt.mpr hle)
  · cases e <;> rfl

end

/-- Settles O27. -/
theorem walkResults : Obligations.WalkResults := by
  unfold Obligations.WalkResults
  refine ⟨fun s h c d a b hI => ⟨fun hb => ⟨bindOps_traps hI (exec_sint ..) hb, bindOps_traps hI (exec_suni ..) hb⟩,
      fun hab had hbd hd ha hb m hm w e hw hf => ?_⟩,
    fun s h c a n w hI hn hw => ⟨fun b v e hs ho hf => sskip_runs hI hn hw hs ho hf, fun d side e he hs => ?_,
      fun d hm => spos_traps hI hn hw hm, fun d dim hm hd => scrd_traps hI hn hw hm hd, fun d dim e he hl hd => ?_⟩⟩
  · have hx : exec (if m = 2 then .sint h d a b else .suni h d a b) s = bindOps s h m d a b := by
      obtain rfl | rfl : m = 2 ∨ m = 3 := by simpa using hm
      · exact exec_sint ..
      · exact exec_suni ..
    exact bindOps_runs hI hx hab had hbd hd ha hb hw hf
  · have := spos_runs (d := d) hI hn hw he hs
    cases w <;> exact this
  · have := scrd_runs (d := d) hI hn hw he hl hd
    cases e <;> exact this

end Sys2Proof.Machine
end

section
/-!
PROOF. Queues filled from streams and stored through them (R219 to R221): LDQ, LDQC, LDQA and STQ.
-/

namespace Sys2Proof.Machine

/-! ### A delivery -/

/-- The core after an entry of a walk's elements has been handed to queue q: the walk stands at v unless it is kept, and the
end of the walk goes to predicate p. -/
def State.delivers (s : State) (c : Core) (n q : Nat) (p : Option Nat) (keep : Bool) (v : SWalk) (fin : Bool) (ls : List Nat)
    (cnt fl : Nat) : Core :=
  let c1 := if keep then c else c.updStream s.cur.key fun t => t.moveTo n v fin
  let c2 := (c1.reserveQ q (mkVec ls cnt)).1.result s.cur.key 2 (.q q c1.nextQ (mkVec ls cnt)) fl
  match p with
  | none => c2
  | some i => c2.result s.cur.key 2 (.p i fin) 0

section
variable {s : State} {c : Core} {n q m limit : Nat} {p : Option Nat} {keep : Bool} {w v : SWalk} {es : List Elt} {fin : Bool}
  {sides : Elt → List (Option Nat)} {deliver : Rdr → List Elt → Rd Entry}

theorem ldqBody_done {ls : List Nat} {cnt fl : Nat} (hw : (c.stream s.cur.key).walker n = .ok w)
    (hq : c.queueCheck (c.job (c.stream s.cur.key).job) [] (some q) = none) (ht : (s.rdr c).take m w = .ok (es, v))
    (hf : (s.rdr c).finished v = .ok fin) (h0 : 0 < m) (hm : m ≤ limit)
    (hs : ((c.stream s.cur.key).sreg n).mode ≠ 0 → ∀ e ∈ es, ∀ x, some x ∈ sides e → x < 2 ^ 32)
    (hd : deliver (s.rdr c) es = .ok (ls, cnt, fl)) :
    ldqBody s c n q m limit p keep sides deliver = .done (s.delivers c n q p keep v fin ls cnt fl) .seq 2 := by
  have hbig : ¬(((c.stream s.cur.key).sreg n).mode != 0
      && es.any fun e => (sides e).any fun q => q.any (2 ^ 32 ≤ ·)) = true := by
    rw [Bool.and_eq_true, bne_iff_ne, List.any_eq_true]
    rintro ⟨hmode, e, he, hany⟩
    obtain ⟨o, ho, hx⟩ := List.any_eq_true.mp hany
    obtain ⟨x, rfl, hle⟩ := (Option.any_eq_true ..).mp hx
    exact absurd (hs hmode e he x ho) (Nat.not_lt.mpr (of_decide_eq_true hle))
  have hlim : ¬(m = 0 ∨ limit < m) := by omega
  refine (withWalker_ok hw).trans ((if_neg (by simpa using hlim)).trans ?_)
  simp only [hq]
  refine (withStream_ok (v := ((ls, cnt, fl), v, fin)) ?_).trans ?_
  · simp only [ht, hf, hd, bind, Except.bind, hbig, Bool.false_eq_true, if_false]
  · cases p <;> rfl

end

/-- The far side of a walk is there where the register is a co-iterator. -/
theorem side_allowed {side : Bool} {mode : Nat} (hs : side = true → 2 ≤ mode) : ¬(side && decide (mode < 2)) = true := by
  rw [Bool.and_eq_true, decide_eq_true_eq]
  rintro ⟨hside, hlt⟩
  exact absurd (hs hside) (Nat.not_le.mpr hlt)

/-! ### LDQC and LDQA -/

section
variable {s : State} {h : Head} {c : Core} {q : Nat} {a : StOpnd} {b : Nat} {p : Option Nat} {keep : Bool} {n : Nat}
  {w v : SWalk} {es : List Elt} {fin : Bool} (hI : Issues s h c) (hn : StOpnd.idx a (c.stream s.cur.key) = .ok n)
  (hw : (c.stream s.cur.key).walker n = .ok w)
  (hq : c.queueCheck (c.job (c.stream s.cur.key).job) [] (some q) = none)
  (ht : (s.rdr c).take ((c.stream s.cur.key).getX b).toNat w = .ok (es, v)) (hf : (s.rdr c).finished v = .ok fin)
  (h0 : 0 < ((c.stream s.cur.key).getX b).toNat)
include hI hn hw hq ht hf h0

theorem ldqc_runs (hm : ((c.stream s.cur.key).getX b).toNat ≤ 128) (hl : ((c.stream s.cur.key).sreg n).mode ≠ 0)
    (hx : ∀ e ∈ es, ∀ x, (e.a = some x ∨ e.b = some x) → x < 2 ^ 32) :
    Runs (.ldqc h q a b p keep) h s (s.delivers c n q p keep v fin (es.map fun e => e.c % 2 ^ 32) es.length 0) .seq 2 := by
  refine .of_runC (exec_ldqc ..) hI ((withSt_ok hn).trans ((if_neg hl).trans
    (ldqBody_done hw hq ht hf h0 hm (fun _ e he x ho => hx e he x ?_) rfl)))
  simpa [eq_comm] using ho

theorem ldqa_runs {side : Bool} (hm : ((c.stream s.cur.key).getX b).toNat ≤ 128)
    (hl : ((c.stream s.cur.key).sreg n).mode ≠ 0) (hs : side = true → 2 ≤ ((c.stream s.cur.key).sreg n).mode)
    (hx : ∀ e ∈ es, ∀ x, (if side then e.b else e.a) = some x → x < 2 ^ 32) :
    Runs (.ldqa h q a b p keep side) h s (s.delivers c n q p keep v fin
      (es.map fun e => (if side then e.b else e.a).getD (2 ^ 32 - 1)) es.length 0) .seq 2 := by
  exact .of_runC (exec_ldqa ..) hI ((withSt_ok hn).trans ((if_neg hl).trans ((withWalker_ok hw).trans ((if_neg (side_allowed hs)).trans
    (ldqBody_done hw hq ht hf h0 hm (fun _ e he x ho => hx e he x (List.mem_singleton.mp ho).symm) rfl)))))

/-! ### LDQ -/

variable {side : Bool} {xs : List (Option (Nat × Nat))} (hk : (c.stream s.cur.key).ldqOk n = true)
  (hs : side = true → 2 ≤ ((c.stream s.cur.key).sreg n).mode)
  (he : (s.rdr c).elems ((c.stream s.cur.key).sideDesc n side).1 ((c.stream s.cur.key).sideDesc n side).2 side es = .ok xs)
  (hx : ((c.stream s.cur.key).sreg n).mode ≠ 0 → ∀ e ∈ es, ∀ x, (if side then e.b else e.a) = some x → x < 2 ^ 32)
include hk hs he hx

theorem ldq_runs (hm : ((c.stream s.cur.key).getX b).toNat ≤ (if fmtBits (dFmt ((c.stream s.cur.key).sideDesc n side).1) = 64
      then 64 else 128 * (32 / fmtBits (dFmt ((c.stream s.cur.key).sideDesc n side).1)))) :
    let f := dFmt ((c.stream s.cur.key).sideDesc n side).1
    let out := packCodes (fmtBits f) (xs.map fun x => (x.map Prod.fst).getD (if f = 6 then 0x08 else 0))
    Runs (.ldq h q a b p false keep side) h s (s.delivers c n q p keep v fin out.1 out.2 0) .seq 2 := by
  refine .of_runC (exec_ldq ..) hI ((withSt_ok hn).trans ?_)
  dsimp only
  generalize (c.stream s.cur.key).sideDesc n side = dl at he hm ⊢
  obtain ⟨d, lv⟩ := dl
  refine (withWalker_ok hw).trans ((if_neg (by simp [hk])).trans ((if_neg (side_allowed hs)).trans ((if_neg (by simp)).trans
    (ldqBody_done hw hq ht hf h0 ?_ (fun hmode e he x ho => hx hmode e he x (List.mem_singleton.mp ho).symm) ?_))))
  · rw [if_neg Bool.false_ne_true]
    exact hm
  · simp only [he, bind, Except.bind, Bool.false_eq_true, if_false]
    rfl

theorem ldq_wid_runs (hm : ((c.stream s.cur.key).getX b).toNat ≤ 128)
    (h1 : 1 ≤ dFmt ((c.stream s.cur.key).sideDesc n side).1) (h12 : dFmt ((c.stream s.cur.key).sideDesc n side).1 < 12) :
    let ws := xs.map (widCode (c.stream s.cur.key).rm (dFmt ((c.stream s.cur.key).sideDesc n side).1))
    Runs (.ldq h q a b p true keep side) h s (s.delivers c n q p keep v fin (ws.map Prod.fst) xs.length
      ((ws.map Prod.snd).foldl (· ||| ·) 0)) .seq 2 := by
  refine .of_runC (exec_ldq ..) hI ((withSt_ok hn).trans ?_)
  dsimp only
  generalize (c.stream s.cur.key).sideDesc n side = dl at he h1 h12 ⊢
  obtain ⟨d, lv⟩ := dl
  have hfmt : ¬(true && (dFmt d == 0 || decide (12 ≤ dFmt d))) = true := by
    rw [Bool.true_and, Bool.or_eq_true, beq_iff_eq, decide_eq_true_eq]
    dsimp only at h1 h12
    omega
  refine (withWalker_ok hw).trans ((if_neg (by simp [hk])).trans ((if_neg (side_allowed hs)).trans ((if_neg hfmt).trans
    (ldqBody_done hw hq ht hf h0 hm (fun hmode e he x ho => hx hmode e he x (List.mem_singleton.mp ho).symm) ?_))))
  simp only [he, bind, Except.bind, if_true, List.length_map]

end

/-! ### STQ -/

/-- The lanes of the entry at the head of queue q, with zeros behind them, and how many it has. -/
def Core.headLanes (c : Core) (q : Nat) : List Nat × Nat :=
  let e := ((c.queue q).head.map QEnt.vector).getD ([], 0)
  (e.1.take e.2 ++ List.replicate (128 - e.2) 0, e.2)

/-- The codes and flags that STQ makes of m elements of lanes ls, in the format of a descriptor (R221). -/
def Stream.stored (t : Stream) (nar sat : Bool) (f m : Nat) (ls : List Nat) : List (Nat × Nat) :=
  (List.range m).map fun i =>
    if nar then narrow t.rm t.f8ns sat f (ls.getD i 0)
    else if fmtBits f = 64 then (ls.getD (2 * i) 0 + 2 ^ 32 * ls.getD (2 * i + 1) 0, 0)
    else (fld (ls.getD (i / (32 / fmtBits f)) 0) (fmtBits f * (i % (32 / fmtBits f))) (fmtBits f), 0)

theorem stq_runs {s : State} {h : Head} {c c1 : Core} {d : StOpnd} {q b n : Nat} {peek nar sat : Bool} (hI : Issues s h c)
    (hn : StOpnd.idx d (c.stream s.cur.key) = .ok n) (hv : ((c.stream s.cur.key).sreg n).valid = true)
    (hm : ((c.stream s.cur.key).sreg n).mode = 0) (hscl : dScl ((c.stream s.cur.key).sreg n).desc = false)
    (hnar : nar = true → fmtBits (dFmt ((c.stream s.cur.key).sreg n).desc) ≠ 4)
    (hsat : sat = true → nar = true ∧ 6 < dFmt ((c.stream s.cur.key).sreg n).desc)
    (hq : c.queueCheck (c.job (c.stream s.cur.key).job) [(q, !peek)] none = none)
    (h0 : 0 < ((c.stream s.cur.key).getX b).toNat)
    (hsup : ((c.stream s.cur.key).getX b).toNat ≤ (if nar then (c.headLanes q).2
      else if fmtBits (dFmt ((c.stream s.cur.key).sreg n).desc) = 64 then (c.headLanes q).2 / 2
      else (c.headLanes q).2 * (32 / fmtBits (dFmt ((c.stream s.cur.key).sreg n).desc))))
    (htot : ((c.stream s.cur.key).sreg n).idx + ((c.stream s.cur.key).getX b).toNat
      ≤ dTotal ((c.stream s.cur.key).sreg n).desc) :
    let t := c.stream s.cur.key
    let g := t.sreg n
    let m := (t.getX b).toNat
    let out := t.stored nar sat (dFmt g.desc) m (c.headLanes q).1
    let fl := (out.map Prod.snd).foldl (· ||| ·) 0
    stqStore s c g.desc (elemWrites g.desc g.idx (out.map Prod.fst)) = .ok c1 →
    let c2 := (c1.popQueues [(q, !peek)]).updStream s.cur.key fun t =>
      t.moveTo n (.dense g.desc (g.idx + m)) (dTotal g.desc ≤ g.idx + m)
    Runs (.stq h d q peek b nar sat) h s (if fl = 0 then c2 else c2.result s.cur.key 1 .none fl) .seq 1 := by
  intro t g m out fl hst
  have hbad : ¬(!g.valid || g.mode != 0 || dScl g.desc || (nar && fmtBits (dFmt g.desc) == 4)) = true := by
    cases nar <;> simp_all [g, t]
  have hwrong : ¬(sat && (!nar || decide (dFmt g.desc ≤ 6))) = true := by
    cases sat
    · simp
    · obtain ⟨hnar', h6⟩ := hsat rfl
      simp [hnar', g, t, h6]
  have hcnt : ¬(decide (m = 0) || decide ((if nar then (c.headLanes q).2
      else if fmtBits (dFmt g.desc) = 64 then (c.headLanes q).2 / 2
      else (c.headLanes q).2 * (32 / fmtBits (dFmt g.desc))) < m)) = true := by
    rw [Bool.or_eq_true, decide_eq_true_eq, decide_eq_true_eq]
    exact not_or.mpr ⟨Nat.pos_iff_ne_zero.mp h0, Nat.not_lt.mpr hsup⟩
  refine .of_runC (exec_stq ..) hI ((withSt_ok hn).trans ((if_neg hbad).trans ((if_neg hwrong).trans ?_)))
  simp only [hq]
  exact (if_neg hcnt).trans ((if_neg (Nat.not_lt.mpr htot)).trans (withRead_ok hst))

/-- Settles O28. -/
theorem queueTransferResults : Obligations.QueueTransferResults := by
  unfold Obligations.QueueTransferResults
  refine ⟨fun s h c q a b p keep n w es v fin hI hn hw hq ht hf h0 => ?_,
    fun s h c c1 d q b n peek nar sat hI hn hv hm hscl hnar hsat hq h0 hsup htot hst =>
      stq_runs hI hn hv hm hscl hnar hsat hq h0 hsup htot hst⟩
  intro lands
  have hlands (ls : List Nat) (cnt fl : Nat) : lands ls cnt fl = s.delivers c n q p keep v fin ls cnt fl := by
    cases p <;> rfl
  clear_value lands
  simp only [hlands]
  refine ⟨fun hm hl => ⟨fun hx => ldqc_runs hI hn hw hq ht hf h0 hm hl hx,
      fun side hs hx => ldqa_runs hI hn hw hq ht hf h0 hm hl hs hx⟩,
    fun wid side xs hk hs he hx => ⟨?_, ?_⟩⟩
  · rintro rfl hm
    exact ldq_runs hI hn hw hq ht hf h0 hk hs he hx hm
  · rintro rfl hm h1 h12
    exact ldq_wid_runs hI hn hw hq ht hf h0 hk hs he hx hm h1 h12

end Sys2Proof.Machine
end

section
/-!
PROOF. Loops over streams, read-ahead, bit fields, the lane store's fill path and the merge tree (R222 to R228).
-/

namespace Sys2Proof.Machine

/-! ### LOOPT and PRF -/

section
variable {s : State} {h : Head} {c : Core} {a : StOpnd} {n : Nat} (hI : Issues s h c)
  (hn : StOpnd.idx a (c.stream s.cur.key) = .ok n)
include hI hn

theorem loopt_skips {off k m : Nat} {w : SWalk} (hw : (c.stream s.cur.key).walker n = .ok w)
    (hr : (s.rdr c).remaining ((c.stream s.cur.key).sreg n).done w = .ok m) (h0 : (m + k - 1) / k = 0) :
    Runs (.loopt h a off k) h s c
      (.skip ((((c.stream s.cur.key).pc + 8 * off) % 2 ^ 48 + 8) % 2 ^ 48)) 1 :=
  .of_runC (exec_loopt ..) hI ((withSt_ok hn).trans ((withWalker_ok hw).trans ((withRead_ok hr).trans (if_pos h0))))

theorem loopt_enters {off k m : Nat} {w : SWalk} (hw : (c.stream s.cur.key).walker n = .ok w)
    (hr : (s.rdr c).remaining ((c.stream s.cur.key).sreg n).done w = .ok m) (h0 : (m + k - 1) / k ≠ 0)
    (hl : (c.stream s.cur.key).loops.length < 4) :
    let t := c.stream s.cur.key
    Runs (.loopt h a off k) h s (c.setStream s.cur.key { t with loops :=
      ⟨(t.pc + 8) % 2 ^ 48, (t.pc + 8 * off) % 2 ^ 48, (m + k - 1) / k, 0, 0⟩ :: t.loops }) .seq 1 :=
  .of_runC (exec_loopt ..) hI ((withSt_ok hn).trans ((withWalker_ok hw).trans ((withRead_ok hr).trans
    ((if_neg h0).trans (if_neg (Nat.not_le.mpr hl))))))

theorem prf_runs {b : Nat} :
    Runs (.prf h a b) h s { c with pref := c.pref ++ (linesOf (s.aheadAddrs (c.dtOf s.cur.key) (c.stream s.cur.key) n
      (min ((c.stream s.cur.key).getX b).toNat 4096))).map fun l =>
        { key := s.cur.key, va := l, pc := (c.stream s.cur.key).pc } } .seq 1 :=
  .of_runC (exec_prf ..) hI (withSt_ok hn)

end

/-! ### Bit fields -/

section
variable {s : State} {h : Head} {c : Core} {a b bp q : Nat} (hI : Issues s h c)
include hI

theorem bfxpSet_traps (hw : bpOk ((c.stream s.cur.key).getX a).toNat = false) : Traps (.bfxpSet h a bp) s 0x0D 0 :=
  .of_runC (exec_bfxpSet ..) hI (if_pos (by rw [hw]; rfl))

theorem bfxpSet_runs (hw : bpOk ((c.stream s.cur.key).getX a).toNat = true) :
    Runs (.bfxpSet h a bp) h s (c.updStream s.cur.key fun t =>
      { t with bps := mput 0 bp ((c.stream s.cur.key).getX a) t.bps }) .seq 1 :=
  .of_runC (exec_bfxpSet ..) hI ((if_neg (by simp [hw])).trans rfl)

theorem bfxp_traps_unset (hv : (mget 0 (c.stream s.cur.key).bps bp).toNat = 0) : Traps (.bfxp h q a b bp) s 0x0D 0 :=
  .of_runC (exec_bfxp ..) hI (if_pos hv)

variable (hv : (mget 0 (c.stream s.cur.key).bps bp).toNat ≠ 0)
include hv

theorem bfxp_traps_range (hb : ((c.stream s.cur.key).getX b).toNat = 0 ∨ 128 < ((c.stream s.cur.key).getX b).toNat
      ∨ 7 < q + (bpFields (mget 0 (c.stream s.cur.key).bps bp).toNat).length - 1) : Traps (.bfxp h q a b bp) s 0x0C 3 := by
  refine .of_runC (exec_bfxp ..) hI ((if_neg hv).trans (if_pos ?_))
  simpa [or_assoc] using hb

theorem bfxp_runs (h0 : 0 < ((c.stream s.cur.key).getX b).toNat) (h128 : ((c.stream s.cur.key).getX b).toNat ≤ 128)
    (h7 : q + (bpFields (mget 0 (c.stream s.cur.key).bps bp).toNat).length - 1 ≤ 7)
    (hr : (c.job (c.stream s.cur.key).job).inRegions ((c.stream s.cur.key).getX a).toNat
      ((((c.stream s.cur.key).getX b).toNat * bpWidth (mget 0 (c.stream s.cur.key).bps bp).toNat + 7) / 8) = true)
    (hq : ∀ i < (bpFields (mget 0 (c.stream s.cur.key).bps bp).toNat).length,
      c.queueCheck (c.job (c.stream s.cur.key).job) [] (some (q + i)) = none) :
    let v := (mget 0 (c.stream s.cur.key).bps bp).toNat
    let n := ((c.stream s.cur.key).getX b).toNat
    Runs (.bfxp h q a b bp) h s (bpPush s.cur.key q ((bpFields v).map (bpEntry v
      (leBytes (c.spadRead ((c.stream s.cur.key).getX a).toNat ((n * bpWidth v + 7) / 8))) n)) c) .seq 6 := by
  intro v n
  have hfree : ((List.range (bpFields v).length).findSome? fun i =>
      c.queueCheck (c.job (c.stream s.cur.key).job) [] (some (q + i))) = none :=
    List.findSome?_eq_none_iff.mpr fun i hi => hq i (List.mem_range.mp hi)
  have hrange : ¬(decide (n = 0) || decide (128 < n) || decide (7 < q + (bpFields v).length - 1)) = true := by
    rw [Bool.or_eq_true, Bool.or_eq_true, decide_eq_true_eq, decide_eq_true_eq, decide_eq_true_eq]
    change q + (bpFields v).length - 1 ≤ 7 at h7
    omega
  refine .of_runC (exec_bfxp ..) hI ((if_neg hv).trans ((if_neg hrange).trans ((if_neg (by rw [hr]; decide)).trans ?_)))
  simp only [v] at hfree
  simp only [hfree]
  rfl

end

/-- Settles O29. -/
theorem streamLoopAndFieldResults : Obligations.StreamLoopAndFieldResults := by
  unfold Obligations.StreamLoopAndFieldResults
  exact ⟨fun s h c a n hI hn => ⟨fun off k m w hw hr => ⟨fun h0 => loopt_skips hI hn hw hr h0,
      fun h0 hl => loopt_enters hI hn hw hr h0 hl⟩, fun b => prf_runs hI hn⟩,
    fun s h c hI => ⟨fun a bp => ⟨fun hw => bfxpSet_traps hI hw, fun hw => bfxpSet_runs hI hw⟩,
      fun q a b bp => ⟨fun hv => bfxp_traps_unset hI hv, fun hv hb => bfxp_traps_range hI hv hb,
        fun hv h0 h128 h7 hr hq => bfxp_runs hI hv h0 h128 h7 hr hq⟩⟩⟩

/-! ### LLS -/

section
variable {s : State} {h : Head} {c : Core} {a b st : Nat} (hI : Issues s h c)
include hI

theorem lls_traps (hb : geoOk ((c.stream s.cur.key).getX b).toNat = false
      ∨ 2 ^ 19 ≤ ((c.stream s.cur.key).getX st).toNat ∨ ∃ f ∈ c.fills, f.key = s.cur.key) :
    Traps (.lls h a b st) s 0x0C 3 := by
  refine .of_runC (exec_lls ..) hI (if_pos ?_)
  rw [Bool.or_eq_true, Bool.or_eq_true, List.any_eq_true]
  obtain hb | hb | ⟨f, hf, hk⟩ := hb
  · exact .inl (.inl (by rw [hb]; rfl))
  · exact .inl (.inr (decide_eq_true hb))
  · exact .inr ⟨f, hf, beq_iff_eq.mpr hk⟩

theorem lls_runs (hg : geoOk ((c.stream s.cur.key).getX b).toNat = true)
    (hst : ((c.stream s.cur.key).getX st).toNat < 2 ^ 19) (hf : ∀ f ∈ c.fills, f.key ≠ s.cur.key)
    (hr : ∀ i < (geoOf ((c.stream s.cur.key).getX b).toNat).nl, (c.job (c.stream s.cur.key).job).inRegions
      (((c.stream s.cur.key).getX a).toNat + i * ((c.stream s.cur.key).getX st).toNat)
      (geoOf ((c.stream s.cur.key).getX b).toNat).nc = true) :
    Runs (.lls h a b st) h s { c with fills := c.fills ++ [⟨s.cur.key, ((c.stream s.cur.key).getX a).toNat,
      ((c.stream s.cur.key).getX b).toNat, ((c.stream s.cur.key).getX st).toNat, 0, false,
      if h.push then some h.tp else none⟩] } .late 1 := by
  refine .of_runC (exec_lls ..) hI ((if_neg ?_).trans (if_neg ?_))
  · rw [Bool.or_eq_true, Bool.or_eq_true, List.any_eq_true, hg, decide_eq_true_eq]
    rintro ((hb | hb) | ⟨f, hmem, hk⟩)
    · exact Bool.false_ne_true hb
    · exact absurd hst (Nat.not_lt.mpr hb)
    · exact hf f hmem (beq_iff_eq.mp hk)
  · rw [List.any_eq_true]
    rintro ⟨i, hi, hbad⟩
    rw [hr i (List.mem_range.mp hi)] at hbad
    exact Bool.false_ne_true hbad

/-! ### MRGB -/

variable {q q2 : Nat} {int : Bool}

theorem mrgb_traps_first (hq : bit (c.job (c.stream s.cur.key).job).qmask q = false) :
    Traps (.mrgb h q q2 int) s 0x0E (kindStatus 2 q) :=
  .of_runC (exec_mrgb ..) hI (if_pos (by rw [hq]; rfl))

variable (hq : bit (c.job (c.stream s.cur.key).job).qmask q = true)
include hq

theorem mrgb_traps_second (hq2 : bit (c.job (c.stream s.cur.key).job).qmask q2 = false) :
    Traps (.mrgb h q q2 int) s 0x0E (kindStatus 2 q2) :=
  .of_runC (exec_mrgb ..) hI ((if_neg (by simp [hq])).trans (if_pos (by rw [hq2]; rfl)))

theorem mrgb_traps_same (he : q = q2) : Traps (.mrgb h q q2 int) s 0x0D 0 := by
  subst he
  exact .of_runC (exec_mrgb ..) hI ((if_neg (by simp [hq])).trans ((if_neg (by simp [hq])).trans (if_pos rfl)))

theorem mrgb_runs (hq2 : bit (c.job (c.stream s.cur.key).job).qmask q2 = true) (hne : q ≠ q2) :
    Runs (.mrgb h q q2 int) h s (c.updStream s.cur.key fun t => { t with
      merge := some ⟨int, q, q2, [], (t.merge.map Merge.busy).getD 0⟩ }) .seq 1 :=
  .of_runC (exec_mrgb ..) hI ((if_neg (by simp [hq])).trans ((if_neg (by simp [hq2])).trans ((if_neg hne).trans rfl)))

end

/-! ### MRGI -/

section
variable {s : State} {h : Head} {c : Core} {a : StOpnd} {b n : Nat} {m : Merge} {f : Fib} (hI : Issues s h c)
  (hn : StOpnd.idx a (c.stream s.cur.key) = .ok n) (hm : (c.stream s.cur.key).merge = some m)
  (hs : ((c.stream s.cur.key).getX b).toNat < 2 ^ 32) (hv : ((c.stream s.cur.key).sreg n).valid = true)
  (h1 : ((c.stream s.cur.key).sreg n).mode = 1) (hb : ((c.stream s.cur.key).sreg n).bound = none)
  (hi : ((c.stream s.cur.key).sreg n).innermost = true) (hf : ((c.stream s.cur.key).sreg n).fib = some f)
include hI hn hm hs hv h1 hb hi hf

theorem mrgi_traps_full (hl : 64 ≤ m.leaves.length) : Traps (.mrgi h a b) s 0x0C 3 := by
  refine .of_runC (exec_mrgi ..) hI ((withSt_ok hn).trans ?_)
  simp only [hm, hv, h1, hb, hi, hf, Nat.not_le.mpr hs, hl, Bool.not_true, bne_self_eq_false, Option.isSome_none, Bool.or_self,
    Bool.false_eq_true, if_false, if_true]

theorem mrgi_runs (hl : m.leaves.length < 64) (hint : m.int = true → 6 < dFmt ((c.stream s.cur.key).sreg n).desc) :
    Runs (.mrgi h a b) h s (c.updStream s.cur.key fun t => { t with merge := some { m with leaves := m.leaves
      ++ [⟨((c.stream s.cur.key).sreg n).desc, ((c.stream s.cur.key).sreg n).lrec, f,
        ((c.stream s.cur.key).getX b).toNat⟩] } }) .seq 1 := by
  have hfmt : (m.int && decide (dFmt ((c.stream s.cur.key).sreg n).desc ≤ 6)) = false := by
    cases h : m.int with
    | false => rfl
    | true => rw [Bool.true_and, decide_eq_false_iff_not]; exact Nat.not_le.mpr (hint h)
  refine .of_runC (exec_mrgi ..) hI ((withSt_ok hn).trans ?_)
  simp only [hm, hv, h1, hb, hi, hf, Nat.not_le.mpr hs, Nat.not_le.mpr hl, hfmt, Bool.not_true, bne_self_eq_false,
    Option.isSome_none, Bool.or_self, Bool.false_eq_true, if_false]
  rfl

end

/-! ### MRGE -/

/-- The core after an MRGE has delivered coordinates and sums to the queues of merge m, whose leaves go on as ls (R227). -/
def State.merged (s : State) (c : Core) (m : Merge) (n : Nat) (cs vs : List Nat) (fl : Nat) (ls : List Leaf) (p : Option Nat)
    (fin : Bool) : Core :=
  let c1 := c.updStream s.cur.key fun t => { t with merge := some { m with leaves := ls, busy := (n + 7) / 8 } }
  let (c2, l1) := c1.reserveQ m.q1 (mkVec cs cs.length)
  let (c3, l2) := (c2.result s.cur.key 18 l1 0).reserveQ m.q2 (mkVec vs vs.length)
  let c4 := c3.result s.cur.key 18 l2 fl
  match p with
  | none => c4
  | some i => c4.result s.cur.key 18 (.p i fin) 0

theorem not_any_id (l : List Bool) : (!l.any id) = l.all fun x => !x := by
  induction l with
  | nil => rfl
  | cons b l ih => rw [List.any_cons, List.all_cons, Bool.not_or, ih]; rfl

theorem mrge_runs {s : State} {h : Head} {c : Core} {b : Nat} {p : Option Nat} {m : Merge} {cs vs : List Nat} {fl : Nat}
    {ls : List Leaf} {hs : List Bool} (hI : Issues s h c) (hm : (c.stream s.cur.key).merge = some m)
    (h0 : 0 < ((c.stream s.cur.key).getX b).toNat) (h128 : ((c.stream s.cur.key).getX b).toNat ≤ 128) (hb : m.busy = 0)
    (hq1 : c.queueCheck (c.job (c.stream s.cur.key).job) [] (some m.q1) = none)
    (hq2 : c.queueCheck (c.job (c.stream s.cur.key).job) [] (some m.q2) = none)
    (hr : (s.rdr c).merge m.int (c.stream s.cur.key).rm ((c.stream s.cur.key).getX b).toNat m.leaves = .ok (cs, vs, fl, ls))
    (hl : ls.mapM (s.rdr c).leafMore = .ok hs) :
    Runs (.mrge h b p) h s
      (s.merged c m ((c.stream s.cur.key).getX b).toNat cs vs fl ls p (hs.all fun x => !x)) .seq 18 := by
  have hbad : ¬(decide (((c.stream s.cur.key).getX b).toNat = 0) || decide (128 < ((c.stream s.cur.key).getX b).toNat)
      || m.busy != 0) = true := by
    rw [Bool.or_eq_true, Bool.or_eq_true, decide_eq_true_eq, decide_eq_true_eq, bne_iff_ne]
    omega
  refine .of_runC (exec_mrge ..) hI ?_
  simp only [hm]
  refine (if_neg hbad).trans ?_
  simp only [hq1, hq2, Option.orElse]
  refine (withRead_ok (v := ((cs, vs, fl, ls), hs.all fun x => !x)) ?_).trans ?_
  · simp only [hr, hl, bind, Except.bind, not_any_id]
  · cases p <;> rfl

theorem kindStatus_two (n : Nat) : kindStatus 2 n = 2 ^ 9 + n % 2 ^ 8 := rfl

/-- Settles O30. -/
theorem laneFillAndMergeResults : Obligations.LaneFillAndMergeResults := by
  unfold Obligations.LaneFillAndMergeResults
  refine ⟨fun s h c a b st hI => ⟨fun hb => lls_traps hI hb, fun hg hst hf hr => lls_runs hI hg hst hf hr⟩,
    fun s h c hI => ⟨fun q q2 int => ⟨fun hq => mrgb_traps_first hI hq, fun hq hq2 => mrgb_traps_second hI hq hq2,
      fun hq he => mrgb_traps_same hI hq he, fun hq hq2 hne => mrgb_runs hI hq hq2 hne⟩,
    fun a b n m f hn hm hs hv h1 hb hi hf => ⟨fun hl => mrgi_traps_full hI hn hm hs hv h1 hb hi hf hl,
      fun hl hint => mrgi_runs hI hn hm hs hv h1 hb hi hf hl hint⟩,
    fun b p m cs vs fl ls hs hm h0 h128 hb hq1 hq2 hr hl => ?_⟩⟩
  have hrun := mrge_runs (p := p) hI hm h0 h128 hb hq1 hq2 hr hl
  cases p <;> exact hrun

end Sys2Proof.Machine
end

section
/-!
PROOF. The execute half of the vector engine (R229 to R239): floating and integer arithmetic, comparisons, conversions, moves.
-/

namespace Sys2Proof.Machine

/-! ### The shapes of vector instructions -/

theorem VecRuns.of_exec {i : Instr} {h : Head} {s : State} {lat : Nat} {d : VDst} {srcs : List VSrc}
    {g out : Stream → VIn → VOut} (hx : exec i s = runV s h lat d srcs g) (hg : ∀ t v, g t v = out t v) :
    VecRuns i h s lat d srcs out := by
  intro c hI hq
  refine .of_runC hx hI ?_
  simp only [hq, hg]

section
variable {i : Instr} {h : Head} {s : State} {d : VDst} {a b c : VSrc} {f : VFmt}

theorem VecEls.of_runF2 {op : Stream → Nat → Nat → Nat × Nat} (hx : exec i s = runF2 s h d a b f op) :
    VecEls i h s 4 d [a, b] f (fltMode f) (fun t x y _ => op t x y) :=
  VecRuns.of_exec hx fun _ _ => rfl

theorem VecEls.of_runF3 {np nc : Bool} (hx : exec i s = runF3 s h d a b c f np nc) :
    VecEls i h s 4 d [a, b, c] f (fltMode f) (fun t => fFma (opFmt f) t.rm np nc) :=
  VecRuns.of_exec hx fun _ _ => rfl

theorem VecEls.of_runF1 {op : Nat → Nat × Nat} (hx : exec i s = runF1 s h d a f op) :
    VecEls i h s 12 d [a] f (fltMode f) (fun _ x _ _ => op x) :=
  VecRuns.of_exec hx fun _ _ => rfl

theorem VecEls.of_runInt {lat : Nat} {srcs : List VSrc} {op op' : Nat → Nat → Nat → Nat × Nat}
    (hx : exec i s = runInt s h lat d srcs f op) (hop : ∀ x y z, op x y z = op' x y z) :
    VecEls i h s lat d srcs f (intMode f) (fun _ => op') := by
  obtain rfl : op = op' := funext fun x => funext fun y => funext fun z => hop x y z
  exact VecRuns.of_exec hx fun _ _ => rfl

end

theorem VecScalar.of_exec {i : Instr} {h : Head} {s : State} {lat : Nat} {srcs : List VSrc}
    {out : Stream → VIn → Land} {fl : VIn → Nat}
    {body : Core → CRes} (hx : exec i s = runC s h body)
    (hb : ∀ c, c.vcheck s.cur.key srcs none = none → body c = .done ((c.vpop srcs).result s.cur.key lat
      (out (c.stream s.cur.key) (c.vread s.cur.key srcs)) (fl (c.vread s.cur.key srcs))) .seq lat) :
    VecScalar i h s lat srcs out fl :=
  fun c hI hq => .of_runC hx hI (hb c hq)

theorem VecScalar.of_runVs {i : Instr} {h : Head} {s : State} {lat : Nat} {srcs : List VSrc}
    {out : Stream → VIn → Land} (hx : exec i s = runVs s h lat srcs out) :
    VecScalar i h s lat srcs out (fun _ => 0) := by
  simp only [runVs] at hx
  refine .of_exec hx fun c hq => ?_
  simp only [hq]

/-- Settles O31: each instruction is an element-wise one whose operation is the exact result rounded once. -/
theorem floatingResults : Obligations.FloatingResults := by
  unfold Obligations.FloatingResults
  intro s h d a b c r f fm md
  exact ⟨.of_runF2 (exec_vfadd ..), .of_runF2 (exec_vfsub ..), .of_runF2 (exec_vfmul ..), .of_runF3 (exec_vfma ..),
    .of_runF3 (exec_vfms ..), .of_runF3 (exec_vfnma ..), .of_runF2 (exec_vfmin ..), .of_runF2 (exec_vfmax ..),
    .of_runF1 (exec_vlog2 ..), .of_runF1 (exec_vexp2 ..), .of_runF1 (exec_vrcp ..), .of_runF1 (exec_vrsq ..)⟩

/-! ### Comparisons, conversion, scaling and packing -/

section
variable {i : Instr} {h : Head} {s : State} {d : VDst} {a b : VSrc} {f : VFmt} {md : ElMode} {lat p : Nat}
  {op : Nat → Nat → Bool × Nat}

/-- What a comparison gives for two elements: all ones or zero, and its flags. -/
def cmpMask (f : VFmt) (op : Nat → Nat → Bool × Nat) (x y _ : Nat) : Nat × Nat :=
  (if (op x y).1 then 2 ^ elemW f.esz - 1 else 0, (op x y).2)

theorem VecEls.of_runCmp (hx : exec i s = runCmp s h (.mask d) a b f md lat op) :
    VecEls i h s lat d [a, b] f md (fun _ => cmpMask f op) := by
  simp only [runCmp] at hx
  exact VecRuns.of_exec hx fun _ _ => rfl

theorem VecScalar.of_runCmp_any (hx : exec i s = runCmp s h (.any p) a b f md lat op) :
    VecScalar i h s lat [a, b] (fun _ v => .p p ((((elemOut md f 2 (cmpMask f op) v).lanes.take v.n).flatMap
      (unpackLanes (elemW f.esz) (lanesN f.esz))).any (· != 0))) (fun v => (elemOut md f 2 (cmpMask f op) v).flags) := by
  simp only [runCmp] at hx
  refine .of_exec hx fun c hq => ?_
  simp only [hq]
  rfl

theorem VecScalar.of_runCmp_all (hx : exec i s = runCmp s h (.all p) a b f md lat op) :
    VecScalar i h s lat [a, b] (fun _ v => .p p ((((elemOut md f 2 (cmpMask f op) v).lanes.take v.n).flatMap
      (unpackLanes (elemW f.esz) (lanesN f.esz))).all (· != 0))) (fun v => (elemOut md f 2 (cmpMask f op) v).flags) := by
  simp only [runCmp] at hx
  refine .of_exec hx fun c hq => ?_
  simp only [hq]
  rfl

end

theorem clampI_eq_max_min {lo hi v : Int} (h : lo ≤ hi) : clampI lo hi v = max lo (min hi v) := by
  unfold clampI
  omega

/-- A comparison of two elements as integers, which raises no flag. -/
def intCmpEl (f : VFmt) (cd : VCond) (x y : Nat) : Bool × Nat := (intCmp cd (intEl f x) (intEl f y), 0)

/-- Settles O32. -/
theorem comparisonAndConversionResults : Obligations.ComparisonAndConversionResults := by
  unfold Obligations.ComparisonAndConversionResults
  refine ⟨fun s h a b f cd => ?_,
    fun s h d a b src ti r f => ⟨.of_exec (exec_vcvt ..) fun _ _ => rfl, .of_exec (exec_vpks ..) fun _ _ => rfl,
      .of_exec (exec_vscl ..) fun t v => ?_⟩⟩
  · exact ⟨fun d => ⟨.of_runCmp (exec_vfcmp ..), .of_runCmp (op := intCmpEl f cd) (exec_vcmp ..)⟩,
      fun p => ⟨.of_runCmp_any (exec_vfcmp ..), .of_runCmp_all (exec_vfcmp ..),
        .of_runCmp_any (op := intCmpEl f cd) (exec_vcmp ..), .of_runCmp_all (op := intCmpEl f cd) (exec_vcmp ..)⟩⟩
  · simp only [sclElem, clampI_eq_max_min (show (-(2 ^ 12) : Int) ≤ 2 ^ 12 by decide)]
    rfl

/-! ### Integer arithmetic, moves and permutations -/

/-- A shift whose count may reach the width. -/
theorem ite_shiftBig (f : VFmt) (y r : Nat) :
    (if shiftBig f y then ((0, 0) : Nat × Nat) else (r, 0)) = (if elemW f.esz ≤ y then 0 else r, 0) := by
  simp only [shiftBig, decide_eq_true_eq]
  split <;> rfl

theorem ite_shiftBig_count (f : VFmt) (y r : Nat) :
    (if shiftBig f y then r else y) = if elemW f.esz ≤ y then r else y := by
  simp only [shiftBig, decide_eq_true_eq]

theorem vsel_pick (x y z : Nat) : ((if z != 0 then x else y, 0) : Nat × Nat) = (if z = 0 then y else x, 0) := by
  by_cases hz : z = 0 <;> simp [hz]

/-- Settles O33. -/
theorem integerAndMoveResults : Obligations.IntegerAndMoveResults := by
  unfold Obligations.IntegerAndMoveResults
  refine ⟨fun s h d a b c f => ?_, fun s h d a b c n k f => ?_⟩
  · exact ⟨.of_runInt (exec_vadd ..) fun _ _ _ => rfl, .of_runInt (exec_vsub ..) fun _ _ _ => rfl,
      .of_runInt (exec_vmul ..) fun _ _ _ => rfl, .of_runInt (exec_vmulh ..) fun _ _ _ => rfl,
      .of_runInt (exec_vmad ..) fun _ _ _ => rfl, .of_runInt (exec_vadds ..) fun _ _ _ => rfl,
      .of_runInt (exec_vsubs ..) fun _ _ _ => rfl, .of_runInt (exec_vand ..) fun _ _ _ => rfl,
      .of_runInt (exec_vor ..) fun _ _ _ => rfl, .of_runInt (exec_vxor ..) fun _ _ _ => rfl,
      .of_runInt (exec_vshl ..) fun _ _ _ => ite_shiftBig .., .of_runInt (exec_vshr ..) fun _ _ _ => ite_shiftBig ..,
      .of_runInt (exec_vsra ..) fun x y _ => by simp only [ite_shiftBig_count],
      .of_runInt (exec_vmin ..) fun _ _ _ => rfl, .of_runInt (exec_vmax ..) fun _ _ _ => rfl⟩
  · refine ⟨.of_runInt (exec_vsel ..) vsel_pick, .of_runInt (exec_vmov ..) fun _ _ _ => rfl,
      .of_runInt (exec_vhash ..) fun _ _ _ => rfl, .of_exec (exec_vli ..) fun _ _ => rfl,
      .of_exec (exec_vbcst ..) fun _ _ => rfl, .of_exec (exec_vbcstX ..) fun _ _ => rfl,
      .of_exec (exec_vperm ..) fun _ _ => rfl, .of_exec (exec_vrot ..) fun _ _ => rfl,
      .of_exec (exec_vlane ..) fun _ _ => rfl, fun x e => .of_runVs (exec_vext ..)⟩

end Sys2Proof.Machine
end

section
/-!
PROOF. Reductions, the accumulator store and queue tests (R247 to R251).
-/

namespace Sys2Proof.Machine

/-! ### Reductions -/

theorem vrmax_float {s : State} {h : Head} {d : VDst} {a : VSrc} {mn : Bool} {f : VFmt} :
    VecRuns (.vrmax h d a mn true f) h s 8 d [a] (fun _ v =>
      match reduce (fltMode f) f (fun x => (x, 0)) (fMinMax (opFmt f) (!mn)) v with
      | none => ⟨List.replicate 128 0x7FC00000, 128, 0⟩
      | some q => ⟨List.replicate 128 ((widenF (opFmt f) ffF32 q.1).1 % 2 ^ 32), 128,
          q.2 ||| (widenF (opFmt f) ffF32 q.1).2⟩) := by
  refine .of_exec (exec_vrmax ..) fun t v => (if_pos rfl).trans ?_
  generalize reduce (fltMode f) f (fun x => (x, 0)) (fMinMax (opFmt f) (!mn)) v = r
  cases r <;> rfl

theorem vrmax_int {s : State} {h : Head} {d : VDst} {a : VSrc} {mn : Bool} {f : VFmt} :
    VecRuns (.vrmax h d a mn false f) h s 8 d [a] (fun _ v =>
      match reduce (intMode f) f (fun x => (x, 0)) (fun x y =>
        (if mn then (if intEl f x ≤ intEl f y then x else y) else (if intEl f x ≤ intEl f y then y else x), 0)) v with
      | none => ⟨List.replicate 128 (uI 32 (if mn then intHi (f.fmt == 0) (elemW f.esz)
          else intLo (f.fmt == 0) (elemW f.esz)) % 2 ^ 32), 128, 0⟩
      | some q => ⟨List.replicate 128 (uI 32 (intEl f q.1) % 2 ^ 32), 128, 0⟩) := by
  refine .of_exec (exec_vrmax ..) fun t v => (if_neg Bool.false_ne_true).trans ?_
  simp only [decide_eq_true_eq]
  generalize reduce (intMode f) f (fun x => (x, 0)) _ v = r
  cases r <;> rfl

theorem vradd_runs {s : State} {h : Head} {d : VDst} {a : VSrc} {f : VFmt} :
    let val := fun (x : Nat) => if f.fmt = 0 then sextN 32 x else (x : Int)
    VecRuns (.vradd h d a f) h s 8 d [a] (fun _ v =>
      let q := (reduce (intMode f) f (fun x => (uI 32 (intEl f x), 0))
        (fun x y => narrowI (f.fmt == 0) 32 f.sat (val x + val y)) v).getD (0, 0)
      ⟨List.replicate 128 (q.1 % 2 ^ 32), 128, q.2⟩) := by
  refine .of_exec (exec_vradd ..) fun t v => ?_
  simp only [beq_iff_eq]
  rfl

theorem vrfadd_runs {s : State} {h : Head} {d : VDst} {a : VSrc} {r : Option Rm} {f : VFmt} :
    VecRuns (.vrfadd h d a r f) h s 8 d [a] (fun t v =>
      let q := (reduce (fltMode f) f (widenF (opFmt f) ffF32) (fAdd ffF32 (r.getD t.rm)) v).getD (0x80000000, 0)
      ⟨List.replicate 128 (q.1 % 2 ^ 32), 128, q.2⟩) :=
  .of_exec (exec_vrfadd ..) fun _ _ => rfl

theorem vrmaxi_runs {s : State} {h : Head} {c : Core} {d : VDst} {a b : VSrc} {p : Option Nat} {f : VFmt} {big : Bool}
    {i : Instr} (hx : exec i s = runMaxi s h d a b p f big) (hI : Issues s h c)
    (hq : c.vcheck s.cur.key [a, b] (VDst.push? d) = none) :
    let v := c.vread s.cur.key [a, b]
    let x := v.els (fltMode f) f.esz 0 f.amod
    let xs := x.1.take v.n
    let best := (xs.zip (v.arg 1)).foldl (fun q e => bestLane big q e.1 e.2) none
    let fl := x.2 ||| (if xs.any fun e => (ffF32.dec e).isSnan then fNV else 0)
    let c1 := (c.vpop [a, b]).vwrite s.cur.key 8 d
      ((best.getD (0x7FC00000, 0xFFFFFFFF)).1 :: (best.getD (0x7FC00000, 0xFFFFFFFF)).2 :: List.replicate 126 0) 2 fl
    Runs i h s (match p with | none => c1 | some n => c1.result s.cur.key 8 (.p n best.isNone) 0) .seq 8 := by
  intro v x xs best fl c1
  simp only [runMaxi] at hx
  refine .of_runC hx hI ?_
  simp only [hq]
  cases p <;> rfl

/-! ### The accumulator store -/

section
variable {i : Instr} {s : State} {h : Head} {c : Core} (hI : Issues s h c)
include hI

theorem vacr_traps {d : VDst} {x n : Nat} {g : Stream → List Nat → List Nat × Nat}
    (hx : exec i s = runVacr s h d x n g) (hq : c.vcheck s.cur.key [] (VDst.push? d) = none)
    (hb : 131072 < ((c.stream s.cur.key).getX x).toNat + n) : Traps i s 0x0C 5 := by
  simp only [runVacr] at hx
  refine .of_runC hx hI ?_
  simp only [hq]
  exact if_pos hb

theorem vacr_runs {d : VDst} {x n : Nat} {g : Stream → List Nat → List Nat × Nat}
    (hx : exec i s = runVacr s h d x n g) (hq : c.vcheck s.cur.key [] (VDst.push? d) = none)
    (hb : ((c.stream s.cur.key).getX x).toNat + n ≤ 131072) :
    let r := g (c.stream s.cur.key) ((List.range n).map fun j => c.accRead .ve (((c.stream s.cur.key).getX x).toNat + j))
    Runs i h s (c.vwrite s.cur.key 8 d r.1 128 r.2) .seq 8 := by
  intro r
  simp only [runVacr] at hx
  refine .of_runC hx hI ?_
  simp only [hq]
  exact if_neg (Nat.not_lt.mpr hb)

theorem vacw_traps {x mode : Nat} {a : VSrc} {g : Stream → VIn → List (Int × Bool) × Nat}
    (hx : exec i s = runVacw s h x a mode g) (hq : c.vcheck s.cur.key [a] none = none)
    (hne : (g (c.stream s.cur.key) (c.vread s.cur.key [a])).1 ≠ [])
    (hb : 131072 < ((c.stream s.cur.key).getX x).toNat + (g (c.stream s.cur.key) (c.vread s.cur.key [a])).1.length) :
    Traps i s 0x0C 5 := by
  simp only [runVacw] at hx
  refine .of_runC hx hI ?_
  simp only [hq]
  refine if_pos ?_
  rw [Bool.and_eq_true, decide_eq_true_eq, bne_iff_ne]
  exact ⟨hne, hb⟩

theorem vacw_runs {x mode : Nat} {a : VSrc} {g : Stream → VIn → List (Int × Bool) × Nat}
    (hx : exec i s = runVacw s h x a mode g) (hq : c.vcheck s.cur.key [a] none = none)
    (hb : (g (c.stream s.cur.key) (c.vread s.cur.key [a])).1 = [] ∨
      ((c.stream s.cur.key).getX x).toNat + (g (c.stream s.cur.key) (c.vread s.cur.key [a])).1.length ≤ 131072) :
    let r := g (c.stream s.cur.key) (c.vread s.cur.key [a])
    Runs i h s (r.1.foldl (fun (q : Core × Nat) u => (q.1.result s.cur.key 2 (.acc q.2 mode u.1 u.2) 0, q.2 + 1))
      ((c.vpop [a]).result s.cur.key 2 .none r.2, ((c.stream s.cur.key).getX x).toNat)).1 .seq 2 := by
  intro r
  simp only [runVacw] at hx
  refine .of_runC hx hI ?_
  simp only [hq]
  refine if_neg ?_
  rw [Bool.and_eq_true, decide_eq_true_eq, bne_iff_ne]
  rintro ⟨hne, hlt⟩
  obtain h0 | h0 := hb
  · exact hne h0
  · exact absurd hlt (Nat.not_lt.mpr h0)

end

/-- VACW converts as many values as it has lanes. -/
theorem length_vacwVals (l : Int) (t : Stream) (v : VIn) :
    (vacwVals l t v).1.length = (((v.arg 0).take v.n).map fun e => (ffF32.dec e).toFx t.rm l).length := by
  simp only [vacwVals, List.length_map]

theorem vacwVals_eq_nil_iff (l : Int) (t : Stream) (v : VIn) :
    (vacwVals l t v).1 = [] ↔ (((v.arg 0).take v.n).map fun e => (ffF32.dec e).toFx t.rm l) = [] := by
  rw [← List.length_eq_zero_iff, length_vacwVals, List.length_eq_zero_iff]

/-- Settles O34. -/
theorem reductionAndAccumulatorResults : Obligations.ReductionAndAccumulatorResults := by
  unfold Obligations.ReductionAndAccumulatorResults
  refine ⟨fun s h d a b r f => ⟨vradd_runs, vrfadd_runs, fun mn => ⟨vrmax_float, vrmax_int⟩, ?_⟩,
    fun s h c d x a l hI => ⟨fun hq => ?_, fun hq => ?_⟩⟩
  · intro big p c hI hq
    have hx : exec (if big then .vrmaxi h d a b p f else .vrmini h d a b p f) s = runMaxi s h d a b p f big := by
      cases big <;> rfl
    cases p <;> exact vrmaxi_runs hx hI hq
  · refine ⟨fun hb => vacr_traps hI (exec_vacrF32 ..) hq hb, fun hb => vacr_traps hI (exec_vacrRaw ..) hq hb,
      fun hb => ?_, fun hb => ?_⟩
    · simpa only [List.map_map, Function.comp_def] using vacr_runs hI (exec_vacrF32 ..) hq hb
    · simpa only [List.flatMap_map] using vacr_runs hI (exec_vacrRaw ..) hq hb
  · refine ⟨fun hne hb => ?_, fun hb => ?_, fun hb => ?_⟩
    · rw [← length_vacwVals] at hb
      have hne := mt (vacwVals_eq_nil_iff ..).mp hne
      exact ⟨vacw_traps hI (exec_vacwF32 ..) hq hne hb, vacw_traps hI (exec_vacwAdd ..) hq hne hb⟩
    · rw [← length_vacwVals, ← vacwVals_eq_nil_iff] at hb
      have hset := vacw_runs hI (exec_vacwF32 h x a l s) hq hb
      have hadd := vacw_runs hI (exec_vacwAdd h x a l s) hq hb
      simp only [vacwVals] at hset hadd
      exact ⟨hset, hadd⟩
    · have hraw := vacw_runs hI (exec_vacwRaw h x a l s) hq
      simp only [List.map_eq_nil_iff, List.range_eq_nil, List.length_map, List.length_range] at hraw
      exact hraw (hb.imp_left Nat.div_eq_of_lt)

/-! ### LOOPQ and VQLEN -/

@[simp] theorem Core.stream_popQueues (c : Core) (uses : List QUse) (k : Nat) :
    (c.popQueues uses).stream k = c.stream k := by
  unfold Core.popQueues
  induction List.range 16 generalizing c with
  | nil => rfl
  | cons q qs ih =>
    rw [List.foldl_cons, ih]
    split
    · rfl
    · rfl

@[simp] theorem Core.stream_vpop (c : Core) (srcs : List VSrc) (k : Nat) : (c.vpop srcs).stream k = c.stream k := by
  simp only [Core.vpop]
  split
  · rfl
  · exact Core.stream_popQueues ..

/-- The count of LOOPQ is that of its head entry. -/
theorem loopqCount_eq {e : QEnt} {k n : Nat}
    (h : (∃ ls m, e = .vec ls m ∧ n = (m + k - 1) / k) ∨ ∃ v, e = .sca v ∧ k = 1 ∧ n = v.toNat) :
    loopqCount e k = some n := by
  obtain ⟨ls, m, rfl, rfl⟩ | ⟨v, rfl, rfl, rfl⟩ := h <;> rfl

section
variable {s : State} {h : Head} {c : Core} (hI : Issues s h c)
include hI

theorem loopq_results {q off k n : Nat} {peek : Bool} {e : QEnt}
    (hq : c.vcheck s.cur.key [if peek then .peek q else .pop q] none = none) (he : (c.queue q).head = some e)
    (hn : loopqCount e k = some n) :
    let src := if peek then VSrc.peek q else .pop q
    let t := c.stream s.cur.key
    let fin := (t.pc + 8 * off) % 2 ^ 48
    (n = 0 → Runs (.loopq h q peek off k) h s (c.vpop [src]) (.skip ((fin + 8) % 2 ^ 48)) 1)
      ∧ (n ≠ 0 → t.loops.length < 4 → Runs (.loopq h q peek off k) h s ((c.vpop [src]).setStream s.cur.key
          { t with loops := ⟨(t.pc + 8) % 2 ^ 48, fin, n, 0, 0⟩ :: t.loops }) .seq 1) := by
  intro src t fin
  have hx := exec_loopq h q peek off k s
  simp only [execLoopq] at hx
  refine ⟨fun h0 => .of_runC hx hI ?_, fun h0 hl => .of_runC hx hI ?_⟩
  · simp only [hq, he, Option.bind_some, hn, loopBody, Core.stream_vpop, h0, if_true]
    rfl
  · simp only [hq, he, Option.bind_some, hn, loopBody, Core.stream_vpop, h0, if_false]
    exact if_neg (Nat.not_le.mpr hl)

theorem qlen_traps {i : Instr} {p q : Nat} {f : Queue → Bool} (hx : exec i s = runQlen s h p q f)
    (hm : bit (c.job (c.stream s.cur.key).job).qmask q = false) : Traps i s 0x0E (2 ^ 9 + q % 2 ^ 8) := by
  rw [← kindStatus_two]
  exact .of_runC hx hI (if_pos (by rw [hm]; rfl))

theorem qlen_runs {i : Instr} {p q : Nat} {f : Queue → Bool} (hx : exec i s = runQlen s h p q f)
    (hm : bit (c.job (c.stream s.cur.key).job).qmask q = true) :
    Runs i h s (c.result s.cur.key 2 (.p p (f (c.queue q))) 0) .seq 2 :=
  .of_runC hx hI (if_neg (by simp [hm]))

end

/-- Settles O35. -/
theorem queueTestResults : Obligations.QueueTestResults := by
  unfold Obligations.QueueTestResults
  intro s h c hI
  refine ⟨fun q peek off k n e hq he hn => loopq_results hI hq he (loopqCount_eq hn), fun p q n => ⟨fun hm => ?_, fun hm => ?_⟩⟩
  · exact ⟨qlen_traps hI (exec_vqlen ..) hm, qlen_traps hI (exec_vqlenZero ..) hm⟩
  · refine ⟨?_, ?_⟩
    · have hl := qlen_runs hI (exec_vqlen h p q n s) hm
      by_cases hq8 : q < 8 <;> simpa only [hq8, if_true, if_false] using hl
    · have hz := qlen_runs hI (exec_vqlenZero h p q s) hm
      revert hz
      cases (c.queue q).head with
      | none => exact id
      | some e => cases e <;> exact id

end Sys2Proof.Machine
end

section
/-!
PROOF. Terms, factors, rows and segments of the weight-code engine (R257 to R263, R288 to R293).
-/

namespace Sys2Proof.Machine

/-! ### Bundles by what their bodies give -/

section
variable {i : Instr} {s : State} {h : WHead} {c c2 : Core} {f : Flow} {lat a st : Nat}

theorem RunsB.of_runB {body : State → Res} (hx : exec i s = runB s h body) (hI : IssuesB s h c)
    (hb : body (s.setCore s.cur.core c) = .done ((s.setCore s.cur.core c).setCore s.cur.core c2) f lat) :
    RunsB i h s c2 f lat := by
  simp only [RunsB, Completes, hx]
  exact ⟨_, runB_done hI hb, coreStep_upd ..⟩

theorem RunsB.of_runB_same {body : State → Res} (hx : exec i s = runB s h body) (hI : IssuesB s h c)
    (hb : body (s.setCore s.cur.core c) = .done (s.setCore s.cur.core c) f lat) : RunsB i h s c f lat := by
  simp only [RunsB, Completes, hx]
  exact ⟨_, runB_done hI hb, coreStep_setUpd ..⟩

theorem ActsB.of_runB {s2 : State} {body : State → Res} (hx : exec i s = runB s h body) (hI : IssuesB s h c)
    (hb : body (s.setCore s.cur.core c) = .done s2 f lat) : ActsB i h s s2 f lat := by
  simp only [ActsB, Completes, hx]
  exact ⟨_, runB_done hI hb, rfl⟩

theorem Traps.of_runB {body : State → Res} (hx : exec i s = runB s h body) (hI : IssuesB s h c)
    (hb : body (s.setCore s.cur.core c) = .trap a st) : Traps i s a st := by
  simp only [Traps, Completes, hx]
  exact ⟨_, runB_trap hI hb, rfl⟩

/-- What a bundle's body sees of the module in which the bundle has taken its token. -/
def weBody (s : State) (c : Core) (body : State → Core → Stream → Res) : Res :=
  body (s.setCore s.cur.core c) c (c.stream s.cur.key)

/-- Away from an adapter's entry the frame of a bundle is its body. -/
theorem runWe_body {body : State → Core → Stream → Res}
    (hn : ((c.stream s.cur.key).we.hook.act && (c.stream s.cur.key).we.hook.entry) = false) :
    (let c1 := (s.setCore s.cur.core c).core s.cur.core
     let t := c1.stream s.cur.key
     if t.we.hook.act && t.we.hook.entry then Res.trap 0x0C 3 else body (s.setCore s.cur.core c) c1 t)
      = weBody s c body := by
  simp only [State.core_setCore_same, hn, Bool.false_eq_true, if_false]
  rfl

variable {body : State → Core → Stream → Res} (hx : exec i s = runWe s h body) (hI : IssuesWe s h c)
include hx hI

theorem RunsB.of_runWe (hb : weBody s c body = .done ((s.setCore s.cur.core c).setCore s.cur.core c2) f lat) :
    RunsB i h s c2 f lat :=
  .of_runB hx hI.1 ((runWe_body hI.2).trans hb)

theorem RunsB.of_runWe_same (hb : weBody s c body = .done (s.setCore s.cur.core c) f lat) : RunsB i h s c f lat :=
  .of_runB_same hx hI.1 ((runWe_body hI.2).trans hb)

theorem ActsB.of_runWe {s2 : State} (hb : weBody s c body = .done s2 f lat) : ActsB i h s s2 f lat :=
  .of_runB hx hI.1 ((runWe_body hI.2).trans hb)

theorem Traps.of_runWe (hb : weBody s c body = .trap a st) : Traps i s a st :=
  .of_runB hx hI.1 ((runWe_body hI.2).trans hb)

end

/-! ### Terms and factors -/

section
variable {i : Instr} {s : State} {h : WHead} {c : Core} {g : Core → We → We} (hx : exec i s = runTerm s h g)
  (hI : IssuesWe s h c)
include hx hI

theorem term_traps (ho : (c.stream s.cur.key).we.opn = false) : Traps i s 0x0C 3 :=
  .of_runWe hx hI (if_pos (by rw [ho]; rfl))

theorem term_runs (ho : (c.stream s.cur.key).we.opn = true) :
    RunsB i h s (c.updStream s.cur.key fun t => { t with we := g c (c.stream s.cur.key).we }) .seq 1 :=
  .of_runWe hx hI (if_neg (by rw [ho]; decide))

end

/-- Settles O36. -/
theorem weightTermResults : Obligations.WeightTermResults := by
  unfold Obligations.WeightTermResults
  intro s h c hI
  refine ⟨.of_runWe_same (exec_wnop ..) hI rfl, fun m d sl => ⟨fun ho => term_traps (exec_wt ..) hI ho, fun ho => ?_⟩,
    fun m code d sl => ⟨fun ho => term_traps (exec_wg ..) hI ho, fun ho => ?_⟩,
    fun m d sl => ⟨fun ho => term_traps (exec_wtf ..) hI ho, fun ho => ?_⟩, fun acc k sl => ?_⟩
  · have ht := term_runs (exec_wt h m d sl s) hI ho
    dsimp only at ht ⊢
    exact ht
  · have ht := term_runs (exec_wg h m code d sl s) hI ho
    dsimp only at ht ⊢
    exact ht
  · have ht := term_runs (exec_wtf h m d sl s) hI ho
    dsimp only at ht ⊢
    exact ht
  · exact .of_runWe (exec_wf ..) hI rfl

/-! ### Rows -/

section
variable {i : Instr} {s : State} {h : WHead} {c : Core} {opc : Nat} {body : State → Core → Stream → Res}

/-- A bundle that an adapter may not hold. -/
theorem main_traps (hx : exec i s = runMain s h opc body) (hI : IssuesWe s h c)
    (ha : (c.stream s.cur.key).we.hook.act = true) : Traps i s 0x01 opc :=
  .of_runWe hx hI (if_pos ha)

variable {c2 : Core} {f : Flow} {lat a st : Nat} (hx : exec i s = runMain s h opc body) (hI : IssuesWe s h c)
  (ha : (c.stream s.cur.key).we.hook.act = false)
include hx hI ha

/-- Outside an adapter such a bundle's body decides. -/
theorem RunsB.of_runMain (hb : weBody s c body = .done ((s.setCore s.cur.core c).setCore s.cur.core c2) f lat) :
    RunsB i h s c2 f lat :=
  .of_runWe hx hI ((if_neg (by rw [ha]; decide)).trans hb)

theorem ActsB.of_runMain {s2 : State} (hb : weBody s c body = .done s2 f lat) : ActsB i h s s2 f lat :=
  .of_runWe hx hI ((if_neg (by rw [ha]; decide)).trans hb)

theorem Traps.of_runMain (hb : weBody s c body = .trap a st) : Traps i s a st :=
  .of_runWe hx hI ((if_neg (by rw [ha]; decide)).trans hb)

end

section
variable {s : State} {h : WHead} {f : WFlush} {o : Bool} {en : Int} {c : Core} (hI : IssuesWe s h c)
  (ha : (c.stream s.cur.key).we.hook.act = false)
include hI ha

theorem wrow_runs_closed (ho : (c.stream s.cur.key).we.opn = false) :
    RunsB (.wrow h f o en) h s (c.updStream s.cur.key fun t => { t with we := t.we.openRow o en }) .seq 1 :=
  .of_runMain (exec_wrow ..) hI ha (if_pos (by rw [ho]; rfl))

variable (ho : (c.stream s.cur.key).we.opn = true)
include ho

theorem wrow_runs_unflushed (hf : f = .none) :
    let c1 := c.updStream s.cur.key fun t => { t with we := t.we.openRow o en }
    RunsB (.wrow h f o en) h s (if (c.stream s.cur.key).we.rowFlags = 0 then c1 else
      { c1 with pending := c1.pending ++ [⟨s.cur.key, 1, .none, (c.stream s.cur.key).we.rowFlags, 1⟩] }) .seq 1 :=
  .of_runMain (exec_wrow ..) hI ha ((if_neg (by rw [ho]; decide)).trans (if_pos hf))

theorem wrow_runs_flushed (hf : f ≠ .none) (hi : c.flushing = false) :
    let k := s.cur.key
    let w := (c.stream k).we
    let c1 := c.updStream k fun t => { t with we := t.we.openRow o en }
    let row := mreads 0 (List.range 1024) w.row
    let vs := row.map fun r => flushVal w.seg w.e (slotAcc r)
    let c2 := c1.updStream k fun t => { t with we := { t.we with seg := { t.we.seg with nfl := t.we.seg.nfl + 1 } } }
    RunsB (.wrow h f o en) h s
      { c2 with flushes := c2.flushes ++ [⟨k, w.seg.accbase + w.seg.nfl % w.seg.accrows, f == .add,
        (vs.map Prod.fst).zip (row.map slotSat), s.cycles, 0,
        w.rowFlags ||| (if vs.any Prod.snd then fIX else 0), if h.push then some h.tp else none⟩] } .late 8 :=
  .of_runMain (exec_wrow ..) hI ha ((if_neg (by rw [ho]; decide)).trans
    ((if_neg hf).trans (if_neg (by rw [hi]; decide))))

end

/-- Settles O37. -/
theorem rowResults : Obligations.RowResults := by
  unfold Obligations.RowResults
  intro s h f o en c hI
  refine ⟨fun ha => main_traps (exec_wrow ..) hI ha, fun ha => ⟨fun ho => wrow_runs_closed hI ha ho,
    fun ho hf h0 => ?_, fun ho hf h0 => ?_, fun ho hf hi => wrow_runs_flushed hI ha ho hf hi⟩⟩
  · simpa only [h0, if_true] using wrow_runs_unflushed hI ha ho (en := en) (o := o) hf
  · simpa only [h0, if_false] using wrow_runs_unflushed hI ha ho (en := en) (o := o) hf

/-! ### Segments -/

section
variable {i : Instr} {s : State} {h : WHead} {c : Core} {g : Seg → Seg} (hx : exec i s = runWseg s h g)
  (hI : IssuesWe s h c) (ha : (c.stream s.cur.key).we.hook.act = false)
include hx hI ha

theorem wseg_traps_open (ho : (c.stream s.cur.key).we.opn = true) : Traps i s 0x0C 3 :=
  .of_runMain hx hI ha (if_pos ho)

variable (ho : (c.stream s.cur.key).we.opn = false)
include ho

theorem wseg_traps_rows (hr : 128 < (g (c.stream s.cur.key).we.seg).accbase + (g (c.stream s.cur.key).we.seg).accrows) :
    Traps i s 0x0C 3 :=
  .of_runMain hx hI ha ((if_neg (by rw [ho]; decide)).trans (if_pos hr))

variable (hr : (g (c.stream s.cur.key).we.seg).accbase + (g (c.stream s.cur.key).we.seg).accrows ≤ 128)
include hr

theorem wseg_traps_map (hm : (c.job (c.stream s.cur.key).job).inRegions (c.job (c.stream s.cur.key).job).tmap 512
    = false) : Traps i s 0x0E 0x3FF :=
  .of_runMain hx hI ha ((if_neg (by rw [ho]; decide)).trans ((if_neg (Nat.not_lt.mpr hr)).trans
    (if_pos (by rw [hm]; rfl))))

theorem wseg_runs (hm : (c.job (c.stream s.cur.key).job).inRegions (c.job (c.stream s.cur.key).job).tmap 512 = true) :
    let t := c.stream s.cur.key
    let own := if t.credit = s.self.credit then 0 else 8
    RunsB i h s ((c.updStream s.cur.key fun u =>
        { u with we := { u.we with seg := { g t.we.seg with nfl := 0 } } }).acquire s.cur.core .device)
      (.wait (.wseg (if h.pop then some (h.tp + own) else none) t.we.seg (c.laneMap (c.job t.job).tmap)
        (mputs 0 0 ((List.range 16).map c.tenant) []))) 1 := by
  intro t own
  have hown : 8 * bitN (t.credit != ((s.core s.cur.core).stream s.cur.key).credit) = own := by
    simp only [own, State.self, State.here]
    by_cases he : t.credit = ((s.core s.cur.core).stream s.cur.key).credit <;> simp [he, bitN]
  rw [← hown]
  exact .of_runMain hx hI ha ((if_neg (by rw [ho]; decide)).trans ((if_neg (Nat.not_lt.mpr hr)).trans
    (if_neg (by rw [hm]; decide))))

end

/-- Both forms of WSEG are one operation; the one takes its settings from its word, the other keeps them. -/
theorem wseg_form {s : State} {h : WHead} {i : Instr} {g : Seg} {w : We}
    (hi : i = .wsegKeep h ∧ g = { w.seg with nfl := 0 } ∨
      ∃ (ab ar : Nat) (l : Int) (e : Bool) (rm : Rm), i = .wsegFull h ab ar l e rm ∧ g = ⟨ab, ar, l, e, rm, 0⟩) :
    ∃ set : Seg → Seg, exec i s = runWseg s h set ∧ g = { set w.seg with nfl := 0 } := by
  obtain ⟨rfl, rfl⟩ | ⟨ab, ar, l, e, rm, rfl, rfl⟩ := hi
  · exact ⟨id, exec_wsegKeep .., rfl⟩
  · exact ⟨fun _ => ⟨ab, ar, l, e, rm, 0⟩, exec_wsegFull .., rfl⟩

/-- Settles O38. -/
theorem segmentResults : Obligations.SegmentResults := by
  unfold Obligations.SegmentResults
  intro s h i g c hI t w b hi
  obtain ⟨set, hx, rfl⟩ := wseg_form (s := s) hi
  exact ⟨fun ha => main_traps hx hI ha, fun ha => ⟨fun ho => wseg_traps_open hx hI ha ho,
    fun ho hr => wseg_traps_rows hx hI ha ho hr, fun ho hr hm => wseg_traps_map hx hI ha ho hr hm,
    fun ho hr hm => wseg_runs hx hI ha ho hr hm⟩⟩

end Sys2Proof.Machine
end

section
/-!
PROOF. Hooks, jumps, waits and the end of weight-code streams (R271 to R273, R294 to R299).
-/

namespace Sys2Proof.Machine

/-! ### Tokens leave the weight-code part alone -/

theorem Core.unpop_stream_we (c : Core) (k k' : Nat) : ((c.unpop k).stream k').we = (c.stream k').we := by
  simp only [Core.unpop]
  split
  · rfl
  · rw [Core.stream_updStream]
    split
    · next h => subst h; rw [Core.stream_updJob]
    · rw [Core.stream_updJob]

theorem Core.popTok_stream_we {c c1 : Core} {k tp : Nat} (h : c.popTok k tp = some c1) (k' : Nat) :
    (c1.stream k').we = (c.stream k').we := by
  simp only [Core.popTok] at h
  split at h
  · obtain rfl := Option.some.inj h
    rw [Core.stream_setStream]
    split
    · next he => subst he; rfl
    · rfl
  · split at h
    · cases h
    · obtain rfl := Option.some.inj h
      rw [Core.stream_updJob]

/-- A bundle that has taken its token finds its stream's weight-code part as it was. -/
theorem IssuesB.stream_we {s : State} {h : WHead} {c : Core} (hI : IssuesB s h c) :
    (c.stream s.cur.key).we = s.self.we := by
  obtain rfl | hp := Core.tokens_ok_cases hI
  · exact Core.unpop_stream_we ..
  · exact (Core.popTok_stream_we hp _).trans (Core.unpop_stream_we ..)

/-! ### Hooks -/

section
variable {s : State} {h : WHead} {n : Nat} {c : Core} (hI : IssuesB s h c)
include hI

/-- Where no adapter stands at its entry, a bundle issues whatever it is. -/
theorem IssuesB.we (hn : ((c.stream s.cur.key).we.hook.act && (c.stream s.cur.key).we.hook.entry) = false) :
    IssuesWe s h c := ⟨hI, hn⟩

theorem wlink_traps (hn : ((c.stream s.cur.key).we.hook.act && (c.stream s.cur.key).we.hook.entry) = false) :
    Traps (.wlink h n) s 0x01 0x0C := by
  refine .of_runB (exec_wlink ..) hI ?_
  simp only [State.core_setCore_same, hn, Bool.not_false, if_true]

theorem wlink_entry (hact : (c.stream s.cur.key).we.hook.act = true)
    (hent : (c.stream s.cur.key).we.hook.entry = true) :
    (n = (c.stream s.cur.key).we.hook.n → RunsB (.wlink h n) h s (c.updStream s.cur.key fun t =>
        { t with we := { t.we with hook := { t.we.hook with entry := false } } }) .seq 1)
      ∧ (n ≠ (c.stream s.cur.key).we.hook.n → Traps (.wlink h n) s 0x0C 3) := by
  refine ⟨fun he => .of_runB (exec_wlink ..) hI ?_, fun he => .of_runB (exec_wlink ..) hI ?_⟩
  · simp only [State.core_setCore_same, hact, hent, Bool.and_self, Bool.not_true, Bool.false_eq_true, if_false, he,
      bne_self_eq_false]
    rfl
  · simp only [State.core_setCore_same, hact, hent, Bool.and_self, Bool.not_true, Bool.false_eq_true, if_false,
      bne_iff_ne.mpr he, if_true]

theorem wret_traps_entry (hact : (c.stream s.cur.key).we.hook.act = true)
    (hent : (c.stream s.cur.key).we.hook.entry = true) : Traps (.wret h) s 0x0C 3 := by
  refine .of_runB (exec_wret ..) hI ?_
  simp only [State.core_setCore_same, hact, hent, Bool.and_self, if_true]

end

section
variable {s : State} {h : WHead} {n : Nat} {c : Core} (hI : IssuesWe s h c)
include hI

theorem wret_traps (hact : (c.stream s.cur.key).we.hook.act = false) : Traps (.wret h) s 0x01 0x08 :=
  .of_runWe (exec_wret ..) hI (if_pos (by rw [hact]; rfl))

theorem wret_runs (hact : (c.stream s.cur.key).we.hook.act = true) :
    let t := c.stream s.cur.key
    let was := t.we.hook
    let back := { was with act := false, entry := false }
    let go := (s.setCore s.cur.core c).hookGo s.cur.core s.cur.key was.n t.we 0 (t.we.hookTodo was.n was.next)
    (∀ r, go = .fin r → RunsB (.wret h) h s (c.hookEnd s.cur.key back (s.cycles + 2 + r) 1) .gone 1)
      ∧ ∀ i a r, go = .run i a r →
          RunsB (.wret h) h s (c.updStream s.cur.key fun t => t.enter back i a (s.cycles + r + 3)) .gone 1 := by
  intro t was back go
  refine ⟨fun r hr => .of_runWe (exec_wret ..) hI ((if_neg (by rw [hact]; decide)).trans ?_),
    fun i a r hr => .of_runWe (exec_wret ..) hI ((if_neg (by rw [hact]; decide)).trans ?_)⟩
  · simp only [go, t, was] at hr
    simp only [hr]
    rfl
  · simp only [go, t, was] at hr
    simp only [hr]
    rfl

/-- A WHOOK that does not go on from its hook state starts with the first tenant. -/
theorem exec_whook_start (hr : ((c.stream s.cur.key).we.hook.running && !(c.stream s.cur.key).we.hook.act) = false) :
    exec (.whook h n) s = runMain s h 0x07 (hookStart s h n) := by
  rw [hI.1.stream_we] at hr
  exact if_neg (Bool.eq_false_iff.mp hr)

theorem whook_starts (hact : (c.stream s.cur.key).we.hook.act = false)
    (hrun : (c.stream s.cur.key).we.hook.running = false) :
    let t := c.stream s.cur.key
    let hk : Hook := { pc := t.pc, n := n, running := true }
    let own := c.updStream s.cur.key fun t => { t with owe := if h.push then some h.tp else none }
    let go := (s.setCore s.cur.core c).hookGo s.cur.core s.cur.key n t.we 0 (t.we.hookTodo n 0)
    (∀ r, go = .fin r → RunsB (.whook h n) h s (c.hookEnd s.cur.key hk (s.cycles + 1 + r) 1) .gone (1 + r))
      ∧ (∀ i a r, go = .run i a r → RunsB (.whook h n) h s
          (own.updStream s.cur.key fun t => t.enter hk i a (s.cycles + r + 2)) .kept 1)
      ∧ ∀ i r x st, go = .trap i r x st → Traps (.whook h n) s x st := by
  intro t hk own go
  have hx := exec_whook_start (n := n) hI (by rw [hrun]; rfl)
  refine ⟨fun r hr => .of_runMain hx hI hact ?_, fun i a r hr => .of_runMain hx hI hact ?_,
    fun i r x st hr => .of_runMain hx hI hact ?_⟩
  all_goals
    simp only [go, t] at hr
    simp only [weBody, hookStart, hr]
  · rfl
  · rfl

end

/-- Settles O39. -/
theorem hookResults : Obligations.HookResults := by
  unfold Obligations.HookResults
  intro s h n c hI k cid t s1 own hk was back
  refine ⟨fun hact hrun => ?_, fun hact hent => ?_, fun hact hent => ?_⟩
  · have hn : (t.we.hook.act && t.we.hook.entry) = false := by rw [hact]; rfl
    obtain ⟨hfin, hgo, htrap⟩ := whook_starts (n := n) (hI.we hn) hact hrun
    exact ⟨hfin, hgo, htrap, wret_traps (hI.we hn) hact, wlink_traps hI hn⟩
  · obtain ⟨hsame, hother⟩ := wlink_entry (n := n) hI hact hent
    exact ⟨hsame, hother, wret_traps_entry hI hact hent⟩
  · have hn : (t.we.hook.act && t.we.hook.entry) = false := by rw [hact, hent]; rfl
    have hx := exec_whook_start (n := n) (hI.we hn) (by rw [show (c.stream s.cur.key).we.hook.act = true from hact, Bool.not_true, Bool.and_false])
    obtain ⟨hfin, hgo⟩ := wret_runs (hI.we hn) hact
    exact ⟨main_traps hx (hI.we hn) hact, wlink_traps hI hn, hfin, hgo⟩

/-! ### Jumps -/

section
variable {s : State} {h : WHead} {c : Core} {a lr : Nat} (ha : a < 2 ^ 48)
  (hf : ∀ s2 : State, (s.setCore s.cur.core c).fetchVa s.cur.core s.cur.key (c.stream s.cur.key).fetchRoot a 32 ≠ .wait s2)
include ha hf

/-- A jump to a bundle whose line is there. -/
theorem weJump_done : weJump s (s.setCore s.cur.core c) (c.stream s.cur.key) a lr
    = .done ((s.setCore s.cur.core c).setCore s.cur.core
        (c.updStream s.cur.key fun t => { t with we := { t.we with lr := lr } })) (.jump a) 1 := by
  have hu : uI 64 (a : Int) = a := uI_natCast (by omega)
  simp only [weJump, hu, Nat.not_le.mpr ha, if_false, State.updCore]
  split
  · next s2 he => exact absurd he (hf s2)
  · rw [State.core_setCore_same]
  · rw [State.core_setCore_same]

end

/-- Settles O40. -/
theorem weightControlResults : Obligations.WeightControlResults := by
  unfold Obligations.WeightControlResults
  intro s h c hI k cid t s1
  refine ⟨fun off a hoff ha hf => ⟨?_, fun hact hlr => ?_⟩, fun hact => ?_, fun hact => ⟨fun off hlr => ?_, fun hlr => ?_,
    fun hlr ha hf => ?_, fun ho => ?_, fun ho hw => ?_, fun sem scnt tcnt sy c1 ht => ?_⟩⟩
  · refine .of_runWe (exec_wjmp ..) hI ?_
    have := weJump_done (lr := (c.stream s.cur.key).we.lr) ha hf
    simp only [weBody, bundleTarget]
    exact (congrArg (weJump s _ _ · _) hoff).trans this
  · refine .of_runMain (exec_wjmpLink ..) hI hact ((if_neg ?_).trans ?_)
    · simp [show (c.stream s.cur.key).we.lr = 0 from hlr]
    · exact (congrArg (weJump s _ _ · _) hoff).trans (weJump_done ha hf)
  · exact ⟨fun off => main_traps (exec_wjmpLink ..) hI hact, main_traps (exec_wjmpRet ..) hI hact,
      main_traps (exec_wend ..) hI hact, fun n => main_traps (exec_wrdzv ..) hI hact⟩
  · exact .of_runMain (exec_wjmpLink ..) hI hact (if_pos (bne_iff_ne.mpr hlr))
  · exact .of_runMain (exec_wjmpRet ..) hI hact (if_pos hlr)
  · exact .of_runMain (exec_wjmpRet ..) hI hact ((if_neg hlr).trans (weJump_done ha hf))
  · exact ⟨.of_runMain (exec_wend ..) hI hact (if_pos ho), fun n => .of_runMain (exec_wrdzv ..) hI hact (if_pos ho)⟩
  · have ho' : ¬(c.stream s.cur.key).we.opn = true := by rw [show (c.stream s.cur.key).we.opn = false from ho]; decide
    exact ⟨.of_runMain (exec_wend ..) hI hact ((if_neg ho').trans (if_pos hw)),
      fun n => .of_runMain (exec_wrdzv ..) hI hact ((if_neg ho').trans (if_pos hw))⟩
  · refine .of_runMain (exec_wwait ..) hI hact ((headBody_ok ht).trans ?_)
    rw [State.passHead_of_not_acquires (fun hg => hg.1 rfl)]

end Sys2Proof.Machine
end

section
/-!
PROOF. Commands of the matrix engine and of the exchange engine at issue (R306, R332 to R345, R383 to R387).
-/

namespace Sys2Proof.Machine

/-! ### The queue of commands -/

section
variable {i : Instr} {h : Head} {kc : KCtl} {regs : List Nat}
  {check : State → Core → Job → List Nat → Except Trap (Job × List Nat)}

/-- A command that its checks let pass enters the queue. -/
theorem Queues.of_runCmd {ok : State → Core → Job → List Nat → Job × List Nat → Prop}
    (hx : ∀ s, exec i s = runCmd s h i regs (check s)) (hk : Instr.kctl? i = some kc)
    (hok : ∀ s c b v r, ok s c b v r → check s c b v = .ok r) : Queues i h kc regs ok := by
  intro s c r hI t b hsem hroom hr
  have hxs := hx s
  simp only [runCmd, hk, Option.getD_some] at hxs
  refine .of_runC hxs hI ?_
  simp only [t, b] at hsem hroom hr
  simp only [hsem, Nat.not_le.mpr hroom, if_false, hok s c _ _ r hr]
  rfl

/-- A command that its checks refuse with cause 0x0C and subcode 3 traps so. -/
theorem Rejects.of_runCmd {bad : List Nat → Prop}
    (hx : ∀ s, exec i s = runCmd s h i regs (check s)) (hk : Instr.kctl? i = some kc)
    (hbad : ∀ s c b v, bad v → check s c b v = .error (0x0C, 3)) : Rejects i h kc regs bad := by
  intro s c hI t hsem hroom hv
  have hxs := hx s
  simp only [runCmd, hk, Option.getD_some] at hxs
  refine .of_runC hxs hI ?_
  simp only [t] at hsem hroom hv
  simp only [hsem, Nat.not_le.mpr hroom, if_false, hbad s c _ _ hv]

end

/-! ### Matrix commands -/

/-- A command that is checked by the layout of its one register. -/
theorem layout_queues {i : Instr} {h : Head} {kc : KCtl} {b : Nat} {ok : Nat → Bool} {P : Nat → Prop}
    (hx : ∀ s, exec i s = runLayout s h i b ok) (hk : Instr.kctl? i = some kc) (hP : ∀ v, ok v = true ↔ P v) :
    Queues i h kc [b] (fun _ _ j v r => P (v.getD 0 0) ∧ r = (j, v)) ∧ Rejects i h kc [b] fun v => ¬ P (v.getD 0 0) := by
  refine ⟨.of_runCmd hx hk ?_, .of_runCmd hx hk fun s c b v hv => if_neg (mt (hP _).mp hv)⟩
  rintro s c b v r ⟨hv, rfl⟩
  exact if_pos ((hP _).mpr hv)

/-- The layout of MRQT's word. -/
theorem mrqtOk_iff (v : Nat) : (decide (v < 2 ^ 6) && (bit v 2 || fld v 0 2 == 0)) = true ↔
    v < 2 ^ 6 ∧ (v / 4 % 2 = 1 ∨ v % 4 = 0) := by
  simp [bit, fld]

/-- The layout of MIDX's word. -/
theorem midxOk_iff (v : Nat) : (fld v 19 13 == 0 && decide (v < 2 ^ 35)) = true ↔ v / 2 ^ 19 % 2 ^ 13 = 0 ∧ v < 2 ^ 35 := by
  rw [Bool.and_eq_true, beq_iff_eq, decide_eq_true_eq]
  rfl

/-- The words of the nest table that MTW refuses (R383). -/
theorem mtwBad_iff (i v : Nat) :
    (decide (21 < i) || v &&& ntReserved i != 0 || (decide (i = 0) && !bit v 30 && fld v 28 2 != 0)) = true ↔
      21 < i ∨ v &&& ntReserved i ≠ 0 ∨ (i = 0 ∧ v / 2 ^ 30 % 2 = 0 ∧ v / 2 ^ 28 % 2 ^ 2 ≠ 0) := by
  have hbit : bit v 30 = false ↔ v / 2 ^ 30 % 2 = 0 := by
    simp only [bit, beq_eq_false_iff_ne]
    omega
  simp only [Bool.or_eq_true, Bool.and_eq_true, decide_eq_true_eq, bne_iff_ne, Bool.not_eq_true', hbit, fld, or_assoc,
    and_assoc]

section
variable {s : State} {h : Head} {a b : Nat} {c : Core} (hI : Issues s h c)
include hI

theorem mtw_traps (hv : 21 < ((c.stream s.cur.key).getX a).toNat
      ∨ ((c.stream s.cur.key).getX b).toNat &&& ntReserved ((c.stream s.cur.key).getX a).toNat ≠ 0
      ∨ (((c.stream s.cur.key).getX a).toNat = 0 ∧ ((c.stream s.cur.key).getX b).toNat / 2 ^ 30 % 2 = 0
        ∧ ((c.stream s.cur.key).getX b).toNat / 2 ^ 28 % 2 ^ 2 ≠ 0)) : Traps (.mtw h a b) s 0x0C 3 :=
  .of_runC (exec_mtw ..) hI (if_pos ((mtwBad_iff ..).mpr hv))

theorem mtw_runs (hi : ((c.stream s.cur.key).getX a).toNat ≤ 21)
    (hv : ((c.stream s.cur.key).getX b).toNat &&& ntReserved ((c.stream s.cur.key).getX a).toNat = 0)
    (h0 : ((c.stream s.cur.key).getX a).toNat = 0 → ((c.stream s.cur.key).getX b).toNat / 2 ^ 30 % 2 = 0 →
      ((c.stream s.cur.key).getX b).toNat / 2 ^ 28 % 2 ^ 2 = 0)
    (hgo : ∀ m ∈ (c.stream s.cur.key).cmds, (∃ g k x, m.instr = .mgo g k x) → m.started = true ∧ m.at_ ≠ s.cycles) :
    Runs (.mtw h a b) h s (c.updStream s.cur.key fun t => { t with me := { t.me with
      shadow := mput 0 ((c.stream s.cur.key).getX a).toNat ((c.stream s.cur.key).getX b).toNat t.me.shadow } }) .seq 1 := by
  refine .of_runC (exec_mtw ..) hI ((if_neg (mt (mtwBad_iff ..).mp ?_)).trans (if_neg fun hany => ?_))
  · rintro (hbig | hres | ⟨hz, hx, hm⟩)
    · exact absurd hi (Nat.not_le.mpr hbig)
    · exact hres hv
    · exact hm (h0 hz hx)
  · obtain ⟨m, hm, hwait⟩ := List.any_eq_true.mp hany
    rw [Bool.and_eq_true] at hwait
    obtain ⟨hisgo, hwait⟩ := hwait
    dsimp only at hisgo
    split at hisgo
    · next g k x he =>
      obtain ⟨hst, hat⟩ := hgo m hm ⟨g, k, x, he⟩
      rw [hst, beq_false_of_ne hat] at hwait
      cases hwait
    · cases hisgo

end

/-- Settles O41. -/
theorem matrixCommandResults : Obligations.MatrixCommandResults := by
  unfold Obligations.MatrixCommandResults
  refine ⟨fun s h a b c hI => ⟨fun hv => mtw_traps hI hv, fun hi hv h0 hgo => mtw_runs hI hi hv h0 hgo⟩,
    fun h k d b => ⟨fun x => .of_runCmd (exec_mgo h k x) rfl ?_, fun x => .of_runCmd (exec_mrpr h k b x) rfl ?_,
      fun x => .of_runCmd (exec_mrst h k b x) rfl ?_, ?_⟩⟩
  · rintro s c b v r rfl
    rfl
  · rintro s c b v r rfl
    rfl
  · rintro s c b v r rfl
    rfl
  · rintro i P (⟨rfl, rfl⟩ | ⟨rfl, rfl⟩ | ⟨rfl, rfl⟩ | ⟨rfl, rfl⟩ | ⟨rfl, rfl⟩ | ⟨rfl, rfl⟩ | ⟨rfl, rfl⟩)
    · exact layout_queues (exec_mtws h k d b) rfl fun v => decide_eq_true_iff
    · exact layout_queues (exec_mnms h k d b) rfl fun v => decide_eq_true_iff
    · exact layout_queues (exec_mdrn h k d b) rfl fun v => .rfl
    · exact layout_queues (exec_mbyp h k b) rfl fun v => .rfl
    · exact layout_queues (exec_mzero h k b) rfl fun v => .rfl
    · exact layout_queues (exec_mrqt h k d b) rfl mrqtOk_iff
    · exact layout_queues (exec_midx h k d b) rfl midxOk_iff

end Sys2Proof.Machine
end

section
/-!
PROOF. Commands of the exchange engine at issue (R323, R332 to R345).
-/

namespace Sys2Proof.Machine

/-! ### Checks of operand words -/

/-- A field that begins at bit 0. -/
theorem fld_zero (w n : Nat) : fld w 0 n = w % 2 ^ n := by
  rw [fld, Nat.pow_zero, Nat.div_one]

theorem lenCheck_none {n u : Nat} (h : n ≠ 0 ∧ n ≤ 2 ^ 24 ∧ n % u = 0) : lenCheck n u = none := by
  obtain ⟨h0, hle, hu⟩ := h
  have hlen : ¬(decide (n = 0) || decide (2 ^ 24 < n)) = true := by
    rw [Bool.or_eq_true, decide_eq_true_eq, decide_eq_true_eq]
    omega
  exact (if_neg hlen).trans (if_neg (by rw [hu]; decide))

theorem lenCheck_bad {n u : Nat} (h : n = 0 ∨ 2 ^ 24 < n) : lenCheck n u = some (0x0C, 3) :=
  if_pos (by rwa [Bool.or_eq_true, decide_eq_true_eq, decide_eq_true_eq])

/-- A transfer both of whose ends pass. -/
theorem State.Transfers.transfer {s : State} {b : Job} {wd ws n unit : Nat} {dk sk : List Nat} {perm : Cap → Bool}
    {extra : List Nat} {r : Job × List Nat} (h : s.Transfers b wd ws n unit dk sk perm extra r) :
    s.transfer s.cur.core b wd ws n unit dk sk perm extra = .ok r := by
  obtain ⟨cd, cs, hd, hs, rfl⟩ := h
  simp only [State.transfer, hd, hs]

/-! ### Copies and reductions -/

section
variable {h : Head} {k : KCtl} {a b : Nat}

theorem xcp_queues : Queues (.xcp h k a b) h k [a, b, b + 1] (fun s _ j v r =>
    epOk (v.getD 0 0) true false false = true ∧ epOk (v.getD 1 0) false false false = true
      ∧ (v.getD 2 0 ≠ 0 ∧ v.getD 2 0 ≤ 2 ^ 24 ∧ v.getD 2 0 % 8 = 0)
      ∧ s.Transfers j (v.getD 0 0) (v.getD 1 0) (v.getD 2 0) 8 [3, 4] [3, 4] Cap.send [] r) := by
  refine .of_runCmd (exec_xcp h k a b) rfl ?_
  rintro s c j v r ⟨hd, hs, hn, ht⟩
  simp only [hd, hs, lenCheck_none hn, Bool.not_true, Bool.or_self, Bool.false_eq_true, if_false, ht.transfer]

theorem xcp_rejects : Rejects (.xcp h k a b) h k [a, b, b + 1] (fun v =>
    ¬ (epOk (v.getD 0 0) true false false = true ∧ epOk (v.getD 1 0) false false false = true)
      ∨ v.getD 2 0 = 0 ∨ 2 ^ 24 < v.getD 2 0) := by
  refine .of_runCmd (exec_xcp h k a b) rfl ?_
  rintro s c j v hv
  dsimp only
  split
  · rfl
  · next hok =>
    have hn := hv.resolve_left (not_not_intro (by simpa using hok))
    rw [lenCheck_bad hn]

theorem xcpg_queues : Queues (.xcpg h k a b) h k [a, b, b + 1] (fun s _ j v r =>
    epOk (v.getD 0 0) true false false = true ∧ epOk (v.getD 1 0) false false false = true
      ∧ epSpace (v.getD 0 0) = 4 ∧ epSpace (v.getD 1 0) ≠ 4
      ∧ (v.getD 2 0 ≠ 0 ∧ v.getD 2 0 ≤ 2 ^ 24 ∧ v.getD 2 0 % 8 = 0)
      ∧ s.Transfers j (v.getD 0 0) (v.getD 1 0) (v.getD 2 0) 8 [0, 6] [] Cap.send [] r) := by
  refine .of_runCmd (exec_xcpg h k a b) rfl ?_
  rintro s c j v r ⟨hd, hs, hsd, hss, hn, ht⟩
  simp only [hd, hs, hsd, beq_false_of_ne hss, lenCheck_none hn, ht.transfer, Bool.not_true, bne_self_eq_false,
    Bool.or_self, Bool.false_eq_true, if_false]

theorem xcpg_rejects : Rejects (.xcpg h k a b) h k [a, b, b + 1] (fun v =>
    epSpace (v.getD 0 0) ≠ 4 ∨ epSpace (v.getD 1 0) = 4 ∨ v.getD 2 0 = 0) := by
  refine .of_runCmd (exec_xcpg h k a b) rfl ?_
  rintro s c j v hv
  dsimp only
  split
  · rfl
  · next hok =>
    simp only [Bool.or_eq_true, bne_iff_ne, beq_iff_eq, not_or, not_not] at hok
    obtain ⟨⟨-, hsd⟩, hss⟩ := hok
    have hn := (hv.resolve_left (not_not_intro hsd)).resolve_left hss
    rw [lenCheck_bad (.inl hn)]

theorem xred_queues : Queues (.xred h k a b) h k [a, b, b + 1] (fun s _ j v r =>
    epOp (v.getD 0 0) < 10 ∧ epOk (v.getD 0 0) true true false = true ∧ epOk (v.getD 1 0) false false false = true
      ∧ epSpace (v.getD 0 0) = 4 ∧ (epSpace (v.getD 1 0) = 1 ∨ epSpace (v.getD 1 0) = 2 ∧ epOp (v.getD 0 0) = 3)
      ∧ (v.getD 2 0 ≠ 0 ∧ v.getD 2 0 ≤ 2 ^ 24 ∧ v.getD 2 0 % 8 = 0)
      ∧ s.Transfers j (v.getD 0 0) (v.getD 1 0) (v.getD 2 0) 8 [0, 6] [] Cap.red [] r
      ∧ (Cap.mk (r.2.getD 3 0) (r.2.getD 4 0)).base % redUnit (epOp (v.getD 0 0)) = 0) := by
  refine .of_runCmd (exec_xred h k a b) rfl ?_
  rintro s c j v r ⟨hop, hd, hs, hsd, hss, hn, ht, hu⟩
  have hsrc : (epSpace (v.getD 1 0) == 1 || (epSpace (v.getD 1 0) == 2 && epOp (v.getD 0 0) == 3)) = true := by
    simpa only [Bool.or_eq_true, Bool.and_eq_true, beq_iff_eq] using hss
  simp only [Nat.not_le.mpr hop, hd, hs, hsd, hsrc, lenCheck_none hn, ht.transfer, hu, Bool.not_true, bne_self_eq_false,
    Bool.or_self, Bool.false_eq_true, if_false]

end

/-! ### Encrypted copies -/

section
variable {h : Head} {k : KCtl} {a b : Nat} {enc : Bool} {i : Instr}

/-- The two forms of XKEY are one operation. -/
theorem xkey_exec (hi : enc = true ∧ i = .xkeyEnc h k a b ∨ enc = false ∧ i = .xkeyDec h k a b) :
    (∀ s, exec i s = runCmd s h i [a, b, b + 1, b + 2] fun _ j v => keyCheck s j v enc) ∧ Instr.kctl? i = some k := by
  obtain ⟨rfl, rfl⟩ | ⟨rfl, rfl⟩ := hi
  · exact ⟨exec_xkeyEnc h k a b, rfl⟩
  · exact ⟨exec_xkeyDec h k a b, rfl⟩

variable (hi : enc = true ∧ i = .xkeyEnc h k a b ∨ enc = false ∧ i = .xkeyDec h k a b)
include hi

theorem xkey_queues :
    let loc := fun (v : List Nat) => if enc then v.getD 1 0 else v.getD 0 0
    let far := fun (v : List Nat) => if enc then v.getD 0 0 else v.getD 1 0
    Queues i h k [a, b, b + 1, b + 2] (fun s _ j v r => epOk (v.getD 0 0) true false true = true
      ∧ epOk (v.getD 1 0) false false true = true ∧ isLocal (epSpace (loc v)) = true
      ∧ (epSpace (far v) = 0 ∨ epSpace (far v) = 4) ∧ (v.getD 2 0 ≠ 0 ∧ v.getD 2 0 ≤ 2 ^ 24 ∧ v.getD 2 0 % 512 = 0)
      ∧ ∃ ck : Cap, s.chanCheck s.cur.core j (epCh (loc v)) [5] (if enc then Cap.send else Cap.repl) 0 0 (v.getD 2 0)
            = .ok ck
        ∧ s.Transfers (j.charge (epCh (loc v)) (v.getD 2 0)) (v.getD 0 0) (v.getD 1 0) (v.getD 2 0) 512 [4] [4] Cap.send
          [v.getD 3 0, ck.lo % 2 ^ 12] r) := by
  intro loc far
  obtain ⟨hx, hk⟩ := xkey_exec hi
  refine .of_runCmd hx hk ?_
  rintro s c j v r ⟨hd, hs, hl, hf, hn, ck, hck, ht⟩
  have hfar : (epSpace (far v) == 0 || epSpace (far v) == 4) = true := by
    simpa only [Bool.or_eq_true, beq_iff_eq] using hf
  rw [← fld_zero] at ht
  simp only [loc, far] at hl hfar hck ht
  simp only [keyCheck, hd, hs, hl, hfar, lenCheck_none hn, hck, ht.transfer, Bool.not_true, Bool.or_self,
    Bool.false_eq_true, if_false]

theorem xkey_rejects :
    let loc := fun (v : List Nat) => if enc then v.getD 1 0 else v.getD 0 0
    Rejects i h k [a, b, b + 1, b + 2]
      (fun v => isLocal (epSpace (loc v)) = false ∨ v.getD 2 0 = 0 ∨ 2 ^ 24 < v.getD 2 0) := by
  intro loc
  obtain ⟨hx, hk⟩ := xkey_exec hi
  refine .of_runCmd hx hk ?_
  rintro s c j v hv
  refine ite_eq_left_iff.mpr fun hok => ?_
  simp only [Bool.or_eq_true, Bool.not_eq_true', not_or] at hok
  obtain ⟨⟨-, hl⟩, -⟩ := hok
  rw [lenCheck_bad (hv.resolve_left hl)]

end

/-- Settles O42. -/
theorem copyCommandResults : Obligations.CopyCommandResults := by
  unfold Obligations.CopyCommandResults
  intro h k a b
  exact ⟨xcp_queues, xcp_rejects, xcpg_queues, xcpg_rejects, xred_queues,
    fun enc i hi => ⟨xkey_queues hi, xkey_rejects hi⟩⟩

end Sys2Proof.Machine
end

section
/-!
PROOF. Barriers, signals, steps, plane records and carousel commands at issue (R323, R339 to R344).
-/

namespace Sys2Proof.Machine

/-! ### Barriers, signals, steps and plane records -/

theorem bit_eq_false_iff (w i : Nat) : bit w i = false ↔ w / 2 ^ i % 2 = 0 := by
  simp only [bit, beq_eq_false_iff_ne]
  omega

theorem bit_eq_true_iff (w i : Nat) : bit w i = true ↔ w / 2 ^ i % 2 = 1 := beq_iff_eq

section
variable {h : Head} {k : KCtl} {a b : Nat}

theorem xexp_queues : Queues (.xexp h k a b) h k [a, b] (fun _ _ j v r => barWordOk (v.getD 0 0) (v.getD 1 0) = true
    ∧ ((v.getD 0 0 / 2 ^ 8 % 2 = 0 ∧ r = (j, v ++ [2 ^ 12]))
      ∨ (v.getD 0 0 / 2 ^ 8 % 2 = 1 ∧ ∃ cp, j.chan (v.getD 0 0 / 2 ^ 16 % 2 ^ 6) [1] (fun _ => true) = .ok cp
        ∧ r = (j, v ++ [cp.lo % 2 ^ 12])))) := by
  refine .of_runCmd (exec_xexp h k a b) rfl ?_
  rintro s c j v r ⟨hw, ⟨h8, rfl⟩ | ⟨h8, cp, hc, rfl⟩⟩
  · simp only [hw, (bit_eq_false_iff ..).mpr h8, Bool.not_true, Bool.false_eq_true, if_false]
  · simp only [hw, (bit_eq_true_iff ..).mpr h8, Bool.not_true, Bool.false_eq_true, if_false, if_true, fld, hc,
      Nat.pow_zero, Nat.div_one]

theorem xarv_queues : Queues (.xarv h k a b) h k [a, b] (fun s _ j v r => barWordOk (v.getD 0 0) (v.getD 1 0) = true
    ∧ ((v.getD 0 0 / 2 ^ 8 % 2 = 0 ∧ r = (j, v ++ [0, 0, 0]))
      ∨ (v.getD 0 0 / 2 ^ 8 % 2 = 1
        ∧ ∃ cp, s.chanCheck s.cur.core j (v.getD 0 0 / 2 ^ 16 % 2 ^ 6) [0, 6] Cap.sig 0 0 0 = .ok cp
        ∧ r = (j, v ++ [0, cp.hi, cp.lo])))) := by
  refine .of_runCmd (exec_xarv h k a b) rfl ?_
  rintro s c j v r ⟨hw, ⟨h8, rfl⟩ | ⟨h8, cp, hc, rfl⟩⟩
  · simp only [hw, (bit_eq_false_iff ..).mpr h8, Bool.not_true, Bool.false_eq_true, if_false]
  · simp only [hw, (bit_eq_true_iff ..).mpr h8, Bool.not_true, Bool.false_eq_true, if_false, if_true, fld, hc]

/-- The layout of XSIGR's words. -/
theorem xsigrBad_iff (w x : Nat) :
    (decide (2 ^ 6 ≤ w) || fld x 8 8 != 0 || decide (2 ^ 28 ≤ x) || fld x 16 12 == 0) = true ↔
      2 ^ 6 ≤ w ∨ x / 2 ^ 8 % 2 ^ 8 ≠ 0 ∨ 2 ^ 28 ≤ x ∨ x / 2 ^ 16 % 2 ^ 12 = 0 := by
  simp only [Bool.or_eq_true, decide_eq_true_eq, bne_iff_ne, beq_iff_eq, fld, or_assoc]

theorem xsigr_queues : Queues (.xsigr h k a b) h k [a, b] (fun s _ j v r => v.getD 0 0 < 2 ^ 6
    ∧ v.getD 1 0 / 2 ^ 8 % 2 ^ 8 = 0 ∧ v.getD 1 0 < 2 ^ 28 ∧ v.getD 1 0 / 2 ^ 16 % 2 ^ 12 ≠ 0
    ∧ ∃ cp, s.chanCheck s.cur.core j (v.getD 0 0) [0, 6] Cap.sig 0 0 0 = .ok cp ∧ r = (j, v ++ [0, cp.hi, cp.lo])) := by
  refine .of_runCmd (exec_xsigr h k a b) rfl ?_
  rintro s c j v r ⟨hw, h8, hx, h16, cp, hc, rfl⟩
  refine (if_neg (mt (xsigrBad_iff ..).mp ?_)).trans ?_
  · rintro (hb | hb | hb | hb)
    · exact absurd hw (Nat.not_lt.mpr hb)
    · exact hb h8
    · exact absurd hx (Nat.not_lt.mpr hb)
    · exact h16 hb
  · simp only [hc]

theorem xsigr_rejects : Rejects (.xsigr h k a b) h k [a, b] (fun v => 2 ^ 6 ≤ v.getD 0 0
    ∨ v.getD 1 0 / 2 ^ 16 % 2 ^ 12 = 0) := by
  refine .of_runCmd (exec_xsigr h k a b) rfl ?_
  rintro s c j v hv
  exact if_pos ((xsigrBad_iff ..).mpr (hv.imp_right fun h16 => .inr (.inr h16)))

theorem xstep_queues : Queues (.xstep h k a) h k [a] (fun _ c j v r => v.getD 0 0 < 2 ^ 6
    ∧ ∃ cp, j.chan (v.getD 0 0) [1] Cap.send = .ok cp
      ∧ let es := c.slotsOf (cp.lo % 2 ^ 12)
        (∀ e ∈ es, j.inRegions (slSrc (e / 2 ^ 6)) (64 * slUnits (e / 2 ^ 6)) = true)
        ∧ let n := lsum (es.map fun e => 64 * slUnits (e / 2 ^ 6))
          cp.covers n = true ∧ r = (j.charge (v.getD 0 0) n, v ++ es)) := by
  refine .of_runCmd (exec_xstep h k a) rfl ?_
  rintro s c j v r ⟨hw, cp, hc, hes, hcov, rfl⟩
  have hin : ((c.slotsOf (cp.lo % 2 ^ 12)).any fun e => !j.inRegions (slSrc (e / 2 ^ 6)) (64 * slUnits (e / 2 ^ 6)))
      = false := by
    rw [List.any_eq_false]
    intro e he
    rw [hes e he]
    decide
  simp only [Nat.not_le.mpr hw, if_false, hc, fld_zero, hin, hcov, Bool.not_true, Bool.false_eq_true]

theorem xpln_queues : Queues (.xpln h k a b) h k [a, b] (fun s c j v r => v.getD 0 0 < 2 ^ 6
    ∧ ∃ cp n, j.chan (v.getD 0 0) [1] Cap.send = .ok cp ∧ recSize c j (v.getD 1 0) = .ok n
      ∧ let cs := s.groupCores s.cur.core (c.stream s.cur.key).job (cp.lo % 2 ^ 12)
        cp.covers (n * cs.length) = true ∧ r = (j.charge (v.getD 0 0) (n * cs.length), v ++ n :: cs)) := by
  refine .of_runCmd (exec_xpln h k a b) rfl ?_
  rintro s c j v r ⟨hw, cp, n, hc, hn, hcov, rfl⟩
  simp only [Nat.not_le.mpr hw, if_false, hc, hn, fld_zero, hcov, Bool.not_true, Bool.false_eq_true]

end

/-- Settles O43. -/
theorem barrierCommandResults : Obligations.BarrierCommandResults := by
  unfold Obligations.BarrierCommandResults
  intro h k a b
  exact ⟨xexp_queues, xarv_queues, xsigr_queues, xstep_queues, xpln_queues,
    .of_runCmd (exec_xexp h k a b) rfl fun s c j v hv => if_pos (by rw [hv]; rfl),
    .of_runCmd (exec_xarv h k a b) rfl fun s c j v hv => if_pos (by rw [hv]; rfl),
    xsigr_rejects, .of_runCmd (exec_xstep h k a) rfl fun s c j v hv => if_pos hv,
    .of_runCmd (exec_xpln h k a b) rfl fun s c j v hv => if_pos hv⟩

/-! ### Carousel commands -/

section
variable {h : Head} {k : KCtl} {a b : Nat}

theorem tile_queues {i : Instr} {perm : Cap → Bool} {n : Nat} (hx : ∀ s, exec i s = runTile s h i a b perm n)
    (hk : Instr.kctl? i = some k) :
    Queues i h k [a, b] fun s c j v r => tileCheck c j (v.getD 0 0) perm n = .ok r.1 ∧ r.2 = v
      ∧ epOk (v.getD 1 0) false false false = true ∧ isLocal (epSpace (v.getD 1 0)) = true
      ∧ ∃ cp, s.endCheck s.cur.core r.1 (v.getD 1 0) 4096 64 [] Cap.send = .ok cp := by
  refine .of_runCmd hx hk ?_
  rintro s c j v ⟨j1, v1⟩ ⟨ht, rfl, hok, hl, cp, he⟩
  simp only at ht he
  simp only [ht, hok, hl, he, Bool.not_true, Bool.or_self, Bool.false_eq_true, if_false]

theorem tileCheck_wide {c : Core} {j : Job} {w n : Nat} {perm : Cap → Bool} (hw : 2 ^ 38 ≤ w) :
    tileCheck c j w perm n = .error (0x0C, 3) := if_pos hw

/-- XDRP and XQRY.peek: a command of one tile word. -/
theorem tile_word {i : Instr} {perm : Cap → Bool} (hx : ∀ s, exec i s = runCmd s h i [a] fun c j v =>
      match tileCheck c j (v.getD 0 0) perm 0 with
      | .error t => .error t
      | .ok j1 => .ok (j1, v)) (hk : Instr.kctl? i = some k) :
    Queues i h k [a] (fun _ c j v r => tileCheck c j (v.getD 0 0) perm 0 = .ok r.1 ∧ r.2 = v)
      ∧ Rejects i h k [a] (fun v => 2 ^ 38 ≤ v.getD 0 0) := by
  refine ⟨.of_runCmd hx hk ?_, .of_runCmd hx hk fun s c j v hv => ?_⟩
  · rintro s c j v ⟨j1, v1⟩ ⟨ht, rfl⟩
    simp only at ht
    simp only [ht]
  · rw [tileCheck_wide hv]

/-- What makes XQRY.ring a command: a wait, a signal, an acquire or a release. -/
theorem ringPlain_iff (k : KCtl) : (k.wait.isNone && k.sig.isNone && !k.sync.acq && !k.sync.rel) = true ↔
    k.wait.isNone = true ∧ k.sig.isNone = true ∧ k.sync.acq = false ∧ k.sync.rel = false := by
  simp only [Bool.and_eq_true, Bool.not_eq_true', and_assoc]

theorem xqryRing_runs {s : State} {c : Core} (hI : Issues s h c)
    (hp : k.wait.isNone = true ∧ k.sig.isNone = true ∧ k.sync.acq = false ∧ k.sync.rel = false) :
    Runs (.xqryRing h k b) h s { c with
      pending := c.pending ++ [⟨s.cur.key, 1, .x b (BitVec.ofNat 64 (s.ringWord s.cur.core)), 0, 1⟩] } .seq 1 :=
  .of_runC ((exec_xqryRing ..).trans (if_pos ((ringPlain_iff k).mpr hp))) hI rfl

theorem xqryRing_queues
    (hp : ¬(k.wait.isNone = true ∧ k.sig.isNone = true ∧ k.sync.acq = false ∧ k.sync.rel = false)) :
    Queues (.xqryRing h k b) h k [] (fun s _ j _ r => r = (j, [s.ringWord s.cur.core])) := by
  have hx (s : State) : exec (.xqryRing h k b) s
      = runCmd s h (.xqryRing h k b) [] fun _ j _ => .ok (j, [s.ringWord s.cur.core]) :=
    (exec_xqryRing ..).trans (if_neg (mt (ringPlain_iff k).mp hp))
  refine .of_runCmd hx rfl ?_
  rintro s c b v r rfl
  rfl

end

/-- Settles O44. -/
theorem carouselCommandResults : Obligations.CarouselCommandResults := by
  unfold Obligations.CarouselCommandResults
  intro h k a b
  obtain ⟨hdrp, hdrpBad⟩ := tile_word (exec_xdrp h k a b) rfl
  obtain ⟨hpeek, hpeekBad⟩ := tile_word (exec_xqryPeek h k a b) rfl
  refine ⟨?_, hdrp, hpeek, hdrpBad, hpeekBad, fun s c hI => ⟨fun hp => xqryRing_runs hI hp,
    fun hp hsem hroom =>
      xqryRing_queues hp s c (_, _) hI hsem hroom rfl⟩⟩
  rintro i perm n (⟨rfl, rfl, rfl⟩ | ⟨rfl, rfl, rfl⟩ | ⟨rfl, rfl, rfl⟩)
  · exact tile_queues (exec_xbrd h k a b) rfl
  · exact tile_queues (exec_xalt h k a b) rfl
  · exact tile_queues (exec_xrep h k a b) rfl

end Sys2Proof.Machine
end

section
/-!
PROOF. Events of streams (R10, R11, R13, R15, R20, R115, R181): retirement, landing, heads, rendezvous, the end of a job, markers.
-/

namespace Sys2Proof.Machine

/-! ### Retirement -/

theorem length_ldel_lt {α : Type} {p : α → Bool} {l : List α} {a : α} (ha : a ∈ l) (hp : p a = true) :
    (ldel p l).length < l.length := by
  induction l with
  | nil => cases ha
  | cons x xs ih =>
    simp only [ldel]
    split
    · exact Nat.lt_succ_self _
    · next hx =>
      have hax : a ∈ xs := (List.mem_cons.mp ha).resolve_left fun he => hx (he ▸ hp)
      exact Nat.succ_lt_succ (ih hax)

/-- A retirement that finds room makes its push. -/
theorem Core.retireOne_room {c : Core} {r : Retire}
    (h : exposed (engOf r.key) = true ∨ c.fifoRoom r.job (fifoNo (r.key / 4) r.partner) = true) :
    c.retireOne r = { c with
      retires := ldel (· == r) c.retires, maturing := c.maturing ++ [⟨r.job, fifoNo (r.key / 4) r.partner, 2⟩] } :=
  if_pos (Bool.or_eq_true _ _ ▸ h)

/-- A stream's only retirement, when its clock has come. -/
theorem Core.retireDue_single {c : Core} {k : Nat} {r : Retire} (hr : c.retires.filter (fun x => x.key == k) = [r])
    (h0 : r.rem = 0) (h : exposed (engOf r.key) = true ∨ c.fifoRoom r.job (fifoNo (r.key / 4) r.partner) = true) :
    c.retireDue k = c.retireOne r := by
  obtain ⟨hmem, -⟩ := List.mem_filter.mp (hr ▸ List.mem_singleton_self r)
  have hlen : (c.retireOne r).retires.length ≠ c.retires.length := by
    rw [Core.retireOne_room h]
    exact (length_ldel_lt (p := (· == r)) hmem (beq_self_eq_true r)).ne
  simp only [Core.retireDue, hr]
  split
  · simp [h0]
  · simp only [Core.retireSeq, h0, bne_self_eq_false, Bool.false_eq_true, if_false, hlen]

theorem instructionRetire_runs {s : State} {cid k : Nat} {r : Retire} (hf : (s.core cid).frozen = false)
    (he : engOf k ∉ [Eng.va, .we]) (hr : (s.core cid).retires.filter (fun x => x.key == k) = [r]) (h0 : r.rem = 0)
    (h : exposed (engOf r.key) = true ∨ (s.core cid).fifoRoom r.job (fifoNo (r.key / 4) r.partner) = true) :
    exec (.instructionRetire cid k) s = .next (s.setCore cid { s.core cid with
      retires := ldel (· == r) (s.core cid).retires,
      maturing := (s.core cid).maturing ++ [⟨r.job, fifoNo (r.key / 4) r.partner, 2⟩] }) := by
  have hlate : landsLate (engOf k) = false := by
    cases hk : engOf k <;> simp_all [landsLate]
  rw [exec_instructionRetire, execInstructionRetire, Core.retireDue_single hr h0 h, Core.retireOne_room h]
  exact if_neg (by rw [hf, hlate]; decide)

/-! ### Landing -/

theorem Stream.getX_setX_same (t : Stream) (n : Nat) (v : Word) : (t.setX n v).getX n = if n = 0 then 0 else v := by
  rw [Stream.getX_setX]
  by_cases hn : n = 0 <;> simp [hn]

/-- A scalar result for register n of stream k, and its flags, have landed, and no other result is on its way. -/
structure Core.Landed (c d : Core) (k n fl : Nat) (v : Word) : Prop where
  pending : d.pending = []
  reg : (d.stream k).getX n = if n = 0 then 0 else v
  flags : (d.stream k).flags = (c.stream k).flags ||| fl

theorem Core.landNow_landed {c : Core} (hc : c.pending = []) (clk k n fl lat : Nat) (v : Word) :
    c.Landed (c.landNow clk ⟨k, 0, .x n v, fl, lat⟩) k n fl v := by
  simp only [Core.landNow, Core.sigOverflow, Core.landOne]
  split
  · next h0 =>
    refine ⟨hc, ?_, ?_⟩ <;> simp only [Core.stream_updStream_same]
    · exact Stream.getX_setX_same ..
    · simp [h0]
  · refine ⟨hc, ?_, ?_⟩ <;> simp only [Core.stream_updStream_same]
    · exact Stream.getX_setX_same ..
    · simp [Stream.orFlags]

/-- The results of an engine land, where there is one and it is due. -/
theorem Core.landDue_landed {c : Core} {k n fl lat : Nat} {v : Word} (hc : c.pending = [⟨k, 0, .x n v, fl, lat⟩]) (clk : Nat)
    {p : Eng → Bool} (hp : p (engOf k) = true) : c.Landed (c.landDue clk p) k n fl v := by
  have hd : c.landDue clk p = ({ c with pending := [] } : Core).landNow clk ⟨k, 0, .x n v, fl, lat⟩ := by
    simp [Core.landDue, hc, hp]
  rw [hd]
  obtain ⟨hpd, hreg, hfl⟩ := Core.landNow_landed (c := { c with pending := [] }) rfl clk k n fl lat v
  exact ⟨hpd, hreg, hfl⟩

/-- Two cores whose streams and pending results are the same. -/
structure Core.SameStreams (c d : Core) : Prop where
  streams : d.streams = c.streams
  pending : d.pending = c.pending

theorem Core.retireOne_sameStreams (c : Core) (r : Retire) : c.SameStreams (c.retireOne r) := by
  unfold Core.retireOne
  dsimp only
  split
  · exact ⟨rfl, rfl⟩
  · exact ⟨rfl, rfl⟩

theorem Core.SameStreams.trans {c d e : Core} (h : c.SameStreams d) (h' : d.SameStreams e) : c.SameStreams e :=
  ⟨h'.streams.trans h.streams, h'.pending.trans h.pending⟩

theorem Core.SameStreams.foldl {α : Type} {f : Core → α → Core} (hf : ∀ c a, Core.SameStreams c (f c a)) (l : List α)
    (c : Core) : c.SameStreams (l.foldl f c) := by
  induction l generalizing c with
  | nil => exact ⟨rfl, rfl⟩
  | cons a l ih => exact (hf c a).trans (ih (f c a))

theorem Core.retireSeq_sameStreams (c : Core) (rs : List Retire) : c.SameStreams (c.retireSeq rs) := by
  induction rs generalizing c with
  | nil => exact ⟨rfl, rfl⟩
  | cons r rs ih =>
    simp only [Core.retireSeq]
    split
    · exact ⟨rfl, rfl⟩
    · split
      · exact ⟨rfl, rfl⟩
      · exact (c.retireOne_sameStreams r).trans (ih _)

theorem Core.retireDue_sameStreams (c : Core) (k : Nat) : c.SameStreams (c.retireDue k) := by
  unfold Core.retireDue
  dsimp only
  split
  · exact Core.SameStreams.foldl Core.retireOne_sameStreams _ c
  · exact c.retireSeq_sameStreams _

theorem Core.SameStreams.stream {c d : Core} (h : c.SameStreams d) (k : Nat) : d.stream k = c.stream k := by
  unfold Core.stream
  rw [h.streams]

theorem Core.landEng_landed {c : Core} {k n fl lat : Nat} {v : Word} (hc : c.pending = [⟨k, 0, .x n v, fl, lat⟩])
    (clk : Nat) : c.Landed (c.landEng clk (engOf k)) k n fl v := by
  let c1 : Core := { c with undo := some ⟨c.pending, c.retires, c.maturing, c.queues, c.streams⟩ }
  obtain ⟨hpd, hreg, hfl⟩ := Core.landDue_landed (c := c1) hc clk (p := (· == engOf k))
    (beq_self_eq_true _)
  have hsame := Core.SameStreams.foldl Core.retireDue_sameStreams ((List.range (Machine.slotsOf (engOf k))).map (skey (engOf k)))
    (c1.landDue clk (· == engOf k))
  exact ⟨hsame.pending.trans hpd, by rw [← hreg]; exact congrArg (·.getX n) (hsame.stream k),
    by rw [← show (c1.stream k).flags ||| fl = (c.stream k).flags ||| fl from rfl, ← hfl]; exact congrArg Stream.flags (hsame.stream k)⟩

section
variable {s : State} {cid k n fl lat : Nat} {v : Word} (hf : (s.core cid).frozen = false)

theorem Core.Landed.completes {i : Instr} {d : Core} (h : (s.core cid).Landed d k n fl v)
    (hx : exec i s = .next (s.setCore cid d)) : Completes i s fun t => (t.core cid).pending = []
      ∧ ((t.core cid).stream k).getX n = (if n = 0 then 0 else v)
      ∧ ((t.core cid).stream k).flags = ((s.core cid).stream k).flags ||| fl ∧ ∀ j, j ≠ cid → t.core j = s.core j := by
  obtain ⟨hpd, hreg, hfl⟩ := h
  refine ⟨_, hx, ?_⟩
  dsimp only
  rw [State.core_setCore_same]
  exact ⟨hpd, hreg, hfl, fun j hj => s.core_setCore_ne d hj⟩

include hf

/-- What lands of a core that holds no other result, wherever its engine's results land. -/
theorem resultLands_runs (hp : (s.core cid).pending = [⟨k, 0, .x n v, fl, lat⟩])
    (hw : (s.landTurn cid = none ∧ engOf k ∉ [Eng.va, .we])
      ∨ (s.landTurn cid = some (engOf k) ∧ (s.core cid).heldEng (engOf k) = false)) :
    Completes (.resultLands cid) s fun t => (t.core cid).pending = []
      ∧ ((t.core cid).stream k).getX n = (if n = 0 then 0 else v)
      ∧ ((t.core cid).stream k).flags = ((s.core cid).stream k).flags ||| fl ∧ ∀ j, j ≠ cid → t.core j = s.core j := by
  have hfrozen : ¬(s.core cid).frozen = true := by rw [hf]; decide
  obtain ⟨hnone, hk⟩ | ⟨hsome, hheld⟩ := hw
  · have hlate : landsLate (engOf k) = false := by
      cases he : engOf k <;> simp_all [landsLate]
    refine (Core.landDue_landed hp s.cycles (p := fun e => !landsLate e) (by rw [hlate]; rfl)).completes ?_
    rw [exec_resultLands, execResultLands, hnone]
    exact if_neg hfrozen
  · refine (Core.landEng_landed hp s.cycles).completes ?_
    rw [exec_resultLands, execResultLands, hsome]
    refine (if_neg hfrozen).trans ?_
    simp only [hheld, Bool.false_eq_true, if_false]

theorem resultLands_held {e : Eng} (hs : s.landTurn cid = some e) (hh : (s.core cid).heldEng e = true) :
    exec (.resultLands cid) s = .next (s.setCore cid ((s.core cid).holdEng e)) := by
  rw [exec_resultLands, execResultLands, hs]
  refine (if_neg (by rw [hf]; decide)).trans ?_
  simp only [hh, if_true]

end

/-! ### Heads -/

theorem runWord_done {s s2 : State} {len tp : Nat} {pop push : Bool} {body : State → Res} {c : Core} {f : Flow} {lat : Nat}
    (ht : (s.here.unpop s.cur.key).tokens s.cur.key tp pop push = .ok c)
    (hb : body (s.setCore s.cur.core c) = .done s2 f lat) :
    runWord s len tp pop push true body
      = s2.updCore s.cur.core fun x => x.finish s.cycles s.self.job s.cur len tp push f lat := by
  simp only [State.here] at ht
  simp only [runWord, ht, if_true, hb, State.self, State.here, Core.unpop_stream_job]

/-- The context of a stream is the step's own where the step is that stream's. -/
theorem ctxOf_self {s : State} (hcur : s.cur = ctxOf s.cur.core s.cur.key s.cur.tried) :
    let tried := if s.cur.core = s.cur.core && s.cur.eng = engOf s.cur.key then s.cur.tried else []
    ({ s with cur := ctxOf s.cur.core s.cur.key tried } : State) = s := by
  have heng : s.cur.eng = engOf s.cur.key := congrArg Ctx.eng hcur
  rw [← heng]
  simp only [decide_true, Bool.and_self, if_true]
  rw [← hcur]

theorem blockHead_blkh {s : State} {h : Head} {sp : HeadSpec} {c c1 : Core}
    (hcur : s.cur = ctxOf s.cur.core s.cur.key s.cur.tried) (hw : s.self.wait = .head (.blkh h sp))
    (hr : s.headReady s.cur.core s.cur.key = true)
    (ht : (s.here.unpop s.cur.key).tokens s.cur.key h.tp h.pop h.push = .ok c)
    (hok : headTest (s.setCore s.cur.core c) s.cur.core s.cur.key h.tp sp = .ok c1) :
    exec (.blockHeadSatisfied s.cur.core s.cur.key) s
      = .next (((s.setCore s.cur.core c).passHead s.cur.core (c.stream s.cur.key) sp c1).updCore s.cur.core
          fun x => s.issued h x .seq 1) := by
  simp only [State.self, State.here] at hw
  rw [exec_blockHeadSatisfied, execBlockHeadSatisfied]
  refine (if_neg (by rw [hr]; decide)).trans ?_
  rw [ctxOf_self hcur]
  simp only [hw]
  rw [runWord_done ht (headBody_ok hok), State.core_setCore_same]
  rfl

theorem blockHead_wwait {s : State} {h : WHead} {sem sc tc : Nat} {sy : Option Sync} {c c1 : Core}
    (hcur : s.cur = ctxOf s.cur.core s.cur.key s.cur.tried) (hw : s.self.wait = .head (.wwait h sem sc tc sy))
    (hr : s.headReady s.cur.core s.cur.key = true)
    (ht : (s.here.unpop s.cur.key).tokens s.cur.key h.tp false h.push = .ok c)
    (hok : headTest (s.setCore s.cur.core c) s.cur.core s.cur.key h.tp (wwaitHead sem sc tc sy) = .ok c1) :
    RunsB (.blockHeadSatisfied s.cur.core s.cur.key) h s c1 .seq 1 := by
  simp only [State.self, State.here] at hw
  refine ⟨((s.setCore s.cur.core c).setCore s.cur.core c1).updCore s.cur.core fun x => s.issuedB h x .seq 1, ?_,
    coreStep_upd ..⟩
  rw [exec_blockHeadSatisfied, execBlockHeadSatisfied]
  refine (if_neg (by rw [hr]; decide)).trans ?_
  rw [ctxOf_self hcur]
  simp only [hw]
  rw [runWord_done ht (headBody_ok hok), State.passHead_of_not_acquires (fun hg => hg.1 rfl)]
  rfl

/-! ### Rendezvous, the end of a job and markers -/

theorem running_or_yielding {b : JobSt} (h : b = .running ∨ b = .yielding) : (b == .running || b == .yielding) = true := by
  rwa [Bool.or_eq_true, beq_iff_eq, beq_iff_eq]

theorem rendezvousRelease_runs {s : State} {cid j n : Nat} (hf : (s.core cid).frozen = false)
    (hst : ((s.core cid).job j).st = .running ∨ ((s.core cid).job j).st = .yielding)
    (hn : (s.core cid).rdzvAll j = some n) : exec (.rendezvousRelease cid j) s = .next (s.releaseRdzv cid j n) := by
  rw [exec_rendezvousRelease, execRendezvousRelease]
  refine (if_neg (by rw [hf, running_or_yielding hst]; decide)).trans ?_
  rw [hn]

theorem jobRetire_runs {s : State} {cid j : Nat}
    (hst : ((s.core cid).job j).st = .running ∨ ((s.core cid).job j).st = .yielding) (hk : (s.core cid).jobKeys j = []) :
    exec (.jobRetire cid j) s = .next (s.setCore cid ((((s.core cid).updJob j fun b => { b with st := .retired }).event j
      ⟨descTag ((s.core cid).job j).desc, 1, 0, j, 0, s.cycles⟩).reconsider)) := by
  rw [exec_jobRetire, execJobRetire]
  exact if_neg (by rw [running_or_yielding hst, hk]; decide)

/-- Settles O45. -/
theorem streamEvents : Obligations.StreamEvents := by
  unfold Obligations.StreamEvents
  refine ⟨fun s cid k r hf he hr h0 h => instructionRetire_runs hf he hr h0 h,
    fun s cid k n fl lat v hf hp => ⟨fun hw => resultLands_runs hf hp hw, fun e hs hh => resultLands_held hf hs hh⟩,
    fun s h sp c c1 hcur hw hr ht hok => ⟨⟨_, blockHead_blkh hcur hw hr ht hok, rfl⟩, fun hna => ?_⟩,
    fun s h sem sc tc sy c c1 hcur hw hr ht hok => blockHead_wwait hcur hw hr ht hok,
    fun s cid j n hf hst hn => rendezvousRelease_runs hf hst hn, fun s cid j hst hk => jobRetire_runs hst hk,
    fun s cid k hf => if_neg (by rw [hf]; decide)⟩
  refine ⟨_, blockHead_blkh hcur hw hr ht hok, ?_⟩
  rw [State.passHead_of_not_acquires hna]
  exact coreStep_upd ..

end Sys2Proof.Machine
end

section
/-!
PROOF. Events of jobs (R22, R86, R101 to R104, R115, R140, R142): phases, the watchdog, age, checkpoints, budgets, switches, stops.
-/

namespace Sys2Proof.Machine

/-! ### Phases -/

theorem State.group_acquireGroup (s : State) (cid g : Nat) (sc : Scope) (g' : Nat) :
    (s.acquireGroup cid g sc).group g' = s.group g' := by
  unfold State.acquireGroup
  dsimp only
  split <;> rfl

theorem State.group_gbarEnd (s : State) (cid g k g' : Nat) : (s.gbarEnd cid g k).group g' = s.group g' := by
  unfold State.gbarEnd
  dsimp only
  split
  · split
    · split
      · exact State.group_acquireGroup ..
      · rfl
    · rfl
  all_goals rfl

theorem State.group_foldl {α : Type} {f : State → α → State} {g : Nat} (hf : ∀ s a, (f s a).group g = s.group g)
    (l : List α) (s : State) : (l.foldl f s).group g = s.group g := by
  induction l generalizing s with
  | nil => rfl
  | cons a l ih => exact (ih (f s a)).trans (hf s a)

theorem State.group_setGroup_same (s : State) (g : Nat) (v : Group) : (s.setGroup g v).group g = v :=
  mget_mput_same _ _ _ _

theorem groupPhaseComplete_runs {s : State} {g : Nat} (hc : (s.group g).complete = true) :
    Completes (.groupPhaseComplete g) s fun t => t.group g = (s.group g).advance := by
  refine ⟨_, exec_groupPhaseComplete .., ?_⟩
  dsimp only
  rw [State.group_foldl]
  · rw [if_pos hc, State.group_setGroup_same]
  · intro u cid
    split
    · rfl
    · exact State.group_foldl (fun v k => State.group_gbarEnd v cid g k g) _ _

/-! ### The watchdog and age -/

theorem blockWatchdogExpiry_runs {s : State} {cid k : Nat} (hf : (s.core cid).frozen = false)
    (hst : ((s.core cid).stream k).st = .live) (hw : ((s.core cid).stream k).watched = true)
    (ht : 2 ^ 24 ≤ ((s.core cid).stream k).waited) :
    exec (.blockWatchdogExpiry cid k) s = .next (s.setCore cid ((s.core cid).takeTrap s.cycles k 0x18 0)) := by
  rw [exec_blockWatchdogExpiry, execBlockWatchdogExpiry]
  refine if_neg ?_
  simp only [hf, hst, hw, bne_self_eq_false, Bool.not_true, Bool.or_self, Bool.false_or, decide_eq_true_eq]
  exact Nat.not_lt.mpr ht

theorem agePromotion_runs {s : State} {cid k : Nat} (ha : 1024 ≤ ((s.core cid).stream k).age) :
    Completes (.agePromotion cid k) s fun t => CoreStep s t cid
      ((s.core cid).updStream k fun t => { t with promoted := true }) := by
  refine ⟨_, exec_agePromotion .., ?_⟩
  have hc : ((s.core cid).updStream k fun t => if 1024 ≤ t.age then { t with promoted := true } else t)
      = (s.core cid).updStream k fun t => { t with promoted := true } := by
    simp only [Core.updStream, ha, if_true]
  dsimp only [State.updCore]
  rw [hc]
  exact coreStep_set ..

/-! ### Checkpoints -/

section
variable {s : State} {cid j k n a : Nat} (hk : (s.core cid).jobStream j 0 = some k)
  (hw : ((s.core cid).stream k).wait = .ckpt n a) (hf : (s.core cid).frozen = false)
  (hst : ((s.core cid).job j).st = .running ∨ ((s.core cid).job j).st = .yielding)
  (hr : (s.core cid).ckptReady j k n = true)

include hk hw hf hst hr

/-- A checkpoint whose conditions are met goes by what its live-range table comes to. -/
theorem ckptConditionsMet_eq : exec (.ckptConditionsMet cid j) s =
    match (s.core cid).liveRanges ((s.core cid).sender cid k s.cycles) ((s.core cid).job j) a with
    | .trap x st => .next (s.setCore cid ((s.core cid).takeTrap s.cycles k x st))
    | .wait c1 => .next (s.setCore cid c1)
    | .ok c1 rs => if ((s.core cid).job j).st == .yielding then .next ((s.setCore cid c1).ckptSave cid j rs)
        else .next ((s.setCore cid c1).releaseRdzv cid j n) := by
  rw [exec_ckptConditionsMet, execCkptConditionsMet]
  cases hl : (s.core cid).liveRanges ((s.core cid).sender cid k s.cycles) ((s.core cid).job j) a <;>
    simp only [hk, hw, hf, running_or_yielding hst, hr, hl, Bool.not_true, Bool.or_self, Bool.false_eq_true, if_false]

theorem ckpt_traps {x st : Nat}
    (h : (s.core cid).liveRanges ((s.core cid).sender cid k s.cycles) ((s.core cid).job j) a = .trap x st) :
    exec (.ckptConditionsMet cid j) s = .next (s.setCore cid ((s.core cid).takeTrap s.cycles k x st)) := by
  rw [ckptConditionsMet_eq hk hw hf hst hr, h]

theorem ckpt_ends {c1 : Core} {rs : List LiveRange}
    (h : (s.core cid).liveRanges ((s.core cid).sender cid k s.cycles) ((s.core cid).job j) a = .ok c1 rs) :
    (((s.core cid).job j).st = .yielding → exec (.ckptConditionsMet cid j) s = .next ((s.setCore cid c1).ckptSave cid j rs))
      ∧ (((s.core cid).job j).st = .running →
          exec (.ckptConditionsMet cid j) s = .next ((s.setCore cid c1).releaseRdzv cid j n)) := by
  rw [ckptConditionsMet_eq hk hw hf hst hr, h]
  exact ⟨fun hy => if_pos (beq_iff_eq.mpr hy), fun hrun => if_neg (by rw [hrun]; decide)⟩

end

section
variable {c c1 c2 : Core} {w : Sender} {b : Job} {a : Nat} {hd bs : List Byte}

theorem Core.liveRanges_misaligned (ha : a % 8 ≠ 0) : c.liveRanges w b a = .trap 0x07 (addrStatus a) :=
  if_pos (bne_iff_ne.mpr ha)

variable (ha : a % 8 = 0) (h1 : c.readTable w a 1 = .ok c1 hd)
include ha h1

theorem Core.liveRanges_long (hn : 2 ^ 8 ≤ leBytes hd) : c.liveRanges w b a = .trap 0x02 opcCkpt := by
  refine (if_neg (by rw [ha]; decide)).trans ?_
  simp only [h1]
  exact if_pos hn

variable (hn : leBytes hd < 2 ^ 8) (h2 : c1.readTable w (a + 8) (leBytes hd) = .ok c2 bs)
include hn h2

theorem Core.liveRanges_checked : c.liveRanges w b a =
    match rangesCheck b ((List.range (leBytes hd)).map fun i => leBytes ((bs.drop (8 * i)).take 8)) with
    | .error t => .trap t.1 t.2
    | .ok rs => .ok c2 rs := by
  refine (if_neg (by rw [ha]; decide)).trans ?_
  simp only [h1, h2]
  refine (if_neg (Nat.not_le.mpr hn)).trans ?_
  generalize rangesCheck b _ = r
  cases r <;> rfl

end

/-! ### Budgets, switches and stops -/

theorem budgetOverrun_due {s : State} {cid j : Nat} (hf : (s.core cid).frozen = false)
    (hst : ((s.core cid).job j).st = .running) (hu : ((s.core cid).job j).unlim = false)
    (hg : ((s.core cid).job j).grace = false) (h0 : ((s.core cid).job j).remain = 0) (hk : (s.core cid).jobKeys j ≠ []) :
    exec (.budgetOverrun cid j) s = if descPre ((s.core cid).job j).desc
      then .next (s.setCore cid ((s.core cid).request j true false))
      else .next (s.setCore cid ((s.core cid).recordTrap (s.cycles - 1) j
        ((s.core cid).trapRecOf (((s.core cid).jobKeys j).headD 0) 0x15 0))) := by
  rw [exec_budgetOverrun, execBudgetOverrun]
  refine if_neg ?_
  simp only [hf, hst, hu, hg, h0, bne_self_eq_false, Bool.or_self, Bool.false_or, List.isEmpty_iff]
  exact hk

theorem Core.request_of_running {c : Core} {j : Nat} {o l : Bool} (hf : c.frozen = false) (hst : (c.job j).st = .running) :
    c.request j o l = c.setJob j { c.job j with st := .yielding, grace := true, remain := 65536, overrun := o, byLoader := l } := by
  simp only [Core.request, Core.updJob, hf, hst]
  rfl

theorem graceExpiry_due {s : State} {cid j : Nat} (hf : (s.core cid).frozen = false)
    (hst : ((s.core cid).job j).st = .running ∨ ((s.core cid).job j).st = .yielding)
    (hu : ((s.core cid).job j).unlim = false) (hg : ((s.core cid).job j).grace = true)
    (h0 : ((s.core cid).job j).remain = 0) (hk : (s.core cid).jobKeys j ≠ []) :
    let s1 := s.setCore cid ((s.core cid).switchOut j (if ((s.core cid).job j).overrun then 0x15 else 0x16))
    let s2 := if (s1.core cid).switchReady j then s1.switchWrite cid j else s1
    exec (.graceExpiry cid j) s = .next (if (s2.core cid).switchDone j then s2.switchEnd cid j else s2) := by
  intro s1 s2
  have hk' : (!((s.core cid).jobKeys j).isEmpty) = true := by
    rwa [Bool.not_eq_true', List.isEmpty_eq_false_iff]
  rw [exec_graceExpiry, execGraceExpiry]
  refine (if_neg (by rw [hf]; decide)).trans ?_
  simp only [running_or_yielding hst, hu, hg, h0, hk', Bool.not_false, beq_self_eq_true, Bool.and_self, if_true]
  rfl

theorem programTrapStop_due {s : State} {cid j : Nat} (hst : ((s.core cid).job j).st = .stopping)
    (hc : ((s.core cid).job j).trapClk ≠ some s.cycles) (hq : (s.core cid).jobQuiet j s.cycles = true) :
    let c1 := ((s.core cid).stopStreams j).updJob j fun b => { b with st := .stopped }
    exec (.programTrapStop cid j) s = .next (s.setCore cid
      (c1.event j ⟨descTag (c1.job j).desc, 2, ((s.core cid).job j).trap.cause, j, 0, s.cycles⟩)) := by
  intro c1
  rw [exec_programTrapStop, execProgramTrapStop]
  exact if_neg (by rw [hst, beq_false_of_ne hc, hq]; decide)

/-- Settles O46. -/
theorem jobEvents : Obligations.JobEvents := by
  unfold Obligations.JobEvents
  refine ⟨fun s g hc => groupPhaseComplete_runs hc, fun s cid k hf hst hw ht => blockWatchdogExpiry_runs hf hst hw ht,
    fun s cid k ha => agePromotion_runs ha, fun s cid j k n a hk hw hf hst hr => ⟨fun ha => ?_, fun ha c1 hd h1 => ⟨fun hn => ?_,
      fun hn c2 bs h2 => ⟨fun t ht => ?_, fun rs hrs => ?_⟩⟩⟩,
    fun s cid j hf hst hu hg h0 hk => ⟨fun hp => ?_, fun hp => ?_⟩,
    fun s cid j hf hst hu hg h0 hk => graceExpiry_due hf hst hu hg h0 hk,
    fun s cid j hst hc hq => programTrapStop_due hst hc hq⟩
  · exact ckpt_traps hk hw hf hst hr (Core.liveRanges_misaligned ha)
  · exact ckpt_traps hk hw hf hst hr (Core.liveRanges_long ha h1 hn)
  · exact ckpt_traps hk hw hf hst hr ((Core.liveRanges_checked ha h1 hn h2).trans (by rw [ht]))
  · exact ckpt_ends hk hw hf hst hr ((Core.liveRanges_checked ha h1 hn h2).trans (by rw [hrs]))
  · rw [budgetOverrun_due hf hst hu hg h0 hk, if_pos hp, Core.request_of_running hf hst]
  · rw [budgetOverrun_due hf hst hu hg h0 hk, if_neg (by rw [hp]; decide)]

end Sys2Proof.Machine
end

section
/-!
PROOF. Local faults, the handler's limit, walks, misses and code lines (R139, R141, R145, R146, R148, R204, R266).
-/

namespace Sys2Proof.Machine

/-! ### Faults and the handler -/

/-- The frozen core: its record, the stream that handles it, and where the handler starts. -/
structure Core.Frozen (d : Core) (clk k j : Nat) (r : TrapRec) : Prop where
  frozen : d.frozen = true
  trap : (d.job j).trap = r
  key : d.trapKey = k
  pc : (d.stream 24).pc = 8 * r.cause
  live : (d.stream 24).st = .live
  start : d.wickStart = clk + 1

theorem Core.freeze_frozen (c : Core) (clk k : Nat) (r : TrapRec) (cmd : Bool) :
    (c.freeze clk k r cmd).Frozen clk k (c.stream k).job r := by
  refine ⟨rfl, ?_, rfl, ?_, ?_, rfl⟩
  · have hjobs : (c.freeze clk k r cmd).jobs = (c.updJob (c.stream k).job fun b =>
        { b with trap := r, keptTrap := if b.st = .stopping then some b.trap else none }).jobs := rfl
    have hj := c.job_updJob_same (c.stream k).job fun b =>
      { b with trap := r, keptTrap := if b.st = .stopping then some b.trap else none }
    rw [Core.job] at hj ⊢
    rw [hjobs, hj]
  · simp only [Core.freeze, Core.stream_updStream_same]
  · simp only [Core.freeze, Core.stream_updStream_same]

section
variable {s : State} {cid : Nat}

theorem localFaultFreeze_freezes {k : Nat} {r : TrapRec} {cmd : Bool} (hf : (s.core cid).frozen = false)
    (hp : (s.core cid).heldPage = true)
    (hl : (allKeys.findSome? fun k => ((s.core cid).localFault cid s.cycles k).map fun r => (k, r)) = some (k, r, cmd)) :
    exec (.localFaultFreeze cid) s = .next (s.setCore cid ((s.core cid).freeze s.cycles k r cmd)) := by
  rw [exec_localFaultFreeze, execLocalFaultFreeze]
  refine (if_neg (by rw [hp]; decide)).trans ((if_neg (by rw [hf]; decide)).trans ?_)
  simp only [hl]

theorem localFaultFreeze_fails_handler {v : Nat} (hf : (s.core cid).frozen = true) (ht : (s.core cid).thaw = false)
    (hp : (s.core cid).heldPage = true) (hl : (s.core cid).localCause ((s.core cid).stream 24).need = some v) :
    exec (.localFaultFreeze cid) s = .next (s.setCore cid ((s.core cid).takeTrap s.cycles 24 v 0)) := by
  rw [exec_localFaultFreeze, execLocalFaultFreeze]
  refine (if_neg (by rw [hp]; decide)).trans ((if_pos hf).trans ?_)
  simp only [ht, hl, Bool.false_eq_true, if_false]

theorem handlerTimeLimit_runs (hf : (s.core cid).frozen = true) (ht : (s.core cid).thaw = false)
    (hc : (s.core cid).wickStart + 2 ^ 24 ≤ s.cycles) :
    exec (.handlerTimeLimit cid) s = .next (s.setCore cid ((s.core cid).takeTrap s.cycles 24 0x18 0)) := by
  rw [exec_handlerTimeLimit, execHandlerTimeLimit]
  refine if_pos ?_
  rw [hf, ht, decide_eq_true hc]
  decide

end

/-! ### Walks -/

/-- Elements that a fold passes over do not count. -/
theorem foldl_filter_of_skip {α β : Type} {f : β → α → β} {p : α → Bool} (hskip : ∀ b a, p a = false → f b a = b)
    (l : List α) (b : β) : l.foldl f b = (l.filter p).foldl f b := by
  induction l generalizing b with
  | nil => rfl
  | cons a l ih =>
    rw [List.foldl_cons, List.filter_cons]
    cases hp : p a with
    | true => exact ih _
    | false => rw [hskip b a hp]; exact ih b

theorem pageWalkComplete_runs {s : State} {d dt page : Nat} {w : Walker} {r : Walk}
    (hw : ((s.die d).walks.filter fun x => decide (x.dt = dt) && decide (x.page = page) && x.res.isSome) = [w])
    (hr : w.res = some r) : exec (.pageWalkComplete d dt page) s = .next (s.walkEnd d w r) := by
  obtain ⟨-, hmatch⟩ := List.mem_filter.mp (hw ▸ List.mem_singleton_self w)
  simp only [Bool.and_eq_true, decide_eq_true_eq] at hmatch
  rw [exec_pageWalkComplete, execPageWalkComplete,
    foldl_filter_of_skip (p := fun x => decide (x.dt = dt) && decide (x.page = page) && x.res.isSome), hw]
  · simp only [List.foldl_cons, List.foldl_nil, hr, hmatch.1, decide_true, Bool.and_self, if_true]
  · intro u x hx
    cases hres : x.res with
    | none => rfl
    | some r1 =>
      rw [hres, Option.isSome_some, Bool.and_true] at hx
      exact if_neg (Bool.eq_false_iff.mp hx)

/-! ### Misses and code lines -/

section
variable {s : State} {cid : Nat} {w : MissWait} {r : List MissWait} (hm : (s.core cid).missWait = w :: r)
include hm

theorem missQueueAdmit_joins
    (hh : ((s.core cid).misses.any fun m => m.dt == w.dt && m.page == w.page) = true) :
    exec (.missQueueAdmit cid) s = .next (s.setCore cid { s.core cid with
      missWait := r, dtJoins := tally (decide (w.page < 2 ^ 32)) (s.core cid).dtJoins }) := by
  rw [exec_missQueueAdmit, execMissQueueAdmit]
  simp only [hm, hh, if_true]

theorem missQueueAdmit_enters
    (hh : ((s.core cid).misses.any fun m => m.dt == w.dt && m.page == w.page) = false)
    (hl : (s.core cid).misses.length < 32) :
    exec (.missQueueAdmit cid) s = .next (s.setCore cid { s.core cid with
      missWait := r, misses := (s.core cid).misses ++ [⟨w.dt, w.page, none, none⟩],
      dtMisses := tally (decide (w.page < 2 ^ 32)) (s.core cid).dtMisses }) := by
  rw [exec_missQueueAdmit, execMissQueueAdmit]
  simp only [hm, hh, hl, Bool.false_eq_true, if_false, if_true]

end

theorem codeLineArrive_fills {s : State} {cid line : Nat} {bs : List Byte} (hl : line ∈ (s.core cid).codeWant)
    (hb : (s.core cid).codeWhole line = some bs) :
    exec (.codeLineArrive cid line) s = .next (s.setCore cid ((s.core cid).codeFill line (leBytes bs))) := by
  rw [exec_codeLineArrive, execCodeLineArrive]
  simp only [List.contains_iff_mem.mpr hl, if_true, hb]

/-- Settles O47. -/
theorem faultAndWalkEvents : Obligations.FaultAndWalkEvents := by
  unfold Obligations.FaultAndWalkEvents
  refine ⟨fun s cid k r cmd hf hp hl => ⟨_, localFaultFreeze_freezes hf hp hl, rfl, ?_⟩,
    fun s cid hf ht hc => handlerTimeLimit_runs hf ht hc,
    fun s cid v hf ht hp hl => localFaultFreeze_fails_handler hf ht hp hl, fun s d dt page w r hw hr => ?_,
    fun s cid w r hm => ⟨fun hh => missQueueAdmit_joins hm hh, fun hh hl => missQueueAdmit_enters hm hh hl⟩,
    fun s cid line bs hl hb => codeLineArrive_fills hl hb⟩
  · rw [State.core_setCore_same]
    obtain ⟨hfz, htrap, hkey, hpc, hlive, hstart⟩ := (s.core cid).freeze_frozen s.cycles k r cmd
    exact ⟨hfz, htrap, hkey, hpc, hlive, hstart⟩
  · obtain ⟨-, hmatch⟩ := List.mem_filter.mp (hw ▸ List.mem_singleton_self w)
    simp only [Bool.and_eq_true, decide_eq_true_eq] at hmatch
    obtain ⟨⟨rfl, rfl⟩, -⟩ := hmatch
    simp only [pageWalkComplete_runs hw hr, State.walkEnd]

end Sys2Proof.Machine
end

section
/-!
PROOF. The clocks of commands (R41, R306, R307, R381, R383): starting and completing on the matrix engine and on the exchange engine.
-/

namespace Sys2Proof.Machine

/-! ### Starting on the matrix engine -/

section
variable {s : State} {cid : Nat} {m : Cmd} {r : List Cmd} (hf : (s.core cid).frozen = false)
  (hs : (s.core cid).mayStart 16 = true) (hc : ((s.core cid).stream 16).cmds = m :: r)
include hf hs hc

theorem commandStart_me_waits (hw : (s.core cid).waitOk 16 m = false) :
    exec (.commandStart cid 16) s = .next (s.setCore cid (s.core cid)) := by
  rw [exec_commandStart, execCommandStart]
  refine (if_neg (by rw [hf, hs]; decide)).trans ((if_pos rfl).trans ?_)
  simp only [Core.startMe, hc, hw, Bool.not_false, Bool.or_true, if_true]

variable (hst : m.started = false) (hr : (s.core cid).me.ready ≤ s.cycles)
include hst hr

theorem commandStart_me (hw : (s.core cid).waitOk 16 m = true) :
    exec (.commandStart cid 16) s = .next (s.setCore cid
      (let c1 := (s.core cid).passWait cid 16 m true
       if progHalt (s.core cid).me.prog && !haltMay m.instr then c1.cmdTrap s.cycles 16 m (0x0C, 3)
       else
         match c1.meBegin s.cycles m with
         | .ok c2 => c2
         | .error t => c1.cmdTrap s.cycles 16 m t)) := by
  rw [exec_commandStart, execCommandStart]
  refine (if_neg (by rw [hf, hs]; decide)).trans ((if_pos rfl).trans ?_)
  cases hb : ((s.core cid).passWait cid 16 m true).meBegin s.cycles m <;>
    simp only [Core.startMe, hc, hst, Nat.not_lt.mpr hr, hs, hw, hb, decide_false, Bool.not_true, Bool.or_self,
      Bool.false_eq_true, if_false]

variable (hw : (s.core cid).waitOk 16 m = true)
include hw

theorem commandStart_me_halted (hh : progHalt (s.core cid).me.prog = true) (hm : haltMay m.instr = false) :
    exec (.commandStart cid 16) s = .next (s.setCore cid
      (((s.core cid).passWait cid 16 m true).cmdTrap s.cycles 16 m (0x0C, 3))) := by
  rw [commandStart_me hf hs hc hst hr hw]
  simp only [hh, hm, Bool.not_false, Bool.and_self, if_true]

variable (hh : progHalt (s.core cid).me.prog = false ∨ haltMay m.instr = true)
include hh

/-- Unless HALT refuses it, the command comes to what its own start comes to. -/
theorem commandStart_me_begins :
    exec (.commandStart cid 16) s = .next (s.setCore cid
      (match ((s.core cid).passWait cid 16 m true).meBegin s.cycles m with
       | .ok c2 => c2
       | .error t => ((s.core cid).passWait cid 16 m true).cmdTrap s.cycles 16 m t)) := by
  rw [commandStart_me hf hs hc hst hr hw]
  have hhalt : ¬(progHalt (s.core cid).me.prog && !haltMay m.instr) = true := by
    rw [Bool.and_eq_true, Bool.not_eq_true']
    rintro ⟨hp, hm⟩
    obtain h0 | h0 := hh
    · exact Bool.false_ne_true (h0.symm.trans hp)
    · exact Bool.false_ne_true (hm.symm.trans h0)
  exact congrArg (fun c => Host.Outcome.next (s.setCore cid c)) (if_neg hhalt)

theorem commandStart_me_ok {c2 : Core} (hb : ((s.core cid).passWait cid 16 m true).meBegin s.cycles m = .ok c2) :
    exec (.commandStart cid 16) s = .next (s.setCore cid c2) := by
  rw [commandStart_me_begins hf hs hc hst hr hw hh, hb]

theorem commandStart_me_error {t : Trap} (hb : ((s.core cid).passWait cid 16 m true).meBegin s.cycles m = .error t) :
    exec (.commandStart cid 16) s = .next (s.setCore cid
      (((s.core cid).passWait cid 16 m true).cmdTrap s.cycles 16 m t)) := by
  rw [commandStart_me_begins hf hs hc hst hr hw hh, hb]

end

/-! ### Completing -/

theorem Core.recordTrap_streams (c : Core) (clk j : Nat) (r : TrapRec) : (c.recordTrap clk j r).streams = c.streams := by
  unfold Core.recordTrap
  dsimp only
  split
  all_goals first
    | rfl
    | (split <;> rfl)

theorem Core.cmdSignal_streams (c : Core) (clk k : Nat) (m : Cmd) (a n : Nat) (late : Bool) :
    (c.cmdSignal clk k m a n late).streams = c.streams := by
  unfold Core.cmdSignal
  split
  · rfl
  · split
    · rfl
    · exact Core.recordTrap_streams ..

theorem Core.cmdSignal_semCount {c : Core} {a : Nat} (h : c.semCount a + 1 < 2 ^ 32) (clk k : Nat) (m : Cmd) (n : Nat) :
    (c.cmdSignal clk k m a n false).semCount a = c.semCount a + 1 := by
  unfold Core.cmdSignal
  rw [if_neg Bool.false_ne_true, if_pos h]
  rw [Core.semCount_setSem, if_pos rfl]

/-- A completed command has left its queue, with its flags. -/
def Cmd.left (m : Cmd) (flags : Nat) (t : Stream) : Stream :=
  { (t.orFlags flags) with landFlags := t.landFlags ||| flags, cmds := ldel (fun x => x.idx == m.idx) t.cmds }

/-- What a completed command signals, its job's semaphores being those of j. -/
def Core.signalled (c : Core) (clk k j : Nat) (m : Cmd) (late : Bool) : Core :=
  match m.ctl.sig with
  | none => c
  | some n =>
    match (c.job j).sem n with
    | none => c
    | some a => c.cmdSignal clk k m a n late

/-- A command completes by leaving its queue, with a status on its way to a register perhaps, and signalling. -/
theorem Core.completeCmd_eq (c : Core) (clk k : Nat) (m : Cmd) (flags : Nat) (status : Option Nat) (late : Bool) :
    ∃ ps, c.completeCmd clk k m flags status late
      = ({ c.updStream k (m.left flags) with pending := ps } : Core).signalled clk k (c.stream k).job m late := by
  unfold Core.completeCmd Core.signalled
  cases Instr.statusReg m.instr with
  | none => exact ⟨_, rfl⟩
  | some r => cases status <;> exact ⟨_, rfl⟩

theorem Core.signalled_stream (c : Core) (clk k j : Nat) (m : Cmd) (late : Bool) (k' : Nat) :
    (c.signalled clk k j m late).stream k' = c.stream k' := by
  unfold Core.signalled
  split
  · rfl
  · split
    · rfl
    · unfold Core.stream
      rw [Core.cmdSignal_streams]

theorem Core.completeCmd_stream (c : Core) (clk k : Nat) (m : Cmd) (flags : Nat) (status : Option Nat) (late : Bool) :
    (c.completeCmd clk k m flags status late).stream k = m.left flags (c.stream k) := by
  obtain ⟨ps, h⟩ := c.completeCmd_eq clk k m flags status late
  rw [h, Core.signalled_stream]
  exact Core.stream_updStream_same c k (m.left flags)

theorem Core.completeCmd_semCount {c : Core} {k : Nat} {m : Cmd} {sg q : Nat} (hs : m.ctl.sig = some sg)
    (hq : (c.job (c.stream k).job).sem sg = some q) (hlt : c.semCount q + 1 < 2 ^ 32) (clk flags : Nat) (status : Option Nat) :
    (c.completeCmd clk k m flags status false).semCount q = c.semCount q + 1 := by
  obtain ⟨ps, h⟩ := c.completeCmd_eq clk k m flags status false
  have hjob : (({ c.updStream k (m.left flags) with pending := ps } : Core).job (c.stream k).job).sem sg = some q := hq
  rw [h]
  simp only [Core.signalled, hs, hjob]
  exact Core.cmdSignal_semCount (c := { c.updStream k (m.left flags) with pending := ps }) hlt clk k m sg

theorem cmd_idx {t : Stream} {i : Nat} {m : Cmd} (h : t.cmd i = some m) : m.idx = i :=
  beq_iff_eq.mp (List.find?_some (p := fun m : Cmd => m.idx == i) h)

section
variable {s : State} {cid i : Nat} {m : Cmd} (hf : (s.core cid).frozen = false)
  (hc : ((s.core cid).stream 16).cmd i = some m) (hst : m.started = true)
include hf hc hst

theorem commandComplete_me : exec (.commandComplete cid 16 i) s = .next (s.setCore cid
    (if m.finished || m.isNest then (s.core cid).endMe s.cycles i
      else
        match (s.core cid).meWork cid s.cycles m with
        | .more c1 => c1
        | .trap t => { s.core cid with rbErr := [] }.cmdTrap s.cycles 16 m t
        | .done c1 => (c1.updCmd 16 i fun x => { x with finished := true, pos := s.cycles }).endMe s.cycles i)) := by
  rw [exec_commandComplete, execCommandComplete]
  refine (if_neg (by rw [hf]; decide)).trans ((if_pos rfl).trans ?_)
  cases hw : (s.core cid).meWork cid s.cycles m <;>
    simp only [Core.meClock, hc, hst, hw, Bool.not_true, Bool.false_eq_true, if_false]

theorem commandComplete_me_ends (hfin : m.finished = true) (hp : m.pos ≤ s.cycles)
    (hr : (s.core cid).cmdReleased 16 m = true) : exec (.commandComplete cid 16 i) s = .next (s.setCore cid
      (({ s.core cid with rbErr := [] }.completeCmd s.cycles 16 m m.stage m.aux.head? false).updMe
        fun e => { e with ready := s.cycles + 1 })) := by
  rw [commandComplete_me hf hc hst, hfin, Bool.true_or, if_pos rfl]
  simp only [Core.endMe, hc, hfin, hp, hr, decide_true, Bool.and_self, if_true]

theorem commandComplete_me_completes (hfin : m.finished = true) (hp : m.pos ≤ s.cycles)
    (hr : (s.core cid).cmdReleased 16 m = true) :
    let c := s.core cid
    let t := c.stream 16
    Completes (.commandComplete cid 16 i) s fun u =>
      let x := (u.core cid).stream 16
      x.cmds = ldel (fun y => y.idx == i) t.cmds ∧ x.flags = t.flags ||| m.stage ∧ x.me.ready = s.cycles + 1
        ∧ ∀ sg q, m.ctl.sig = some sg → (c.job t.job).sem sg = some q → c.semCount q + 1 < 2 ^ 32 →
            (u.core cid).semCount q = c.semCount q + 1 := by
  intro c t
  refine ⟨_, commandComplete_me_ends hf hc hst hfin hp hr, ?_⟩
  let c0 : Core := { s.core cid with rbErr := [] }
  have hstream := c0.completeCmd_stream s.cycles 16 m m.stage m.aux.head? false
  have hend : ((c0.completeCmd s.cycles 16 m m.stage m.aux.head? false).updMe fun e => { e with ready := s.cycles + 1 }).stream 16
      = { m.left m.stage t with me := { t.me with ready := s.cycles + 1 } } := by
    rw [Core.updMe, Core.stream_updStream_same, hstream]
    rfl
  dsimp only
  rw [State.core_setCore_same, hend, ← cmd_idx hc]
  refine ⟨rfl, rfl, rfl, fun sg q hs hq hlt => ?_⟩
  exact Core.completeCmd_semCount (c := c0) hs hq hlt s.cycles m.stage m.aux.head?

end

/-! ### Starting on the exchange engine -/

section
variable {s : State} {cid k : Nat} {m : Cmd} (hk : k ≠ 16) (hf : (s.core cid).frozen = false)
  (hs : (s.core cid).mayStart k = true) (ha : (s.core cid).admits k = some m)
include hk hf hs ha

theorem commandStart_xe_waits (hw : (s.core cid).waitOk k m = false) : exec (.commandStart cid k) s = .next s := by
  rw [exec_commandStart, execCommandStart]
  refine (if_neg (by rw [hf, hs]; decide)).trans ((if_neg hk).trans ?_)
  simp only [State.startXe, ha, hw, Bool.not_false, if_true]

variable (hw : (s.core cid).waitOk k m = true)
include hw

theorem commandStart_xe_error {t : Trap}
    (hb : (s.setCore cid ((s.core cid).passWait cid k m !(Instr.acqLate m.instr))).xeBegin cid k m (s.lateNow cid) = .error t) :
    exec (.commandStart cid k) s = .next ((s.setCore cid ((s.core cid).passWait cid k m !(Instr.acqLate m.instr))).updCore cid
      fun c => c.cmdTrap s.cycles k m t) := by
  rw [exec_commandStart, execCommandStart]
  refine (if_neg (by rw [hf, hs]; decide)).trans ((if_neg hk).trans ?_)
  simp only [State.startXe, ha, hw, hb, Bool.not_true, Bool.false_eq_true, if_false]

theorem commandStart_xe_ok {c1 : Core}
    (hb : (s.setCore cid ((s.core cid).passWait cid k m !(Instr.acqLate m.instr))).xeBegin cid k m (s.lateNow cid) = .ok c1)
    (hx : ∀ h kc a, m.instr ≠ .xstep h kc a) :
    exec (.commandStart cid k) s = .next ((s.setCore cid ((s.core cid).passWait cid k m !(Instr.acqLate m.instr))).setCore cid
      (c1.endXe s.cycles k m.idx (s.lateNow cid))) := by
  rw [exec_commandStart, execCommandStart]
  refine (if_neg (by rw [hf, hs]; decide)).trans ((if_neg hk).trans ?_)
  simp only [State.startXe, ha, hw, hb, Bool.not_true, Bool.false_eq_true, if_false]

end

theorem Core.acquire_streams (c : Core) (cid : Nat) (sc : Scope) : (c.acquire cid sc).streams = c.streams := by
  cases sc <;> rfl

theorem Core.passWait_streams (c : Core) (cid k : Nat) (m : Cmd) (acq : Bool) :
    (c.passWait cid k m acq).streams = c.streams := by
  unfold Core.passWait
  dsimp only
  split
  · rw [Core.acquire_streams]
    split <;> rfl
  · split <;> rfl

theorem cmd_lupd {l : List Cmd} {i : Nat} {m : Cmd} {f : Cmd → Cmd} (h : (l.find? fun m => m.idx == i) = some m)
    (hf : (f m).idx = m.idx) : ((lupd (fun m => m.idx == i) f l).find? fun m => m.idx == i) = some (f m) := by
  induction l with
  | nil => cases h
  | cons x xs ih =>
    cases hx : x.idx == i with
    | true =>
      simp only [List.find?_cons, hx] at h
      obtain rfl := Option.some.inj h
      simp only [lupd, hx, if_true, List.find?_cons, hf]
    | false =>
      simp only [List.find?_cons, hx] at h
      simp only [lupd, hx, Bool.false_eq_true, if_false, List.find?_cons, ih h]

/-- A command that has begun and is not finished stays in its queue. -/
theorem Core.endXe_began {c : Core} {k : Nat} {m : Cmd} {f : Cmd → Cmd} (hc : (c.stream k).cmd m.idx = some m)
    (hidx : (f { m with started := true, at_ := clk }).idx = m.idx)
    (hfin : (f { m with started := true, at_ := clk }).finished = false) (late : Bool) :
    (c.began clk k m f).endXe clk k m.idx late = c.began clk k m f := by
  have hcmd : ((c.began clk k m f).stream k).cmd m.idx = some (f { m with started := true, at_ := clk }) := by
    simp only [Core.began, Core.updCmd, Core.stream_updStream_same]
    exact cmd_lupd (f := fun x => f { x with started := true, at_ := clk }) hc hidx
  simp only [Core.endXe, hcmd, hfin, Bool.false_and, Bool.false_eq_true, if_false]

section
variable {s : State} {cid k : Nat} {m : Cmd} (hk : k ≠ 16) (hf : (s.core cid).frozen = false)
  (hs : (s.core cid).mayStart k = true) (ha : (s.core cid).admits k = some m) (hw : (s.core cid).waitOk k m = true)
include hk hf hs ha hw

/-- A command whose start only marks it. -/
theorem commandStart_xe_began {f : Cmd → Cmd}
    (hb : (s.setCore cid ((s.core cid).passWait cid k m !(Instr.acqLate m.instr))).xeBegin cid k m (s.lateNow cid)
      = .ok (((s.core cid).passWait cid k m !(Instr.acqLate m.instr)).began s.cycles k m f))
    (hx : ∀ h kc a, m.instr ≠ .xstep h kc a) (hc : ((s.core cid).stream k).cmd m.idx = some m)
    (hidx : (f { m with started := true, at_ := s.cycles }).idx = m.idx)
    (hfin : (f { m with started := true, at_ := s.cycles }).finished = false) :
    exec (.commandStart cid k) s = .next ((s.setCore cid ((s.core cid).passWait cid k m !(Instr.acqLate m.instr))).updCore cid
      fun c => c.updCmd k m.idx fun x => f { x with started := true, at_ := s.cycles }) := by
  have hc1 : (((s.core cid).passWait cid k m !(Instr.acqLate m.instr)).stream k).cmd m.idx = some m := by
    unfold Core.stream
    rwa [Core.passWait_streams]
  rw [commandStart_xe_ok hk hf hs ha hw hb hx, Core.endXe_began hc1 hidx hfin, State.updCore, State.core_setCore_same]
  rfl

end

end Sys2Proof.Machine
end

section
/-!
PROOF. Commands of the exchange engine once they may start, and once they have (R306, R307, R315, R319).
-/

namespace Sys2Proof.Machine

/-! ### What starting marks -/

section
variable {s : State} {cid k : Nat} {m : Cmd} (hk : k ≠ 16) (hf : (s.core cid).frozen = false)
  (hs : (s.core cid).mayStart k = true) (ha : (s.core cid).admits k = some m) (hw : (s.core cid).waitOk k m = true)
  (hc : ((s.core cid).stream k).cmd m.idx = some m) (hfin : m.finished = false)
include hk hf hs ha hw hc hfin

theorem xexp_starts {h : Head} {kc : KCtl} {a b : Nat} (hi : m.instr = .xexp h kc a b) :
    exec (.commandStart cid k) s = .next ((s.setCore cid ((s.core cid).passWait cid k m !(Instr.acqLate m.instr))).updCore cid
      fun c => c.updCmd k m.idx fun x => { x with started := true, at_ := s.cycles }) :=
  commandStart_xe_began (f := id) hk hf hs ha hw (by simp only [State.xeBegin, hi, State.core_setCore_same]; rfl)
    (by rw [hi]; nofun) hc rfl hfin

/-- The carousel commands that look at the ring from the next clock on. -/
theorem ring_starts {h : Head} {kc : KCtl} {a d : Nat}
    (hi : m.instr = .xalt h kc a d ∨ m.instr = .xqryPeek h kc a d ∨ m.instr = .xdrp h kc a d) :
    exec (.commandStart cid k) s = .next ((s.setCore cid ((s.core cid).passWait cid k m !(Instr.acqLate m.instr))).updCore cid
      fun c => c.updCmd k m.idx fun x => { x with started := true, at_ := s.cycles, stage := s.cycles + 1 }) := by
  refine commandStart_xe_began (f := fun x => { x with stage := s.cycles + 1 }) hk hf hs ha hw ?_ ?_ hc rfl hfin
  · obtain hi | hi | hi := hi <;> simp only [State.xeBegin, hi, State.core_setCore_same] <;> rfl
  · obtain hi | hi | hi := hi <;> rw [hi] <;> nofun

/-- The carousel commands that send the bytes of their local end. -/
theorem tile_starts {h : Head} {kc : KCtl} {a d : Nat} (hi : m.instr = .xbrd h kc a d ∨ m.instr = .xrep h kc a d) :
    let c1 := (s.core cid).passWait cid k m !(Instr.acqLate m.instr)
    exec (.commandStart cid k) s = .next ((s.setCore cid c1).updCore cid
      fun c => c.updCmd k m.idx fun x => { x with
        started := true, at_ := s.cycles, stage := s.cycles + 20
        data := c1.localRead (epSpace (m.val 1)) (epAddr (m.val 1)) 4096 }) := by
  intro c1
  refine commandStart_xe_began (f := fun x => { x with
    data := c1.localRead (epSpace (m.val 1)) (epAddr (m.val 1)) 4096, stage := s.cycles + 20 }) hk hf hs ha hw ?_ ?_ hc rfl hfin
  · obtain hi | hi := hi <;> simp only [State.xeBegin, hi, State.core_setCore_same, c1] <;> rfl
  · obtain hi | hi := hi <;> rw [hi] <;> nofun

end

/-! ### Completing on the exchange engine -/

section
variable {s : State} {cid k i : Nat} {m : Cmd} (hk : k ≠ 16) (hf : (s.core cid).frozen = false)
  (hc : ((s.core cid).stream k).cmd i = some m) (hst : m.started = true)
include hk hf

theorem commandComplete_xe : exec (.commandComplete cid k i) s = .next (s.xeClock cid k i (s.lateNow cid)) := by
  rw [exec_commandComplete, execCommandComplete]
  exact (if_neg (by rw [hf]; decide)).trans (if_neg hk)

include hc hst

theorem commandComplete_xe_finished (hfin : m.finished = true) :
    exec (.commandComplete cid k i) s
      = .next (s.setCore cid (((s.core cid).landCatch k i s.cycles).endXe s.cycles k i (s.lateNow cid))) := by
  rw [commandComplete_xe hk hf]
  simp only [State.xeClock, hc, hst, hfin, Bool.not_true, Bool.false_eq_true, if_false, if_true]

theorem commandComplete_xe_completes (hfin : m.finished = true) (hp : m.pos ≤ s.cycles) (hl : m.aux.length ≠ 2)
    (hwr : (s.core cid).writesOut k m = true) (hr : (s.core cid).cmdReleased k m = true) (hlate : s.lateNow cid = false) :
    let c := s.core cid
    let t := c.stream k
    Completes (.commandComplete cid k i) s fun u =>
      ((u.core cid).stream k).cmds = ldel (fun y => y.idx == i) t.cmds
        ∧ ∀ sg q, m.ctl.sig = some sg → (c.job t.job).sem sg = some q → c.semCount q + 1 < 2 ^ 32 →
            (u.core cid).semCount q = c.semCount q + 1 := by
  intro c t
  refine ⟨_, commandComplete_xe_finished hk hf hc hst hfin, ?_⟩
  have hcatch : (s.core cid).landCatch k i s.cycles = s.core cid := by
    simp only [Core.landCatch, hc, hl, decide_false, Bool.false_and, Bool.false_eq_true, if_false]
  have hend : (s.core cid).endXe s.cycles k i false = (s.core cid).completeCmd s.cycles k m 0 m.aux.head? false := by
    simp only [Core.endXe, hc, hfin, hp, hwr, hr, decide_true, Bool.and_self, if_true]
  dsimp only
  rw [State.core_setCore_same, hcatch, hlate, hend, Core.completeCmd_stream, ← cmd_idx hc]
  exact ⟨rfl, fun sg q hsg hq hlt => Core.completeCmd_semCount hsg hq hlt s.cycles 0 m.aux.head?⟩

variable (hfin : m.finished = false)
include hfin

/-- What an unfinished command comes to whose work has ended. -/
def Core.finishXe (c : Core) (clk k i : Nat) (status : List Nat) (late : Bool) : Core :=
  (c.updCmd k i fun x => { x with finished := true, pos := clk, aux := status }).endXe clk k i late

theorem commandComplete_transfer {h : Head} {kc : KCtl} {a b : Nat}
    (hi : m.instr = .xcp h kc a b ∨ m.instr = .xcpg h kc a b ∨ m.instr = .xred h kc a b ∨ m.instr = .xkeyEnc h kc a b
      ∨ m.instr = .xkeyDec h kc a b) :
    exec (.commandComplete cid k i) s = .next (
      match (s.core cid).transferClock s.moduleId cid s.cycles k m (s.hostLink cid) with
      | .more c1 => s.setCore cid c1
      | .done c1 => s.setCore cid (if ((c1.stream k).cmd i).isSome then c1.finishXe s.cycles k i [] (s.lateNow cid) else c1)
      | .trap t => s.setCore cid ((s.core cid).cmdTrap s.cycles k m t)) := by
  rw [commandComplete_xe hk hf]
  obtain hi | hi | hi | hi | hi := hi
  all_goals
    cases hw : (s.core cid).transferClock s.moduleId cid s.cycles k m (s.hostLink cid) <;>
      simp only [State.xeClock, hc, hst, hfin, hi, hw, ringKind, Core.finishXe, Bool.not_true, Bool.false_eq_true, if_false,
        bne_self_eq_false]

theorem commandComplete_xstep {h : Head} {kc : KCtl} {a : Nat} (hi : m.instr = .xstep h kc a) (ha : m.aux = []) :
    exec (.commandComplete cid k i) s
      = .next (s.setCore cid ((s.core cid).finishXe s.cycles k i [] (s.lateNow cid))) := by
  rw [commandComplete_xe hk hf]
  simp only [State.xeClock, hc, hst, hfin, hi, ringKind, ha, List.isEmpty_nil, Bool.not_true, Bool.false_eq_true, if_false,
    bne_self_eq_false, if_true]
  rfl

theorem commandComplete_xpln {h : Head} {kc : KCtl} {a d : Nat} (hi : m.instr = .xpln h kc a d)
    (ha : m.aux.length = (m.vals.drop 3).length) :
    exec (.commandComplete cid k i) s
      = .next (s.setCore cid ((s.core cid).finishXe s.cycles k i [planeStatus m.aux] (s.lateNow cid))) := by
  rw [commandComplete_xe hk hf]
  simp only [State.xeClock, hc, hst, hfin, hi, ringKind, ha, Bool.not_true, Bool.false_eq_true, if_false,
    bne_self_eq_false, if_true]
  rfl

end

end Sys2Proof.Machine
end

section
/-!
PROOF. The steps of a nest (R375, R376).
-/

namespace Sys2Proof.Machine

/-! ### Asking for operands leaves the matrix engine's state alone -/

theorem Core.me_of_streams {c d : Core} (h : d.streams = c.streams) : d.me = c.me := by
  unfold Core.me Core.stream
  rw [h]

@[simp] theorem Core.updCmd_me (c : Core) (k i : Nat) (f : Cmd → Cmd) : (c.updCmd k i f).me = c.me := by
  unfold Core.me Core.updCmd
  rw [Core.stream_updStream]
  split
  · next h => rw [← h]
  · rfl

theorem Core.askWalk_streams {c c1 : Core} {e : Eng} {dt page va : Nat} {first : Bool}
    (h : c.askWalk e dt page va first = .wait c1) : c1.streams = c.streams := by
  simp only [Core.askWalk] at h
  split at h
  · split at h
    · split at h
      · cases h; rfl
      · cases h
    · cases h; rfl
  · split at h
    · cases h; rfl
    · split at h
      · cases h; rfl
      · cases h; rfl

theorem Core.askWalk_ne_ok {c c1 : Core} {e : Eng} {dt page va pa : Nat} {first : Bool} :
    c.askWalk e dt page va first ≠ .ok c1 pa := by
  simp only [Core.askWalk]
  repeat' split
  all_goals nofun

theorem Core.sendLine_streams {c c1 : Core} {w : Sender} {kind : PKind} {vc pa mask : Nat} {data : List Byte}
    {purpose : Purpose} (h : c.sendLine w kind vc pa mask data purpose = some c1) : c1.streams = c.streams := by
  simp only [Core.sendLine] at h
  split at h
  · cases h
  · split at h
    · cases h; rfl
    · split at h
      · cases h
      · cases h; rfl

theorem Core.readLine_streams {c c1 : Core} {w : Sender} {vc line : Nat} (h : c.readLine w vc line = .wait c1) :
    c1.streams = c.streams := by
  simp only [Core.readLine] at h
  split at h
  · cases h
  · split at h
    · cases h; rfl
    · split at h
      · cases h; rfl
      · next hs => cases h; exact Core.sendLine_streams hs

theorem Core.look_streams (c : Core) (k va : Nat) : (c.look k va).1.streams = c.streams := by
  unfold Core.look
  split <;> rfl

/-- What an access of a command answers keeps the state of the matrix engine. -/
def CAcc.SameMe (c : Core) : CAcc → Prop
  | .ok c1 _ => c1.me = c.me
  | .wait c1 => c1.me = c.me
  | .trap _ _ => True

theorem Core.cmdAsk_me (c : Core) (w : Sender) (va : Nat) : (c.cmdAsk w va).SameMe c := by
  have hlook := Core.me_of_streams (c.look_streams w.key va)
  unfold Core.cmdAsk
  dsimp only
  split
  · split
    · trivial
    · split
      · rfl
      · split
        · trivial
        · split
          · rfl
          · split
            · exact hlook
            · next hr =>
              have hread := Core.me_of_streams (Core.readLine_streams hr)
              simp only [CAcc.SameMe]
              split
              · exact hread.trans hlook
              · exact hread.trans hlook
  · split
    · trivial
    · next hw => exact absurd hw Core.askWalk_ne_ok
    · next hw =>
      simp only [CAcc.SameMe, Core.cmdNeed, Core.updCmd_me]
      exact (Core.me_of_streams (Core.askWalk_streams hw)).trans hlook

theorem Core.cmdAskAll_me (c : Core) (w : Sender) (ls : List Nat) : (c.cmdAskAll w ls).1.me = c.me := by
  induction ls generalizing c with
  | nil => exact Core.updCmd_me ..
  | cons va r ih =>
    have hask := c.cmdAsk_me w va
    simp only [Core.cmdAskAll]
    split
    · rfl
    · next h => rw [h] at hask; exact (ih _).trans hask
    · next c1 h =>
      rw [h] at hask
      dsimp only
      split
      · exact (ih _).trans hask
      · rw [Core.updCmd_me]
        exact (ih _).trans hask

theorem Core.askReads_me {c c1 : Core} {w : Sender} {rs : List OpRead} (h : c.askReads w rs = .ok c1) : c1.me = c.me := by
  simp only [Core.askReads] at h
  split at h
  · cases h
  · next ls _ =>
    split at h
    · cases h
    · split at h
      · cases h
      · cases h
        exact (Core.cmdAskAll_me ..).trans (Core.updCmd_me ..)

/-! ### What a committed step leaves -/

theorem Core.commitStep_me {c c1 : Core} {clk : Nat} {m : Cmd} {g k : Nat} {n : NStep} (h : c.commitStep clk m g k n = .ok c1) :
    c1.me.ready = clk + c.me.stepClocks
      ∧ c1.me.prog = if k + 1 = ntSteps n.t then progOf (g + 1) 0 (g + 1 == ntStrips n.t) else progOf g (k + 1) false := by
  simp only [Core.commitStep] at h
  split at h
  · cases h
  · split at h
    · cases h
    · cases h
    · cases h
      rw [Core.updCmd_me]
      rw [Core.updMe, Core.me, Core.stream_updStream_same]
      refine ⟨rfl, ?_⟩
      dsimp only
      by_cases hk : k + 1 = ntSteps n.t
      · simp [hk]
      · simp [hk, beq_false_of_ne hk]

theorem Core.nextStep_ok {c c1 : Core} {cid clk : Nat} {m : Cmd} (h : c.nextStep cid clk m = .ok c1) (hr : c.me.ready ≤ clk) :
    ∃ (c3 : Core) (n : NStep), c3.me = c.me ∧ n.t = c.me.active
      ∧ c3.commitStep clk m (progStrip c.me.prog) (progStep c.me.prog) n = .ok c1 := by
  simp only [Core.nextStep] at h
  split at h
  · cases h
  · cases h
  · cases h
  · next ca hca =>
    have hma : ca.me = c.me := by
      split at hca
      · exact Core.askReads_me hca
      · cases hca; rfl
    split at h
    · cases h
    · cases h
    · next idx hidx =>
      split at h
      · next c3 hc3 =>
        have hm3 : c3.me = c.me := by
          refine (Core.askReads_me hc3).trans ?_
          split
          · rw [Core.updCmd_me]; exact hma
          · exact hma
        rw [if_neg (Nat.not_lt.mpr hr)] at h
        exact ⟨c3, _, hm3, rfl, h⟩
      · cases h
      · cases h
      · cases h

/-- A committed step moves the program on by one step, for the clocks of its formats. -/
theorem Core.nextStep_prog {c c1 : Core} {cid clk : Nat} {m : Cmd} (h : c.nextStep cid clk m = .ok c1) (hr : c.me.ready ≤ clk) :
    c1.me.ready = clk + c.me.stepClocks
      ∧ c1.me.prog = if progStep c.me.prog + 1 = ntSteps c.me.active
          then progOf (progStrip c.me.prog + 1) 0 (progStrip c.me.prog + 1 == ntStrips c.me.active)
          else progOf (progStrip c.me.prog) (progStep c.me.prog + 1) false := by
  obtain ⟨c3, n, hme, ht, hc⟩ := Core.nextStep_ok h hr
  have hstep := Core.commitStep_me hc
  rwa [hme, ht] at hstep

section
variable {s : State} {cid : Nat} {m : Cmd} (hf : (s.core cid).frozen = false)
  (hst : ((s.core cid).job ((s.core cid).stream 16).job).st ≠ .saved) (hn : (s.core cid).nest = some m)
include hf hst hn

/-- The next step of a nest of a job that has not been switched out. -/
theorem nestStepCommit_eq : exec (.nestStepCommit cid) s = .next (s.updCore cid fun _ =>
    match (s.core cid).nextStep cid s.cycles m with
    | .ok c1 => c1.readAhead cid s.cycles
    | .wait c1 => c1.readAhead cid s.cycles
    | .trap a st => if (s.core cid).me.ready ≤ s.cycles then (s.core cid).cmdTrap s.cycles 16 m (a, st) else s.core cid
    | .fault n va =>
      if !decide ((s.core cid).me.ready ≤ s.cycles) then s.core cid
      else if haltCause (s.core cid).me n then ((s.core cid).haltNest s.cycles m n va).endMe s.cycles m.idx
      else { s.core cid with rbErr := [] }.cmdTrap s.cycles 16 m (n, addrStatus va)) := by
  rw [exec_nestStepCommit, execNestStepCommit]
  dsimp only
  rw [if_neg (by simp [hf, beq_false_of_ne hst]), if_neg hst]
  cases hr : (s.core cid).nextStep cid s.cycles m <;> simp only [State.updCore, Core.nestClock, hn, hr]

theorem nestStepCommit_fault {x va : Nat} (hx : (s.core cid).nextStep cid s.cycles m = .fault x va)
    (hr : (s.core cid).me.ready ≤ s.cycles) :
    ((s.core cid).me.halt = true → (x = 0x09 ∨ x = 0x12) → exec (.nestStepCommit cid) s = .next (s.updCore cid fun _ =>
        ((({ s.core cid with rbErr := [] }.updMe fun e => { e with
          prog := haltSet e.prog, faultaddr := x * 2 ^ 56 + va % 2 ^ 48 }).updCmd 16 m.idx fun y => { y with
            finished := true, pos := s.cycles }).endMe s.cycles m.idx)))
      ∧ (¬((s.core cid).me.halt = true ∧ (x = 0x09 ∨ x = 0x12)) → exec (.nestStepCommit cid) s = .next (s.updCore cid fun _ =>
          { s.core cid with rbErr := [] }.cmdTrap s.cycles 16 m (x, addrStatus va))) := by
  have hcause : haltCause (s.core cid).me x = true ↔ (s.core cid).me.halt = true ∧ (x = 0x09 ∨ x = 0x12) := by
    simp only [haltCause, Bool.and_eq_true, Bool.or_eq_true, beq_iff_eq]
  rw [nestStepCommit_eq hf hst hn, hx]
  simp only [hr, decide_true, Bool.not_true, Bool.false_eq_true, if_false]
  exact ⟨fun hh hc => by rw [if_pos (hcause.mpr ⟨hh, hc⟩)]; rfl, fun hh => by rw [if_neg (mt hcause.mp hh)]⟩

end

end Sys2Proof.Machine
end

section
/-!
PROOF. Flushes (R263): reading a canonical map after one pass of writes at consecutive keys, and the accumulator after a group.
-/

namespace Sys2Proof.Machine

/-! ### Reading and writing a map in one pass -/

section
variable {α : Type}

theorem mlook_append (x y : SMap α) (k : Nat) : mlook k (x ++ y) = (mlook k x).or (mlook k y) := by
  induction x with
  | nil => rfl
  | cons e r ih =>
    obtain ⟨a, v⟩ := e
    by_cases h : a = k
    · simp [mlook, h]
    · simpa [mlook, h] using ih

theorem mlook_eq_none {x : SMap α} {k : Nat} (h : ∀ e ∈ x, e.1 ≠ k) : mlook k x = none := by
  induction x with
  | nil => rfl
  | cons e r ih =>
    obtain ⟨a, v⟩ := e
    have ha : a ≠ k := h (a, v) List.mem_cons_self
    simpa [mlook, ha] using ih fun e he => h e (List.mem_cons_of_mem _ he)

theorem mlook_eq_none_of_mabove {x : SMap α} {b k : Nat} (h : mabove b x = true) (hk : k ≤ b) : mlook k x = none :=
  mlook_eq_none fun e he => Nat.ne_of_gt (Nat.lt_of_le_of_lt hk ((mabove_of_mem b x).mp h e he))

theorem mget_append_right {x : SMap α} {k b : Nat} (h : ∀ e ∈ x, e.1 < b) (hk : b ≤ k) (d : α) (y : SMap α) :
    mget d (x ++ y) k = mget d y k := by
  rw [mget, mlook_append, mlook_eq_none fun e he => Nat.ne_of_lt (Nat.lt_of_lt_of_le (h e he) hk)]
  rfl

theorem mget_append_left {y : SMap α} {k b : Nat} (h : mabove b y = true) (hk : k ≤ b) (d : α) (x : SMap α) :
    mget d (x ++ y) k = mget d x k := by
  rw [mget, mlook_append, mlook_eq_none_of_mabove h hk, Option.or_none]
  rfl

theorem rising_tail {u : Nat × α} {us : List (Nat × α)} (h : rising (u :: us) = true) : rising us = true := by
  cases us with
  | nil => rfl
  | cons u2 r =>
    simp only [rising, Bool.and_eq_true] at h
    exact h.2

theorem mabove_of_rising {u : Nat × α} {us : List (Nat × α)} (h : rising (u :: us) = true) : mabove u.1 us = true := by
  induction us generalizing u with
  | nil => rfl
  | cons u2 r ih =>
    obtain ⟨k2, v2⟩ := u2
    have hlt : u.1 < k2 := by
      simp only [rising, Bool.and_eq_true, decide_eq_true_eq] at h
      exact h.1
    simp only [mabove, hlt, decide_true, Bool.true_and]
    exact mabove_trans (Nat.le_of_lt hlt) r (ih (rising_tail h))

theorem mwf_tail [DecidableEq α] {d : α} {e : Nat × α} {m : SMap α} (h : mwf d (e :: m) = true) :
    mabove e.1 m = true ∧ mwf d m = true := by
  simp only [mwf, Bool.and_eq_true] at h
  exact ⟨h.1.2, h.2⟩

/-- What a canonical map's upper part holds above its first key k, and that taking out k leaves it. -/
theorem mskip_above [DecidableEq α] {d : α} {k : Nat} {m : SMap α} (hm : mwf d m = true) (hk : ∀ e ∈ m.head?, k ≤ e.1) :
    mwf d (mskip k m) = true ∧ mabove k (mskip k m) = true ∧ ∀ j, k < j → mget d (mskip k m) j = mget d m j := by
  cases m with
  | nil => exact ⟨rfl, rfl, fun _ _ => rfl⟩
  | cons e r =>
    obtain ⟨a, w⟩ := e
    obtain ⟨ha, hr⟩ := mwf_tail hm
    by_cases hak : a = k
    · subst hak
      simp only [mskip, if_true]
      exact ⟨hr, ha, fun j hj => by simp [mget, mlook, Nat.ne_of_lt hj]⟩
    · have hlt : k < a := Nat.lt_of_le_of_ne (hk (a, w) rfl) (Ne.symm hak)
      have hskip : mskip k ((a, w) :: r) = (a, w) :: r := if_neg hak
      rw [hskip]
      exact ⟨hm, by simp [mabove, hlt, mabove_trans (Nat.le_of_lt hlt) r ha], fun _ _ => rfl⟩

/-- A canonical map after one pass of writes. -/
theorem mget_mwrites [DecidableEq α] {d : α} {us : List (Nat × α)} {m : SMap α} (hu : rising us = true) (hm : mwf d m = true)
    (j : Nat) : mget d (mwrites d us m) j = (mlook j us).getD (mget d m j) := by
  induction us generalizing m with
  | nil => rfl
  | cons u r ih =>
    obtain ⟨k, v⟩ := u
    obtain ⟨hsplit, _, hhi, hlo, hfirst⟩ := mspan_spec d k m hm
    obtain ⟨hwf, hab, hsame⟩ := mskip_above hhi hfirst
    have hr := rising_tail hu
    have hkr : mabove k (mwrites d r (mskip k (mspan k m).2)) = true :=
      (mwrites_spec d r _ hr hwf).2 k hab fun u hu' => (mabove_of_mem k r).mp (mabove_of_rising hu) u (List.mem_of_mem_head? hu')
    have hrest := ih hr hwf
    rw [mwrites]
    dsimp only
    generalize mwrites d r (mskip k (mspan k m).2) = rest at hkr hrest
    rcases Nat.lt_trichotomy j k with hj | rfl | hj
    · have hup : mlook j (mspan k m).2 = none := by
        cases h : (mspan k m).2 with
        | nil => rfl
        | cons e q =>
          rw [h] at hhi hfirst
          have he := hfirst e rfl
          refine mlook_eq_none fun x hx => ?_
          rcases List.mem_cons.mp hx with rfl | hx
          · omega
          · have := (mabove_of_mem _ q).mp (mwf_tail hhi).1 x hx
            omega
      have hus : mlook j ((k, v) :: r) = none :=
        mlook_eq_none_of_mabove (b := k - 1) (by simp [mabove, Nat.zero_lt_of_lt hj,
          mabove_trans (Nat.sub_le k 1) r (mabove_of_rising hu)]) (by omega)
      have hm' : mget d m j = (mlook j (mspan k m).1).getD d := by
        conv_lhs => rw [hsplit]
        rw [mget, mlook_append, hup, Option.or_none]
      have hnew : mlook j (if v = d then rest else (k, v) :: rest) = none := by
        have h0 := mlook_eq_none_of_mabove hkr (Nat.le_of_lt hj)
        split
        · exact h0
        · simp [mlook, Nat.ne_of_gt hj, h0]
      rw [hus, hm', mget, mlook_append, hnew, Option.or_none]
      rfl
    · rw [mget_append_right hlo (Nat.le_refl j)]
      split
      · rename_i hv
        rw [mget, mlook_eq_none_of_mabove hkr (Nat.le_refl j)]
        simp [mlook, hv]
      · simp [mget, mlook]
    · have hlow : mget d m j = mget d (mspan k m).2 j := by
        conv_lhs => rw [hsplit]
        exact mget_append_right hlo (Nat.le_of_lt hj) d _
      have hlook : mlook j ((k, v) :: r) = mlook j r := by simp [mlook, Nat.ne_of_lt hj]
      have hmid : mget d (if v = d then rest else (k, v) :: rest) j = mget d rest j := by
        split
        · rfl
        · simp [mget, mlook, Nat.ne_of_lt hj]
      rw [mget_append_right hlo (Nat.le_of_lt hj), hmid, hrest, hsame j hj, hlook, hlow]

/-- What a canonical map reads as at consecutive keys, in one pass. -/
theorem mreads_range' [DecidableEq α] {d : α} {m : SMap α} (hm : mwf d m = true) (k n : Nat) :
    mreads d (List.range' k n) m = (List.range' k n).map (mget d m) := by
  induction n generalizing k m with
  | zero => rfl
  | succ n ih =>
    have hsplit := (List.takeWhile_append_dropWhile (p := fun e : Nat × α => decide (e.1 < k)) (l := m)).symm
    have hlow : ∀ e ∈ m.takeWhile fun e => decide (e.1 < k), e.1 < k := fun e he =>
      of_decide_eq_true (List.mem_takeWhile_imp (p := fun e : Nat × α => decide (e.1 < k)) he)
    have hsame : ∀ j, k ≤ j → mget d (m.dropWhile fun e => decide (e.1 < k)) j = mget d m j := fun j hj => by
      conv_rhs => rw [hsplit]
      exact (mget_append_right hlow hj d _).symm
    have hwf : mwf d (m.dropWhile fun e => decide (e.1 < k)) = true := by
      have h : ∀ m : SMap α, mwf d m = true → mwf d (m.dropWhile fun e => decide (e.1 < k)) = true := by
        intro m hm
        induction m with
        | nil => rfl
        | cons e r ih =>
          rw [List.dropWhile_cons]
          split
          · exact ih (mwf_tail hm).2
          · exact hm
      exact h m hm
    have hhead := List.head?_dropWhile_not (fun e : Nat × α => decide (e.1 < k)) m
    simp only [List.range'_succ, mreads, List.map_cons]
    congr 1
    · rw [← hsame k (Nat.le_refl k)]
      generalize m.dropWhile (fun e => decide (e.1 < k)) = r at hwf hhead
      cases r with
      | nil => rfl
      | cons e q =>
        obtain ⟨a, v⟩ := e
        simp only [List.head?_cons, decide_eq_false_iff_not, Nat.not_lt] at hhead
        dsimp only
        by_cases ha : a = k
        · simp [mget, mlook, ha]
        · have hq := mlook_eq_none_of_mabove (mwf_tail hwf).1 hhead
          simp [mget, mlook, ha, hq]
    · rw [ih hwf]
      refine List.map_congr_left fun j hj => hsame j ?_
      have := (List.mem_range'_1.mp hj).1
      omega

theorem rising_zip_range' (k n : Nat) (vs : List α) : rising ((List.range' k n).zip vs) = true := by
  induction n generalizing k vs with
  | zero => rfl
  | succ n ih =>
    cases vs with
    | nil => rfl
    | cons v vs =>
      have h := ih (k + 1) vs
      cases n with
      | zero => rfl
      | succ n =>
        cases vs with
        | nil => rfl
        | cons v2 vs =>
          simp only [List.range'_succ, List.zip_cons_cons, rising, Bool.and_eq_true, decide_eq_true_eq] at h ⊢
          exact ⟨Nat.lt_succ_self k, h⟩

theorem mlook_zip_range' (k n i : Nat) (vs : List α) (hi : i < n) : mlook (k + i) ((List.range' k n).zip vs) = vs[i]? := by
  induction n generalizing k i vs with
  | zero => omega
  | succ n ih =>
    cases vs with
    | nil => rfl
    | cons v vs =>
      cases i with
      | zero => simp [List.range'_succ, mlook]
      | succ i =>
        have h := ih (k + 1) i vs (by omega)
        rw [Nat.add_assoc, Nat.add_comm 1 i] at h
        simpa [List.range'_succ, mlook] using h

end

/-! ### Ranked writes while nothing else has written in the clock -/

theorem rankWrites_nil {α : Type} (rank : Nat) (us : List (Nat × α)) (olds : List α) (h : olds.length = us.length) :
    (rankWrites rank [] us olds).1 = us :=
  List.map_fst_zip (Nat.le_of_eq h.symm)

/-! ### The accumulator after a group of a flush -/

theorem Core.pushEnd_acc (c : Core) (k rem : Nat) (p : Option Nat) : (c.pushEnd k rem p).acc = c.acc := by
  cases p <;> rfl

theorem Core.workEnds_acc (c : Core) (k : Nat) : (c.workEnds k).acc = c.acc := rfl

theorem Core.flushGroup_acc (c : Core) (clk : Nat) (f : Flush) :
    let ks := (List.range 128).map fun i => 1024 * f.row + 128 * f.group + i
    let out := List.zipWith (flushSlot f.add) (c.accReadAll ks) ((f.vals.drop (128 * f.group)).take 128)
    (c.flushGroup clk f).acc = (c.accWriteAll 3 (ks.zip (out.map Prod.fst))).acc := by
  unfold Core.flushGroup
  dsimp only
  split
  · rfl
  · rw [Core.pushEnd_acc]
    rfl

/-- Slots written at once while no other unit has written the store in the clock. -/
theorem Core.acc_accWriteAll_range' {c : Core} (hm : mwf 0 c.acc = true) (hp : c.prevAcc = []) (rank k n i : Nat)
    (vs : List Nat) (hn : vs.length = n) (hi : i < n) :
    mget 0 (c.accWriteAll rank ((List.range' k n).zip vs)).acc (k + i) = vs.getD i 0 := by
  have hlen : (List.range' k n).length ≤ vs.length := by rw [List.length_range', hn]
  have hfst : ((List.range' k n).zip vs).map Prod.fst = List.range' k n := List.map_fst_zip hlen
  have holds : (mreads 0 (List.range' k n) c.acc).length = ((List.range' k n).zip vs).length := by
    rw [mreads_range' hm, List.length_map, List.length_zip, List.length_range', hn, Nat.min_self]
  unfold Core.accWriteAll
  dsimp only
  rw [hp, hfst, rankWrites_nil _ _ _ holds, mbulk, if_pos (rising_zip_range' ..), mget_mwrites (rising_zip_range' ..) hm,
    mlook_zip_range' _ _ _ _ hi, List.getElem?_eq_getElem (hn ▸ hi), List.getD_eq_getElem _ _ (hn ▸ hi)]
  rfl

theorem Core.flushGroup_slot {c : Core} {f : Flush} (hm : mwf 0 c.acc = true) (hp : c.prevAcc = []) (hv : f.vals.length = 1024)
    (hg : f.group < 8) (clk : Nat) {i : Nat} (hi : i < 128) :
    mget 0 (c.flushGroup clk f).acc (1024 * f.row + 128 * f.group + i)
      = (flushSlot f.add (mget 0 c.acc (1024 * f.row + 128 * f.group + i)) (f.vals.getD (128 * f.group + i) (0, false))).1 := by
  rw [Core.flushGroup_acc]
  have hks : ((List.range 128).map fun i => 1024 * f.row + 128 * f.group + i)
      = List.range' (1024 * f.row + 128 * f.group) 128 := (List.range'_eq_map_range).symm
  have hread : c.accReadAll (List.range' (1024 * f.row + 128 * f.group) 128)
      = (List.range' (1024 * f.row + 128 * f.group) 128).map (mget 0 c.acc) := by
    rw [Core.accReadAll, hp]
    exact mreads_range' hm _ _
  rw [hks, hread]
  generalize 1024 * f.row + 128 * f.group = b
  have hlen : ((f.vals.drop (128 * f.group)).take 128).length = 128 := by
    rw [List.length_take, List.length_drop, hv]
    omega
  have hout : (List.zipWith (flushSlot f.add) ((List.range' b 128).map (mget 0 c.acc))
      ((f.vals.drop (128 * f.group)).take 128)).length = 128 := by
    rw [List.length_zipWith, List.length_map, List.length_range', hlen]
    rfl
  rw [Core.acc_accWriteAll_range' hm hp 3 b 128 i _ (by rw [List.length_map, hout]) hi,
    List.getD_eq_getElem _ _ (by rw [List.length_map, hout]; exact hi)]
  have hlt : 128 * f.group + i < f.vals.length := by omega
  rw [List.getElem_map, List.getElem_zipWith, List.getElem_map, List.getElem_range', List.getElem_take, List.getElem_drop,
    List.getD_eq_getElem _ _ hlt, Nat.one_mul]

end Sys2Proof.Machine
end

section
/-!
PROOF. The clocks of flushes, segments, fills and exchange steps (R263, R224, R267, R270, R315), and O48.
-/

namespace Sys2Proof.Machine

/-! ### A flush and a segment -/

theorem flushGroupWrite_eq {s : State} {cid : Nat} {f : Flush} (hf : (s.core cid).frozen = false)
    (hd : ((s.core cid).flushes.find? fun f => f.clk + f.group < s.cycles) = some f) :
    exec (.flushGroupWrite cid) s = .next (s.setCore cid ((s.core cid).flushGroup s.cycles f)) := by
  rw [exec_flushGroupWrite, execFlushGroupWrite]
  simp only [hf, Bool.false_eq_true, if_false, hd]

section
variable {s : State} {cid k : Nat} {pop : Option Nat} {old : Seg} {m slots : SMap Nat} {c1 : Core}
  (hw : ((s.core cid).stream k).wait = .wseg pop old m slots) (hf : (s.core cid).frozen = false)
  (hl : ((s.core cid).stream k).st = .live)
include hw hf hl

theorem wsegReadsComplete_waits (hr : (s.core cid).readRoots ((s.core cid).sender cid k s.cycles)
      (rootAddrs ((s.core cid).job ((s.core cid).stream k).job).itBase slots) = (c1, none)) :
    exec (.wsegReadsComplete cid k) s = .next (s.setCore cid c1) := by
  rw [exec_wsegReadsComplete, execWsegReadsComplete]
  simp only [hw, hf, hl, hr, bne_self_eq_false, Bool.or_self, Bool.false_eq_true, if_false]

variable {vals : List (Nat × Nat)} (hr : (s.core cid).readRoots ((s.core cid).sender cid k s.cycles)
  (rootAddrs ((s.core cid).job ((s.core cid).stream k).job).itBase slots) = (c1, some vals))
include hr

theorem wsegReadsComplete_ends (hz : ∀ a ∈ rootAddrs ((s.core cid).job ((s.core cid).stream k).job).itBase slots,
      rootRead vals a ≠ 0) :
    exec (.wsegReadsComplete cid k) s = .next (s.setCore cid (((c1.updStream k fun t => { t with
      rootT := rootRead vals ((s.core cid).job ((s.core cid).stream k).job).itBase
      we := t.we.newSegment m slots vals }).endWait k 1).hookEnds k)) := by
  have hfind : ((rootAddrs ((s.core cid).job ((s.core cid).stream k).job).itBase slots).find? fun a => rootRead vals a == 0)
      = none := List.find?_eq_none.mpr fun a ha h0 => hz a ha (beq_iff_eq.mp h0)
  rw [exec_wsegReadsComplete, execWsegReadsComplete]
  simp only [hw, hf, hl, hr, hfind, bne_self_eq_false, Bool.or_self, Bool.false_eq_true, if_false]

theorem wsegReadsComplete_traps {a : Nat} (hz : ((rootAddrs ((s.core cid).job ((s.core cid).stream k).job).itBase slots).find?
      fun a => rootRead vals a == 0) = some a) :
    exec (.wsegReadsComplete cid k) s = .next (s.setCore cid ((c1.undoWseg k).takeTrap s.cycles k 0x0B (addrStatus a))) := by
  rw [exec_wsegReadsComplete, execWsegReadsComplete]
  simp only [hw, hf, hl, hr, hz, bne_self_eq_false, Bool.or_self, Bool.false_eq_true, if_false]

end

/-! ### A fill -/

theorem Core.lane_laneWrite {c : Core} (hp : c.prevLane = []) (rank : Nat) (us : List (Nat × Byte)) :
    (c.laneWrite rank us).lane = mbulk Memory.blank us c.lane := by
  unfold Core.laneWrite
  dsimp only
  rw [hp, rankWrites_nil _ _ _ (List.length_map ..)]

section
variable {s : State} {cid : Nat} {f : Fill} {r : List Fill} (hc : (s.core cid).fills = f :: r)
  (hf : (s.core cid).frozen = false)
include hc hf

theorem llsStart_eq : exec (.llsStart cid) s
    = .next (s.setCore cid { s.core cid with fills := { f with started := true } :: r }) := by
  rw [exec_llsStart, execLlsStart]
  simp only [hc, hf, Bool.false_eq_true, if_false]

variable (hs : f.started = true) (hj : ((s.core cid).job ((s.core cid).stream f.key).job).startClk ≤ s.cycles)
include hs hj

theorem llsGroupWrite_more (hg : f.group + 1 < (geoOf f.geo).nc / 16 * ((geoOf f.geo).nl / 16)) :
    exec (.llsGroupWrite cid) s = .next (s.setCore cid
      { (s.core cid).laneWrite 1 ((s.core cid).fillGroup f) with fills := { f with group := f.group + 1 } :: r }) := by
  rw [exec_llsGroupWrite, execLlsGroupWrite]
  simp only [hc, hf, hs, Nat.not_lt.mpr hj, hg, Bool.not_true, decide_false, Bool.or_self, Bool.false_eq_true, if_false, if_true]
  rfl

theorem llsGroupWrite_ends (hg : (geoOf f.geo).nc / 16 * ((geoOf f.geo).nl / 16) ≤ f.group + 1) :
    exec (.llsGroupWrite cid) s = .next (s.setCore cid
      (((({ (s.core cid).laneWrite 1 ((s.core cid).fillGroup f) with fills := r } : Core).updStream f.key fun t =>
        { t with landClk := s.cycles + 1 }).workEnds f.key).pushEnd f.key 3 f.partner)) := by
  rw [exec_llsGroupWrite, execLlsGroupWrite]
  simp only [hc, hf, hs, Nat.not_lt.mpr hj, Nat.not_lt.mpr hg, Bool.not_true, decide_false, Bool.or_self, Bool.false_eq_true,
    if_false]
  rfl

end

/-! ### An exchange step -/

/-- What a packet to another scratchpad says: its kind, where it goes and what it carries. -/
def Packet.view (p : Packet) : PKind × Nat × Nat × Nat × List Byte := (p.kind, p.dest, p.djslot, p.addr, p.data)

/-- Sends the packet of slot e. -/
def Core.sendSlot (cid clk k : Nat) (m : Cmd) (c : Core) (e : Nat) : Core :=
  c.post (c.cmdSender cid k clk m) { c.slotPacket (e / 2 ^ 6) with tag := c.nextQ % 8 } (.write k) (dieOf (slDest (e / 2 ^ 6))) none none

theorem Core.stepClock_eq (c : Core) (cid clk k : Nat) (m : Cmd) :
    c.stepClock cid clk k m
      = ((m.aux.filter (slotOpen clk m.at_)).foldl (Core.sendSlot cid clk k m) c).updCmd k m.idx
          fun x => { x with aux := m.aux.filter fun e => !slotOpen clk m.at_ e } := rfl

theorem Core.spadRead_congr {c c' : Core} (h : c'.spad = c.spad) (hp : c'.prev = c.prev) (a n : Nat) :
    c'.spadRead a n = c.spadRead a n := by
  unfold Core.spadRead Core.spadByte
  rw [h, hp]

/-- Slots that leave put their packets behind those of the port, and change no stream. -/
theorem Core.foldl_sendSlot (cid clk k : Nat) (m : Cmd) (es : List Nat) (c : Core) :
    (es.foldl (Core.sendSlot cid clk k m) c).streams = c.streams
      ∧ (es.foldl (Core.sendSlot cid clk k m) c).port.map Packet.view
          = c.port.map Packet.view ++ es.map fun e => (c.slotPacket (e / 2 ^ 6)).view := by
  suffices h : ∀ (es : List Nat) (x : Core), x.spad = c.spad → x.prev = c.prev →
      (es.foldl (Core.sendSlot cid clk k m) x).streams = x.streams
        ∧ (es.foldl (Core.sendSlot cid clk k m) x).port.map Packet.view
            = x.port.map Packet.view ++ es.map fun e => (c.slotPacket (e / 2 ^ 6)).view from h es c rfl rfl
  intro es
  induction es with
  | nil => intro x _ _; exact ⟨rfl, (List.append_nil _).symm⟩
  | cons e es ih =>
    intro x hs hp
    obtain ⟨h1, h2⟩ := ih (Core.sendSlot cid clk k m x e) hs hp
    have hpkt : (Core.sendSlot cid clk k m x e).port.map Packet.view = x.port.map Packet.view ++ [(c.slotPacket (e / 2 ^ 6)).view] := by
      rw [Core.sendSlot, Core.post, List.map_append]
      simp only [List.map_cons, List.map_nil, Packet.view, Core.slotPacket]
      rw [Core.spadRead_congr hs hp]
    exact ⟨h1, by rw [List.foldl_cons, h2, hpkt, List.map_cons, List.append_assoc]; rfl⟩

theorem slotWindowSend_completes {s : State} {cid k : Nat} {m : Cmd} {g : Head} {kc : KCtl} {a : Nat}
    (hf : (s.core cid).frozen = false) (hc : ((s.core cid).stream k).cmds = [m]) (hst : m.started = true)
    (hi : m.instr = .xstep g kc a) :
    Completes (.slotWindowSend cid k) s fun t =>
      ((t.core cid).stream k).cmds = [{ m with aux := m.aux.filter fun e => !slotOpen s.cycles m.at_ e }]
        ∧ (t.core cid).port.map Packet.view = (s.core cid).port.map Packet.view
            ++ (m.aux.filter (slotOpen s.cycles m.at_)).map fun e => ((s.core cid).slotPacket (e / 2 ^ 6)).view := by
  have hexec : exec (.slotWindowSend cid k) s = .next (s.updCore cid fun x => x.stepClock cid s.cycles k m) := by
    rw [exec_slotWindowSend, execSlotWindowSend]
    simp only [hf, Bool.false_eq_true, if_false, State.updCore, hc, List.filter_cons, hst, hi, Bool.and_self, if_true,
      List.filter_nil, List.foldl_cons, List.foldl_nil]
  refine ⟨_, hexec, ?_⟩
  obtain ⟨hstr, hport⟩ := Core.foldl_sendSlot cid s.cycles k m
    (m.aux.filter (slotOpen s.cycles m.at_)) (s.core cid)
  rw [State.updCore, State.core_setCore_same, Core.stepClock_eq]
  refine ⟨?_, hport⟩
  rw [Core.updCmd, Core.stream_updStream_same]
  simp only [Core.stream, hstr]
  simp only [Core.stream] at hc
  rw [hc]
  simp only [lupd, beq_self_eq_true, if_true]

/-! ### O48 -/

/-- Settles O48. -/
theorem engineEvents : Obligations.EngineEvents := by
  refine ⟨fun s cid m r hf hs hc hst hr => ⟨commandStart_me_waits hf hs hc, fun hw => ⟨commandStart_me_halted hf hs hc hst hr hw,
      fun hh => ?_⟩⟩,
    fun s cid k m hk hf hs ha => ⟨commandStart_xe_waits hk hf hs ha, fun hw => ⟨fun e he => commandStart_xe_error hk hf hs ha hw he,
      fun c1 hb hx => commandStart_xe_ok hk hf hs ha hw hb hx, fun hc hfin => ?_⟩⟩,
    fun s cid i m hf hc hst => ⟨commandComplete_me_completes hf hc hst, fun hfin hn => ?_⟩,
    fun s cid k i m hk hf hc hst => ⟨commandComplete_xe_completes hk hf hc hst, commandComplete_xe_finished hk hf hc hst,
      fun hfin => ⟨?_, ?_, ?_⟩⟩,
    fun s cid m hf hst hn => ⟨?_, ?_, ?_, ?_⟩,
    fun s cid f hf hd => ⟨flushGroupWrite_eq hf hd, fun hm hp hv hg i hi => Core.flushGroup_slot hm hp hv hg s.cycles hi⟩,
    fun s cid k pop old m slots c1 hw hf hl => ⟨wsegReadsComplete_waits hw hf hl, fun vals hr =>
      ⟨wsegReadsComplete_ends hw hf hl hr, fun a => wsegReadsComplete_traps hw hf hl hr⟩⟩,
    fun s cid f r hc hf => ⟨llsStart_eq hc hf, fun hs hj => ⟨fun hp => Core.lane_laneWrite hp 1 _, llsGroupWrite_more hc hf hs hj,
      llsGroupWrite_ends hc hf hs hj⟩⟩,
    fun s cid k m g kc a hf hc hst hi => slotWindowSend_completes hf hc hst hi⟩
  · have hb := fun {c2} => commandStart_me_ok (c2 := c2) hf hs hc hst hr hw hh
    refine ⟨fun e he => commandStart_me_error hf hs hc hst hr hw hh he, fun c2 he => hb he, fun h k d f hi => hb ?_,
      fun h k d hi hd => hb ?_⟩
    · simp only [Core.meBegin, hi]
      rfl
    · simp only [Core.meBegin, hi, hd, if_true]
      rfl
  · exact ⟨fun h kc a b hi => xexp_starts hk hf hs ha hw hc hfin hi,
      fun h kc a d hi => ring_starts hk hf hs ha hw hc hfin (.inl hi),
      fun h kc a d hi => ring_starts hk hf hs ha hw hc hfin (.inr (.inl hi)),
      fun h kc a d hi => ring_starts hk hf hs ha hw hc hfin (.inr (.inr hi)),
      fun h kc a d hi => by
        rw [State.core_setCore_same]
        exact tile_starts hk hf hs ha hw hc hfin hi⟩
  · have he := commandComplete_me hf hc hst
    rw [hfin, hn] at he
    exact ⟨fun c1 h1 => by rw [h1] at he; exact he, fun e h1 => by rw [h1] at he; exact he,
      fun c1 h1 => by rw [h1] at he; exact he⟩
  · rintro ⟨h, kc, a, b, hi⟩
    have he := commandComplete_transfer hk hf hc hst hfin hi
    refine ⟨fun c1 h1 => by rw [h1] at he; exact he, fun c1 h1 => ⟨fun hs => ?_, fun hs => ?_⟩⟩
    · rw [h1] at he
      exact he.trans (congrArg (fun x => Host.Outcome.next (s.setCore cid x)) (if_neg (by rw [hs]; exact Bool.false_ne_true)))
    · rw [h1] at he
      exact he.trans (congrArg (fun x => Host.Outcome.next (s.setCore cid x)) (if_pos hs))
  · rintro ⟨h, kc, a, hi⟩ ha
    exact commandComplete_xstep hk hf hc hst hfin hi ha
  · intro h kc a d hi ha
    exact commandComplete_xpln hk hf hc hst hfin hi ha
  · intro c1 h1
    have he := nestStepCommit_eq hf hst hn
    rw [h1] at he
    exact ⟨he, Core.nextStep_prog h1⟩
  · intro c1 h1
    have he := nestStepCommit_eq hf hst hn
    rw [h1] at he
    exact he
  · intro x st h1
    have he := nestStepCommit_eq hf hst hn
    rw [h1] at he
    exact he
  · exact fun x va h1 hr => nestStepCommit_fault hf hst hn h1 hr

end Sys2Proof.Machine
end

section
/-!
PROOF. O49: the port, the outbound buffer, routers, links and requests that time out (R52, R53, R65, R351 to R353, R361, R365).
-/

namespace Sys2Proof.Machine

/-! ### The port and the outbound buffer -/

theorem portAccept_eq {s : State} {cid : Nat} (hf : (s.core cid).frozen = false) :
    exec (.portAccept cid) s = .next (s.setCore cid
      (((s.core cid).codeWant.flatMap fun l => (List.range 4).map (4 * l + ·)).foldl (fun x p => x.codePart cid s.cycles p)
        ((s.core cid).pref.foldl (fun x l => x.prefOne cid s.cycles l)
          { ({ s.core cid with db := [] } : Core).acceptDb s.cycles [] (s.core cid).db with pref := [] }))) := by
  rw [exec_portAccept, execPortAccept]
  exact if_neg (by rw [hf]; exact Bool.false_ne_true)

theorem outboundStamp_runs {s : State} {cid : Nat} (hf : (s.core cid).frozen = false) :
    exec (.outboundStamp cid) s = .next ((s.core cid).port.foldl (fun s p => s.stamp (dieOf cid) cid 5 p)
      (s.setCore cid { s.core cid with port := [] })) := by
  have hall : (s.core cid).port.filter (fun p => !(s.core cid).frozen || p.wick) = (s.core cid).port :=
    List.filter_eq_self.mpr fun p _ => by rw [hf]; rfl
  have hnone : (s.core cid).port.filter (fun p => !(!(s.core cid).frozen || p.wick)) = [] :=
    List.filter_eq_nil_iff.mpr fun p _ => by rw [hf]; exact Bool.false_ne_true
  rw [exec_outboundStamp, execOutboundStamp]
  dsimp only
  rw [hall, hnone]

theorem outboundStamp_frozen {s : State} {cid : Nat} (hf : (s.core cid).frozen = true) :
    exec (.outboundStamp cid) s = .next (((s.core cid).port.filter fun p => p.wick).foldl
      (fun s p => s.stamp (dieOf cid) cid 5 p)
      (s.setCore cid { s.core cid with port := (s.core cid).port.filter fun p => !p.wick })) := by
  rw [exec_outboundStamp, execOutboundStamp]
  simp only [hf, Bool.not_true, Bool.false_or]

theorem requestTimeout_eq {s : State} {cid i : Nat} {r : Req}
    (hr : ((s.core cid).reqs.find? fun r => r.rid == i) = some r) (hp : r.purpose ≠ .late) (hc : r.clk + 2 ^ 20 ≤ s.cycles)
    (hf : (s.core cid).frozen = false ∨ r.key = 24) :
    exec (.requestTimeout cid i) s = .next (s.setCore cid ((({ s.core cid with
      reqs := (s.core cid).reqs.map fun x => if x.rid = i then { x with purpose := .late } else x } : Core).giveUp r).chargeReq
        s.cycles r 0x13 r.lostStatus)) := by
  have hwait : ((s.core cid).frozen && r.key != 24) = false := by
    obtain hf | hk := hf
    · rw [hf, Bool.false_and]
    · rw [hk, bne_self_eq_false, Bool.and_false]
  rw [exec_requestTimeout, execRequestTimeout]
  simp only [hr, hp, Nat.not_lt.mpr hc, hwait, decide_false, Bool.or_self, Bool.false_eq_true, if_false]

/-! ### Routers -/

/-- Marks that a fold puts into a map. -/
theorem mget_foldl_mark (p : Nat → Prop) [DecidablePred p] (ks : List Nat) (m : SMap Bool) (j : Nat) :
    mget false (ks.foldl (fun m k => if p k then mput false k true m else m) m) j
      = (decide (j ∈ ks ∧ p j) || mget false m j) := by
  induction ks generalizing m with
  | nil => simp
  | cons k ks ih =>
    rw [List.foldl_cons, ih]
    by_cases hp : p k
    · rw [if_pos hp, mget_mput]
      by_cases hj : j = k
      · subst hj
        simp [hp]
      · simp [hj]
    · rw [if_neg hp]
      by_cases hj : j = k
      · subst hj
        simp [hp]
      · simp [hj]

theorem State.router_setRouter_same (s : State) (r : Nat) (v : Router) : (s.setRouter r v).router r = v :=
  mget_mput_same ..

theorem routerPromotion_promotes {s : State} {r k : Nat} (hk : k < 24) (hw : 256 ≤ mget 0 (s.router r).waited k) :
    Completes (.routerPromotion r) s fun t => mget false (t.router r).promoted k = true := by
  refine ⟨_, exec_routerPromotion r s, ?_⟩
  dsimp only [State.promoteHeads]
  rw [State.router_setRouter_same]
  dsimp only
  rw [mget_foldl_mark, Bool.or_eq_true, decide_eq_true_eq]
  exact .inl ⟨List.mem_range.mpr hk, hw⟩

section
variable {s : State} {r out : Nat}

/-- An output kept by a promoted packet forwards that packet's next flit. -/
theorem State.forwardN_held {k : Nat} (hh : mget none (s.router r).hold out = some k)
    (hr : s.flitReady r out (k / 4) (k % 4) = true) (n : Nat) :
    s.forwardN r out (n + 1) = (s.forward r out (k / 4) (k % 4)).forwardN r out n := by
  rw [State.forwardN]
  simp only [hh, hr, if_true]

/-- An output in its round forwards the candidate of the channel that the round stands at. -/
theorem State.forwardN_round {input : Nat} (hh : mget none (s.router r).hold out = none) (hp : s.promotedCand r out = none)
    (hu : mget 0 (s.router r).rndUsed out < (s.die (dieOf r)).weight (mget 0 (s.router r).rndVc out))
    (hc : s.flitCand r out (mget 0 (s.router r).rndVc out) = some input) (n : Nat) :
    s.forwardN r out (n + 1) = ((s.setRouter r { s.router r with
      rndUsed := mput 0 out (mget 0 (s.router r).rndUsed out + 1) (s.router r).rndUsed }).forward r out input
        (mget 0 (s.router r).rndVc out)).forwardN r out n := by
  rw [State.forwardN]
  simp only [hh, hp, State.arbitrate, hu, hc, if_true]

end

/-- Every packet of s is in t with its data, and has arrived there if it had. -/
def State.KeepsPackets (s t : State) : Prop :=
  ∀ p ∈ s.net, ∃ q ∈ t.net, q.id = p.id ∧ (p.arrived = true → q.arrived = true) ∧ q.data = p.data

theorem State.KeepsPackets.of_net {s t : State} (h : t.net = s.net) : s.KeepsPackets t := fun p hp =>
  ⟨p, h ▸ hp, rfl, id, rfl⟩

theorem State.KeepsPackets.trans {s t u : State} (h1 : s.KeepsPackets t) (h2 : t.KeepsPackets u) : s.KeepsPackets u := by
  intro p hp
  obtain ⟨q, hq, hid, harr, hdata⟩ := h1 p hp
  obtain ⟨x, hx, hid', harr', hdata'⟩ := h2 q hq
  exact ⟨x, hx, hid'.trans hid, harr' ∘ harr, hdata'.trans hdata⟩

theorem State.forward_keepsPackets (s : State) (r out input vc : Nat) : s.KeepsPackets (s.forward r out input vc) := by
  unfold State.forward
  dsimp only
  split
  · exact .of_net rfl
  · rename_i f _
    split
    · split
      · intro p hp
        refine ⟨_, List.mem_map_of_mem hp, ?_⟩
        split
        · exact ⟨rfl, fun _ => rfl, rfl⟩
        · exact ⟨rfl, id, rfl⟩
      · exact .of_net rfl
    · exact .of_net rfl

theorem State.arbitrate_net {s t : State} {r out input vc : Nat} (n : Nat) (h : s.arbitrate r out n = some (t, input, vc)) :
    t.net = s.net := by
  induction n generalizing s with
  | zero => cases h
  | succ n ih =>
    rw [State.arbitrate] at h
    split at h
    · cases h
      rfl
    · exact (ih h).trans rfl

theorem State.forwardN_keepsPackets (s : State) (r out n : Nat) : s.KeepsPackets (s.forwardN r out n) := by
  induction n generalizing s with
  | zero => exact .of_net rfl
  | succ n ih =>
    rw [State.forwardN]
    split
    · split
      · exact State.KeepsPackets.trans (s.forward_keepsPackets r out _ _) (ih _)
      · exact .of_net rfl
    · split
      · exact State.KeepsPackets.trans (s.forward_keepsPackets r out _ _) (ih _)
      · split
        · rename_i t input vc ha
          exact (State.KeepsPackets.of_net (State.arbitrate_net 5 ha)).trans
            (State.KeepsPackets.trans (t.forward_keepsPackets r out _ _) (ih _))
        · exact .of_net rfl

/-- The last flit of a packet that leaves the mesh brings the packet to where it goes. -/
theorem State.forward_arrives {s : State} {r out input vc : Nat} {f : Flit} (hf : (s.router r).head input vc = some f)
    (ho : 4 ≤ out) (hl : f.last = true) {p : Packet} (hp : p ∈ s.net) (hid : p.id = f.pid) :
    { p with arrived := true, arrInput := input } ∈ (s.forward r out input vc).net := by
  unfold State.forward
  simp only [hf, ho, hl, if_true]
  refine List.mem_map.mpr ⟨p, hp, ?_⟩
  rw [if_pos hid]

/-! ### Links -/

section
variable {s : State} {k : Nat}

theorem linkTransmitAccept_sends (hn : s.linkNext k = none) (hl : (s.link k).lt ≠ []) :
    exec (.linkTransmitAccept k) s = .next (s.setLink k (s.link k).send) := by
  rw [exec_linkTransmitAccept, execLinkTransmitAccept]
  simp only [hn, List.isEmpty_iff, hl, if_false]

theorem linkTransmitAccept_takes {p : Packet} (hn : s.linkNext k = some p) :
    exec (.linkTransmitAccept k) s = .next (({ s with net := s.net.filter fun x => x.id != p.id } : State).setLink k
      (if (s.link k).up then { s.link k with lt := (s.link k).lt ++ [p] }.send else (s.link k).drop 1)) := by
  rw [exec_linkTransmitAccept, execLinkTransmitAccept]
  simp only [hn]

/-- A packet of one flit, alone in the queue of a link with room for it, goes in one clock. -/
theorem MLink.send_single {l : MLink} {p : Packet} (hl : l.lt = []) (hs : l.sent = 0) (hp : p.len = 0) (hr : 64 ≤ l.room)
    (hu : mget 0 l.used p.vc < 64) : ({ l with lt := l.lt ++ [p] } : MLink).send = { l with
      out := l.out ++ [p], tx := (l.tx + 1) % 2 ^ 64, room := l.room - 64
      used := mput 0 p.vc (mget 0 l.used p.vc + 1) l.used } := by
  have hfirst : ({ l with lt := l.lt ++ [p] } : MLink).sendFlit = { l with
      out := l.out ++ [p], tx := (l.tx + 1) % 2 ^ 64, room := l.room - 64
      used := mput 0 p.vc (mget 0 l.used p.vc + 1) l.used } := by
    unfold MLink.sendFlit
    simp only [hl, hs, hp, List.nil_append, Nat.not_lt.mpr hr, Nat.not_le.mpr hu, decide_false, Bool.or_self, Bool.false_eq_true,
      Nat.lt_irrefl, if_false]
  have hrest : ∀ (n : Nat) (x : MLink), x.lt = [] → (List.range n).foldl (fun x _ => x.sendFlit) x = x := by
    intro n x hx
    have hstay : x.sendFlit = x := by unfold MLink.sendFlit; rw [hx]
    exact List.foldl_fixed' (fun _ => hstay) _
  unfold MLink.send
  rw [show List.range 8 = 0 :: (List.range 7).map (· + 1) from rfl, List.foldl_cons, hfirst, List.foldl_map]
  exact hrest 7 _ hl

section
variable {p : Packet} {r : List Packet} (hi : (s.link k).inq = p :: r)
include hi

theorem linkReceive_drops (h : (s.link k).up = false ∨ p.crcOk = false) :
    exec (.linkReceive k) s = .next (s.setLink k
      (({ s.link k with inq := r, rx := ((s.link k).rx + p.len + 1) % 2 ^ 64 } : MLink).drop 1)) := by
  have hbad : (!(s.link k).up || !p.crcOk) = true := by
    obtain h | h := h <;> rw [h]
    · rfl
    · exact Bool.or_true _
  rw [exec_linkReceive, execLinkReceive]
  simp only [hi, hbad, if_true]

theorem linkReceive_stamps (hu : (s.link k).up = true) (hc : p.crcOk = true) :
    exec (.linkReceive k) s = .next ((s.setLink k
      { s.link k with inq := r, rx := ((s.link k).rx + p.len + 1) % 2 ^ 64 }).stamp (linkDie k) (16 * linkDie k) 5
      { p with
        space := 2, dest := p.args.headD 0 % 256, args := p.args.tail, src := p.src % 256, slice := false
        linkIn := k, issue := s.cycles % 2 ^ 32 }) := by
  rw [exec_linkReceive, execLinkReceive]
  simp only [hi, hu, hc, Bool.not_true, Bool.or_self, Bool.false_eq_true, if_false]

end

end

/-! ### O49 -/

/-- Settles O49. -/
theorem fabricEvents : Obligations.FabricEvents := by
  refine ⟨fun s cid hf => ⟨_, portAccept_eq hf, coreStep_set ..⟩, fun s cid => ⟨outboundStamp_runs, outboundStamp_frozen⟩,
    fun s cid i r hr hp hc hf => requestTimeout_eq hr hp hc hf, fun s r k hk hw => routerPromotion_promotes hk hw,
    fun s r out k hh hr => ?_, fun s r out input vc f hh hp hvc hu hc hf => ?_, fun s k => ⟨linkTransmitAccept_sends, fun p hn => ?_⟩,
    fun s k p r hi => ⟨linkReceive_drops hi, linkReceive_stamps hi⟩⟩
  · rw [exec_routerFlitForward, execRouterFlitForward, State.forwardN_held hh hr]
  · subst hvc
    have hexec := (exec_routerFlitForward r out s).trans
      (congrArg Host.Outcome.next (State.forwardN_round hh hp hu hc 3))
    refine ⟨hexec, fun ho hl => ⟨_, hexec, fun p hmem hid => ?_⟩⟩
    obtain ⟨q, hq, hqid, harr, hdata⟩ := State.forwardN_keepsPackets _ r out 3 _
      (State.forward_arrives (s := s.setRouter r { s.router r with
        rndUsed := mput 0 out (mget 0 (s.router r).rndUsed out + 1) (s.router r).rndUsed }) (by rw [State.router_setRouter_same]; exact hf) ho hl hmem hid)
    exact ⟨q, hq, hqid, harr rfl, hdata⟩
  · have he := linkTransmitAccept_takes hn
    refine ⟨fun hu => ?_, fun hu => ?_⟩
    · rw [hu] at he
      exact he
    · rw [hu] at he
      exact ⟨he, fun hl hs hp hr hused => by rw [if_pos rfl, MLink.send_single hl hs hp hr hused] at he; exact he⟩

end Sys2Proof.Machine
end

section
/-!
PROOF. O50: what an apply queue applies of a request, and its answer (R17, R48, R54, R310, R312, R319, R355 to R357, R360).
-/

namespace Sys2Proof.Machine

/-! ### What every packet goes through at AQ -/

section
variable {s : State} {id : Nat} {p : Packet} {kinds : List PKind} {own : Packet → Bool} {go : Packet → State → State}
  (hp : s.packet id = some p) (hs : p.space ≠ 3) (ha : s.admissible p = true) (hk : kinds.contains p.kind = true)
include hp hs ha hk

/-- A packet that AQ admits and trusts is applied. -/
theorem State.onPacket_trusted (ht : s.trusts p (own p) = true) :
    s.onPacket id kinds own go = .next (go p (s.applied p)) := by
  simp only [State.onPacket, hp, hs, ha, hk, ht, Bool.not_true, decide_false, Bool.or_self, Bool.false_eq_true, if_false]

/-- A packet that AQ does not trust is dropped. -/
theorem State.onPacket_dropped (ht : s.trusts p (own p) = false) :
    s.onPacket id kinds own go = .next (s.dropPacket p) := by
  simp only [State.onPacket, hp, hs, ha, hk, ht, Bool.not_true, Bool.not_false, decide_false, Bool.or_self, Bool.false_eq_true,
    if_false, if_true]

end

theorem Packet.isOwn_eq (p : Packet) : p.isOwn = decide (p.slice = false ∧ p.space ≠ 1) := by
  unfold Packet.isOwn
  rw [Bool.decide_and, decide_not, bne, beq_eq_decide]
  cases p.slice <;> rfl

/-! ### The requests by kind -/

section
variable {s : State} {id : Nat} {p : Packet} (hp : s.packet id = some p) (hs : p.space ≠ 3) (ha : s.admissible p = true)
include hp hs ha

theorem applyWrite_trusted (hk : p.kind = .write) (ht : s.trusts p p.isOwn = true) :
    let z := s.applied p
    exec (.applyWrite id) s = .next (if z.writeFails p then ((z.writeHome p).countUncorr p.home).answer p .errorReply [] []
      else (z.writeHome p).answer p .writeAck [] []) :=
  (exec_applyWrite id s).trans (State.onPacket_trusted hp hs ha (by rw [hk]; rfl) ht)

theorem applyWrite_dropped (hk : p.kind = .write) (ht : s.trusts p p.isOwn = false) :
    exec (.applyWrite id) s = .next (s.dropPacket p) :=
  (exec_applyWrite id s).trans (State.onPacket_dropped hp hs ha (by rw [hk]; rfl) ht)

theorem applyReadRequest_trusted (hk : p.kind = .read) (ht : s.trusts p p.isOwn = true) :
    let z := s.applied p
    exec (.applyReadRequest id) s = .next (if z.readFails p then (z.countUncorr p.home).answer p .errorReply [] []
      else z.answer p .readReply (z.readHome p) []) :=
  (exec_applyReadRequest id s).trans (State.onPacket_trusted hp hs ha (by rw [hk]; rfl) ht)

theorem applyReduce_trusted (hk : p.kind = .reduce) (ht : s.trusts p p.isOwn = true) :
    let z := s.applied p
    let c := z.core p.dest
    exec (.applyReduce id) s = .next ((z.setCore p.dest ((c.packetWrite p.addr
      (reduceAll p.op (redUnit p.op) (rdBytes c.spad p.addr p.data.length) p.data)).packetArrive s.cycles p
        p.data.length)).answer p .writeAck [] []) :=
  (exec_applyReduce id s).trans (State.onPacket_trusted hp hs ha (by rw [hk]; rfl) ht)

theorem applyArrival_trusted (hk : p.kind = .arrival) (ht : s.trusts p true = true) :
    let z := s.applied p
    exec (.applyArrival id) s = .next ((z.setCore p.dest ((z.core p.dest).packetArrive s.cycles p (p.args.getD 1 0))).answer
      p .writeAck [] []) :=
  (exec_applyArrival id s).trans (State.onPacket_trusted hp hs ha (by rw [hk]; rfl) ht)

/-- A signal adds to a semaphore within the window, unless it would overflow. -/
theorem applyRemoteSignal_trusted (hk : p.kind = .signal) (ht : s.trusts p true = true) :
    let z := s.applied p
    let c := z.core p.dest
    ((c.job p.djslot).sem (p.args.getD 0 0) = none →
        exec (.applyRemoteSignal id) s = .next (z.answer p .signalReply [] [1]))
      ∧ ∀ n : Nat, (c.job p.djslot).sem (p.args.getD 0 0) = some n →
          (2 ^ 32 ≤ c.semCount n + p.args.getD 1 0 →
              exec (.applyRemoteSignal id) s = .next (z.answer p .signalReply [] [2]))
            ∧ (c.semCount n + p.args.getD 1 0 < 2 ^ 32 → exec (.applyRemoteSignal id) s =
                .next ((z.setCore p.dest (c.setSem n (c.semCount n + p.args.getD 1 0))).answer p .signalReply [] [0])) := by
  intro z c
  have he := (exec_applyRemoteSignal id s).trans (State.onPacket_trusted hp hs ha (by rw [hk]; rfl) ht)
  rw [he]
  dsimp only
  refine ⟨fun hn => by simp only [hn, c, z], fun n hn => ⟨fun hlt => ?_, fun hlt => ?_⟩⟩
  · simp only [hn, c, z, if_pos hlt]
  · simp only [hn, c, z, if_neg (Nat.not_le.mpr hlt)]

/-- A plane record gathers its parts; whole, it answers what the die makes of it. -/
theorem applyPlaneRecord_trusted (hk : p.kind = .plane) (ht : s.trusts p false = true) :
    let z := s.applied p
    let c := z.core p.dest
    let bs := (mlook p.recordNo c.planeParts).getD [] ++ p.data
    let rest := c.planeParts.filter fun e => e.1 != p.recordNo
    let x := ({ c with planeParts := rest } : Core).planeDiff bs
    (p.args.getD 1 1 = 0 → exec (.applyPlaneRecord id) s =
        .next ((z.setCore p.dest { c with planeParts := (p.recordNo, bs) :: rest }).answer p .writeAck [] []))
      ∧ (p.args.getD 1 1 ≠ 0 → x.2 ≠ 2 →
          exec (.applyPlaneRecord id) s = .next ((z.setCore p.dest x.1).answer p .planeAnswer [] [x.2]))
      ∧ (p.args.getD 1 1 ≠ 0 → x.2 = 2 → exec (.applyPlaneRecord id) s = .next (((z.setCore p.dest x.1).updDie p.destDie
          fun d => { d with errlog := d.errlog ++ [(p.dest, 0x14)] }).answer p .planeAnswer [] [2])) := by
  intro z c bs rest x
  have he := (exec_applyPlaneRecord id s).trans (State.onPacket_trusted hp hs ha (by rw [hk]; rfl) ht)
  rw [he]
  dsimp only
  have hwhole : p.args.getD 1 1 ≠ 0 → c.planePart p = (x.1, some x.2) := fun h => if_neg h
  refine ⟨fun h => ?_, fun h hx => ?_, fun h hx => ?_⟩
  · have hpart : c.planePart p = ({ c with planeParts := (p.recordNo, bs) :: rest }, none) := if_pos h
    rw [hpart]
  · rw [hwhole h]
    simp only [if_neg hx, z]
  · rw [hwhole h]
    simp only [hx, if_true, z]

theorem applyDescriptorPost_trusted (hk : p.kind = .post) (ht : s.trusts p false = true) :
    let z := s.applied p
    let c := z.core p.dest
    (c.mbox.postDesc (leBytes p.data) = none → exec (.applyDescriptorPost id) s = .next (z.answer p .postAnswer [] [1]))
      ∧ ∀ m : Mbox, c.mbox.postDesc (leBytes p.data) = some m → exec (.applyDescriptorPost id) s =
          .next ((z.setCore p.dest { c with mbox := m }).answer p .postAnswer [] [0]) := by
  intro z c
  have he := (exec_applyDescriptorPost id s).trans (State.onPacket_trusted hp hs ha (by rw [hk]; rfl) ht)
  rw [he]
  dsimp only
  exact ⟨fun h => by simp only [h, c, z], fun m h => by simp only [h, c, z]⟩

end

/-! ### O50 -/

/-- Settles O50. -/
theorem requestEvents : Obligations.RequestEvents := by
  intro s id p hp hs ha z c own
  have hown : decide own = p.isOwn := p.isOwn_eq.symm
  rw [hown]
  refine ⟨fun hk ht => ?_, applyWrite_dropped hp hs ha, fun hk ht => ?_, applyReduce_trusted hp hs ha,
    applyArrival_trusted hp hs ha, applyRemoteSignal_trusted hp hs ha, applyPlaneRecord_trusted hp hs ha,
    applyDescriptorPost_trusted hp hs ha⟩
  · have he := applyWrite_trusted hp hs ha hk ht
    exact ⟨fun hw => he.trans (congrArg _ (if_neg (by rw [hw]; exact Bool.false_ne_true))),
      fun hw => he.trans (congrArg _ (if_pos hw))⟩
  · have he := applyReadRequest_trusted hp hs ha hk ht
    exact ⟨fun hw => he.trans (congrArg _ (if_neg (by rw [hw]; exact Bool.false_ne_true))),
      fun hw => he.trans (congrArg _ (if_pos hw))⟩

end Sys2Proof.Machine
end

section
/-!
PROOF. O51: what an answer does at its requester (R15, R119, R126, R204, R266, R333, R341, R342, R354, R357, R361).
-/

namespace Sys2Proof.Machine

/-! ### What every answer goes through -/

section
variable {s : State} {id : Nat} {p : Packet} {r : Req} {kinds : List PKind} {go : Packet → Req → Core → Core}
  (hp : s.packet id = some p) (hs : p.space ≠ 3) (ha : s.admissible p = true) (ht : s.trusts p false = true)
  (hr : ((s.applied p).core p.dest).reqOf p = some r) (hk : kinds.contains p.kind = true)
include hp hs ha ht hr hk

/-- An answer to a request that has timed out is dropped and counted. -/
theorem State.onAnswer_late (hl : r.purpose = .late) : s.onAnswer id kinds go
    = .next ((s.applied p).setCore p.dest ((((s.applied p).core p.dest).endReq r).countDrop p)) := by
  refine (State.onPacket_trusted (own := fun _ => false) hp hs ha hk ht).trans ?_
  simp only [State.updCore, hr, hl, if_true]

/-- Any other answer ends its request and goes to what waits for it. -/
theorem State.onAnswer_due (hl : r.purpose ≠ .late) : s.onAnswer id kinds go
    = .next ((s.applied p).setCore p.dest (go p r (((s.applied p).core p.dest).endReq r))) := by
  refine (State.onPacket_trusted (own := fun _ => false) hp hs ha hk ht).trans ?_
  simp only [State.updCore, hr, hl, if_false]

end

/-! ### A load that waits for a line -/

theorem Core.loadDone_waits {c : Core} {r : Req} {d n a : Nat} {x : Bool} (hw : (c.stream r.key).wait = .load d n x a r.rid)
    (line : List Byte) : c.loadDone r line
      = ((c.updStream r.key fun t => { t with popd := none, need := none }).result r.key 1
          (.x d (extend (2 ^ n) x (leBytes ((line.drop (a % 64)).take (2 ^ n))))) 0).endWait r.key 0 := by
  unfold Core.loadDone
  simp only [hw, bne_self_eq_false, Bool.false_eq_true, if_false]

theorem Core.loadDone_other {c : Core} {r : Req} (hw : ∀ d n x a, (c.stream r.key).wait ≠ .load d n x a r.rid)
    (line : List Byte) : c.loadDone r line = c := by
  unfold Core.loadDone
  cases h : (c.stream r.key).wait with
  | load d n x a rid =>
    have hne : rid ≠ r.rid := fun he => hw d n x a (he ▸ h)
    simp only [bne_iff_ne, ne_eq, hne, not_false_eq_true, if_true]
  | none => rfl
  | head _ => rfl
  | rdzv _ => rfl
  | ckpt _ _ => rfl
  | gbar _ _ _ => rfl
  | post _ => rfl
  | wseg _ _ _ _ => rfl

/-- A line enters RB(c). -/
def Core.holdLine (c : Core) (l : Nat) (bs : List Byte) : Core := { c with rb := mput [] l bs c.rb }

/-! ### The answers by kind -/

section
variable {s : State} {id : Nat} {p : Packet} {r : Req} (hp : s.packet id = some p) (hs : p.space ≠ 3)
  (ha : s.admissible p = true) (ht : s.trusts p false = true)
include hp hs ha ht

section
variable (hr : ((s.applied p).core p.dest).reqOf p = some r)
include hr

theorem writeAckArrive_late (hk : p.kind = .writeAck) (hl : r.purpose = .late) : exec (.writeAckArrive id) s
    = .next ((s.applied p).setCore p.dest ((((s.applied p).core p.dest).endReq r).countDrop p)) :=
  (exec_writeAckArrive id s).trans (State.onAnswer_late hp hs ha ht hr (by rw [hk]; rfl) hl)

theorem writeAckArrive_due (hk : p.kind = .writeAck) (hl : r.purpose ≠ .late) : exec (.writeAckArrive id) s
    = .next ((s.applied p).setCore p.dest (((s.applied p).core p.dest).endReq r)) :=
  (exec_writeAckArrive id s).trans (State.onAnswer_due hp hs ha ht hr (by rw [hk]; rfl) hl)

theorem signalReplyArrive_due {key idx : Nat} {m : Cmd} (hk : p.kind = .signalReply) (hpu : r.purpose = .signal key idx)
    (hm : ((((s.applied p).core p.dest).endReq r).stream key).cmd idx = some m) :
    let c := ((s.applied p).core p.dest).endReq r
    let ends := fun x : Core => exec (.signalReplyArrive id) s = .next ((s.applied p).setCore p.dest x)
    (p.args.headD 0 = 0 → ends ((c.updCmd key idx fun m => { m with finished := true, pos := s.cycles }).endXe
        s.cycles key idx false))
      ∧ (p.args.headD 0 = 1 → ends (c.cmdTrap s.cycles key m (0x0E, kindStatus 1 (m.val 1 % 2 ^ 8))))
      ∧ (p.args.headD 0 = 2 → ends (c.cmdTrap s.cycles key m (0x11, 0))) := by
  intro c ends
  have he := (exec_signalReplyArrive id s).trans
    (State.onAnswer_due hp hs ha ht hr (by rw [hk]; rfl) (by rw [hpu]; nofun))
  simp only [hpu, hm] at he
  refine ⟨fun h => ?_, fun h => ?_, fun h => ?_⟩ <;> simp only [h, fld_zero] at he <;> exact he

theorem planeAnswerArrive_due {key idx : Nat} (hk : p.kind = .planeAnswer) (hpu : r.purpose = .plane key idx) :
    exec (.planeAnswerArrive id) s = .next ((s.applied p).setCore p.dest
      ((((s.applied p).core p.dest).endReq r).updCmd key idx fun m => { m with aux := m.aux ++ [p.args.headD 0] })) := by
  have he := (exec_planeAnswerArrive id s).trans
    (State.onAnswer_due hp hs ha ht hr (by rw [hk]; rfl) (by rw [hpu]; nofun))
  simp only [hpu] at he
  exact he

theorem postAnswerArrive_due {key d : Nat} (hk : p.kind = .postAnswer) (hpu : r.purpose = .post key)
    (hw : ((((s.applied p).core p.dest).endReq r).stream key).wait = .post d) :
    exec (.postAnswerArrive id) s = .next ((s.applied p).setCore p.dest
      (((((s.applied p).core p.dest).endReq r).setReg key d (p.args.headD 0)).endWait key 0)) := by
  have he := (exec_postAnswerArrive id s).trans
    (State.onAnswer_due hp hs ha ht hr (by rw [hk]; rfl) (by rw [hpu]; nofun))
  simp only [hpu, hw] at he
  exact he

variable (hw : p.walk = false)
include hw

theorem readReplyArrive_of (hk : p.kind = .readReply) (hl : r.purpose ≠ .late) :
    exec (.readReplyArrive id) s = .next ((s.applied p).setCore p.dest
      (let c := ((s.applied p).core p.dest).endReq r
       match r.purpose with
       | .line l => { c with rb := mput [] l p.data c.rb }.loadDone r p.data
       | .stale => c.loadDone r p.data
       | .code part => if c.codeWant.contains (part / 4) then { c with codeParts := mset part p.data c.codeParts } else c
       | .cmd key idx pos => c.updCmd key idx fun m => { m with data := mbulk Memory.blank (m.place pos p.data) m.data }
       | .write _ | .signal .. | .plane .. | .post _ | .host | .late => c)) := by
  rw [exec_readReplyArrive, execReadReplyArrive, hp, Option.filter_some, hw]
  refine (State.onAnswer_due hp hs ha ht hr (by rw [hk]; rfl) hl).trans ?_
  cases r.purpose <;> rfl

theorem errorReplyArrive_of (hk : p.kind = .errorReply) (hl : r.purpose ≠ .late) :
    exec (.errorReplyArrive id) s = .next ((s.applied p).setCore p.dest
      (let c := ((s.applied p).core p.dest).endReq r
       match r.purpose with
       | .line l => c.lineError s.cycles r l
       | .stale => c.lineError s.cycles r 0
       | .code part => c.codeLost (part / 4)
       | .cmd key idx pos => c.updCmd key idx fun m => m.failAt (0x12, addrStatus (epAddr m.ws + pos)) pos
       | .write _ => c.chargeReq s.cycles r 0x12 memStructure
       | .signal .. | .plane .. | .post _ | .host | .late => c)) := by
  rw [exec_errorReplyArrive, execErrorReplyArrive, hp, Option.filter_some, hw]
  refine (State.onAnswer_due hp hs ha ht hr (by rw [hk]; rfl) hl).trans ?_
  cases r.purpose <;> rfl

/-- Behind a line that enters RB(c), the load that waits for it takes its datum. -/
theorem readReplyArrive_line {l : Nat} (hpu : r.purpose = .line l) (hk : p.kind = .readReply) :
    exec (.readReplyArrive id) s = .next ((s.applied p).setCore p.dest
      (((((s.applied p).core p.dest).endReq r).holdLine l p.data).loadDone r p.data)) := by
  have he := readReplyArrive_of hp hs ha ht hr hw hk (by rw [hpu]; nofun)
  simp only [hpu] at he
  exact he

theorem readReplyArrive_code {part : Nat} (hpu : r.purpose = .code part)
    (hm : part / 4 ∈ (((s.applied p).core p.dest).endReq r).codeWant) (hk : p.kind = .readReply) :
    exec (.readReplyArrive id) s = .next ((s.applied p).setCore p.dest
      { ((s.applied p).core p.dest).endReq r with
        codeParts := mset part p.data (((s.applied p).core p.dest).endReq r).codeParts }) := by
  have he := readReplyArrive_of hp hs ha ht hr hw hk (by rw [hpu]; nofun)
  simp only [hpu, List.contains_iff_mem.mpr hm, if_true] at he
  exact he

theorem readReplyArrive_cmd {key idx pos : Nat} (hpu : r.purpose = .cmd key idx pos) (hk : p.kind = .readReply) :
    exec (.readReplyArrive id) s = .next ((s.applied p).setCore p.dest
      ((((s.applied p).core p.dest).endReq r).updCmd key idx fun m =>
        { m with data := mbulk Memory.blank (m.place pos p.data) m.data })) := by
  have he := readReplyArrive_of hp hs ha ht hr hw hk (by rw [hpu]; nofun)
  simp only [hpu] at he
  exact he

theorem errorReplyArrive_line {l : Nat} (hpu : r.purpose = .line l) (hk : p.kind = .errorReply) :
    exec (.errorReplyArrive id) s = .next ((s.applied p).setCore p.dest
      ((((s.applied p).core p.dest).endReq r).lineError s.cycles r l)) := by
  have he := errorReplyArrive_of hp hs ha ht hr hw hk (by rw [hpu]; nofun)
  simp only [hpu] at he
  exact he

theorem errorReplyArrive_code {part : Nat} (hpu : r.purpose = .code part) (hk : p.kind = .errorReply) :
    exec (.errorReplyArrive id) s = .next ((s.applied p).setCore p.dest
      ((((s.applied p).core p.dest).endReq r).codeLost (part / 4))) := by
  have he := errorReplyArrive_of hp hs ha ht hr hw hk (by rw [hpu]; nofun)
  simp only [hpu] at he
  exact he

theorem errorReplyArrive_cmd {key idx pos : Nat} (hpu : r.purpose = .cmd key idx pos) (hk : p.kind = .errorReply) :
    exec (.errorReplyArrive id) s = .next ((s.applied p).setCore p.dest
      ((((s.applied p).core p.dest).endReq r).updCmd key idx fun m =>
        m.failAt (0x12, addrStatus (epAddr m.ws + pos)) pos)) := by
  have he := errorReplyArrive_of hp hs ha ht hr hw hk (by rw [hpu]; nofun)
  simp only [hpu] at he
  exact he

theorem errorReplyArrive_write {k : Nat} (hpu : r.purpose = .write k) (hk : p.kind = .errorReply) :
    exec (.errorReplyArrive id) s = .next ((s.applied p).setCore p.dest
      ((((s.applied p).core p.dest).endReq r).chargeReq s.cycles r 0x12 4)) := by
  have he := errorReplyArrive_of hp hs ha ht hr hw hk (by rw [hpu]; nofun)
  simp only [hpu] at he
  exact he

end

/-! ### Answers to a page walker -/

variable {w : Walker} (hw : p.walk = true)
  (hf : (((s.applied p).die p.destDie).walks.find? fun x => x.id == p.rid && x.res.isNone) = some w)
include hw hf

theorem readReplyArrive_walk (hk : p.kind = .readReply) : exec (.readReplyArrive id) s
    = .next ((s.applied p).walkGo p.destDie w
        (walkNext w.page w.level (leBytes ((p.data.drop (w.addr % 64)).take 8)))) := by
  rw [exec_readReplyArrive, execReadReplyArrive, hp, Option.filter_some, hw]
  refine (State.onPacket_trusted (own := fun _ => false) hp hs ha (by rw [hk]; rfl) ht).trans ?_
  simp only [State.walkAnswer, hf]

theorem errorReplyArrive_walk (hk : p.kind = .errorReply) : exec (.errorReplyArrive id) s
    = .next ((s.applied p).walkGo p.destDie w (.done (.bad w.addr))) := by
  rw [exec_errorReplyArrive, execErrorReplyArrive, hp, Option.filter_some, hw]
  refine (State.onPacket_trusted (own := fun _ => false) hp hs ha (by rw [hk]; rfl) ht).trans ?_
  simp only [State.walkAnswer, hf]

end

/-! ### O51 -/

/-- Settles O51. -/
theorem answerEvents : Obligations.AnswerEvents := by
  refine ⟨fun s id p r hp hs ha ht hw hr => ⟨fun hl hk => writeAckArrive_late hp hs ha ht hr hk hl,
      fun hl hk => writeAckArrive_due hp hs ha ht hr hk hl, fun l hpu hk => ⟨fun hno => ?_, fun d n x a hwait => ?_⟩,
      fun part hpu hm => ⟨readReplyArrive_code hp hs ha ht hr hw hpu hm, errorReplyArrive_code hp hs ha ht hr hw hpu⟩,
      fun key idx pos hpu => ⟨readReplyArrive_cmd hp hs ha ht hr hw hpu, errorReplyArrive_cmd hp hs ha ht hr hw hpu⟩,
      fun key idx m hpu hk hm => signalReplyArrive_due hp hs ha ht hr hk hpu hm,
      fun key idx hpu hk => planeAnswerArrive_due hp hs ha ht hr hk hpu,
      fun key d hpu hk hwait => postAnswerArrive_due hp hs ha ht hr hk hpu hwait,
      fun k hpu hk => errorReplyArrive_write hp hs ha ht hr hw hpu hk,
      fun l hpu hk => errorReplyArrive_line hp hs ha ht hr hw hpu hk⟩,
    fun s id p w hp hs ha ht hw hf => ⟨readReplyArrive_walk hp hs ha ht hw hf, errorReplyArrive_walk hp hs ha ht hw hf⟩⟩
  · exact (readReplyArrive_line hp hs ha ht hr hw hpu hk).trans
      (congrArg (fun c => Host.Outcome.next ((s.applied p).setCore p.dest c)) (Core.loadDone_other
        (c := (((s.applied p).core p.dest).endReq r).holdLine l p.data) hno p.data))
  · exact (readReplyArrive_line hp hs ha ht hr hw hpu hk).trans
      (congrArg (fun c => Host.Outcome.next ((s.applied p).setCore p.dest c)) (Core.loadDone_waits
        (c := (((s.applied p).core p.dest).endReq r).holdLine l p.data) hwait p.data))

end Sys2Proof.Machine
end

section
/-!
PROOF. O52: the carousel and the image loader (R160 to R168, R268, R321 to R327).
-/

namespace Sys2Proof.Machine

/-! ### Passages -/

theorem Ring.tile_setTile_same (r : Ring) (k : Nat) (t : Option Tile) : (r.setTile k t).tile k = t := mget_mput_same ..

/-- A slot's contents as its passage goes on. -/
def State.withTile (s : State) (k : Nat) (t : Option Tile) : State := { s with ring := s.ring.setTile k t }

theorem State.tile_withTile_same (s : State) (k : Nat) (t : Option Tile) : (s.withTile k t).ring.tile k = t :=
  Ring.tile_setTile_same ..

theorem State.change_none {s : State} {d k : Nat} (h : s.changeFor d (s.ring.tile k) = none) : s.change d k = s := by
  simp only [State.change, h]

theorem State.change_board {s : State} {d k : Nat} {x : RingCmd} (ht : s.ring.tile k = none) (h : s.changeFor d none = some x) :
    s.change d k = s.board k x := by
  simp only [State.change, ht, h]

/-- A slot that a boarding takes holds a tile that is not yet confirmed. -/
theorem State.tile_board (s : State) (k : Nat) (x : RingCmd) : ∃ t, (s.board k x).ring.tile k = some t ∧ t.confirmed = false :=
  ⟨_, Ring.tile_setTile_same .., rfl⟩

section
variable {s : State} {p k : Nat} (hp : s.ring.slotAt p = some k)
include hp

/-- The passage of a slot that is free, or that a failed boarding frees. -/
theorem carouselPassage_free (ht : s.slotTile k = none) :
    exec (.carouselPassage p) s = .next (
      let s2 := (s.withTile k none).change (dieAtPos p) k
      match s2.ring.tile k with
      | none => s2
      | some t => if t.confirmed then s2.catches (dieAtPos p) t else s2) := by
  rw [exec_carouselPassage, execCarouselPassage]
  cases hs : ((s.withTile k none).change (dieAtPos p) k).ring.tile k <;>
    (simp only [State.withTile] at hs; simp only [hp, ht, hs, State.withTile])

theorem carouselPassage_stays_free (ht : s.slotTile k = none) (hc : s.changeFor (dieAtPos p) none = none) :
    exec (.carouselPassage p) s = .next (s.withTile k none) := by
  have hchange : (s.withTile k none).change (dieAtPos p) k = s.withTile k none :=
    State.change_none (by rw [State.tile_withTile_same]; exact hc)
  rw [carouselPassage_free hp ht, hchange]
  simp only [State.tile_withTile_same]

theorem carouselPassage_boards {x : RingCmd} (ht : s.slotTile k = none)
    (hc : (s.withTile k none).changeFor (dieAtPos p) none = some x) :
    exec (.carouselPassage p) s = .next ((s.withTile k none).board k x) := by
  obtain ⟨t, htile, hconf⟩ := (s.withTile k none).tile_board k x
  rw [carouselPassage_free hp ht, State.change_board (State.tile_withTile_same ..) hc]
  simp only [htile, hconf, Bool.false_eq_true, if_false]

theorem carouselPassage_catches {tl : Tile} (ht : s.ring.tile k = some tl) (hconf : tl.confirmed = true)
    (hc : (s.withTile k (some tl)).changeFor (dieAtPos p) (some tl) = none) :
    exec (.carouselPassage p) s = .next ((s.withTile k (some tl)).catches (dieAtPos p) tl) := by
  have hslot : s.slotTile k = some tl := by
    simp only [State.slotTile, ht, hconf, Bool.not_true, Bool.false_and, Bool.false_eq_true, if_false]
  have hpend : tl.pend = none := Option.isNone_iff_eq_none.mp hconf
  have htile := s.tile_withTile_same k (some tl)
  have hchange : (s.withTile k (some tl)).change (dieAtPos p) k = s.withTile k (some tl) :=
    State.change_none (by rw [htile]; exact hc)
  simp only [State.withTile] at hchange htile ⊢
  rw [exec_carouselPassage, execCarouselPassage]
  simp only [hp, hslot, State.confirmTile, hpend, hchange, htile, hconf, if_true]

end

/-! ### Code tiles -/

/-- No tile of the name passes the station of an awaited code tile. -/
theorem no_tile_passes {s : State} {k : Catch} (hno : ∀ t : Tile,
      (s.ring.slotAt (ringPos (dieOf k.core))).bind s.ring.tile = some t → t.confirmed = true → t.name ≠ k.name) :
    ((s.ring.slotAt (ringPos (dieOf k.core))).bind s.ring.tile).filter (fun t => t.confirmed && t.name == k.name) = none := by
  rw [Option.filter_eq_none_iff]
  intro t ht h
  rw [Bool.and_eq_true, beq_iff_eq] at h
  exact hno t ht h.1 h.2

section
variable {s : State} {cid : Nat} {k : Catch} (hk : (s.ring.catches.filter fun k => k.core == cid) = [k])
include hk

theorem carouselWeCatch_eq : exec (.carouselWeCatch cid) s = .next (s.weCatch k) := by
  rw [exec_carouselWeCatch, execCarouselWeCatch, hk]
  rfl

theorem carouselWeCatch_takes {t : Tile} (ht : (s.ring.slotAt (ringPos (dieOf k.core))).bind s.ring.tile = some t)
    (hc : t.confirmed = true) (hn : t.name = k.name) :
    exec (.carouselWeCatch cid) s = .next (({ s with ring := { s.ring with
      catches := s.ring.catches.filter (· != k) } } : State).updCore k.core fun c =>
        (List.range 16).foldl (fun c i => c.codeFill (k.line + i) (t.line i)) c) := by
  have hpass : (some t).filter (fun t => t.confirmed && t.name == k.name) = some t := by
    rw [Option.filter_some, hc, hn, beq_self_eq_true]
    rfl
  rw [carouselWeCatch_eq hk, State.weCatch]
  simp only [ht, hpass]

variable (hno : ∀ t : Tile, (s.ring.slotAt (ringPos (dieOf k.core))).bind s.ring.tile = some t → t.confirmed = true →
  t.name ≠ k.name)
include hno

theorem carouselWeCatch_awaits (hl : k.left ≠ 0) : exec (.carouselWeCatch cid) s = .next s := by
  rw [carouselWeCatch_eq hk, State.weCatch]
  simp only [no_tile_passes hno, bne_iff_ne, ne_eq, hl, not_false_eq_true, if_true]

theorem carouselWeCatch_gives_up (hl : k.left = 0) :
    exec (.carouselWeCatch cid) s = .next (({ s with ring := { s.ring with
      catches := s.ring.catches.filter (· != k) } } : State).updCore k.core fun c => { c with
        codeWant := c.codeWant ++ k.lines.filter fun l => !c.codeWant.contains l && (c.codeLine l).isNone }) := by
  rw [carouselWeCatch_eq hk, State.weCatch]
  simp only [no_tile_passes hno, hl, bne_self_eq_false, Bool.false_eq_true, if_false]

end

/-! ### CAROUSEL_SLOTS -/

theorem carouselChangeRequest_takes {s : State} {v : Nat} (hv : v < 2 ^ 12) (h3 : v / 2 ^ 3 % 2 ^ 5 = 0)
    (h8 : v / 2 ^ 8 % 2 ^ 3 < 6) : exec (.carouselChangeRequest v) s
      = .next { s with ring := { s.ring with pvalid := bit v 11, pend := v / 2 ^ 8 % 2 ^ 3 } } := by
  have hok : slotsWordOk v = true := by
    unfold slotsWordOk fld
    rw [h3, decide_eq_true hv, decide_eq_true h8]
    rfl
  rw [exec_carouselChangeRequest, execCarouselChangeRequest, if_pos hok]
  rfl

theorem carouselChangeEffect_due {s : State} (hv : s.ring.pvalid = true) (hi : s.ringIdle = true) :
    exec .carouselChangeEffect s
      = .next { s with ring := { s.ring with cur := s.ring.pend, pvalid := false, rc := 0, tiles := [] } } := by
  rw [exec_carouselChangeEffect, execCarouselChangeEffect, if_pos (by rw [hv, hi]; rfl)]

/-! ### The image loader -/

section
variable {s : State} {d : Nat} (hb : (s.die d).ilBusy = true)
include hb

section
variable (ho : (s.die d).ilOp = 1) (hs : s.settled d = true)
include ho hs

theorem ilLoad_fails {e : IlErr}
    (he : s.checkLoad (s.die d) ((s.die d).ilCmd % 2 ^ 8) (bit (s.die d).ilCmd 10) = .error e) :
    exec (.ilLoad d) s = .next (s.setDie d { s.die d with ilStatus := ilStatusOf e }) := by
  rw [exec_ilLoad, execIlLoad]
  simp only [hb, ho, hs, fld_zero, he, Bool.not_true, Bool.false_or, OfNat.one_ne_ofNat, bne_self_eq_false, decide_false,
    Bool.false_eq_true, if_false]

theorem ilLoad_loads {r : LoadCtx × List Patch}
    (hr : s.checkLoad (s.die d) ((s.die d).ilCmd % 2 ^ 8) (bit (s.die d).ilCmd 10) = .ok r) :
    exec (.ilLoad d) s = .next (s.doLoad d ((s.die d).ilCmd % 2 ^ 8) (bit (s.die d).ilCmd 10) r.1 r.2) := by
  rw [exec_ilLoad, execIlLoad]
  simp only [hb, ho, hs, fld_zero, hr, Bool.not_true, Bool.false_or, OfNat.one_ne_ofNat, bne_self_eq_false, decide_false,
    Bool.false_eq_true, if_false]

end

variable (ho : (s.die d).ilOp = 2)
include ho

theorem ilUnload_in_use (hu : ∃ i, i < 16 ∧ (s.core (16 * d + i)).usesImage ((s.die d).ilCmd % 2 ^ 8) = true) :
    exec (.ilUnload d) s = .next (s.setDie d { s.die d with ilStatus := ilStatusOf (0x09, 0) }) := by
  obtain ⟨i, hi, hui⟩ := hu
  have hany : ((List.range 16).any fun i => (s.core (16 * d + i)).usesImage ((s.die d).ilCmd % 2 ^ 8)) = true :=
    List.any_eq_true.mpr ⟨i, List.mem_range.mpr hi, hui⟩
  rw [exec_ilUnload, execIlUnload]
  simp only [hb, ho, fld_zero, hany, Bool.not_true, Bool.false_or, bne_self_eq_false, Bool.false_eq_true, if_false, if_true]

theorem ilUnload_clears (hu : ∀ i, i < 16 → (s.core (16 * d + i)).usesImage ((s.die d).ilCmd % 2 ^ 8) = false) :
    exec (.ilUnload d) s = .next (s.setDie d { s.die d with
      images := mput {} ((s.die d).ilCmd % 2 ^ 8) { (s.die d).image ((s.die d).ilCmd % 2 ^ 8) with
        bits := ((s.die d).image ((s.die d).ilCmd % 2 ^ 8)).bits / 2 * 2 } (s.die d).images
      ilStatus := 0 }) := by
  have hany : ((List.range 16).any fun i => (s.core (16 * d + i)).usesImage ((s.die d).ilCmd % 2 ^ 8)) = false :=
    List.any_eq_false.mpr fun i hi => by rw [hu i (List.mem_range.mp hi)]; exact Bool.false_ne_true
  rw [exec_ilUnload, execIlUnload]
  simp only [hb, ho, fld_zero, hany, Bool.not_true, Bool.false_or, bne_self_eq_false, Bool.false_eq_true, if_false]

end

/-! ### O52 -/

/-- Settles O52. -/
theorem carouselAndImageEvents : Obligations.CarouselAndImageEvents := by
  refine ⟨fun s p k hp => ⟨carouselPassage_stays_free hp, fun x ht hc => ⟨_, carouselPassage_boards hp ht hc, rfl⟩,
      fun tl ht hconf hc => carouselPassage_catches hp ht hconf hc⟩,
    fun s cid k hk => ⟨fun t ht hc hn => carouselWeCatch_takes hk ht hc hn, fun hno =>
      ⟨carouselWeCatch_awaits hk hno, carouselWeCatch_gives_up hk hno⟩⟩,
    fun s v hv h3 h8 => carouselChangeRequest_takes hv h3 h8, fun s hv hi => carouselChangeEffect_due hv hi,
    fun s d hb ho hs => ⟨fun e he => ilLoad_fails hb ho hs he, fun r hr => ilLoad_loads hb ho hs hr⟩,
    fun s d hb ho => ⟨ilUnload_in_use hb ho, ilUnload_clears hb ho⟩⟩

end Sys2Proof.Machine
end

section
/-!
PROOF. How the streams of a job start (R94, R95, R96): the places that the loader finds, and what starting sets.
-/

namespace Sys2Proof.Machine

/-! ### Places -/

theorem mem_of_mapM {α β : Type} {f : α → Option β} {l : List α} {ks : List β} (h : l.mapM f = some ks) {k : β} (hk : k ∈ ks) :
    ∃ e ∈ l, f e = some k := by
  induction l generalizing ks with
  | nil =>
    simp only [List.mapM_nil, Option.pure_def, Option.some.injEq] at h
    rw [← h] at hk
    cases hk
  | cons e l ih =>
    simp only [List.mapM_cons, Option.bind_eq_bind, Option.bind_eq_some_iff, Option.pure_def, Option.some.injEq] at h
    obtain ⟨x, hx, xs, hxs, rfl⟩ := h
    rcases List.mem_cons.mp hk with rfl | hk
    · exact ⟨e, List.mem_cons_self, hx⟩
    · obtain ⟨e', he', hfe⟩ := ih hxs hk
      exact ⟨e', List.mem_cons_of_mem _ he', hfe⟩

theorem skey_engNo_mem_allKeys : ∀ e < 6, ∀ i < slotsOf (engNo e), skey (engNo e) i ∈ allKeys := by decide

theorem Core.freeSlot_key {c : Core} {e i : Nat} (he : e < 6) (h : c.freeSlot (engNo e) = some i) :
    skey (engNo e) i ∈ allKeys :=
  skey_engNo_mem_allKeys e he i (List.mem_range.mp (List.mem_of_find?_eq_some h))

theorem mem_maskBits_lt {n m e : Nat} (h : e ∈ maskBits n m) : e < n :=
  List.mem_range.mp (List.mem_of_mem_filter h)

/-- The fit test finds stream slots that there are. -/
theorem Core.place_keys {c : Core} {mask sems qmask : Nat} {p : Place} (h : c.place mask sems qmask = some p) :
    ∀ k ∈ p.keys, k ∈ allKeys := by
  unfold Core.place at h
  split at h
  · rename_i j ks b _ hks _
    split at h
    · obtain rfl := Option.some.inj h
      intro k hk
      obtain ⟨e, he, hfe⟩ := mem_of_mapM hks hk
      obtain ⟨i, hi, rfl⟩ := Option.map_eq_some_iff.mp hfe
      exact Core.freeSlot_key (mem_maskBits_lt he) hi
    · cases h
  · cases h

theorem Core.mem_jobKeys {c : Core} {j k : Nat} :
    k ∈ c.jobKeys j ↔ k ∈ allKeys ∧ (c.stream k).st ≠ .free ∧ (c.stream k).job = j := by
  simp only [Core.jobKeys, List.mem_filter, Bool.and_eq_true, bne_iff_ne, beq_iff_eq]

/-- A job that starts again does so in its own slots and in free ones. -/
theorem Core.rerunPlace_keys {c : Core} {j mask : Nat} {p : Place} (h : c.rerunPlace j mask = some p) :
    p.slot = j ∧ ∀ k ∈ p.keys, k ∈ allKeys := by
  unfold Core.rerunPlace at h
  obtain ⟨ks, hks, rfl⟩ := Option.map_eq_some_iff.mp h
  refine ⟨rfl, fun k hk => ?_⟩
  obtain ⟨e, he, hfe⟩ := mem_of_mapM hks hk
  cases hown : (c.jobKeys j).find? fun k => k / 4 == e with
  | some x =>
    simp only [hown, Option.orElse_some, Option.some.injEq] at hfe
    exact hfe ▸ (Core.mem_jobKeys.mp (List.mem_of_find?_eq_some hown)).1
  | none =>
    simp only [hown, Option.orElse_none] at hfe
    obtain ⟨i, hi, rfl⟩ := Option.map_eq_some_iff.mp hfe
    exact Core.freeSlot_key (mem_maskBits_lt he) hi

/-! ### Streams written one after another -/

theorem Core.stream_foldl_setStream (g : Nat → Stream) (ks : List Nat) (c : Core) (k : Nat) :
    ((ks.map fun k => (k, g k)).foldl (fun c p => c.setStream p.1 p.2) c).stream k
      = if k ∈ ks then g k else c.stream k := by
  induction ks generalizing c with
  | nil => rfl
  | cons a ks ih =>
    rw [List.map_cons, List.foldl_cons, ih, Core.stream_setStream]
    by_cases hk : k ∈ ks
    · rw [if_pos hk, if_pos (List.mem_cons_of_mem a hk)]
    · by_cases ha : k = a
      · subst ha
        rw [if_neg hk, if_pos rfl, if_pos List.mem_cons_self]
      · rw [if_neg hk, if_neg ha, if_neg (by simp [ha, hk])]

/-- What a fold over a core's streams leaves of the core. -/
theorem Core.foldl_keeps {β γ : Type} (get : Core → γ) (f : Core → β → Core) (hf : ∀ c b, get (f c b) = get c) (l : List β)
    (c : Core) : get (l.foldl f c) = get c := by
  induction l generalizing c with
  | nil => rfl
  | cons b l ih => rw [List.foldl_cons, ih, hf]

/-! ### Starting -/

/-- A core whose job j has started in clock clk with the given streams. -/
def Core.started (c : Core) (clk j : Nat) (ts : List (Nat × Stream)) : Core :=
  ((ts.foldl (fun (c : Core) p => c.setStream p.1 p.2) { c with rb := [] }).updJob j fun b =>
    { b with st := .running, startClk := clk, lines := [] }).reconsider.dropLines fun _ => true

theorem State.startJob_core (s : State) (cid j : Nat) :
    let b := (s.core cid).job j
    let img := ((s.die (dieOf cid)).image (descImage b.desc)).bits
    (s.startJob cid j).core cid
      = (s.core cid).started s.cycles j (((s.core cid).jobKeys j).map fun k => (k, s.startStream cid j k b img)) := by
  intro b img
  unfold State.startJob
  exact State.core_updCore_same ..

theorem Core.started_job (c : Core) (clk j : Nat) (ts : List (Nat × Stream)) :
    (c.started clk j ts).job j = { c.job j with st := .running, startClk := clk, lines := [] } := by
  have hjobs := Core.foldl_keeps (fun c => c.jobs) (fun (c : Core) (p : Nat × Stream) => c.setStream p.1 p.2) (fun _ _ => rfl) ts
    { c with rb := [] }
  have hjob : (ts.foldl (fun (c : Core) p => c.setStream p.1 p.2) { c with rb := [] }).job j = c.job j := by
    simp only [Core.job, hjobs]
  refine (Core.job_updJob_same _ j fun b => { b with st := .running, startClk := clk, lines := [] }).trans ?_
  rw [hjob]

theorem Core.started_stagedJob (c : Core) (clk j : Nat) (ts : List (Nat × Stream)) :
    (c.started clk j ts).stagedJob = c.stagedJob :=
  Core.foldl_keeps (fun c => c.stagedJob) (fun (c : Core) (p : Nat × Stream) => c.setStream p.1 p.2) (fun _ _ => rfl) ts
    { c with rb := [] }

theorem Core.started_stream (c : Core) (clk j : Nat) (g : Nat → Stream) {ks : List Nat} {k : Nat} (hk : k ∈ ks) :
    (c.started clk j (ks.map fun k => (k, g k))).stream k = g k := by
  refine (Core.stream_foldl_setStream g ks { c with rb := [] } k).trans ?_
  rw [if_pos hk]

/-- A stream as its job starts. -/
theorem State.startStream_spec (s : State) (cid j k : Nat) (b : Job) (img : Nat) :
    let u := s.startStream cid j k b img
    u.st = .live ∧ u.job = j ∧ u.pc = imgEntry img (k / 4) % 2 ^ 48 ∧ u.getX 4 = BitVec.ofNat 64 (descArg b.desc) := by
  intro u
  refine ⟨?_, ?_, ?_, ?_⟩
  · simp only [u, State.startStream, Stream.setX_st]
  · simp only [u, State.startStream, Stream.setX_job]
  · simp only [u, State.startStream, Stream.setX_pc, fld_zero]
  · exact Stream.getX_setX_same _ 4 _

/-- Streams held for a job: the rest of their core is unchanged. -/
theorem Core.hold_streams (j : Nat) (ks : List Nat) (c : Core) :
    let x := ks.foldl (fun (c : Core) k => c.updStream k fun t => { t with st := .held, job := j }) c
    x.jobs = c.jobs ∧ ∀ k ∈ ks, (x.stream k).st = .held ∧ (x.stream k).job = j := by
  intro x
  refine ⟨Core.foldl_keeps (fun c => c.jobs) (fun (c : Core) k => c.updStream k fun t => { t with st := .held, job := j })
    (fun _ _ => rfl) ks c, ?_⟩
  suffices h : ∀ (ks : List Nat) (c : Core) (k : Nat), (k ∈ ks ∨ (c.stream k).st = .held ∧ (c.stream k).job = j) →
      let y := ks.foldl (fun (c : Core) k => c.updStream k fun t => { t with st := .held, job := j }) c
      (y.stream k).st = .held ∧ (y.stream k).job = j from fun k hk => h ks c k (.inl hk)
  intro ks
  induction ks with
  | nil => exact fun c k h => h.resolve_left (List.not_mem_nil)
  | cons a ks ih =>
    intro c k h
    refine ih _ k ?_
    by_cases ha : k = a
    · subst ha
      exact .inr (by rw [Core.stream_updStream_same]; exact ⟨rfl, rfl⟩)
    · rw [Core.stream_updStream_ne _ _ ha]
      exact h.imp_left fun hm => (List.mem_cons.mp hm).resolve_left ha

theorem State.foldl_updCore_core {β : Type} (f : β → Core → Core) (cid : Nat) (l : List β) (s : State) :
    (l.foldl (fun s b => s.updCore cid (f b)) s).core cid = l.foldl (fun c b => f b c) (s.core cid) := by
  induction l generalizing s with
  | nil => rfl
  | cons b l ih => rw [List.foldl_cons, ih, State.core_updCore_same, List.foldl_cons]

theorem State.foldl_updCore_rest {β : Type} (f : β → Core → Core) (cid : Nat) (l : List β) (s : State) :
    (l.foldl (fun s b => s.updCore cid (f b)) s).dies = s.dies
      ∧ (l.foldl (fun s b => s.updCore cid (f b)) s).cycles = s.cycles := by
  induction l generalizing s with
  | nil => exact ⟨rfl, rfl⟩
  | cons b l ih => exact ⟨(ih _).1.trans rfl, (ih _).2.trans rfl⟩

end Sys2Proof.Machine
end

section
/-!
PROOF. O53: the loader, doorbells, event records and the management commands (R87 to R96, R103, R318).
-/

namespace Sys2Proof.Machine

/-! ### What leaving a group keeps of a core -/

/-- Core cid keeps its mailbox and the descriptors of its jobs. -/
def State.KeepsMail (cid : Nat) (s t : State) : Prop :=
  (t.core cid).mbox = (s.core cid).mbox ∧ ∀ j, ((t.core cid).job j).desc = ((s.core cid).job j).desc

theorem State.KeepsMail.refl (cid : Nat) (s : State) : State.KeepsMail cid s s := ⟨rfl, fun _ => rfl⟩

theorem State.KeepsMail.trans {cid : Nat} {s t u : State} (h : State.KeepsMail cid s t) (g : State.KeepsMail cid t u) :
    State.KeepsMail cid s u := ⟨g.1.trans h.1, fun j => (g.2 j).trans (h.2 j)⟩

theorem State.KeepsMail.setCore {cid o : Nat} {s : State} {c : Core} (hm : c.mbox = (s.core o).mbox)
    (hj : ∀ j, (c.job j).desc = ((s.core o).job j).desc) : State.KeepsMail cid s (s.setCore o c) := by
  unfold State.KeepsMail
  rw [State.core_setCore]
  split
  · rename_i ho
    subst ho
    exact ⟨hm, hj⟩
  · exact ⟨rfl, fun _ => rfl⟩

theorem State.KeepsMail.updCore {cid o : Nat} {s : State} {f : Core → Core} (hm : ∀ c, (f c).mbox = c.mbox)
    (hj : ∀ c j, ((f c).job j).desc = (c.job j).desc) : State.KeepsMail cid s (s.updCore o f) :=
  .setCore (hm _) (hj _)

theorem State.KeepsMail.setGroup {cid : Nat} {s : State} (g : Nat) (v : Group) : State.KeepsMail cid s (s.setGroup g v) :=
  ⟨rfl, fun _ => rfl⟩

theorem State.KeepsMail.foldl {β : Type} {cid : Nat} {f : State → β → State} (hf : ∀ s b, State.KeepsMail cid s (f s b))
    (l : List β) (s : State) : State.KeepsMail cid s (l.foldl f s) := by
  induction l generalizing s with
  | nil => exact .refl ..
  | cons b l ih => exact (hf s b).trans (ih _)

theorem Core.recordTrap_mbox (c : Core) (clk j : Nat) (r : TrapRec) : (c.recordTrap clk j r).mbox = c.mbox := by
  unfold Core.recordTrap
  dsimp only
  split
  all_goals first
    | rfl
    | (split <;> rfl)

theorem Core.desc_setJob (c : Core) {j : Nat} {b : Job} (h : b.desc = (c.job j).desc) (i : Nat) :
    ((c.setJob j b).job i).desc = (c.job i).desc := by
  rw [Core.job_setJob]
  split
  · rename_i hi
    rw [hi, h]
  · rfl

theorem Core.recordTrap_desc (c : Core) (clk j : Nat) (r : TrapRec) (i : Nat) :
    ((c.recordTrap clk j r).job i).desc = (c.job i).desc := by
  unfold Core.recordTrap
  dsimp only
  split
  · exact c.desc_setJob (by rfl) i
  · exact c.desc_setJob (by rfl) i
  · split
    · exact c.desc_setJob (by rfl) i
    · rfl
  all_goals rfl

theorem Core.recordResidue_mbox (c : Core) (clk j : Nat) (r : TrapRec) : (c.recordResidue clk j r).mbox = c.mbox := by
  unfold Core.recordResidue
  split
  · rfl
  · rfl
  all_goals exact c.recordTrap_mbox clk j r

theorem Core.recordResidue_desc (c : Core) (clk j : Nat) (r : TrapRec) (i : Nat) :
    ((c.recordResidue clk j r).job i).desc = (c.job i).desc := by
  unfold Core.recordResidue
  split
  · exact c.desc_setJob (by rfl) i
  · exact c.desc_setJob (by rfl) i
  all_goals exact c.recordTrap_desc clk j r i

theorem State.leaveGroup_keepsMail (s : State) (o cid k g pc : Nat) : State.KeepsMail o s (s.leaveGroup cid k g pc) := by
  unfold State.leaveGroup
  dsimp only
  split
  · exact .refl ..
  · have hout : State.KeepsMail o s (s.updCore cid fun c => c.updStream k fun t => { t with groups := t.groups.filter (· != g) }) :=
      .updCore (fun _ => rfl) fun _ _ => rfl
    split
    · refine hout.trans ((State.KeepsMail.setGroup g {}).trans (State.KeepsMail.foldl (fun t i => ?_) _ _))
      have hunbind : State.KeepsMail o t (t.setCore i { t.core i with barriers := unbind g (t.core i).barriers }) :=
        .setCore rfl fun _ => by simp only [Core.job]
      refine hunbind.trans (State.KeepsMail.foldl (fun u b => ?_) _ _)
      exact .updCore (fun c => c.recordResidue_mbox ..) fun c j => c.recordResidue_desc ..
    · exact hout.trans (.setGroup g _)

theorem State.leaveAll_keepsMail (s : State) (o cid k pc : Nat) : State.KeepsMail o s (s.leaveAll cid k pc) :=
  State.KeepsMail.foldl (fun s _ => s.leaveGroup_keepsMail ..) _ _

theorem Core.mbox_updJob (c : Core) (j : Nat) (f : Job → Job) : (c.updJob j f).mbox = c.mbox := rfl

/-- A record that finds a free place enters the event FIFO, and a job that is over leaves its slot. -/
theorem Core.event_enters {c : Core} {j : Nat} {ev : Event} (hl : c.mbox.fifo.length < 16) (hh : c.mbox.held = [])
    (hst : (c.job j).st.leaves = true) :
    (c.event j ev).mbox.fifo = c.mbox.fifo ++ [ev] ∧ ((c.event j ev).job j).st = .free := by
  unfold Core.event
  simp only [hl, hh, List.isEmpty_nil, decide_true, Bool.and_self, if_true, hst]
  exact ⟨rfl, by simp only [Core.job, Core.freeJob, mget_mput_same]⟩

/-- REMOVE ends with the job's record in the event FIFO and its slot free. -/
theorem State.remove_spec {s : State} {cid j : Nat} (hl : (s.core cid).mbox.fifo.length < 16)
    (hh : (s.core cid).mbox.held = []) :
    (((s.remove cid j).core cid).job j).st = .free
      ∧ ((s.remove cid j).core cid).mbox.fifo
          = (s.core cid).mbox.fifo ++ [⟨descTag ((s.core cid).job j).desc, 6, 0, j, 0, s.cycles⟩] := by
  obtain ⟨hm, hd⟩ := State.KeepsMail.foldl (fun s k => State.leaveAll_keepsMail s cid cid k 0) ((s.core cid).jobKeys j) s
  unfold State.remove
  dsimp only
  rw [State.core_updCore_same]
  generalize (((s.core cid).jobKeys j).foldl (fun s k => s.leaveAll cid k 0) s).core cid = c at hm hd
  have hret : ((c.updJob j fun b => { b with st := .retired }).job j).st.leaves = true := by
    rw [Core.job_updJob_same]
    rfl
  obtain ⟨hf, hj⟩ := Core.event_enters (c := c.updJob j fun b => { b with st := .retired }) (ev := c.jobEvent s.cycles j 6 0)
    (by rw [Core.mbox_updJob, hm]; exact hl) (by rw [Core.mbox_updJob, hm]; exact hh) hret
  refine ⟨hj, hf.trans ?_⟩
  rw [Core.mbox_updJob, hm, Core.jobEvent, hd]

/-! ### What a prefetch keeps of a core -/

theorem State.wantLine_jobs (s : State) (cid leaf va line i : Nat) : ((s.wantLine cid leaf va line).core i).jobs = (s.core i).jobs := by
  unfold State.wantLine
  dsimp only
  split
  · rfl
  · split
    · split
      · rfl
      · split <;> rfl
    · split
      · rfl
      · rw [State.core_setCore]
        split
        · rename_i hi
          rw [hi]
        · rfl

theorem State.foldl_keeps {β γ : Type} (get : State → γ) (f : State → β → State) (hf : ∀ s b, get (f s b) = get s) (l : List β)
    (s : State) : get (l.foldl f s) = get s := by
  induction l generalizing s with
  | nil => rfl
  | cons b l ih => rw [List.foldl_cons, ih, hf]

theorem State.prefetch_jobs (s : State) (cid it va i : Nat) : ((s.prefetch cid it va).1.core i).jobs = (s.core i).jobs := by
  unfold State.prefetch
  dsimp only
  split
  · rfl
  · refine (State.foldl_keeps (fun s => (s.core i).jobs) _ (fun s l => s.wantLine_jobs ..) _ _).trans ?_
    rw [State.core_updCore]
    split
    · rename_i hi
      subst hi
      split <;> rfl
    · rfl

theorem State.prefetchAll_jobs (s : State) (cid it img i : Nat) :
    ((s.prefetchAll cid it img).1.core i).jobs = (s.core i).jobs := by
  unfold State.prefetchAll
  refine List.foldlRecOn _ _ (motive := fun (x : State × List Nat) => (x.1.core i).jobs = (s.core i).jobs) rfl fun x hx e _ => ?_
  exact (State.prefetch_jobs ..).trans hx

/-- A core that job j takes its place on again, b being its record. -/
def Core.reloaded (c : Core) (clk j img : Nat) (b : Job) : Core :=
  let ks := c.jobKeys j
  let gs := ks.map fun k => (k, (c.stream k).groups)
  let n : Job := { newJob b.desc img b.semBase b.sec with
    trap := b.trap, qmask := b.qmask, semSize := b.semSize, engmask := b.engmask, priv := b.priv, again := true }
  let c1 := c.unstage clk b.sec
  let c2 := { c1 with
    queues := (maskBits 16 b.qmask).foldl (fun m q => mput {} q {} m) c1.queues
    retires := c1.retires.filter fun r => r.job != j
    maturing := c1.maturing.filter fun m => m.job != j }
  gs.foldl (fun c g => c.updStream g.1 fun t => { t with groups := g.2 }) (c2.claim ⟨j, ks, b.semBase⟩ n)

theorem Core.reloaded_job (c : Core) (clk j img : Nat) (b : Job) :
    let n := (c.reloaded clk j img b).job j
    n.st = .loading ∧ n.desc = b.desc ∧ n.sec = b.sec := by
  intro n
  have hfold : ∀ (gs : List (Nat × List Nat)) (c : Core),
      (gs.foldl (fun (c : Core) g => c.updStream g.1 fun t => { t with groups := g.2 }) c).job j = c.job j := fun gs c => by
    simp only [Core.job, Core.foldl_keeps (fun c => c.jobs) (fun (c : Core) (g : Nat × List Nat) =>
      c.updStream g.1 fun t => { t with groups := g.2 }) (fun _ _ => rfl)]
  simp only [n, Core.reloaded, hfold, Core.claim, Core.job_setJob_same]
  exact ⟨rfl, rfl, rfl⟩

theorem State.rerun_fresh {s : State} {cid j : Nat} (hr : descRes ((s.core cid).job j).desc = false) :
    let b := (s.core cid).job j
    let img := ((s.die (dieOf cid)).image (descImage b.desc)).bits
    let r := (s.setCore cid ((s.core cid).reloaded s.cycles j img b)).prefetchAll cid (descIt b.desc) img
    s.rerun cid j = r.1.updCore cid fun c => c.updJob j fun b => { b with lines := r.2 } := by
  intro b img r
  unfold State.rerun
  exact if_neg (by rw [hr]; exact Bool.false_ne_true)

/-- RERUN loads a stopped job again with its own descriptor and section. -/
theorem State.rerun_spec {s : State} {cid j : Nat} (hr : descRes ((s.core cid).job j).desc = false) :
    let u := ((s.rerun cid j).core cid).job j
    u.st = .loading ∧ u.desc = ((s.core cid).job j).desc ∧ u.sec = ((s.core cid).job j).sec := by
  intro u
  have hjob : ∀ (t : State) (it img : Nat), ((t.prefetchAll cid it img).1.core cid).job j = (t.core cid).job j :=
    fun t it img => by simp only [Core.job, State.prefetchAll_jobs]
  simp only [u, State.rerun_fresh hr, State.core_updCore_same, Core.job_updJob_same, hjob, State.core_setCore_same]
  exact Core.reloaded_job ..

end Sys2Proof.Machine
end

section
/-!
PROOF. O53: the loader's turn, the start of a loaded or staged job, doorbells and the management commands.
-/

namespace Sys2Proof.Machine

/-! ### The loader's turn (R93) -/

section
variable {s : State} {c : Nat}

theorem State.consider_skip {q : Nat} (h : (s.core c).unstarted q = true ∨ (s.core c).mbox.headOf q = none) (n : Nat) :
    s.consider c q (n + 1) = s.consider c (q + 1) n := by
  have hnone : (if (s.core c).unstarted q then none else (s.core c).mbox.headOf q) = none := by
    obtain h | h := h
    · exact if_pos h
    · rw [h, ite_self]
  rw [State.consider, hnone]

/-- Queues that have nothing to start are passed over. -/
theorem State.consider_from {q : Nat} (h : ∀ i, i < q → (s.core c).unstarted i = true ∨ (s.core c).mbox.headOf i = none) (n : Nat) :
    s.consider c 0 (q + n) = s.consider c q n := by
  induction q generalizing n with
  | zero => rw [Nat.zero_add]
  | succ q ih =>
    rw [Nat.add_right_comm, Nat.add_assoc, ih (fun i hi => h i (Nat.lt_succ_of_lt hi)), State.consider_skip (h q (Nat.lt_succ_self q))]

/-- What the loader does with the first head that is to be considered. -/
def State.actOn (s : State) (c q d : Nat) (vf : Bool) (n : Nat) : State :=
  let z := s.setCore c { s.core c with mbox := (s.core c).mbox.take q }
  match s.headAct c q d vf with
  | .refuse code => z.updCore c fun y => y.refuse s.cycles (descTag d) code q
  | .load p sec => z.load c d p sec
  | .restore p sec r => z.loadSaved c d p sec r
  | .stage => z.stageJob c d
  | .block => (match s.preempts c q d vf with
    | none => s
    | some j => s.setCore c ((s.core c).request j false true)).consider c (q + 1) n

theorem State.consider_head {q d : Nat} {vf : Bool} (hu : (s.core c).unstarted q = false)
    (hh : (s.core c).mbox.headOf q = some (d, vf)) (n : Nat) : s.consider c q (n + 1) = s.actOn c q d vf n := by
  have hsome : (if (s.core c).unstarted q then none else (s.core c).mbox.headOf q) = some (d, vf) := by
    rw [hu, hh]
    rfl
  rw [State.consider, hsome, State.actOn]
  dsimp only
  cases ha : s.headAct c q d vf with
  | block => cases hp : s.preempts c q d vf <;> rfl
  | refuse code => rfl
  | load p sec => rfl
  | restore p sec r => rfl
  | stage => rfl

end

theorem State.loaderFree_eq {s : State} {c : Nat} (hf : (s.core c).frozen = false) (hl : (s.core c).mbox.fifo.length < 16)
    (hh : (s.core c).mbox.held = []) (hs : s.settled (dieOf c) = true) : s.loaderFree c = true := by
  simp only [State.loaderFree, hf, hl, hh, hs, Bool.not_false, decide_true, List.isEmpty_nil, Bool.and_self]

section
variable {s : State} {c : Nat} (hfree : s.loaderFree c = true)
include hfree

theorem loaderConsider_eq (hc : (s.core c).mbox.consider = true) :
    exec (.loaderConsider c) s = .next (s.consider c 0 4) := by
  rw [exec_loaderConsider, execLoaderConsider, hc, hfree]
  rfl

theorem loaderConsider_nothing (hc : (s.core c).mbox.consider = true)
    (h : ∀ q, q < 4 → (s.core c).unstarted q = true ∨ (s.core c).mbox.headOf q = none) :
    exec (.loaderConsider c) s
      = .next (s.setCore c { s.core c with mbox := { (s.core c).mbox with consider := false } }) := by
  rw [loaderConsider_eq hfree hc, State.consider_from (q := 4) h 0]
  rfl

theorem loaderConsider_acts (hc : (s.core c).mbox.consider = true) {q d : Nat} {vf : Bool} (hq : q < 4)
    (h : ∀ i, i < q → (s.core c).unstarted i = true ∨ (s.core c).mbox.headOf i = none)
    (hu : (s.core c).unstarted q = false) (hh : (s.core c).mbox.headOf q = some (d, vf)) :
    exec (.loaderConsider c) s = .next (s.actOn c q d vf (3 - q)) := by
  have hfour : (4 : Nat) = q + (3 - q + 1) := by omega
  rw [loaderConsider_eq hfree hc, hfour, State.consider_from h, State.consider_head hu hh]

/-! ### Starting (R94, R95) -/

theorem jobLoadDone_eq {j : Nat} (hst : ((s.core c).job j).st = .loading)
    (hp : s.prefetched c ((s.core c).job j).lines = true) :
    exec (.jobLoadDone c j) s = .next (s.startLoaded c j) := by
  rw [exec_jobLoadDone, execJobLoadDone]
  simp only [hst, hfree, hp, beq_self_eq_true, Bool.and_self, if_true]

theorem stagedJobStart_eq {d : Nat} (hd : (s.core c).stagedJob = some d) :
    exec (.stagedJobStart c) s = .next (s.startStaged c d) := by
  rw [exec_stagedJobStart, execStagedJobStart]
  simp only [hd, hfree, if_true]

end

/-- A core with streams held for job j. -/
def Core.holding (c : Core) (j : Nat) (ks : List Nat) : Core :=
  ks.foldl (fun (c : Core) k => c.updStream k fun t => { t with st := .held, job := j }) c

/-- A fresh start of a loaded job. -/
theorem State.startLoaded_fresh {s : State} {c j : Nat} {p : Place} (hr : ((s.core c).job j).resKind = 0)
    (hp : (s.core c).rerunPlace j ((s.core c).job j).engmask = some p) :
    ∃ t : State, s.startLoaded c j = t.startJob c j ∧ t.core c = (s.core c).holding j p.keys ∧ t.dies = s.dies
      ∧ t.cycles = s.cycles := by
  obtain ⟨hdies, hcyc⟩ := State.foldl_updCore_rest (fun k c => c.updStream k fun t => { t with st := .held, job := j }) c p.keys s
  refine ⟨_, ?_, State.foldl_updCore_core (fun k c => c.updStream k fun t => { t with st := .held, job := j }) c p.keys s,
    hdies, hcyc⟩
  unfold State.startLoaded
  simp only [hr, hp]

theorem startLoaded_spec {s : State} {c j : Nat} {p : Place} (hr : ((s.core c).job j).resKind = 0)
    (hp : (s.core c).rerunPlace j ((s.core c).job j).engmask = some p) :
    let b := (s.core c).job j
    let img := ((s.die (dieOf c)).image (descImage b.desc)).bits
    let x := (s.startLoaded c j).core c
    x.job j = { b with st := .running, startClk := s.cycles, lines := [] }
      ∧ ∀ k ∈ p.keys, let u := x.stream k
          u.st = .live ∧ u.job = j ∧ u.pc = imgEntry img (k / 4) % 2 ^ 48 ∧ u.getX 4 = BitVec.ofNat 64 (descArg b.desc) := by
  intro b img x
  obtain ⟨t, ht, hcore, hdies, hcyc⟩ := State.startLoaded_fresh hr hp
  obtain ⟨hjobs, hheld⟩ := Core.hold_streams j p.keys (s.core c)
  have hjob : (t.core c).job j = b := by
    rw [hcore, Core.job, Core.holding, hjobs]
    rfl
  have himg : ((t.die (dieOf c)).image (descImage b.desc)).bits = img := by
    rw [State.die, hdies]
    rfl
  have hx : x = _ := (congrArg (fun u => u.core c) ht).trans (t.startJob_core c j)
  rw [hjob, himg, hcyc] at hx
  rw [hx]
  refine ⟨(Core.started_job ..).trans (by rw [hjob]), fun k hk => ?_⟩
  have hmem : k ∈ (t.core c).jobKeys j := by
    obtain ⟨hst, hj⟩ := hheld k hk
    rw [hcore]
    exact Core.mem_jobKeys.mpr ⟨(Core.rerunPlace_keys hp).2 k hk, by rw [Core.holding, hst]; nofun, hj⟩
  intro u
  have hu : u = t.startStream c j k b img := Core.started_stream _ _ _ _ hmem
  rw [hu]
  exact t.startStream_spec ..

/-! ### Claiming a place -/

theorem foldl_mput_held {ks : List Nat} (j : Nat) (m : SMap Stream) {k : Nat} (hk : k ∈ ks) :
    mget {} (ks.foldl (fun m k => mput {} k { st := .held, job := j } m) m) k = ({ st := .held, job := j } : Stream) := by
  suffices h : ∀ (ks : List Nat) (m : SMap Stream), (k ∈ ks ∨ mget {} m k = ({ st := .held, job := j } : Stream)) →
      mget {} (ks.foldl (fun m k => mput {} k { st := .held, job := j } m) m) k = ({ st := .held, job := j } : Stream) from
    h ks m (.inl hk)
  intro ks
  induction ks with
  | nil => exact fun m h => h.resolve_left List.not_mem_nil
  | cons a ks ih =>
    intro m h
    refine ih _ ?_
    by_cases ha : k = a
    · exact .inr (by rw [ha, mget_mput_same])
    · rw [mget_mput_ne _ _ _ ha]
      exact h.imp_left fun hm => (List.mem_cons.mp hm).resolve_left ha

theorem Core.claim_stream (c : Core) {p : Place} (b : Job) {k : Nat} (hk : k ∈ p.keys) :
    (c.claim p b).stream k = { st := .held, job := p.slot } := foldl_mput_held p.slot c.streams hk

theorem Core.claim_job (c : Core) (p : Place) (b : Job) : (c.claim p b).job p.slot = b := Core.job_setJob_same ..

/-- A staged job d takes its plane and the place p. -/
def State.claimStaged (s : State) (c d : Nat) (p : Place) : State :=
  let img := ((s.die (dieOf c)).image (descImage d)).bits
  (s.updCore c fun c => ({ c with stagedJob := none } : Core).activate.reconsider).updCore c fun x =>
    x.claim p (newJob d img p.semBase (part 0 136 (s.core c).staged))

/-- A staged job starts in the place that it fits into. -/
theorem startStaged_spec {s : State} {c d : Nat} {p : Place}
    (hp : let img := ((s.die (dieOf c)).image (descImage d)).bits
      descRes d = false ∧ (s.core c).place (imgMask img) (imgSems img) (imgQmask img) = some p) :
    let img := ((s.die (dieOf c)).image (descImage d)).bits
    let x := (s.startStaged c d).core c
    x.stagedJob = none ∧ (x.job p.slot).st = .running ∧ (x.job p.slot).desc = d ∧ ∀ k ∈ p.keys, let u := x.stream k
      u.st = .live ∧ u.job = p.slot ∧ u.pc = imgEntry img (k / 4) % 2 ^ 48 := by
  intro img x
  obtain ⟨hres, hplace⟩ := hp
  let b := newJob d img p.semBase (part 0 136 (s.core c).staged)
  let z := ({ s.core c with stagedJob := none } : Core).activate.reconsider
  let t := s.claimStaged c d p
  have ht : s.startStaged c d = t.startJob c p.slot := by
    unfold State.startStaged
    simp only [hres, hplace, Bool.false_eq_true, if_false]
    rfl
  have hcore : t.core c = z.claim p b := by
    simp only [t, State.claimStaged, State.core_updCore_same]
    rfl
  have hdies : t.dies = s.dies := rfl
  have hjob : (t.core c).job p.slot = b := by rw [hcore, Core.claim_job]
  have himg : ((t.die (dieOf c)).image (descImage d)).bits = img := by
    rw [State.die, hdies]
    rfl
  have hx : x = _ := (congrArg (fun u => u.core c) ht).trans (t.startJob_core c p.slot)
  rw [hjob] at hx
  rw [hx]
  refine ⟨(Core.started_stagedJob ..).trans (by rw [hcore]; rfl), by rw [Core.started_job], by rw [Core.started_job, hjob]; rfl,
    fun k hk => ?_⟩
  have hmem : k ∈ (t.core c).jobKeys p.slot := by
    rw [hcore]
    refine Core.mem_jobKeys.mpr ⟨Core.place_keys hplace k hk, ?_, ?_⟩ <;> rw [Core.claim_stream _ _ hk]
    nofun
  intro u
  have hu : u = t.startStream c p.slot k b ((t.die (dieOf c)).image (descImage d)).bits := Core.started_stream _ _ _ _ hmem
  obtain ⟨hst, hj, hpc, _⟩ := t.startStream_spec c p.slot k b ((t.die (dieOf c)).image (descImage d)).bits
  rw [hu]
  rw [himg] at hpc hst hj ⊢
  exact ⟨hst, hj, hpc⟩

/-! ### The host's side of the mailbox (R88, R90) -/

section
variable {s : State} {fn c q v : Nat} (hq : q < 4) (hm : s.hostMay fn c = true)
include hq hm

theorem hostDoorbellWrite_eq :
    exec (.hostDoorbellWrite fn c q v) s = .next (s.setCore c ((s.core c).doorbell s.cycles fn q v)) := by
  rw [exec_hostDoorbellWrite, execHostDoorbellWrite]
  exact congrArg _ (if_neg (by simp [hq, hm]))

theorem hostDoorbellWrite_refused (h : v = 0 ∨ 8 < v ∨ 8 < (s.core c).mbox.load q + v) :
    exec (.hostDoorbellWrite fn c q v) s = .next (s.setCore c ((s.core c).refuse s.cycles 0 0x04 q)) := by
  rw [hostDoorbellWrite_eq hq hm, Core.doorbell]
  exact congrArg (fun x => Host.Outcome.next (s.setCore c x)) (if_pos (by simpa [or_assoc] using h))

theorem hostDoorbellWrite_taken (h0 : v ≠ 0) (h8 : v ≤ 8) (hl : (s.core c).mbox.load q + v ≤ 8) :
    Completes (.hostDoorbellWrite fn c q v) s fun t => (t.core c).mbox.consider = true
      ∧ (t.core c).mbox.tail = mput 0 q ((mget 0 (s.core c).mbox.tail q + v) % 16) (s.core c).mbox.tail := by
  refine ⟨_, hostDoorbellWrite_eq hq hm, ?_⟩
  have hfits : ¬(v = 0 || decide (8 < v) || decide (8 < (s.core c).mbox.load q + v)) = true := by simp [h0, h8, hl]
  dsimp only
  rw [State.core_setCore_same]
  unfold Core.doorbell
  dsimp only
  rw [if_neg hfits]
  exact ⟨rfl, rfl⟩

end

theorem Core.admitEvents_free {c : Core} (hh : c.mbox.held = []) (n : Nat) : c.admitEvents n = c := by
  cases n with
  | zero => rfl
  | succ n =>
    rw [Core.admitEvents]
    simp only [hh, ite_self]

/-- A core whose oldest event record has gone. -/
def Core.popEvent (c : Core) : Core := { c with mbox := { c.mbox with fifo := c.mbox.fifo.tail } }

theorem eventPop_eq {s : State} {c : Nat} (hr : s.ready = true) (hl : (s.core c).mbox.fifo.length < 16)
    (hh : (s.core c).mbox.held = []) : exec (.eventPop c) s
      = .next (s.setCore c (s.core c).popEvent) := by
  rw [exec_eventPop, execEventPop]
  simp only [hr, Bool.not_true, Bool.false_eq_true, if_false, State.updCore, Nat.not_le.mpr hl]
  exact congrArg (fun x => Host.Outcome.next (s.setCore c x)) (Core.admitEvents_free (c := (s.core c).popEvent) hh 16)

/-! ### Management commands (R91, R96, R103) -/

section
variable {s : State} {c j : Nat} (hj : j < 8) (hr : s.ready = true) (ht : s.trip = false)
include hj hr ht

theorem mboxRemove_eq : exec (.mboxRemove c j) s = .next (s.mboxCommand c 1 j) := by
  rw [exec_mboxRemove, execMboxRemove, hr, ht, Nat.mod_eq_of_lt hj]
  rfl

theorem mboxPreempt_eq : exec (.mboxPreempt c j) s = .next (s.mboxCommand c 2 j) := by
  rw [exec_mboxPreempt, execMboxPreempt, hr, ht, Nat.mod_eq_of_lt hj]
  rfl

theorem mboxRerun_eq : exec (.mboxRerun c j) s = .next (s.mboxCommand c 3 j) := by
  rw [exec_mboxRerun, execMboxRerun, hr, ht, Nat.mod_eq_of_lt hj]
  rfl

end

theorem Core.request_running (c : Core) {j : Nat} (hst : (c.job j).st = .running) (o l : Bool) :
    c.request j o l = c.setJob j (if c.frozen then { c.job j with asked := true }
      else { c.job j with st := .yielding, grace := true, remain := 65536, overrun := o, byLoader := l }) := by
  unfold Core.request Core.updJob
  cases c.frozen <;> simp only [hst, decide_true, Bool.and_true, Bool.and_false, Bool.false_eq_true, if_true, if_false]

/-! ### O53 -/

/-- Settles O53. -/
theorem loaderEvents : Obligations.LoaderEvents := by
  refine ⟨fun s c hc hf hl hh hs => ?_, fun s c j hst hf hl hh hs hp => ?_, fun s c d hd hf hl hh hs => ?_,
    fun s fn c q v hq hm => ⟨hostDoorbellWrite_refused hq hm, hostDoorbellWrite_taken hq hm⟩,
    fun s c hr hl hh => ⟨_, eventPop_eq hr hl hh, coreStep_set ..⟩, fun s c j hj hr ht => ?_⟩
  · have hfree := State.loaderFree_eq hf hl hh hs
    refine ⟨loaderConsider_nothing hfree hc, fun q d vf hq h hu hhead => ?_⟩
    intro z acts
    have he := loaderConsider_acts hfree hc hq h hu hhead
    refine ⟨fun n ha => ?_, fun p sec ha => ?_, fun p sec r ha => ?_, fun ha => ?_, fun ha => ?_⟩ <;>
      simp only [State.actOn, ha] at he
    · exact he
    · exact he
    · exact he
    · exact he
    · refine he.trans ?_
      cases s.preempts c q d vf <;> rfl
  · have he := jobLoadDone_eq (State.loaderFree_eq hf hl hh hs) hst hp
    exact ⟨he, fun p hr hplace => ⟨_, he, startLoaded_spec hr hplace⟩⟩
  · have he := stagedJobStart_eq (State.loaderFree_eq hf hl hh hs) hd
    exact ⟨he, fun p hres hplace => ⟨_, he, startStaged_spec ⟨hres, hplace⟩⟩⟩
  · have hrem := mboxRemove_eq (c := c) hj hr ht
    have hpre := mboxPreempt_eq (c := c) hj hr ht
    have hrer := mboxRerun_eq (c := c) hj hr ht
    refine ⟨fun hst => ?_, fun hst => ?_, fun hst hp hf => ?_, fun hst hp hf => ?_, fun h => ?_⟩
    · have h1 := hrem.trans (congrArg _ (if_pos hst))
      have h3 := hrer.trans (congrArg _ (if_pos hst))
      exact ⟨h1, h3, fun hl hh => ⟨_, h1, State.remove_spec hl hh⟩, fun hres => ⟨_, h3, State.rerun_spec hres⟩⟩
    · exact ⟨hrem.trans (congrArg _ (if_neg hst)), hrer.trans (congrArg _ (if_neg hst))⟩
    · refine hpre.trans (congrArg _ ((if_pos (by simp [hst, hp])).trans ?_))
      rw [Core.request_running _ hst, hf]
      rfl
    · refine hpre.trans (congrArg _ ((if_pos (by simp [hst, hp])).trans ?_))
      rw [Core.request_running _ hst, hf]
      rfl
    · refine hpre.trans (congrArg _ (if_neg ?_))
      obtain h | h := h <;> simp [h]

end Sys2Proof.Machine
end

section
/-!
PROOF. O54: the host's side and bring-up (R363 to R367, R402 to R409, R411).
-/

namespace Sys2Proof.Machine

/-! ### Registers of the physical function -/

section
variable {s : State} (hr : s.ready = true) (ht : s.trip = false)
include hr ht

theorem State.pfMay_zero : s.pfMay 0 = true := by
  rw [State.pfMay, hr, ht]
  rfl

theorem hostWindowWrite_takes {w reg v : Nat} {x : Window} (hw : w < 64)
    (hx : (mget {} s.windows w).write reg (v % 2 ^ 64) = some x) :
    exec (.hostWindowWrite 0 w reg v) s = .next { s with windows := mput {} w x s.windows } := by
  rw [exec_hostWindowWrite, execHostWindowWrite]
  simp only [State.pfMay_zero hr ht, hw, hx, decide_true, Bool.and_self, if_true]

theorem partitionWrite_takes {v mask : Nat} (hok : s.partitionOk v (mask % 2 ^ 256) = true) :
    exec (.partitionWrite 0 v mask) s = .next { s with partitions := mput 0 v (mask % 2 ^ 256) s.partitions } := by
  rw [exec_partitionWrite, execPartitionWrite]
  exact congrArg _ (if_pos (by rw [State.pfMay_zero hr ht, hok]; rfl))

theorem moduleIdWrite_takes {v : Nat} (hv : v < 2 ^ 8) (hl : (s.links.all fun e => !e.2.up) = true) :
    exec (.moduleIdWrite 0 v) s = .next { s with moduleId := v } := by
  have hdown : (s.links.any fun e => e.2.up) = false := by
    rw [← Bool.not_eq_true', List.not_any_eq_all_not]
    exact hl
  rw [exec_moduleIdWrite, execModuleIdWrite]
  exact congrArg _ (if_pos (by rw [State.pfMay_zero hr ht, hdown, decide_eq_true hv]; rfl))

theorem linkEnableWrite_eq {k v : Nat} (hk : k < 8) (hv : v < 2) : exec (.linkEnableWrite 0 k v) s
    = .next (s.setLink k (if v = 1 then { s.link k with enable := true, training := !(s.link k).up }
        else { (s.link k).down with enable := false })) := by
  rw [exec_linkEnableWrite, execLinkEnableWrite]
  exact if_neg (by simp [State.pfMay_zero hr ht, hk, hv])

end

/-! ### Links -/

section
variable {s : State} {k : Nat}

theorem linkTrained_eq {peer lanes : Nat} (hr : s.ready = true) (he : (s.link k).enable = true) (hk : k < 8) (h1 : 1 ≤ lanes)
    (h16 : lanes ≤ 16) : exec (.linkTrained k peer lanes) s = .next (if (s.link k).training then
      s.setLink k { s.link k with up := true, training := false, peer := peer % 2 ^ 8, lanes := lanes } else s) := by
  rw [exec_linkTrained, execLinkTrained]
  simp only [hr, he, hk, h1, h16, decide_true, Bool.and_true, Bool.true_and]

theorem linkTrainingLoss_up (hu : (s.link k).up = true) :
    exec (.linkTrainingLoss k) s = .next (s.setLink k (s.link k).down) := by
  rw [exec_linkTrainingLoss, execLinkTrainingLoss, if_pos hu]

end

/-! ### BAR2 and BAR0 -/

theorem hostBar2Access_outside {s : State} {l a n : Nat} {w : Option (List Byte)} (h : 2 ^ 40 < a + n) :
    exec (.hostBar2Access l a n w) s = .fault .noSuchAddress := by
  rw [exec_hostBar2Access, execHostBar2Access, if_pos h]

theorem hostBar2Access_stamps {s : State} {l a n : Nat} {w : Option (List Byte)} (h : a + n ≤ 2 ^ 40) (hr : s.ready = true)
    (ht : s.trip = false) : exec (.hostBar2Access l a n w) s = .next ((bar2Packets l a n w).foldl (fun s p =>
      s.stamp (dieOf (hostRouter l)) (hostRouter l) 5 { p with issue := s.cycles % 2 ^ 32 }) s) := by
  rw [exec_hostBar2Access, execHostBar2Access, if_neg (Nat.not_lt.mpr h), hr, ht]
  rfl

/-- A dword of the image loaders' page lies in the block of its die. -/
theorem ilOffset_parts {d o : Nat} (hd : d < 16) (ho : o < 256) (h8 : o % 8 = 0) :
    (4 * 2 ^ 20 + d * 256 + o) % 8 = 0 ∧ (4 * 2 ^ 20 + d * 256 + o) / 2 ^ 20 = 4
      ∧ (4 * 2 ^ 20 + d * 256 + o) % 2 ^ 20 = d * 256 + o ∧ d * 256 + o < 0x1000 ∧ (d * 256 + o) / 0x100 = d
      ∧ (d * 256 + o) % 0x100 = o := by
  refine ⟨?_, ?_, ?_, ?_, ?_, ?_⟩ <;> omega

theorem registerWrite_imageLoader {s : State} (hr : s.ready = true) (ht : s.trip = false) {d o : Nat} (hd : d < 16)
    (ho : o < 256) (h8 : o % 8 = 0) (v : Nat) : exec (.registerWrite 0 (4 * 2 ^ 20 + d * 256 + o) v) s
      = .next (s.updDie d fun x => x.ilWrite o (v % 2 ^ 64)) := by
  obtain ⟨hal, hpage, hoff, hlt, hdie, hreg⟩ := ilOffset_parts hd ho h8
  rw [exec_registerWrite, execRegisterWrite]
  simp only [hal, hpage, hoff, hlt, hdie, hreg, hr, ht, bne_self_eq_false, Bool.not_true, Bool.or_self, Bool.false_eq_true,
    decide_true, Bool.and_self, if_false, if_true]

theorem registerWrite_misaligned {s : State} {off : Nat} (h : off % 8 ≠ 0) (fn v : Nat) :
    exec (.registerWrite fn off v) s = .next s := by
  rw [exec_registerWrite, execRegisterWrite]
  exact if_pos (by simp [h])

theorem registerWrite_lantern {s : State} (hr : s.ready = true) (ht : s.trip = false) (hl : bit s.lstat 63 = false) (v : Nat) :
    exec (.registerWrite 0 (9 * 2 ^ 20) v) s = .next { s with lcmd := v % 2 ^ 64, lstat := 2 ^ 63 } := by
  have hal : 9 * 2 ^ 20 % 8 = 0 := by omega
  have hpage : 9 * 2 ^ 20 / 2 ^ 20 = 9 := by omega
  have hoff : 9 * 2 ^ 20 % 2 ^ 20 = 0 := by omega
  rw [exec_registerWrite, execRegisterWrite]
  simp only [hal, hpage, hoff, hr, ht, hl, bne_self_eq_false, Bool.not_true, Bool.not_false, Bool.or_self, Bool.false_eq_true,
    decide_true, Bool.and_self, if_false, if_true]

/-! ### Sensors, the lantern and the safety trip -/

theorem sensorUpdate_takes {s : State} {d : Nat} (hd : d < 16) (hc : s.cycles % 2 ^ 16 = 0) (v : Nat) :
    exec (.sensorUpdate d v) s = .next (s.updDie d fun x => { x with temp := sextN 16 v }) := by
  rw [exec_sensorUpdate, execSensorUpdate]
  exact congrArg _ (if_pos (by rw [decide_eq_true hc, decide_eq_true hd]; rfl))

theorem lanternAttest_reports {s : State} (hb : bit s.lstat 63 = true) (hc : s.lcmd % 2 ^ 12 = 1) (hi : s.lanternIdx < 32768)
    (ha : s.lcmd / 2 ^ 12 * 2 ^ 12 + 64 + 40 * s.validImages.length + 2668 ≤ 2 ^ 40) : exec .lanternAttest s
      = .next { ({ s with lanternIdx := s.lanternIdx + 1, freeCtr := s.freeCtr + 1 } : State).poke
          (s.lcmd / 2 ^ 12 * 2 ^ 12 + 32) (attestReport s.lanternIdx s.freeCtr s.validImages) with lstat := 0 } := by
  rw [exec_lanternAttest, execLanternAttest]
  simp only [hb, hc, Nat.not_le.mpr hi, Nat.not_lt.mpr ha, Bool.not_true, bne_self_eq_false, Bool.false_eq_true, if_false]
  rfl

theorem safetyTrip_trips {s : State} {d : Nat} (hd : s.hotDie = some d) (ht : s.trip = false) :
    exec .safetyTrip s = .next { s with trip := true, tripDie := d, todo := [] } := by
  rw [exec_safetyTrip, execSafetyTrip]
  simp only [hd, ht, Bool.false_eq_true, if_false]

/-! ### Reset -/

/-- Wick memories that are loaded one after another: what the cores of a list hold, and that the rest of the module stays. -/
theorem loadWick_cores (l : List Nat) (s : State) :
    let t := l.foldl (fun s c => s.updCore c fun x => { x with wickMem := s.bring.wickImage }) s
    { t with cores := s.cores } = s
      ∧ ∀ c, (c ∈ l ∨ (s.core c).wickMem = s.bring.wickImage) → (t.core c).wickMem = s.bring.wickImage := by
  induction l generalizing s with
  | nil => exact ⟨rfl, fun c h => h.resolve_left List.not_mem_nil⟩
  | cons a l ih =>
    obtain ⟨hrest, hmem⟩ := ih (s.updCore a fun x => { x with wickMem := s.bring.wickImage })
    refine ⟨?_, fun c h => hmem c ?_⟩
    · exact (congrArg (fun u : State => { u with cores := s.cores }) hrest).trans rfl
    · rw [State.core_updCore]
      by_cases hc : c = a
      · exact .inr (by rw [if_pos hc]; rfl)
      · rw [if_neg hc]
        exact h.imp_left fun hm => (List.mem_cons.mp hm).resolve_left hc

theorem State.loadWick_spec (s : State) : { s.loadWick with cores := s.cores } = s
    ∧ ∀ c, c < 256 → (s.loadWick.core c).wickMem = s.bring.wickImage := by
  unfold State.loadWick
  obtain ⟨hrest, hmem⟩ := loadWick_cores (List.range 256) s
  exact ⟨hrest, fun c hc => hmem c (.inl (List.mem_range.mpr hc))⟩

theorem State.setTables_rest (s : State) : { s.setTables with dies := s.dies } = s := by
  unfold State.setTables
  suffices h : ∀ (l : List Nat) (t : State), { l.foldl (fun s d => s.updDie d fun x => { x with
      planeBase := mget 0 s.bring.planeBase d, planeCount := mget 0 s.bring.planeCount d, weights := s.bring.weights }) t with
        dies := t.dies } = t from h _ s
  intro l
  induction l with
  | nil => exact fun t => rfl
  | cons d l ih => exact fun t => (congrArg (fun u : State => { u with dies := t.dies }) (ih _)).trans rfl

/-- A module that has been brought up. -/
def State.booted (s : State) : State := { s with bootStep := 6, ready := true }

theorem reset_boots {s : State} (hs : s.bring.strap % 4 < 2) (hb : s.bring.bootOk = true) (ht : s.bring.trainOk = true)
    (hw : s.bring.wickOk = true) : exec .reset s
      = .next ({ s.cleared with bifur := s.bring.strap % 4 } : State).loadWick.setTables.booted := by
  rw [exec_reset, execReset]
  simp only [hb, ht, hw, Nat.not_le.mpr hs, Bool.not_true, Bool.false_eq_true, if_false, State.booted]

theorem State.core_of_cores {a b : State} (h : a.cores = b.cores) (c : Nat) : a.core c = b.core c := by
  unfold State.core
  rw [h]

theorem State.fields_of_cores {z a : State} {m : SMap Core} (h : { a with cores := m } = z) :
    a.bifur = z.bifur ∧ a.mem = z.mem ∧ a.ring = z.ring := by
  subst h
  exact ⟨rfl, rfl, rfl⟩

theorem State.fields_of_dies {a b : State} {m : SMap Die} (h : { b with dies := m } = a) :
    b.bifur = a.bifur ∧ b.mem = a.mem ∧ b.ring = a.ring ∧ b.cores = a.cores := by
  subst h
  exact ⟨rfl, rfl, rfl, rfl⟩

theorem State.booted_fields (s : State) :
    s.booted.ready = true ∧ s.booted.bootStep = 6 ∧ s.booted.bifur = s.bifur ∧ s.booted.mem = s.mem
      ∧ s.booted.ring = s.ring ∧ s.booted.cores = s.cores :=
  ⟨rfl, rfl, rfl, rfl, rfl, rfl⟩

/-- What bring-up keeps and sets. -/
theorem State.booted_spec (z : State) :
    let t := z.loadWick.setTables.booted
    t.ready = true ∧ t.bootStep = 6 ∧ t.bifur = z.bifur ∧ t.mem = z.mem ∧ t.ring = z.ring
      ∧ ∀ c, c < 256 → (t.core c).wickMem = z.bring.wickImage := by
  intro t
  obtain ⟨hrest, hmem⟩ := z.loadWick_spec
  obtain ⟨hbif, hm, hring⟩ := State.fields_of_cores hrest
  obtain ⟨hbif', hm', hring', hcores'⟩ := State.fields_of_dies z.loadWick.setTables_rest
  obtain ⟨hready, hstep, hbif'', hm'', hring'', hcores''⟩ := z.loadWick.setTables.booted_fields
  refine ⟨hready, hstep, hbif''.trans (hbif'.trans hbif), hm''.trans (hm'.trans hm), hring''.trans (hring'.trans hring), fun c hc => ?_⟩
  rw [State.core_of_cores (hcores''.trans hcores')]
  exact hmem c hc

theorem reset_completes {s : State} (hs : s.bring.strap % 4 < 2) (hb : s.bring.bootOk = true) (ht : s.bring.trainOk = true)
    (hw : s.bring.wickOk = true) : Completes .reset s fun t => t.ready = true ∧ t.bootStep = 6 ∧ t.bifur = s.bring.strap % 4
      ∧ t.mem = s.mem ∧ t.ring = State.reset.ring ∧ ∀ c, c < 256 → (t.core c).wickMem = s.bring.wickImage := by
  obtain ⟨hready, hstep, hbif, hm, hring, hwick⟩ := State.booted_spec { s.cleared with bifur := s.bring.strap % 4 }
  exact ⟨_, reset_boots hs hb ht hw, hready, hstep, hbif, hm, hring, hwick⟩

/-! ### O54 -/

/-- Settles O54. -/
theorem hostEvents : Obligations.HostEvents := by
  refine ⟨fun s w reg v x hr ht hw hx => hostWindowWrite_takes hr ht hw hx,
    fun s v mask hr ht hok => partitionWrite_takes hr ht hok, fun s v hr ht hv hl => moduleIdWrite_takes hr ht hv hl,
    fun s k hr ht hk => ⟨linkEnableWrite_eq hr ht hk (by decide), linkEnableWrite_eq hr ht hk (by decide)⟩,
    fun s k peer lanes hr he hk h1 h16 => ⟨fun hn => ?_, fun hn => ?_⟩, fun s k hu => linkTrainingLoss_up hu,
    fun s l a n w => ⟨hostBar2Access_outside, hostBar2Access_stamps⟩,
    fun s fn v hr ht => ⟨fun d o hd ho h8 => registerWrite_imageLoader hr ht hd ho h8 v,
      fun off h => registerWrite_misaligned h fn v, fun hl => registerWrite_lantern hr ht hl v⟩,
    fun s d v hd hc => sensorUpdate_takes hd hc v, fun s hb hc hi ha => lanternAttest_reports hb hc hi ha,
    fun s d hd ht => safetyTrip_trips hd ht, fun s hs hb ht hw => reset_completes hs hb ht hw⟩
  · exact (linkTrained_eq hr he hk h1 h16).trans (congrArg _ (if_pos hn))
  · exact (linkTrained_eq hr he hk h1 h16).trans (congrArg _ (if_neg (by rw [hn]; exact Bool.false_ne_true)))

end Sys2Proof.Machine
end

section
/-!
PROOF. O55: what taking a trap records and stops (R142, R143), and a handler that fails (R148).
-/

namespace Sys2Proof.Machine

/-! ### Bits of TRAP_ENGINE -/

theorem or_two_pow_bit (a i : Nat) : (a ||| 2 ^ i) / 2 ^ i % 2 = 1 := by
  have h : Nat.testBit (a ||| 2 ^ i) i = true := by rw [Nat.testBit_or, Nat.testBit_two_pow_self, Bool.or_true]
  rwa [Nat.testBit_eq_decide_div_mod_eq, decide_eq_true_eq] at h

theorem or_two_pow_mod (a : Nat) {n i : Nat} (h : n ≤ i) : (a ||| 2 ^ i) % 2 ^ n = a % 2 ^ n := by
  rw [Nat.or_mod_two_pow, Nat.mod_eq_zero_of_dvd (Nat.pow_dvd_pow 2 h), Nat.or_zero]

/-- A value below bit 24 with bit 15 set, and a byte above it. -/
theorem nest_parts (a x : Nat) : ((a % 2 ^ 24 ||| 2 ^ 15) + x * 2 ^ 24) / 2 ^ 15 % 2 = 1
    ∧ ((a % 2 ^ 24 ||| 2 ^ 15) + x * 2 ^ 24) / 2 ^ 24 = x := by
  have hbit := or_two_pow_bit (a % 2 ^ 24) 15
  have hlt : (a % 2 ^ 24 ||| 2 ^ 15) < 2 ^ 24 := Nat.or_lt_two_pow (Nat.mod_lt _ (by decide)) (by decide)
  generalize (a % 2 ^ 24 ||| 2 ^ 15) = y at hbit hlt
  omega

/-! ### Recording -/

section
variable {c : Core} {clk j : Nat} {r : TrapRec}

theorem Core.recordTrap_runs (h : (c.job j).st = .running ∨ (c.job j).st = .yielding) :
    c.recordTrap clk j r = c.setJob j { c.job j with st := .stopping, trap := r, trapClk := some clk } := by
  unfold Core.recordTrap
  obtain h | h := h <;> simp only [h]

/-- Two traps of one clock: the record names the lower engine and slot, and MULTI is set. -/
theorem Core.recordTrap_stops (h : (c.job j).st = .stopping) (hk : (c.job j).trapClk = some clk)
    (hne : r.eng % 2 ^ 8 ≠ (c.job j).trap.eng % 2 ^ 8) :
    let e := ((c.recordTrap clk j r).job j).trap.eng
    e / 2 ^ 14 % 2 = 1 ∧ e % 2 ^ 8 = min (r.eng % 2 ^ 8) ((c.job j).trap.eng % 2 ^ 8) := by
  intro e
  have he : e = (if r.eng % 2 ^ 8 < (c.job j).trap.eng % 2 ^ 8 then r else (c.job j).trap).eng ||| 2 ^ 14 := by
    simp only [e, Core.recordTrap, h, hk, hne, if_true, if_false, Core.job_setJob_same]
    rfl
  rw [he, or_two_pow_mod _ (by decide)]
  refine ⟨or_two_pow_bit _ 14, ?_⟩
  split
  · rename_i hlt
    exact (Nat.min_eq_left (Nat.le_of_lt hlt)).symm
  · rename_i hlt
    exact (Nat.min_eq_right (Nat.not_lt.mp hlt)).symm

theorem Core.recordTrap_job_ne {i : Nat} (h : i ≠ j) : (c.recordTrap clk j r).job i = c.job i := by
  unfold Core.recordTrap
  dsimp only
  split
  · rw [Core.job_setJob, if_neg h]
  · rw [Core.job_setJob, if_neg h]
  · split
    · rw [Core.job_setJob, if_neg h]
    · rfl
  all_goals rfl

/-- A fault that is charged leaves its job stopping, with the record. -/
theorem Core.recordFault_job (h : (c.job j).st = .running ∨ (c.job j).st = .yielding ∨ (c.job j).st = .stopping) :
    ((c.recordFault clk j r).job j).st = .stopping ∧ ((c.recordFault clk j r).job j).trap = r := by
  have hrun : (c.job j).st = .running ∨ (c.job j).st = .yielding →
      ((c.recordTrap clk j r).job j).st = .stopping ∧ ((c.recordTrap clk j r).job j).trap = r := fun h => by
    rw [Core.recordTrap_runs h, Core.job_setJob_same]
    exact ⟨rfl, rfl⟩
  unfold Core.recordFault
  obtain h | h | h := h
  · simp only [h]
    exact hrun (.inl h)
  · simp only [h]
    exact hrun (.inr h)
  · simp only [h]
    rw [Core.job_updJob_same]
    exact ⟨h, rfl⟩

end

/-! ### Taking a trap -/

section
variable {c : Core} {k : Nat} (hk : k ≠ 24)
include hk

theorem Core.takeTrap_eq (clk cause status : Nat) : c.takeTrap clk k cause status
    = (c.recordTrap clk (c.stream k).job (c.trapRecOf k cause status)).updStream k fun t =>
        { t with st := .stopped, need := none, drains := k = 16 || 20 ≤ k } := if_neg hk

theorem Core.stream_takeTrap_same (clk cause status : Nat) : (c.takeTrap clk k cause status).stream k
    = { c.stream k with st := .stopped, need := none, drains := k = 16 || 20 ≤ k } := by
  have hs : ∀ r, (c.recordTrap clk (c.stream k).job r).stream k = c.stream k := fun r => by
    simp only [Core.stream, Core.recordTrap_streams]
  rw [Core.takeTrap_eq hk, Core.stream_updStream_same, hs]

theorem Core.stream_takeTrap_ne {x : Nat} (h : x ≠ k) (clk cause status : Nat) :
    (c.takeTrap clk k cause status).stream x = c.stream x := by
  rw [Core.takeTrap_eq hk, Core.stream_updStream_ne _ _ h]
  simp only [Core.stream, Core.recordTrap_streams]

theorem Core.job_takeTrap (clk cause status j : Nat) : (c.takeTrap clk k cause status).job j
    = (c.recordTrap clk (c.stream k).job (c.trapRecOf k cause status)).job j := by
  rw [Core.takeTrap_eq hk, Core.job_updStream]

end

theorem trapEng_low (j k : Nat) : trapEng j k % 2 ^ 8 = (k / 4 * 2 ^ 5 + k % 4) % 2 ^ 8 := by
  unfold trapEng
  omega

theorem Core.dropFault_job (c : Core) (j : Nat) : c.dropFault.job j = c.job j := rfl

/-- The job of a failed handler stops with its own cause, HFAIL and NEST. -/
theorem Core.handlerFail_job {c : Core} {clk cause : Nat} (h : (c.job c.trapJob).st = .running
      ∨ (c.job c.trapJob).st = .yielding ∨ (c.job c.trapJob).st = .stopping) :
    let b := (c.handlerFail clk cause).job c.trapJob
    b.st = .stopping ∧ b.trap.cause = c.trapCause ∧ b.trap.eng / 2 ^ 15 % 2 = 1 ∧ b.trap.eng / 2 ^ 24 = cause % 2 ^ 8 := by
  intro b
  obtain ⟨hst, htrap⟩ := Core.recordFault_job (c := c.dropFault) (clk := clk) (r := { (c.job c.trapJob).trap with
    cause := c.trapCause
    eng := ((c.job c.trapJob).trap.eng % 2 ^ 24 ||| hfailBit) + cause % 2 ^ 8 * 2 ^ 24 }) h
  have hb : b.trap = _ := htrap
  obtain ⟨hbit, hnest⟩ := nest_parts (c.job c.trapJob).trap.eng (cause % 2 ^ 8)
  rw [hb]
  exact ⟨hst, rfl, hbit, hnest⟩

/-! ### O55 -/

/-- Settles O55. -/
theorem trapEntry : Obligations.TrapEntry := by
  refine ⟨fun c clk k cause status hk => ?_, fun c clk cause status h => ?_⟩
  · intro t b c1
    have hagree := Core.takeTrap_agree (x := fun _ _ => False) (p := fun _ _ => False) c clk k cause status
    have hself : c1.stream k = _ := Core.stream_takeTrap_same hk clk cause status
    have hjob : ∀ j, c1.job j = _ := Core.job_takeTrap hk clk cause status
    refine ⟨by rw [hself], by rw [hself], fun x n => hagree.regs x n id, fun x hx => Core.stream_takeTrap_ne hk hx clk cause status,
      fun j hj => (hjob j).trans (Core.recordTrap_job_ne hj), hagree.store.1, fun hrun => ?_, fun hst hclk hne => ?_⟩
    · rw [hjob, Core.recordTrap_runs hrun, Core.job_setJob_same]
      simp only [b, t, Core.trapRecOf, trapEng, Bool.or_eq_true, decide_eq_true_eq]
    · rw [hjob, ← trapEng_low t.job k]
      exact Core.recordTrap_stops hst hclk (by rw [show (c.trapRecOf k cause status).eng = trapEng t.job k from rfl, trapEng_low]; exact hne)
  · obtain ⟨hst, hcause, hbit, hnest⟩ := Core.handlerFail_job (clk := clk) (cause := cause) h
    have htrap : c.takeTrap clk 24 cause status
        = (c.handlerFail clk cause).updStream 24 fun t => { t with st := .stopped } := if_pos rfl
    rw [htrap, Core.stream_updStream_same, Core.job_updStream]
    exact ⟨rfl, rfl, hst, hcause, hbit, hnest⟩

end Sys2Proof.Machine
end

section
/-!
PROOF. What the scalar instructions, the predicate instructions and control flow leave as it was, by the operation that each
of them runs (R69, R108, R110 to R120).
-/

namespace Sys2Proof.Machine

variable {x p : Nat → Nat → Prop} {s t : State} {h : Head}

/-- What names a scalar destination. -/
def destX (s : State) (d : Opnd) : Nat → Nat → Prop := fun k n => k = s.cur.key ∧ d = .x n

/-- What names a predicate destination. -/
def destP (s : State) (n : Nat) : Nat → Nat → Prop := fun k m => k = s.cur.key ∧ m = n

theorem runC_aluBody_agree {lat : Nat} {d : Opnd} {srcs : List Opnd} {f : List Word → Word}
    (ht : runC s h (aluBody s lat d srcs f) = .next t) : State.Agree (destX s d) p s t s.cur.core :=
  runC_agree (fun c => aluBody_agree s lat d srcs f c) ht

theorem runAlu_agree {lat : Nat} {d a b : Opnd} {f : Word → Word → Word} (ht : runAlu s h lat d a b f = .next t) :
    State.Agree (destX s d) p s t s.cur.core := runC_aluBody_agree ht

theorem runAlu1_agree {d a : Opnd} {f : Word → Word} (ht : runAlu1 s h d a f = .next t) :
    State.Agree (destX s d) p s t s.cur.core := runC_aluBody_agree ht

theorem execSel_agree {d a b : Opnd} {q : Nat} (ht : execSel h d a b q s = .next t) :
    State.Agree (destX s d) p s t s.cur.core := runC_agree (fun c => aluBody_agree s 1 d [a, b] _ c) ht

theorem execCsrr_agree {d : Opnd} {num : Nat} (ht : execCsrr h d num s = .next t) :
    State.Agree (destX s d) p s t s.cur.core := by
  refine runC_agree (fun c => ?_) ht
  dsimp only; split
  · trivial
  · exact aluBody_agree s 1 d [] _ c

theorem execLd_agree {d a : Opnd} {imm : Int} {size : Nat} {zext : Bool} (ht : execLd h d a imm size zext s = .next t) :
    State.Agree (destX s d) p s t s.cur.core := by
  refine runC_agree (fun c => ?_) ht
  dsimp only; split
  · trivial
  · split
    · trivial
    · exact (c.opndPop_agree [a]).trans (Core.opndWrite_agree ..)

theorem execSget_agree {d sem : Nat} (ht : execSget h d sem s = .next t) :
    State.Agree (destX s (.x d)) p s t s.cur.core := by
  refine runC_agree (fun c => ?_) ht
  split
  · trivial
  · have hd : destX s (.x d) = fun j m => j = s.cur.key ∧ m = d := by
      funext j m; simp only [destX, Opnd.x.injEq, eq_comm (a := d)]
    rw [hd]; exact c.result_x s.cur.key 1 d _

/-- An instruction whose destination is a scalar operand changes that register alone. -/
theorem ScalarOp.agree {d : Opnd} {i : Instr} (hi : ScalarOp d i) (ht : exec i s = .next t) :
    State.Agree (destX s d) p s t s.cur.core := by
  cases hi with
  | clz | popc | addi | andi | ori | xori | shli | shri | srai | slti | sltiu =>
    simp only [exec_clz, exec_popc, exec_addi, exec_andi, exec_ori, exec_xori, exec_shli, exec_shri, exec_srai, exec_slti, exec_sltiu] at ht
    exact runAlu1_agree ht
  | lih => rw [exec_lih] at ht; exact runC_aluBody_agree ht
  | sel => rw [exec_sel] at ht; exact execSel_agree ht
  | ld => rw [exec_ld] at ht; exact execLd_agree ht
  | csrr => rw [exec_csrr] at ht; exact execCsrr_agree ht
  | sget => rw [exec_sget] at ht; exact execSget_agree ht
  | _ =>
    simp only [exec_add, exec_sub, exec_and, exec_or, exec_xor, exec_andn, exec_shl, exec_shr, exec_sra, exec_mul, exec_mulh,
      exec_mulhu, exec_min, exec_max, exec_minu, exec_maxu, exec_slt, exec_sltu] at ht
    exact runAlu_agree ht

/-! ### Predicates -/

theorem runC_predBody_agree {n : Nat} {srcs : List Opnd} {f : List Word → Bool}
    (ht : runC s h (predBody s n srcs f) = .next t) : State.Agree x (destP s n) s t s.cur.core :=
  runC_agree (fun c => predBody_agree s n srcs f c) ht

theorem runPlog_agree {d a b : Nat} {f : Bool → Bool → Bool} (ht : runPlog s h d a b f = .next t) :
    State.Agree x (destP s d) s t s.cur.core := runC_agree (fun c => predBody_agree s d [] _ c) ht

theorem runQlen_agree {n q : Nat} {f : Queue → Bool} (ht : runQlen s h n q f = .next t) :
    State.Agree x (destP s n) s t s.cur.core := by
  refine runC_agree (fun c => ?_) ht
  dsimp only; split
  · trivial
  · exact c.result_p ..

/-- An instruction whose destination is a predicate changes that predicate alone. -/
theorem PredOp.agree {n : Nat} {i : Instr} (hi : PredOp n i) (ht : exec i s = .next t) :
    State.Agree x (destP s n) s t s.cur.core := by
  cases hi with
  | cmp | cmpi =>
    simp only [exec_cmp, exec_cmpi] at ht
    exact runC_predBody_agree ht
  | vqlen | vqlenZero =>
    simp only [exec_vqlen, exec_vqlenZero] at ht
    exact runQlen_agree ht
  | _ =>
    simp only [exec_pand, exec_por, exec_pxor, exec_pandn, exec_pmov, exec_pseti] at ht
    exact runPlog_agree ht

/-! ### Control flow -/

theorem runC_nopBody_agree (ht : runC s h nopBody = .next t) : State.Agree x p s t s.cur.core :=
  runC_agree (body := nopBody) (fun c => show Core.Agree x p c c from .refl x p c) ht

/-- Control flow changes no register and no predicate. -/
theorem FlowOp.agree {i : Instr} (hi : FlowOp i) (ht : exec i s = .next t) : State.Agree x p s t s.cur.core := by
  cases hi with
  | nop => rw [exec_nop] at ht; exact runC_nopBody_agree ht
  | br h e off => rw [exec_br] at ht; exact runC_agree (fun c => branchBody_agree s true e off c) ht
  | brc h z e q off => rw [exec_brc] at ht; exact runC_agree (fun c => branchBody_agree s _ e off c) ht
  | jr => rw [exec_jr] at ht; exact runC_agree (fun c => jumpTo_agree (.refl ..) _ _) ht
  | loop | loopi | looph =>
    simp only [exec_loop, exec_loopi, exec_looph] at ht
    exact runC_agree (fun c => loopBody_agree (.refl ..) s _ _ _) ht

end Sys2Proof.Machine
end

section
/-!
PROOF. What the stream instructions of the access engine leave as it was: a stream register, the merge state or a field pattern
changes, or a result is handed on, which lands later (R13, R213 to R228).
-/

namespace Sys2Proof.Machine

variable {x p : Nat → Nat → Prop} {s t : State} {h : Head}

theorem Stream.unbindOps_setSreg_regs (u : Stream) (g g1 : StReg) (n : Nat) :
    ((u.unbindOps g).setSreg n g1).v = u.v ∧ ((u.unbindOps g).setSreg n g1).flags = u.flags
      ∧ ((u.unbindOps g).setSreg n g1).x = u.x ∧ ((u.unbindOps g).setSreg n g1).p = u.p := u.unbindOps_regs g

/-- Stream w has the vectors, flags, registers and predicates of stream u. -/
def Stream.SameRegs (u w : Stream) : Prop := w.v = u.v ∧ w.flags = u.flags ∧ w.x = u.x ∧ w.p = u.p

theorem Stream.SameRegs.setSreg {u w : Stream} (h : Stream.SameRegs u w) (n : Nat) (g : StReg) :
    Stream.SameRegs u (w.setSreg n g) := h

/-- A stream may be put back as it stands after a change that keeps its registers. -/
theorem updDone_put_agree (s : State) (c : Core) {u : Stream} (h : Stream.SameRegs (c.stream s.cur.key) u) :
    (updDone s c fun _ => u).Agree x p c := by
  obtain ⟨hv, hf, hx, hp⟩ := h
  exact Core.Agree.setStream _ ⟨hv, hf, fun n _ => by simp only [Stream.getX, hx], fun n _ => by simp only [Stream.getP, hp]⟩

/-- A result handed on to a queue lands later in an exposed engine. -/
theorem Core.pushLater_agree (c : Core) {k : Nat} (hk : exposed (engOf k) = true) (q : Nat) (e : QEnt) (lat fl : Nat) :
    Core.Agree x p c ((c.reserveQ q e).1.result k lat (c.reserveQ q e).2 fl) :=
  (c.reserveQ_agree q e).trans ((c.reserveQ q e).1.result_agree hk ..)

theorem execSdef_agree {d a : Nat} {imm : Int} (ht : execSdef h d a imm s = .next t) : State.Agree x p s t s.cur.core := by
  refine runC_agree (fun c => readRecord_agree fun r => ?_) ht
  split
  · trivial
  · exact updDone_agree s c fun u => u.setSreg_regs ..

theorem execSlvl_agree {d a : Nat} {imm : Int} (ht : execSlvl h d a imm s = .next t) : State.Agree x p s t s.cur.core := by
  refine runC_agree (fun c => readRecord_agree fun r => ?_) ht
  dsimp only; split
  · trivial
  · exact updDone_agree s c fun u => u.setSreg_regs ..

theorem execSrel_agree {a : StOpnd} (ht : execSrel h a s = .next t) : State.Agree x p s t s.cur.core := by
  refine runC_agree (fun c => withSt_agree fun n => ?_) ht
  dsimp only; split
  · trivial
  · exact updDone_agree s c fun u => u.unbindOps_setSreg_regs ..

theorem execSfib_agree {a : StOpnd} {b lvl : Nat} (ht : execSfib h a b lvl s = .next t) :
    State.Agree x p s t s.cur.core := by
  refine runC_agree (fun c => withSt_agree fun n => ?_) ht
  dsimp only; split
  · trivial
  · split
    · split
      · trivial
      · split
        · trivial
        · exact updDone_agree s c fun u => u.setSreg_regs ..
    · split
      · trivial
      · split
        · trivial
        · exact withRead_agree fun v => updDone_agree s c fun u => u.setSreg_regs ..

theorem bindOps_agree {mode d a b : Nat} (ht : bindOps s h mode d a b = .next t) : State.Agree x p s t s.cur.core := by
  refine runC_agree (fun c => ?_) ht
  dsimp only; split
  · trivial
  · split
    · trivial
    · refine withRead_agree fun _ => ?_
      have hu : Stream.SameRegs _ _ := (c.stream s.cur.key).unbindOps_regs ((c.stream s.cur.key).sreg d)
      exact updDone_put_agree s c ((((hu.setSreg _ _).setSreg _ _).setSreg _ _).setSreg _ _)

theorem execSskip_agree {a : StOpnd} {b : Nat} (ht : execSskip h a b s = .next t) : State.Agree x p s t s.cur.core :=
  runC_agree (fun c => withSt_agree fun _ => withWalker_agree fun _ => withRead_agree fun _ =>
    updDone_agree s c fun u => u.moveTo_regs ..) ht

section
variable (hk : exposed (engOf s.cur.key) = true)
include hk

theorem execSpos_agree {d : Nat} {a : StOpnd} {side : Bool} (ht : execSpos h d a side s = .next t) :
    State.Agree x p s t s.cur.core := by
  refine runC_agree (fun c => withSt_agree fun n => withWalker_agree fun w => ?_) ht
  split
  · trivial
  · exact withRead_agree fun v => c.result_agree hk ..

theorem execScrd_agree {d : Nat} {a : StOpnd} {dim : Nat} (ht : execScrd h d a dim s = .next t) :
    State.Agree x p s t s.cur.core := by
  refine runC_agree (fun c => withSt_agree fun n => withWalker_agree fun w => ?_) ht
  dsimp only; split
  · trivial
  · split
    · trivial
    · exact withRead_agree fun v => c.result_agree hk ..

theorem execLdq_agree {q : Nat} {a : StOpnd} {b : Nat} {i : Option Nat} {wid keep side : Bool}
    (ht : execLdq h q a b i wid keep side s = .next t) : State.Agree x p s t s.cur.core := by
  refine runC_agree (fun c => withSt_agree fun n => ?_) ht
  dsimp only
  generalize (c.stream s.cur.key).sideDesc n side = dl
  obtain ⟨d, lv⟩ := dl
  refine withWalker_agree fun _ => ?_
  split
  · trivial
  · split
    · trivial
    · split
      · trivial
      · exact ldqBody_agree hk

theorem execLdqc_agree {q : Nat} {a : StOpnd} {b : Nat} {i : Option Nat} {keep : Bool}
    (ht : execLdqc h q a b i keep s = .next t) : State.Agree x p s t s.cur.core := by
  refine runC_agree (fun c => withSt_agree fun n => ?_) ht
  dsimp only; split
  · trivial
  · exact ldqBody_agree hk

theorem execLdqa_agree {q : Nat} {a : StOpnd} {b : Nat} {i : Option Nat} {keep side : Bool}
    (ht : execLdqa h q a b i keep side s = .next t) : State.Agree x p s t s.cur.core := by
  refine runC_agree (fun c => withSt_agree fun n => ?_) ht
  dsimp only; split
  · trivial
  · refine withWalker_agree fun w => ?_
    split
    · trivial
    · exact ldqBody_agree hk

end

theorem execPrf_agree {a : StOpnd} {b : Nat} (ht : execPrf h a b s = .next t) : State.Agree x p s t s.cur.core :=
  by
  refine runC_agree (fun c => withSt_agree fun n => ?_) ht
  simp only [CRes.Agree]
  exact Core.Agree.of_eq ⟨rfl, rfl, rfl, rfl, rfl, rfl⟩ rfl rfl

theorem execLls_agree {a b st : Nat} (ht : execLls h a b st s = .next t) : State.Agree x p s t s.cur.core := by
  refine runC_agree (fun c => ?_) ht
  dsimp only; split
  · trivial
  · split
    · trivial
    · exact Core.Agree.of_eq ⟨rfl, rfl, rfl, rfl, rfl, rfl⟩ rfl rfl

theorem execMrgb_agree {q q2 : Nat} {int : Bool} (ht : execMrgb h q q2 int s = .next t) :
    State.Agree x p s t s.cur.core := by
  refine runC_agree (fun c => ?_) ht
  dsimp only; split
  · trivial
  · split
    · trivial
    · split
      · trivial
      · exact updDone_agree s c fun u => ⟨rfl, rfl, rfl, rfl⟩

theorem execMrgi_agree {a : StOpnd} {b : Nat} (ht : execMrgi h a b s = .next t) : State.Agree x p s t s.cur.core := by
  refine runC_agree (fun c => withSt_agree fun n => ?_) ht
  dsimp only; split
  · trivial
  · split
    · trivial
    · split
      · trivial
      · split
        · trivial
        · split
          · trivial
          · split
            · trivial
            · exact updDone_agree s c fun u => ⟨rfl, rfl, rfl, rfl⟩

theorem execMrge_agree (hk : exposed (engOf s.cur.key) = true) {b : Nat} {i : Option Nat}
    (ht : execMrge h b i s = .next t) : State.Agree x p s t s.cur.core := by
  refine runC_agree (fun c => ?_) ht
  dsimp only; split
  · trivial
  · rename_i m _
    split
    · trivial
    · split
      · trivial
      · refine withRead_agree fun v => ?_
        obtain ⟨⟨cs, vs, fl, ls⟩, more⟩ := v
        have h1 : Core.Agree x p c (c.updStream s.cur.key fun u =>
            { u with merge := some { m with leaves := ls, busy := (((c.stream s.cur.key).getX b).toNat + 7) / 8 } }) :=
          .updStream _ fun _ => ⟨rfl, rfl, rfl, rfl⟩
        have h2 := (h1.trans (Core.pushLater_agree _ hk m.q1 (mkVec cs cs.length) 18 0)).trans
          (Core.pushLater_agree _ hk m.q2 (mkVec vs vs.length) 18 fl)
        cases i with
        | none => exact h2
        | some n => exact h2.trans (Core.result_agree _ hk 18 (.p n more) 0)

theorem bpPush_agree {k : Nat} (hk : exposed (engOf k) = true) (es : List QEnt) (q : Nat) (c : Core) :
    Core.Agree x p c (bpPush k q es c) := by
  induction es generalizing q c with
  | nil => exact .refl ..
  | cons e es ih => exact (c.pushLater_agree hk q e 6 0).trans (ih _ _)

theorem execBfxp_agree (hk : exposed (engOf s.cur.key) = true) {q a b bp : Nat} (ht : execBfxp h q a b bp s = .next t) :
    State.Agree x p s t s.cur.core := by
  refine runC_agree (fun c => ?_) ht
  dsimp only; split
  · trivial
  · split
    · trivial
    · split
      · trivial
      · split
        · trivial
        · exact bpPush_agree hk ..

theorem execBfxpSet_agree {a bp : Nat} (ht : execBfxpSet h a bp s = .next t) : State.Agree x p s t s.cur.core := by
  refine runC_agree (fun c => ?_) ht
  dsimp only; split
  · trivial
  · exact updDone_agree s c fun u => ⟨rfl, rfl, rfl, rfl⟩

theorem execLoopt_agree {a : StOpnd} {off k : Nat} (ht : execLoopt h a off k s = .next t) :
    State.Agree x p s t s.cur.core :=
  runC_agree (fun _ => withSt_agree fun _ => withWalker_agree fun _ => withRead_agree fun _ =>
    loopBody_agree (.refl ..) s _ _ _) ht

end Sys2Proof.Machine
end

section
/-!
PROOF. What the vector instructions of the execute engine and the bundles of the weight-code engine leave as it was, by the
operation that each of them runs (R13, R181, R232 to R263, R288 to R292).
-/

namespace Sys2Proof.Machine

variable {x p : Nat → Nat → Prop} {s t : State} {h : Head}

section
variable (hk : exposed (engOf s.cur.key) = true)
include hk

theorem runF1_agree {d : VDst} {a : VSrc} {f : VFmt} {op : Nat → Nat × Nat} (ht : runF1 s h d a f op = .next t) :
    State.Agree x p s t s.cur.core := runV_agree hk ht

theorem runF2_agree {d : VDst} {a b : VSrc} {f : VFmt} {op : Stream → Nat → Nat → Nat × Nat}
    (ht : runF2 s h d a b f op = .next t) : State.Agree x p s t s.cur.core := runV_agree hk ht

theorem runF3_agree {d : VDst} {a b c : VSrc} {f : VFmt} {negP negC : Bool} (ht : runF3 s h d a b c f negP negC = .next t) :
    State.Agree x p s t s.cur.core := runV_agree hk ht

theorem runInt_agree {lat : Nat} {d : VDst} {srcs : List VSrc} {f : VFmt} {op : Nat → Nat → Nat → Nat × Nat}
    (ht : runInt s h lat d srcs f op = .next t) : State.Agree x p s t s.cur.core := runV_agree hk ht

theorem execWf_agree {w : WHead} {acc : Bool} {k : Nat} {sl : WSlots} (ht : execWf w acc k sl s = .next t) :
    State.Agree x p s t s.cur.core := by
  refine runWe_agree (fun s1 => ?_) ht
  exact State.Agree.setCore s1 _ (Core.result_agree _ hk ..)

end

theorem execLoopq_agree {q : Nat} {peek : Bool} {off k : Nat} (ht : execLoopq h q peek off k s = .next t) :
    State.Agree x p s t s.cur.core := by
  refine runC_agree (fun c => ?_) ht
  dsimp only; split
  · trivial
  · split
    · trivial
    · exact loopBody_agree (c.vpop_agree _) s _ _ _

theorem State.Agree.refl (s : State) (cid : Nat) : State.Agree x p s s cid :=
  ⟨⟨rfl, rfl, rfl, rfl, rfl⟩, fun _ _ => rfl, .refl ..⟩

theorem execWnop_agree {w : WHead} (ht : execWnop w s = .next t) : State.Agree x p s t s.cur.core := by
  refine runWe_agree (fun s1 => ?_) ht
  exact State.Agree.refl s1 _

/-- A term bundle changes the row registers of its stream alone. -/
theorem runTerm_agree {w : WHead} {f : Core → We → We} (ht : runTerm s w f = .next t) :
    State.Agree x p s t s.cur.core := by
  refine runWe_agree (fun s1 => ?_) ht
  split
  · trivial
  · exact State.Agree.setCore s1 _ (.updStream _ fun _ => ⟨rfl, rfl, rfl, rfl⟩)

/-- What the flush path holds may change. -/
theorem Core.Agree.flushes {a b : Core} (h : Core.Agree x p a b) (v : List Flush) :
    Core.Agree x p a { b with flushes := v } := h.trans (.of_eq ⟨rfl, rfl, rfl, rfl, rfl, rfl⟩ rfl rfl)

/-- What waits to land may change. -/
theorem Core.Agree.pending {a b : Core} (h : Core.Agree x p a b) (v : List Pending) :
    Core.Agree x p a { b with pending := v } := h.trans (.of_eq ⟨rfl, rfl, rfl, rfl, rfl, rfl⟩ rfl rfl)

/-- A row changes the registers of its engine, and hands a finished row to the flush path. -/
theorem execWrow_agree {w : WHead} {f : WFlush} {o : Bool} {en : Int} (ht : execWrow w f o en s = .next t) :
    State.Agree x p s t s.cur.core := by
  unfold execWrow runMain at ht
  refine runWe_agree (fun s1 => ?_) ht
  have h1 : Core.Agree x p (s1.core s.cur.core)
      ((s1.core s.cur.core).updStream s.cur.key fun u => { u with we := u.we.openRow o en }) :=
    .updStream _ fun _ => ⟨rfl, rfl, rfl, rfl⟩
  dsimp only; split
  · trivial
  · split
    · exact State.Agree.setCore s1 _ h1
    · split
      · split
        · exact State.Agree.setCore s1 _ h1
        · exact State.Agree.setCore s1 _ (h1.pending _)
      · split
        · exact State.Agree.refl s1 _
        · refine State.Agree.setCore s1 _ (Core.Agree.flushes (h1.trans ?_) _)
          exact .updStream _ fun _ => ⟨rfl, rfl, rfl, rfl⟩

/-! ### Instructions whose results land later -/

/-- An instruction whose results land later changes no register and no predicate as it issues. -/
theorem LandsLater.agree {i : Instr} (hi : LandsLater i) (hk : exposed (engOf s.cur.key) = true)
    (ht : exec i s = .next t) : State.Agree x p s t s.cur.core := by
  cases hi with
  | sdef => rw [exec_sdef] at ht; exact execSdef_agree ht
  | slvl => rw [exec_slvl] at ht; exact execSlvl_agree ht
  | srel => rw [exec_srel] at ht; exact execSrel_agree ht
  | sfib => rw [exec_sfib] at ht; exact execSfib_agree ht
  | sint => rw [exec_sint] at ht; exact bindOps_agree ht
  | suni => rw [exec_suni] at ht; exact bindOps_agree ht
  | sskip => rw [exec_sskip] at ht; exact execSskip_agree ht
  | spos => rw [exec_spos] at ht; exact execSpos_agree hk ht
  | scrd => rw [exec_scrd] at ht; exact execScrd_agree hk ht
  | ldq => rw [exec_ldq] at ht; exact execLdq_agree hk ht
  | ldqc => rw [exec_ldqc] at ht; exact execLdqc_agree hk ht
  | ldqa => rw [exec_ldqa] at ht; exact execLdqa_agree hk ht
  | prf => rw [exec_prf] at ht; exact execPrf_agree ht
  | lls => rw [exec_lls] at ht; exact execLls_agree ht
  | mrgb => rw [exec_mrgb] at ht; exact execMrgb_agree ht
  | mrgi => rw [exec_mrgi] at ht; exact execMrgi_agree ht
  | mrge => rw [exec_mrge] at ht; exact execMrge_agree hk ht
  | bfxpSet => rw [exec_bfxpSet] at ht; exact execBfxpSet_agree ht
  | bfxp => rw [exec_bfxp] at ht; exact execBfxp_agree hk ht
  | loopt => rw [exec_loopt] at ht; exact execLoopt_agree ht
  | vfadd | vfsub | vfmul | vfmin | vfmax =>
    simp only [exec_vfadd, exec_vfsub, exec_vfmul, exec_vfmin, exec_vfmax] at ht
    exact runF2_agree hk ht
  | vfma | vfms | vfnma =>
    simp only [exec_vfma, exec_vfms, exec_vfnma] at ht
    exact runF3_agree hk ht
  | vlog2 | vexp2 | vrcp | vrsq =>
    simp only [exec_vlog2, exec_vexp2, exec_vrcp, exec_vrsq] at ht
    exact runF1_agree hk ht
  | vmad | vsel | vadd | vsub | vmul | vmulh | vadds | vsubs | vand | vor | vxor | vshl | vshr | vsra | vmin | vmax | vhash
  | vmov =>
    simp only [exec_vmad, exec_vsel, exec_vadd, exec_vsub, exec_vmul, exec_vmulh, exec_vadds, exec_vsubs, exec_vand, exec_vor,
      exec_vxor, exec_vshl, exec_vshr, exec_vsra, exec_vmin, exec_vmax, exec_vhash, exec_vmov] at ht
    exact runInt_agree hk ht
  | vperm | vradd | vcvt | vpks | vscl | vli | vbcst | vbcstX | vrot | vlane | vrfadd | vrmax =>
    simp only [exec_vperm, exec_vradd, exec_vcvt, exec_vpks, exec_vscl, exec_vli, exec_vbcst, exec_vbcstX, exec_vrot,
      exec_vlane, exec_vrfadd, exec_vrmax] at ht
    exact runV_agree hk ht
  | vfcmp | vcmp =>
    simp only [exec_vfcmp, exec_vcmp] at ht
    exact runCmp_agree hk ht
  | vext => rw [exec_vext] at ht; exact runVs_agree hk ht
  | vrmaxi | vrmini =>
    simp only [exec_vrmaxi, exec_vrmini] at ht
    exact runMaxi_agree hk ht
  | vacrF32 | vacrRaw =>
    simp only [exec_vacrF32, exec_vacrRaw] at ht
    exact runVacr_agree hk ht
  | vacwF32 | vacwAdd | vacwRaw =>
    simp only [exec_vacwF32, exec_vacwAdd, exec_vacwRaw] at ht
    exact runVacw_agree hk ht
  | loopq => rw [exec_loopq] at ht; exact execLoopq_agree ht
  | wnop => rw [exec_wnop] at ht; exact execWnop_agree ht
  | wt | wg | wtf =>
    simp only [exec_wt, exec_wg, exec_wtf] at ht
    exact runTerm_agree ht
  | wf => rw [exec_wf] at ht; exact execWf_agree hk ht
  | wrow => rw [exec_wrow] at ht; exact execWrow_agree ht

end Sys2Proof.Machine
end

section
/-!
PROOF. What a command of the matrix engine or of the exchange engine leaves as it was as it enters its queue: its check may
charge a channel of the job, and nothing else (R306, R383).
-/

namespace Sys2Proof.Machine

variable {x p : Nat → Nat → Prop} {s t : State} {h : Head}

/-- Job b has the tables and the budget of job a. -/
def Job.SameTables (a b : Job) : Prop := b.itBase = a.itBase ∧ b.dtBase = a.dtBase ∧ b.tmap = a.tmap ∧ b.remain = a.remain

theorem Job.SameTables.refl (a : Job) : Job.SameTables a a := ⟨rfl, rfl, rfl, rfl⟩

theorem Job.SameTables.charge {a b : Job} (h : Job.SameTables a b) (ch n : Nat) : Job.SameTables a (b.charge ch n) := by
  obtain ⟨h1, h2, h3, h4⟩ := h
  simp only [Job.SameTables, Job.charge]; split
  · exact ⟨h1, h2, h3, h4⟩
  · exact ⟨h1, h2, h3, h4⟩

/-- A check that charges the job leaves its tables. -/
theorem chargesOnly_of {f : Core → Job → List Nat → Except Trap (Job × List Nat)}
    (hf : ∀ c b v r, f c b v = .ok r → Job.SameTables b r.1) : ChargesOnly f := hf

theorem State.transfer_sameTables {s : State} {cid : Nat} {a b : Job} {wd ws n unit : Nat} {dk sk extra : List Nat}
    {perm : Cap → Bool} {r : Job × List Nat} (h : Job.SameTables a b)
    (hr : s.transfer cid b wd ws n unit dk sk perm extra = .ok r) : Job.SameTables a r.1 := by
  have ite : ∀ (q : Prop) [Decidable q] (b : Job) (ch : Nat), Job.SameTables a b →
      Job.SameTables a (if q then b.charge ch n else b) := by
    intro q _ b ch hb
    split
    · exact hb.charge ch n
    · exact hb
  simp only [State.transfer] at hr
  split at hr
  · cases hr
  · split at hr
    · cases hr
    · cases hr
      exact ite _ _ _ (ite _ _ _ h)

theorem keyCheck_sameTables {s : State} {b : Job} {v : List Nat} {enc : Bool} {r : Job × List Nat}
    (hr : keyCheck s b v enc = .ok r) : Job.SameTables b r.1 := by
  simp only [keyCheck] at hr
  generalize (if enc = true then v.getD 1 0 else v.getD 0 0) = loc at hr
  generalize (if enc = true then v.getD 0 0 else v.getD 1 0) = far at hr
  split at hr
  · cases hr
  · split at hr
    · cases hr
    · split at hr
      · cases hr
      · exact State.transfer_sameTables ((Job.SameTables.refl b).charge _ _) hr

theorem tileCheck_sameTables {c : Core} {b b1 : Job} {w n : Nat} {perm : Cap → Bool}
    (hr : tileCheck c b w perm n = .ok b1) : Job.SameTables b b1 := by
  simp only [tileCheck] at hr
  split at hr
  · cases hr
  · split at hr
    · cases hr
    · split at hr
      · cases hr
      · split at hr
        · cases hr
        · cases hr
          exact (Job.SameTables.refl b).charge _ _

/-! ### Commands of the matrix engine -/

/-- A command that its check admits without a charge. -/
theorem runCmd_free_agree {i : Instr} {regs : List Nat}
    (ht : runCmd s h i regs (fun _ j v => .ok (j, v)) = .next t) : State.Agree x p s t s.cur.core :=
  runCmd_agree (fun _ _ _ _ hr => by cases hr; exact ⟨rfl, rfl, rfl, rfl⟩) ht

theorem runLayout_agree {i : Instr} {b : Nat} {ok : Nat → Bool} (ht : runLayout s h i b ok = .next t) :
    State.Agree x p s t s.cur.core := by
  refine runCmd_agree (chargesOnly_of fun c j v r hr => ?_) ht
  split at hr
  · cases hr; exact .refl j
  · cases hr

theorem execMtw_agree {a b : Nat} (ht : execMtw h a b s = .next t) : State.Agree x p s t s.cur.core := by
  refine runC_agree (fun c => ?_) ht
  dsimp only; split
  · trivial
  · split
    · exact Core.Agree.refl ..
    · exact Core.Agree.updStream _ fun _ => ⟨rfl, rfl, rfl, rfl⟩

/-! ### Commands of the exchange engine -/

theorem execXcp_agree {k : KCtl} {a b : Nat} (ht : execXcp h k a b s = .next t) : State.Agree x p s t s.cur.core := by
  refine runCmd_agree (chargesOnly_of fun c j v r hr => ?_) ht
  dsimp only at hr
  split at hr
  · cases hr
  · split at hr
    · cases hr
    · exact State.transfer_sameTables (.refl j) hr

theorem execXcpg_agree {k : KCtl} {a b : Nat} (ht : execXcpg h k a b s = .next t) : State.Agree x p s t s.cur.core := by
  refine runCmd_agree (chargesOnly_of fun c j v r hr => ?_) ht
  dsimp only at hr
  split at hr
  · cases hr
  · split at hr
    · cases hr
    · exact State.transfer_sameTables (.refl j) hr

theorem execXred_agree {k : KCtl} {a b : Nat} (ht : execXred h k a b s = .next t) : State.Agree x p s t s.cur.core := by
  refine runCmd_agree (chargesOnly_of fun c j v r hr => ?_) ht
  dsimp only at hr
  split at hr
  · cases hr
  · split at hr
    · cases hr
    · split at hr
      · cases hr
      · split at hr
        · cases hr
        · rename_i q hq
          split at hr
          · cases hr
          · cases hr
            exact State.transfer_sameTables (.refl j) hq

theorem execXkeyEnc_agree {k : KCtl} {a b : Nat} (ht : execXkeyEnc h k a b s = .next t) : State.Agree x p s t s.cur.core :=
  runCmd_agree (chargesOnly_of fun _ _ _ _ hr => keyCheck_sameTables hr) ht

theorem execXkeyDec_agree {k : KCtl} {a b : Nat} (ht : execXkeyDec h k a b s = .next t) : State.Agree x p s t s.cur.core :=
  runCmd_agree (chargesOnly_of fun _ _ _ _ hr => keyCheck_sameTables hr) ht

theorem execXexp_agree {k : KCtl} {a b : Nat} (ht : execXexp h k a b s = .next t) : State.Agree x p s t s.cur.core := by
  refine runCmd_agree (chargesOnly_of fun c j v r hr => ?_) ht
  dsimp only at hr
  split at hr
  · cases hr
  · split at hr
    · split at hr
      · cases hr
      · cases hr; exact .refl j
    · cases hr; exact .refl j

theorem execXarv_agree {k : KCtl} {a b : Nat} (ht : execXarv h k a b s = .next t) : State.Agree x p s t s.cur.core := by
  refine runCmd_agree (chargesOnly_of fun c j v r hr => ?_) ht
  dsimp only at hr
  split at hr
  · cases hr
  · split at hr
    · split at hr
      · cases hr
      · cases hr; exact .refl j
    · cases hr; exact .refl j

theorem execXsigr_agree {k : KCtl} {a b : Nat} (ht : execXsigr h k a b s = .next t) : State.Agree x p s t s.cur.core := by
  refine runCmd_agree (chargesOnly_of fun c j v r hr => ?_) ht
  dsimp only at hr
  split at hr
  · cases hr
  · split at hr
    · cases hr
    · cases hr; exact .refl j

theorem execXpln_agree {k : KCtl} {a b : Nat} (ht : execXpln h k a b s = .next t) : State.Agree x p s t s.cur.core := by
  refine runCmd_agree (chargesOnly_of fun c j v r hr => ?_) ht
  dsimp only at hr
  split at hr
  · cases hr
  · split at hr
    · cases hr
    · cases hr
    · split at hr
      · cases hr
      · cases hr; exact (Job.SameTables.refl j).charge _ _

theorem execXstep_agree {k : KCtl} {a : Nat} (ht : execXstep h k a s = .next t) : State.Agree x p s t s.cur.core := by
  refine runCmd_agree (chargesOnly_of fun c j v r hr => ?_) ht
  dsimp only at hr
  split at hr
  · cases hr
  · split at hr
    · cases hr
    · split at hr
      · cases hr
      · split at hr
        · cases hr
        · cases hr; exact (Job.SameTables.refl j).charge _ _

theorem runTile_agree {i : Instr} {a b n : Nat} {perm : Cap → Bool} (ht : runTile s h i a b perm n = .next t) :
    State.Agree x p s t s.cur.core := by
  refine runCmd_agree (chargesOnly_of fun c j v r hr => ?_) ht
  dsimp only at hr
  split at hr
  · cases hr
  · rename_i j1 hj
    split at hr
    · cases hr
    · split at hr
      · cases hr
      · cases hr; exact tileCheck_sameTables hj

/-- A command that its check charges for one tile. -/
theorem runCmd_tileCheck_agree {i : Instr} {regs : List Nat} {perm : Cap → Bool}
    (ht : runCmd s h i regs (fun c j v => match tileCheck c j (v.getD 0 0) perm 0 with
      | .error t => .error t
      | .ok j1 => .ok (j1, v)) = .next t) : State.Agree x p s t s.cur.core := by
  refine runCmd_agree (chargesOnly_of fun c j v r hr => ?_) ht
  cases hj : tileCheck c j (v.getD 0 0) perm 0 <;> simp only [hj] at hr <;> cases hr
  exact tileCheck_sameTables hj

theorem execXqryRing_agree {k : KCtl} {b : Nat} (ht : execXqryRing h k b s = .next t) :
    State.Agree x p s t s.cur.core := by
  unfold execXqryRing at ht
  split at ht
  · refine runC_agree (fun c => ?_) ht
    exact (Core.Agree.refl x p c).pending (c.pending ++ [⟨s.cur.key, 1, .x b (word (s.ringWord s.cur.core)), 0, 1⟩])
  · exact runCmd_agree (fun _ _ _ _ hr => by cases hr; exact ⟨rfl, rfl, rfl, rfl⟩) ht

/-- A command changes no register and no predicate as it issues. -/
theorem CommandOp.agree {i : Instr} (hi : CommandOp i) (ht : exec i s = .next t) : State.Agree x p s t s.cur.core := by
  cases hi with
  | mtw => rw [exec_mtw] at ht; exact execMtw_agree ht
  | mtws | mnms | mdrn | mbyp | mzero | mrqt | midx =>
    simp only [exec_mtws, exec_mnms, exec_mdrn, exec_mbyp, exec_mzero, exec_mrqt, exec_midx] at ht
    exact runLayout_agree ht
  | mgo | mrpr | mrst =>
    simp only [exec_mgo, exec_mrpr, exec_mrst] at ht
    exact runCmd_free_agree ht
  | xcp => rw [exec_xcp] at ht; exact execXcp_agree ht
  | xcpg => rw [exec_xcpg] at ht; exact execXcpg_agree ht
  | xred => rw [exec_xred] at ht; exact execXred_agree ht
  | xkeyEnc => rw [exec_xkeyEnc] at ht; exact execXkeyEnc_agree ht
  | xkeyDec => rw [exec_xkeyDec] at ht; exact execXkeyDec_agree ht
  | xexp => rw [exec_xexp] at ht; exact execXexp_agree ht
  | xarv => rw [exec_xarv] at ht; exact execXarv_agree ht
  | xsigr => rw [exec_xsigr] at ht; exact execXsigr_agree ht
  | xpln => rw [exec_xpln] at ht; exact execXpln_agree ht
  | xbrd | xalt | xrep =>
    simp only [exec_xbrd, exec_xalt, exec_xrep] at ht
    exact runTile_agree ht
  | xdrp => rw [exec_xdrp] at ht; exact runCmd_tileCheck_agree ht
  | xqryPeek => rw [exec_xqryPeek] at ht; exact runCmd_tileCheck_agree ht
  | xstep => rw [exec_xstep] at ht; exact execXstep_agree ht
  | xqryRing => rw [exec_xqryRing] at ht; exact execXqryRing_agree ht

/-! ### The frames -/

/-- Settles O56: each instruction runs an operation whose frame is known, and the destination it names, if any, is all that
the frame leaves open. -/
theorem registerFrames : Obligations.RegisterFrames := by
  unfold Obligations.RegisterFrames
  refine ⟨fun u v => ⟨u.getX_zero, rfl⟩, fun s t i ht => ?_⟩
  refine ⟨fun d hd => (hd.agree ht).keeps, fun n hp => (hp.agree ht).keeps, ?_⟩
  rintro (hf | ⟨hl, hk⟩ | hc)
  · exact (hf.agree ht).keeps
  · exact (hl.agree hk ht).keeps
  · exact (hc.agree ht).keeps

end Sys2Proof.Machine
end

section
/-!
PROOF. A write that meets an uncorrectable error of device memory leaves the bytes of that word as they were (log 81), though
its mask names them: the second part of O57 does not exclude it.
-/

namespace Sys2Proof.Machine

/-- A write of the value 77 to bytes 4096 to 4103 of slice 0, which covers its aligned 32-byte word in part. -/
def partialWrite : Packet :=
  let p : Packet := { blankPacket with
    id := 9, kind := .write, src := 1, vc := 1, addr := 4096, mask := 255, slice := true, data := toBytes 8 77
    seq := 1, arrived := true }
  { p with crc := p.headerCrc }

/-- The module after reset, with that write alone in the network and an uncorrectable error in the word that it meets. -/
def badWordState : State := { State.reset with net := [partialWrite], bad := [128] }

theorem badWordState_admits : badWordState.packet 9 = some partialWrite ∧ badWordState.admissible partialWrite = true
    ∧ badWordState.trusts partialWrite partialWrite.isOwn = true ∧ badWordState.trusts partialWrite false = true := by
  decide +kernel

/-- The state behind the write. -/
def badWordAfter : State :=
  (((badWordState.applied partialWrite).writeHome partialWrite).countUncorr partialWrite.home).answer partialWrite
    .errorReply [] []

/-- The error fails the write. -/
theorem badWordState_fails : (badWordState.applied partialWrite).writeFails partialWrite = true := by decide +kernel

theorem exec_badWordState : exec (.applyWrite 9) badWordState = .next badWordAfter := by
  obtain ⟨hp, ha, ht, -⟩ := badWordState_admits
  rw [exec_applyWrite, execApplyWrite, State.onPacket_trusted hp (by decide) ha (by decide) ht, badWordState_fails]
  rfl

/-- The word that cannot be corrected is not written: its first byte still reads as 0. -/
theorem rdByte_badWordAfter : rdByte badWordAfter.mem 4096 = 0 := by
  have hm : badWordAfter.mems = ((badWordState.applied partialWrite).writeHome partialWrite).mems :=
    (State.mems_answer ..).trans (State.mems_countUncorr ..)
  rw [show badWordAfter.mem = _ from (Prod.mk.inj hm).1]
  decide +kernel

/-- Refutes O57: a trusted write of 77 at address 4096, which covers its 32-byte word in part, meets an uncorrectable error of
device memory in that word. It is answered by an error reply and the byte keeps its value 0 (R356, log 81), where the
statement asks that every byte that the mask names is stored. -/
theorem not_storeAndLandingFrames : ¬ Obligations.StoreAndLandingFrames := by
  unfold Obligations.StoreAndLandingFrames
  rintro ⟨-, hw, -⟩
  obtain ⟨hp, ha, -, ht⟩ := badWordState_admits
  obtain ⟨-, hs⟩ := hw badWordState badWordAfter 9 partialWrite hp rfl (by decide) exec_badWordState
  have h77 := hs rfl (by decide) ha ht 0 (by decide) (by decide)
  have h0 : rdByte badWordAfter.mem (partialWrite.destDie * 2 ^ 36 + partialWrite.addr + 0) = 0 := rdByte_badWordAfter
  exact absurd (h0.symm.trans h77) (by decide)

end Sys2Proof.Machine
end
